-- ==== Sys2Proof/Word.lean ====
section
/-! DEFINITION. The words of the device and their plainest arithmetic. -/

namespace Sys2Proof

/-- A byte of memory. -/
abbrev Byte := BitVec 8

/-- A g register, an address, a system register. -/
abbrev Word := BitVec 64

/-- A predicate register: bit n governs byte lane n. -/
abbrev Pred := BitVec 128

/-- A vector register. -/
abbrev VReg := BitVec 1024

/-- The 5-bit name of a register (R58). -/
abbrev Reg := BitVec 5

/-- All 64 bits set. -/
def allOnes64 : Word := BitVec.allOnes 64

/-- 1 for true and 0 for false, as the comparing forms write it (R76, R80). -/
def Word.ofBool (b : Bool) : Word := if b then 1#64 else 0#64

end Sys2Proof
end

