-- ==== Sys2Proof/Config.lean ====
section
/-! DEFINITION. What one implementation fixes, and the values that the spec leaves open: constants without a body, so
that nothing can be proved about which value they have. -/

namespace Sys2Proof.Config

/-- Cores of a die that run tasks (R8). -/
def coresPerDie : Nat := 2048

/-- Dies of the package (00, The module in figures). -/
def dies : Nat := 4

/-- Task cores of the package; core number die × 2,048 + CID. -/
def taskCores : Nat := 8192

/-- Service cores of a die; service core k of die d has core number 8,192 + 8d + k in the model. -/
def serviceCoresPerDie : Nat := 8

/-- Bytes of a scratchpad (R24). -/
def padSize : Nat := 0x40000

/-- A byte read under a key slot other than the one that wrote it (R273): a free value for each access, given by the
model's counter, and each address. -/
opaque unrelatedByte : Nat → Nat → BitVec 8

/-- How far a core's CYCLE runs ahead of the slowest core (R15 bounds the difference by 8). -/
opaque cycleLead : Nat → Nat

/-- What CID reads on service core k of die d (d × 8 + k): R8 gives a core index to task cores only. -/
opaque serviceCid : Nat → BitVec 64

/-- What an aligned load of a service-block offset that no register map lists reads (R5, R257): a free value for each
access, given by the model's counter, and each offset. -/
opaque unlistedRegister : Nat → Nat → BitVec 64

/-- The core slice that holds a line of base SRAM (R255): the hash is not architectural. -/
opaque sramSlice : Nat → Nat

/-- Which of what a pool of a die holds stands at an address of it (R255, R282): a free value for each error, given by the
model's counter, and each address. -/
opaque poolPlace : Nat → Nat → Nat

/-- The decoder syndrome of a poisoned entry that a page walk reads, which R356 does not give. -/
opaque walkSyndrome : Nat → Nat → BitVec 64

/-- What the contents of a node's block, of a forest and of a reduction slot become when a mapping writes the pool that
holds them (R284, R329): free values, given by the model's counter. -/
opaque lostBytes : Nat → List (Nat × BitVec 8)
opaque lostCodes : Nat → List (Nat × BitVec 32)
opaque lostNumbers : Nat → List (Nat × Nat)
opaque lostWords : Nat → List (BitVec 32)

/-- Length and CRC-32C of the object that a checkpoint task writes, by job, checkpoint and tensor (R290): the compression is
Ubelo's. -/
opaque objectLength : Nat → Nat → Nat → Nat
opaque objectCrc : Nat → Nat → Nat → BitVec 32

/-- The keys that Ubelo loads for its jobs, by the slot it gives the job (R377): the spec does not say which. -/
opaque jobKey : Nat → BitVec 512

end Sys2Proof.Config
end

