-- ==== Sys2Proof/Machine/Store.lean ====
section
/-! DEFINITION. Sparse data by key: a list of pairs with rising keys, at most one for each key. -/

namespace Sys2Proof.Machine

/-- Entries by key, keys rising. -/
abbrev Map (α : Type) := List (Nat × α)

/-- The first entry of a key. -/
def Map.find {α : Type} : Map α → Nat → Option α
  | [], _ => none
  | (k, v) :: r, key => if k = key then some v else Map.find r key

/-- Insert or replace the entry of a key, keeping the keys rising. -/
def Map.insert {α : Type} : Map α → Nat → α → Map α
  | [], key, x => [(key, x)]
  | (k, v) :: r, key, x =>
    if key < k then (key, x) :: (k, v) :: r
    else if k = key then (key, x) :: r
    else (k, v) :: Map.insert r key x

/-- Remove the entry of a key. -/
def Map.erase {α : Type} : Map α → Nat → Map α
  | [], _ => []
  | (k, v) :: r, key => if k = key then Map.erase r key else (k, v) :: Map.erase r key

/-- The entry of a key, or what a key without an entry holds. -/
def Map.get {α : Type} (d : α) (m : Map α) (key : Nat) : α := (Map.find m key).getD d

/-- Set a key; a key set to what it holds without an entry has none. -/
def Map.put {α : Type} [DecidableEq α] (d : α) (m : Map α) (key : Nat) (x : α) : Map α :=
  if x = d then Map.erase m key else Map.insert m key x

/-- The keys of the entries. -/
def Map.keys {α : Type} (m : Map α) : List Nat := m.map (·.1)

/-- Keys rise strictly and no entry equals the default. -/
def Map.wf {α : Type} [DecidableEq α] (d : α) (m : Map α) : Bool :=
  decide (m.Pairwise fun a b => a.1 < b.1) && m.all fun e => decide (e.2 ≠ d)

/-- Insert a number into a rising list without repeats. -/
def setInsert : List Nat → Nat → List Nat
  | [], x => [x]
  | y :: r, x => if x < y then x :: y :: r else if x = y then y :: r else y :: setInsert r x

/-- Remove a number from a list. -/
def setErase (l : List Nat) (x : Nat) : List Nat := l.filter (· ≠ x)

end Sys2Proof.Machine
end

