-- ==== Sys2Proof/Machine/Bits.lean ====
section
/-! DEFINITION. Bit fields, sign extension, byte order and lanes. -/

namespace Sys2Proof.Machine

/-- sext(x, n) of R7: the low n bits of a number read as two's complement. -/
def signed (n x : Nat) : Int := if x % 2 ^ n < 2 ^ (n - 1) then (x % 2 ^ n : Nat) else (x % 2 ^ n : Nat) - (2 ^ n : Nat)

/-- The n-bit two's-complement pattern of an integer. -/
def pattern (n : Nat) (x : Int) : Nat := (x % (2 ^ n : Nat)).toNat

/-- bits(x, lo + n - 1, lo) of R7. -/
def bits (x lo n : Nat) : Nat := x / 2 ^ lo % 2 ^ n

/-- A word from an integer, modulo 2^64. -/
def word (x : Int) : Word := BitVec.ofInt 64 x

/-- sext(imm, 16) as a 64-bit word (R60). -/
def sext16 (i : BitVec 16) : Word := i.signExtend 64

/-- The n bytes of a number, low byte first (R2). -/
def leBytes : Nat → Nat → List Byte
  | 0, _ => []
  | n + 1, x => BitVec.ofNat 8 x :: leBytes n (x / 256)

/-- The number whose bytes these are, low byte first (R2). -/
def ofLe : List Byte → Nat
  | [] => 0
  | b :: r => b.toNat + 256 * ofLe r

/-- Lane i of width w of a register. -/
def lane {n : Nat} (x : BitVec n) (w i : Nat) : Nat := (x.extractLsb' (w * i) w).toNat

/-- The register whose lanes of width w, from lane 0 up, are these. -/
def packLanes (w : Nat) : List Nat → VReg
  | [] => 0
  | x :: r => (packLanes w r <<< w) ||| BitVec.ofNat 1024 (x % 2 ^ w)

/-- All lanes of width w of a vector register. -/
def lanes (x : VReg) (w : Nat) : List Nat := (List.range (1024 / w)).map (lane x w)

/-- Lane i of width w replaced. -/
def setLane (x : VReg) (w i v : Nat) : VReg :=
  packLanes w ((List.range (1024 / w)).map fun j => if j = i then v else lane x w j)

/-- Element width of a V-format type (R101). -/
def typeWidth (t : BitVec 3) : Nat :=
  match t.toNat with
  | 0 | 3 | 7 => 32
  | 1 | 2 | 4 => 16
  | 5 => 8
  | _ => 4

/-- Width of the lanes of a format code (R34, R119). -/
def formatWidth (c : Nat) : Nat :=
  match c with
  | 0 | 3 | 7 => 32
  | 1 | 2 | 4 | 8 | 17 => 16
  | 6 | 10 | 15 => 4
  | _ => 8

/-- Floating formats (R34). -/
def isFloatFormat (c : Nat) : Bool := c ≤ 2 || (11 ≤ c && c ≤ 16)

/-- Signed integer formats S32, S16, S8, S4. -/
def isSignedFormat (c : Nat) : Bool := 3 ≤ c && c ≤ 6

/-- Element i of width w is active under a predicate: the bit of its lowest byte (R101). -/
def activeLane (p : Pred) (w i : Nat) : Bool := p.getLsbD (w * i / 8)

/-- Lanes of width w rewritten where they are active (R101). -/
def mapActive (old : VReg) (p : Pred) (w : Nat) (f : Nat → Nat) : VReg :=
  packLanes w ((List.range (1024 / w)).map fun i => if activeLane p w i then f i else lane old w i)

/-- Ceiling of a quotient. -/
def ceilDiv (a b : Nat) : Nat := (a + b - 1) / b

/-- The first elements of a list that satisfy a condition, as positions. -/
def positions {α : Type} (f : α → Bool) (l : List α) : List Nat :=
  (List.range l.length).filter fun i => match l[i]? with | some x => f x | none => false

/-- The greatest power of two not above a positive number, as an exponent. -/
def log2 (x : Nat) : Nat := Nat.log2 x

/-- Integer square root: bits from the highest down. -/
def isqrtAux : Nat → Nat → Nat → Nat
  | 0, _, r => r
  | k + 1, x, r => if (r + 2 ^ k) * (r + 2 ^ k) ≤ x then isqrtAux k x (r + 2 ^ k) else isqrtAux k x r

/-- The greatest number whose square does not exceed x, for x below 2^256. -/
def isqrt (x : Nat) : Nat := isqrtAux 128 x 0

end Sys2Proof.Machine
end

