-- ==== Sys2Proof/Payload.lean ====
section
/-! DEFINITION. What the events from outside the module carry: requests, packets, findings, boot conditions. -/

namespace Sys2Proof

/-- Who sent a Quoco request, and the ID that the client chose (18, Quoco header). -/
structure Request where
  client : Nat
  id : Word
  /-- The message is well formed, with a VERSION and CODE that Ubelo knows. -/
  formed : Bool
  deriving DecidableEq, Repr

/-- Shape, format and scale-plane flag of a tensor (R166, R171). -/
structure TensorShape where
  fmt : BitVec 5
  n0 : Nat
  n1 : Nat
  n2 : Nat
  n3 : Nat
  sp : Bool
  deriving DecidableEq, Repr

/-- A floating constant of an MX tensor (R166, R371): a decimal number as a fraction, an infinity, a NaN. -/
inductive FloatConst where
  | dec (neg : Bool) (num den : Nat)
  | inf (neg : Bool)
  | nan
  deriving DecidableEq, Repr

/-- The contents given for a tensor of an image (R166); elements not listed are +0 codes. -/
structure TensorInit where
  shape : TensorShape
  /-- Offset of the handle word in .data. -/
  word : Nat
  /-- Raw element codes in logical order, i0 innermost. -/
  codes : List (BitVec 32)
  /-- Floating constants of an MX tensor in logical order, in place of codes. -/
  consts : List FloatConst
  deriving DecidableEq, Repr

/-- A relocatable 8-byte value of an image: where it stands in .data and the section whose base is added
(0 .text, 1 .data, 2 .bss) (R370). -/
structure Reloc where
  off : Nat
  sect : Nat
  deriving DecidableEq, Repr

/-- An image that jnas wrote: its sections, roots, handle fix-ups of tensor entries, relocations. -/
structure Image where
  text : List (BitVec 32)
  data : List Byte
  bss : Nat
  tensors : List TensorInit
  /-- (offset in .data, index of the tensor whose handle goes into bits 31:0) for .task entries (R295). -/
  handles : List (Nat × Nat)
  relocs : List Reloc
  /-- The client stream that the request ends, if it ends one (R338). -/
  ends : Option Nat
  deriving DecidableEq, Repr

/-- What a write data or read data request names: a lineage handle or a device address of a job. -/
inductive DataTarget where
  | node (handle : BitVec 32)
  | device (job : Nat) (va : Word)
  deriving DecidableEq, Repr

/-- The graph header image of a submit graph request (R296). -/
structure GraphHeader where
  /-- Die of the service core that serves the request. -/
  die : Nat
  /-- Physical address at which Ubelo places the header. -/
  addr : Nat
  count : Word
  list : Word
  ptbase : Word
  /-- The word at 0x18, which must be 0. -/
  reserved : Word
  deriving DecidableEq, Repr

/-- How the file store answered a checkpoint: every object and the manifest acknowledged, or a failure (R291). -/
inductive StoreOutcome where
  | durable
  | failed
  deriving DecidableEq, Repr

/-- One tensor of a stored checkpoint, with its decompressed contents. -/
structure StoredTensor where
  shape : TensorShape
  codes : List (BitVec 32)
  scales : List Byte
  deriving DecidableEq, Repr

/-- A manifest that the file store returns for a restore, with the objects it names. -/
structure StoredManifest where
  /-- The file store knows the name. -/
  found : Bool
  seq : Nat
  tensors : List StoredTensor
  deriving DecidableEq, Repr

/-- Selector of a telemetry request (R336, R338). -/
inductive TelemetrySel where
  | instance_ (id : Nat)
  | devent (die : Nat)
  | register (die off : Nat)
  /-- A register of a cluster: FBTOTAL, DROPCNT and the rest of its map (R271). -/
  | cluster (die cluster off : Nat)
  /-- MTHROT (R362). -/
  | throttled
  | closeRing (stream : Nat)
  deriving DecidableEq, Repr

/-- What patrol scrub found in one line (R348, R349). -/
inductive ScrubFinding where
  /-- No error. -/
  | clean
  /-- One wrong symbol in codeword half of the line: device, pin group, bank, row. -/
  | corrected (dev pin : Nat) (bank : BitVec 4) (row : BitVec 20)
  /-- Two to seven wrong symbols in one codeword of the line: its half and the syndrome. -/
  | uncorrectable (half : Nat) (syndrome : Word)
  /-- Eight or more wrong symbols taken for fewer: the codeword decodes to these bytes without a mark. -/
  | miscorrected (half : Nat) (data : List Byte)
  /-- A corrected base SRAM word. -/
  | sramCorrected
  /-- An uncorrectable base SRAM word of the line: its index and the syndrome. -/
  | sramUncorrectable (word : Nat) (syndrome : Word)
  deriving DecidableEq, Repr

/-- A packet that arrives over Ultra Ethernet: its delivery context, ordered or not, its number, window and writes (R330,
R332, R333). -/
structure Packet where
  die : Nat
  ctx : Nat
  rod : Bool
  seq : Nat
  window : Nat
  off : Nat
  reduce : Bool
  fmt : BitVec 5
  data : List Byte
  deriving DecidableEq, Repr

/-- An image slot of the flash (R365): the image with its signature and public key. What the model reads of the image has a
field of its own; the rest of it is bytes. -/
structure FlashSlot where
  /-- What the image holds beside the version, the debug flag, Ubelo, the addresses and the client list. -/
  rest : List Byte
  /-- The public key: coordinates of a point of P-384. -/
  keyX : Nat
  keyY : Nat
  /-- The signature. -/
  sigR : Nat
  sigS : Nat
  version : BitVec 64
  /-- The image sets its debug flag (R366). -/
  debugFlag : Bool
  /-- The words of Ubelo (R364, step 5). -/
  ubelo : List (BitVec 32)
  /-- The IPv6 address of each die (R330). -/
  ipv6 : List (BitVec 128)
  /-- The client list (R336). -/
  clients : List (BitVec 128)
  deriving DecidableEq, Repr

/-- What the boot finds (R364, R365). -/
structure BootInput where
  railsOk : Bool
  slotA : FlashSlot
  slotB : FlashSlot
  /-- Fused into every die: the SHA-384 digest of the public key, and the minimum version. -/
  fusedKey : Nat
  fusedVersion : Nat
  gddrOk : Bool
  /-- For each CXL port: link trained; bytes that its expander offers. -/
  cxl : BitVec 8
  cxlBytes : List Nat
  /-- For each Ethernet port: trained. -/
  eth : BitVec 16
  ubeloStarts : Bool
  deriving DecidableEq, Repr

/-- A command on the JTAG port (R366). -/
inductive JtagCommand where
  | boundaryScan
  | debug
  deriving DecidableEq, Repr

end Sys2Proof
end

