-- ==== Sys2Proof/Syntax.lean ====
section
/-! DEFINITION. The instructions: one constructor for each row of the opcode table, a word with the fields the
spec gives its form (R57), an event with the agent it concerns. The order of the constructors has no meaning: those
that the machine itself builds (a blocked or queued word, an event that has become possible) stand first, because
compiled code can build only a type's first 245 constructors. -/

namespace Sys2Proof

/-- One instruction word or one event of the device. A word keeps each field at the width R57 gives it. -/
inductive Instr where
  /-- LB (R148). -/
  | lb (d : BitVec 5) (a : BitVec 5) (i : BitVec 16)
  /-- LBN (R148). -/
  | lbn (d : BitVec 5) (a : BitVec 5) (i : BitVec 16)
  /-- LH (R148). -/
  | lh (d : BitVec 5) (a : BitVec 5) (i : BitVec 16)
  /-- LHN (R148). -/
  | lhn (d : BitVec 5) (a : BitVec 5) (i : BitVec 16)
  /-- LW (R148). -/
  | lw (d : BitVec 5) (a : BitVec 5) (i : BitVec 16)
  /-- LWN (R148). -/
  | lwn (d : BitVec 5) (a : BitVec 5) (i : BitVec 16)
  /-- LD (R148). -/
  | ld (d : BitVec 5) (a : BitVec 5) (i : BitVec 16)
  /-- SB (R148). -/
  | sb (b : BitVec 5) (a : BitVec 5) (i : BitVec 16)
  /-- SH (R148). -/
  | sh (b : BitVec 5) (a : BitVec 5) (i : BitVec 16)
  /-- SW (R148). -/
  | sw (b : BitVec 5) (a : BitVec 5) (i : BitVec 16)
  /-- SD (R148). -/
  | sd (b : BitVec 5) (a : BitVec 5) (i : BitVec 16)
  /-- LDAB (R155). -/
  | ldab (d : BitVec 5) (a : BitVec 5) (s : BitVec 2)
  /-- LDAH (R155). -/
  | ldah (d : BitVec 5) (a : BitVec 5) (s : BitVec 2)
  /-- LDAW (R155). -/
  | ldaw (d : BitVec 5) (a : BitVec 5) (s : BitVec 2)
  /-- LDAD (R155). -/
  | ldad (d : BitVec 5) (a : BitVec 5) (s : BitVec 2)
  /-- STLB (R155). -/
  | stlb (a : BitVec 5) (b : BitVec 5) (s : BitVec 2)
  /-- STLH (R155). -/
  | stlh (a : BitVec 5) (b : BitVec 5) (s : BitVec 2)
  /-- STLW (R155). -/
  | stlw (a : BitVec 5) (b : BitVec 5) (s : BitVec 2)
  /-- STLD (R155). -/
  | stld (a : BitVec 5) (b : BitVec 5) (s : BitVec 2)
  /-- AMOADD (R156). -/
  | amoadd (d : BitVec 5) (a : BitVec 5) (b : BitVec 5) (z : BitVec 1) (o : BitVec 2) (s : BitVec 2)
  /-- AMOAND (R156). -/
  | amoand (d : BitVec 5) (a : BitVec 5) (b : BitVec 5) (z : BitVec 1) (o : BitVec 2) (s : BitVec 2)
  /-- AMOOR (R156). -/
  | amoor (d : BitVec 5) (a : BitVec 5) (b : BitVec 5) (z : BitVec 1) (o : BitVec 2) (s : BitVec 2)
  /-- AMOXOR (R156). -/
  | amoxor (d : BitVec 5) (a : BitVec 5) (b : BitVec 5) (z : BitVec 1) (o : BitVec 2) (s : BitVec 2)
  /-- AMOMIN (R156). -/
  | amomin (d : BitVec 5) (a : BitVec 5) (b : BitVec 5) (z : BitVec 1) (o : BitVec 2) (s : BitVec 2)
  /-- AMOMAX (R156). -/
  | amomax (d : BitVec 5) (a : BitVec 5) (b : BitVec 5) (z : BitVec 1) (o : BitVec 2) (s : BitVec 2)
  /-- AMOMINN (R156). -/
  | amominn (d : BitVec 5) (a : BitVec 5) (b : BitVec 5) (z : BitVec 1) (o : BitVec 2) (s : BitVec 2)
  /-- AMOMAXN (R156). -/
  | amomaxn (d : BitVec 5) (a : BitVec 5) (b : BitVec 5) (z : BitVec 1) (o : BitVec 2) (s : BitVec 2)
  /-- AMOSWAP (R156). -/
  | amoswap (d : BitVec 5) (a : BitVec 5) (b : BitVec 5) (z : BitVec 1) (o : BitVec 2) (s : BitVec 2)
  /-- AMOCAS (R156). -/
  | amocas (d : BitVec 5) (a : BitVec 5) (b : BitVec 5) (z : BitVec 1) (o : BitVec 2) (s : BitVec 2)
  /-- AMOFADD (R156). -/
  | amofadd (d : BitVec 5) (a : BitVec 5) (b : BitVec 5) (o : BitVec 2) (s : BitVec 2)
  /-- AMOBFADD (R156). -/
  | amobfadd (d : BitVec 5) (a : BitVec 5) (b : BitVec 5) (o : BitVec 2) (s : BitVec 2)
  /-- WFI (R90). -/
  | wfi
  /-- WAITPRED (R93). -/
  | waitpred
  /-- CONVOY (R95). -/
  | convoy (d : BitVec 5) (n : BitVec 2)
  /-- CONVOY_S (R95). -/
  | convoyS (d : BitVec 5) (n : BitVec 2)
  /-- PAIR (R98). -/
  | pair (d : BitVec 5)
  /-- UNPAIR (R98). -/
  | unpair (d : BitVec 5)
  /-- ADMIT (R69). -/
  | admitPage (d : BitVec 5) (a : BitVec 5)
  /-- REPLAY (R270). -/
  | replay (d : BitVec 5) (a : BitVec 5)
  /-- TESTC (R94). -/
  | testc (d : BitVec 5) (a : BitVec 5)
  /-- SYSR (R100). -/
  | sysr (d : BitVec 5) (r : BitVec 12)
  /-- SYSW (R100). -/
  | sysw (a : BitVec 5) (r : BitVec 12)
  /-- ARRIVE (R159). -/
  | arrive (d : BitVec 5)
  /-- WAIT (R159). -/
  | wait (a : BitVec 5)
  /-- MBWAIT (R162). -/
  | mbwait (d : BitVec 5) (a : BitVec 5) (n : BitVec 5)
  /-- XPHASE (R163). -/
  | xphase (d : BitVec 5)
  /-- CPHASE (R165). -/
  | cphase (d : BitVec 5)
  /-- XSEND (R164). -/
  | xsend (d : BitVec 5) (a : BitVec 5) (b : BitVec 5) (c : BitVec 5)
  /-- XRECV (R165). -/
  | xrecv (d : BitVec 5) (a : BitVec 5)
  /-- VADD (R113). -/
  | vadd (d : BitVec 5) (a : BitVec 5) (b : BitVec 5) (m : BitVec 3) (t : BitVec 3)
  /-- VSUB (R113). -/
  | vsub (d : BitVec 5) (a : BitVec 5) (b : BitVec 5) (m : BitVec 3) (t : BitVec 3)
  /-- VMUL (R113). -/
  | vmul (d : BitVec 5) (a : BitVec 5) (b : BitVec 5) (m : BitVec 3) (t : BitVec 3)
  /-- VFMA (R113). -/
  | vfma (d : BitVec 5) (a : BitVec 5) (b : BitVec 5) (m : BitVec 3) (t : BitVec 3)
  /-- VFMS (R113). -/
  | vfms (d : BitVec 5) (a : BitVec 5) (b : BitVec 5) (m : BitVec 3) (t : BitVec 3)
  /-- VMIN (R113). -/
  | vmin (d : BitVec 5) (a : BitVec 5) (b : BitVec 5) (m : BitVec 3) (t : BitVec 3)
  /-- VMAX (R113). -/
  | vmax (d : BitVec 5) (a : BitVec 5) (b : BitVec 5) (m : BitVec 3) (t : BitVec 3)
  /-- VABS (R113). -/
  | vabs (d : BitVec 5) (a : BitVec 5) (m : BitVec 3) (t : BitVec 3)
  /-- VNEG (R113). -/
  | vneg (d : BitVec 5) (a : BitVec 5) (m : BitVec 3) (t : BitVec 3)
  /-- VDIV (R124). -/
  | vdiv (d : BitVec 5) (a : BitVec 5) (b : BitVec 5) (m : BitVec 3) (t : BitVec 3)
  /-- VSQRT (R124). -/
  | vsqrt (d : BitVec 5) (a : BitVec 5) (m : BitVec 3) (t : BitVec 3)
  /-- VRCP (R124). -/
  | vrcp (d : BitVec 5) (a : BitVec 5) (m : BitVec 3) (t : BitVec 3)
  /-- VRSQRT (R124). -/
  | vrsqrt (d : BitVec 5) (a : BitVec 5) (m : BitVec 3) (t : BitVec 3)
  /-- VADDS (R113). -/
  | vadds (d : BitVec 5) (a : BitVec 5) (b : BitVec 5) (m : BitVec 3) (t : BitVec 3)
  /-- VSUBS (R113). -/
  | vsubs (d : BitVec 5) (a : BitVec 5) (b : BitVec 5) (m : BitVec 3) (t : BitVec 3)
  /-- VMULH (R113). -/
  | vmulh (d : BitVec 5) (a : BitVec 5) (b : BitVec 5) (m : BitVec 3) (t : BitVec 3)
  /-- VAND (R114). -/
  | vand (d : BitVec 5) (a : BitVec 5) (b : BitVec 5) (m : BitVec 3) (t : BitVec 3)
  /-- VOR (R114). -/
  | vor (d : BitVec 5) (a : BitVec 5) (b : BitVec 5) (m : BitVec 3) (t : BitVec 3)
  /-- VXOR (R114). -/
  | vxor (d : BitVec 5) (a : BitVec 5) (b : BitVec 5) (m : BitVec 3) (t : BitVec 3)
  /-- VANDN (R114). -/
  | vandn (d : BitVec 5) (a : BitVec 5) (b : BitVec 5) (m : BitVec 3) (t : BitVec 3)
  /-- VNOT (R114). -/
  | vnot (d : BitVec 5) (a : BitVec 5) (m : BitVec 3) (t : BitVec 3)
  /-- VSHL (R114). -/
  | vshl (d : BitVec 5) (a : BitVec 5) (b : BitVec 5) (m : BitVec 3) (t : BitVec 3)
  /-- VSHR (R114). -/
  | vshr (d : BitVec 5) (a : BitVec 5) (b : BitVec 5) (m : BitVec 3) (t : BitVec 3)
  /-- VSRA (R114). -/
  | vsra (d : BitVec 5) (a : BitVec 5) (b : BitVec 5) (m : BitVec 3) (t : BitVec 3)
  /-- VCMPEQ (R115). -/
  | vcmpeq (d : BitVec 5) (a : BitVec 5) (b : BitVec 5) (m : BitVec 3) (t : BitVec 3)
  /-- VCMPNE (R115). -/
  | vcmpne (d : BitVec 5) (a : BitVec 5) (b : BitVec 5) (m : BitVec 3) (t : BitVec 3)
  /-- VCMPLT (R115). -/
  | vcmplt (d : BitVec 5) (a : BitVec 5) (b : BitVec 5) (m : BitVec 3) (t : BitVec 3)
  /-- VCMPLE (R115). -/
  | vcmple (d : BitVec 5) (a : BitVec 5) (b : BitVec 5) (m : BitVec 3) (t : BitVec 3)
  /-- VCMPLTN (R115). -/
  | vcmpltn (d : BitVec 5) (a : BitVec 5) (b : BitVec 5) (m : BitVec 3) (t : BitVec 3)
  /-- VSEL (R116). -/
  | vsel (d : BitVec 5) (a : BitVec 5) (b : BitVec 5) (m : BitVec 3) (t : BitVec 3)
  /-- PAND (R117). -/
  | pand (d : BitVec 5) (a : BitVec 5) (b : BitVec 5)
  /-- POR (R117). -/
  | por (d : BitVec 5) (a : BitVec 5) (b : BitVec 5)
  /-- PXOR (R117). -/
  | pxor (d : BitVec 5) (a : BitVec 5) (b : BitVec 5)
  /-- PNOT (R117). -/
  | pnot (d : BitVec 5) (a : BitVec 5)
  /-- PCNT (R117). -/
  | pcnt (d : BitVec 5) (a : BitVec 5) (t : BitVec 3)
  /-- PFIRST (R117). -/
  | pfirst (d : BitVec 5) (a : BitVec 5) (t : BitVec 3)
  /-- PSET (R117). -/
  | pset (d : BitVec 5) (a : BitVec 5) (t : BitVec 3)
  /-- VPERMB (R118). -/
  | vpermb (d : BitVec 5) (a : BitVec 5) (b : BitVec 5) (m : BitVec 3)
  /-- VPERM (R118). -/
  | vperm (d : BitVec 5) (a : BitVec 5) (b : BitVec 5) (m : BitVec 3) (t : BitVec 3)
  /-- VSLIDEUP (R118). -/
  | vslideup (d : BitVec 5) (a : BitVec 5) (b : BitVec 5) (m : BitVec 3) (t : BitVec 3)
  /-- VSLIDEDN (R118). -/
  | vslidedn (d : BitVec 5) (a : BitVec 5) (b : BitVec 5) (m : BitVec 3) (t : BitVec 3)
  /-- VBCAST (R118). -/
  | vbcast (d : BitVec 5) (a : BitVec 5) (m : BitVec 3) (t : BitVec 3)
  /-- VEXTR (R118). -/
  | vextr (d : BitVec 5) (a : BitVec 5) (b : BitVec 5) (t : BitVec 3)
  /-- VINS (R118). -/
  | vins (d : BitVec 5) (a : BitVec 5) (b : BitVec 5) (t : BitVec 3)
  /-- VIOTA (R118). -/
  | viota (d : BitVec 5) (m : BitVec 3) (t : BitVec 3)
  /-- VZIPL (R118). -/
  | vzipl (d : BitVec 5) (a : BitVec 5) (b : BitVec 5) (m : BitVec 3) (t : BitVec 3)
  /-- VZIPH (R118). -/
  | vziph (d : BitVec 5) (a : BitVec 5) (b : BitVec 5) (m : BitVec 3) (t : BitVec 3)
  /-- VMOV (R118). -/
  | vmov (d : BitVec 5) (a : BitVec 5) (m : BitVec 3) (t : BitVec 3)
  /-- VCVT (R119). -/
  | vcvt (d : BitVec 5) (a : BitVec 5) (f : BitVec 5) (m : BitVec 3) (t : BitVec 3)
  /-- VCVTS (R119). -/
  | vcvts (d : BitVec 5) (a : BitVec 5) (f : BitVec 5) (m : BitVec 3) (t : BitVec 3)
  /-- VQUANT (R120). -/
  | vquant (d : BitVec 5) (a : BitVec 5) (b : BitVec 5) (m : BitVec 3) (t : BitVec 3)
  /-- VDEQUANT (R120). -/
  | vdequant (d : BitVec 5) (a : BitVec 5) (b : BitVec 5) (m : BitVec 3) (t : BitVec 3)
  /-- VCBDEC (R121). -/
  | vcbdec (d : BitVec 5) (a : BitVec 5) (b : BitVec 5) (m : BitVec 3) (t : BitVec 3)
  /-- VCBLOAD (R121). -/
  | vcbload (a : BitVec 5)
  /-- VREDSUM (R122). -/
  | vredsum (d : BitVec 5) (a : BitVec 5) (m : BitVec 3) (t : BitVec 3)
  /-- VREDMAX (R122). -/
  | vredmax (d : BitVec 5) (a : BitVec 5) (m : BitVec 3) (t : BitVec 3)
  /-- VREDMIN (R122). -/
  | vredmin (d : BitVec 5) (a : BitVec 5) (m : BitVec 3) (t : BitVec 3)
  /-- VREDAMAX (R122). -/
  | vredamax (d : BitVec 5) (a : BitVec 5) (m : BitVec 3) (t : BitVec 3)
  /-- VREDAMIN (R122). -/
  | vredamin (d : BitVec 5) (a : BitVec 5) (m : BitVec 3) (t : BitVec 3)
  /-- VSCAN (R122). -/
  | vscan (d : BitVec 5) (a : BitVec 5) (m : BitVec 3) (t : BitVec 3)
  /-- VTOLOG (R123). -/
  | vtolog (d : BitVec 5) (a : BitVec 5) (m : BitVec 3)
  /-- VFROMLOG (R123). -/
  | vfromlog (d : BitVec 5) (a : BitVec 5) (m : BitVec 3)
  /-- VEXP (R124). -/
  | vexp (d : BitVec 5) (a : BitVec 5) (m : BitVec 3) (t : BitVec 3)
  /-- VLOG (R124). -/
  | vlog (d : BitVec 5) (a : BitVec 5) (m : BitVec 3) (t : BitVec 3)
  /-- VTANH (R124). -/
  | vtanh (d : BitVec 5) (a : BitVec 5) (m : BitVec 3) (t : BitVec 3)
  /-- VSIGM (R124). -/
  | vsigm (d : BitVec 5) (a : BitVec 5) (m : BitVec 3) (t : BitVec 3)
  /-- VSILU (R124). -/
  | vsilu (d : BitVec 5) (a : BitVec 5) (m : BitVec 3) (t : BitVec 3)
  /-- VGELU (R124). -/
  | vgelu (d : BitVec 5) (a : BitVec 5) (m : BitVec 3) (t : BitVec 3)
  /-- VRAND (R125). -/
  | vrand (d : BitVec 5) (m : BitVec 3) (t : BitVec 3)
  /-- VMOVI (R126). -/
  | vmovi (d : BitVec 5) (t : BitVec 2) (i : BitVec 16)
  /-- VADDI (R126). -/
  | vaddi (d : BitVec 5) (t : BitVec 2) (i : BitVec 16)
  /-- VMULI (R126). -/
  | vmuli (d : BitVec 5) (t : BitVec 2) (i : BitVec 16)
  /-- VMINI (R126). -/
  | vmini (d : BitVec 5) (t : BitVec 2) (i : BitVec 16)
  /-- VMAXI (R126). -/
  | vmaxi (d : BitVec 5) (t : BitVec 2) (i : BitVec 16)
  /-- VRSUBI (R126). -/
  | vrsubi (d : BitVec 5) (t : BitVec 2) (i : BitVec 16)
  /-- VANDI (R126). -/
  | vandi (d : BitVec 5) (t : BitVec 2) (i : BitVec 16)
  /-- VORI (R126). -/
  | vori (d : BitVec 5) (t : BitVec 2) (i : BitVec 16)
  /-- VLD (R150). -/
  | vld (d : BitVec 5) (a : BitVec 5) (m : BitVec 3) (t : BitVec 3)
  /-- VST (R150). -/
  | vst (d : BitVec 5) (a : BitVec 5) (m : BitVec 3) (t : BitVec 3)
  /-- VLDS (R150). -/
  | vlds (d : BitVec 5) (a : BitVec 5) (b : BitVec 5) (m : BitVec 3) (t : BitVec 3)
  /-- VSTS (R150). -/
  | vsts (d : BitVec 5) (a : BitVec 5) (b : BitVec 5) (m : BitVec 3) (t : BitVec 3)
  /-- VLDX (R150). -/
  | vldx (d : BitVec 5) (a : BitVec 5) (b : BitVec 5) (m : BitVec 3) (t : BitVec 3)
  /-- VSTX (R150). -/
  | vstx (d : BitVec 5) (a : BitVec 5) (b : BitVec 5) (m : BitVec 3) (t : BitVec 3)
  /-- VLDROW (R151). -/
  | vldrow (d : BitVec 5) (a : BitVec 5) (b : BitVec 5) (m : BitVec 3) (t : BitVec 3)
  /-- VLDCOL (R151). -/
  | vldcol (d : BitVec 5) (a : BitVec 5) (b : BitVec 5) (m : BitVec 3) (t : BitVec 3)
  /-- VSTROW (R151). -/
  | vstrow (d : BitVec 5) (a : BitVec 5) (b : BitVec 5) (m : BitVec 3) (t : BitVec 3)
  /-- VSTCOL (R151). -/
  | vstcol (d : BitVec 5) (a : BitVec 5) (b : BitVec 5) (m : BitVec 3) (t : BitVec 3)
  /-- VSCATADD (R152). -/
  | vscatadd (d : BitVec 5) (a : BitVec 5) (b : BitVec 5) (m : BitVec 3) (t : BitVec 3)
  /-- VLDB (R150). -/
  | vldb (d : BitVec 5) (a : BitVec 5) (m : BitVec 3) (t : BitVec 3)
  /-- MMA (R135). -/
  | mma (n : BitVec 1) (z : BitVec 1) (x : BitVec 1) (t : BitVec 2) (a : BitVec 5) (b : BitVec 5) (c : BitVec 5) (f : BitVec 6)
  /-- MMD (R141). -/
  | mmd (n : BitVec 1) (z : BitVec 1) (x : BitVec 1) (t : BitVec 1) (a : BitVec 5) (b : BitVec 5) (c : BitVec 5) (f : BitVec 6)
  /-- MMS (R137). -/
  | mms (n : BitVec 1) (z : BitVec 1) (t : BitVec 2) (a : BitVec 5) (b : BitVec 5) (c : BitVec 5) (f : BitVec 6)
  /-- MSHAPE (R130). -/
  | mshape (d : BitVec 5) (a : BitVec 5)
  /-- MZERO (R143). -/
  | mzero (d : BitVec 5)
  /-- MLOAD (R143). -/
  | mload (d : BitVec 5) (a : BitVec 5) (b : BitVec 5)
  /-- MSTORE (R143). -/
  | mstore (d : BitVec 5) (a : BitVec 5) (b : BitVec 5) (f : BitVec 5)
  /-- MSLICE (R144). -/
  | mslice (d : BitVec 5) (a : BitVec 5)
  /-- MWAIT (R145). -/
  | mwait (d : BitVec 5) (a : BitVec 5)
  /-- MQUANT (R144). -/
  | mquant (d : BitVec 5) (a : BitVec 5) (b : BitVec 5)
  /-- MIDX (R131). -/
  | midx (a : BitVec 5)
  /-- AWAIT (R201). -/
  | await (d : BitVec 5) (c : BitVec 5)
  /-- CDRAIN (R200). -/
  | cdrain (d : BitVec 5)
  /-- FORK (R173). -/
  | fork (d : BitVec 5) (a : BitVec 5)
  /-- TADD (R182). -/
  | tadd (d : BitVec 5) (a : BitVec 5) (b : BitVec 5) (c : BitVec 5)
  /-- TSEAL (R175). -/
  | tseal (d : BitVec 5) (a : BitVec 5) (b : BitVec 5)
  /-- TWAIT (R180). -/
  | twait (d : BitVec 5) (a : BitVec 5)
  /-- RELABEL (R219). -/
  | relabel (d : BitVec 5) (a : BitVec 5) (b : BitVec 5)
  /-- DRSEND (R225). -/
  | drsend (d : BitVec 5) (a : BitVec 5) (b : BitVec 5) (c : BitVec 5)
  /-- DRWAIT (R227). -/
  | drwait (d : BitVec 5) (a : BitVec 5)
  /-- DRFIX (R229). -/
  | drfix (d : BitVec 5) (a : BitVec 5) (b : BitVec 5)
  /-- FETCH_BLOCK (R68). -/
  | fetchBlock (core tid : Nat)
  /-- WATCHDOG_EXPIRY (R15). -/
  | watchdogExpiry (core tid : Nat)
  /-- WFI_WAKE (R90). -/
  | wfiWake (core tid : Nat)
  /-- WAIT_RELEASE (R159). -/
  | waitRelease (core tid : Nat)
  /-- MBWAIT_RELEASE (R162). -/
  | mbwaitRelease (core tid : Nat)
  /-- CONVOY_FORM (R95). -/
  | convoyForm (core tid : Nat)
  /-- WAITPRED_RELEASE (R93). -/
  | waitpredRelease (core tid : Nat)
  /-- XSEND_SLOT (R164). -/
  | xsendSlot (core tid : Nat)
  /-- XSEND_ARRIVAL (R164). -/
  | xsendArrival (k : Nat)
  /-- XRECV_RELEASE (R165). -/
  | xrecvRelease (core tid : Nat)
  /-- EXCHANGE_OVERRUN (R165). -/
  | exchangeOverrun (core tid : Nat)
  /-- VECTOR_WORD_EXECUTE (R104). -/
  | vectorWordExecute (core : Nat)
  /-- REPEAT_PASS (R106). -/
  | repeatPass (core tid : Nat)
  /-- MATRIX_WORD_EXECUTE (R127). -/
  | matrixWordExecute (core : Nat)
  /-- MWAIT_RELEASE (R145). -/
  | mwaitRelease (core tid : Nat)
  /-- MMS_PANEL (R139). -/
  | mmsPanel (core : Nat)
  /-- PAIR_INTERVAL_END (R98). -/
  | pairIntervalEnd (core tid : Nat) (agree : Bool)
  /-- ADMIT_COMPLETE (R69). -/
  | admitComplete (core tid : Nat)
  /-- PREEMPTION_STOP (R309). -/
  | preemptionStop (inst : Nat)
  /-- QUANTUM_EXPIRY (R308). -/
  | quantumExpiry (inst : Nat)
  /-- PRIORITY_PREEMPTION (R308). -/
  | priorityPreemption (inst : Nat)
  /-- PLACE_INSTANCE (R304). -/
  | placeInstance (inst : Nat)
  /-- MEMBER_END (R91). -/
  | memberEnd (inst member : Nat)
  /-- INSTANCE_FAIL (R376). -/
  | instanceFail (inst : Nat)
  /-- DEVENT_READ (R299). -/
  | deventRead (core tid die : Nat)
  /-- GSUBMIT_WRITE (R298). -/
  | gsubmitWrite (core tid die : Nat) (v : BitVec 64)
  /-- DFAIL_WRITE (R378). -/
  | dfailWrite (core tid die : Nat) (v : BitVec 64)
  /-- RESTART_INSTANCE (R352). -/
  | restartInstance (core tid die : Nat) (v : BitVec 64)
  /-- FAIL_TASK (R319). -/
  | failTask (core tid die : Nat) (v : BitVec 64)
  /-- RESTART_APPLY (R352). -/
  | restartApply (inst : Nat)
  /-- STREAM_START (R194). -/
  | streamStart (core : Nat)
  /-- STREAM_COMPLETE (R194). -/
  | streamComplete (core slot : Nat)
  /-- STREAM_PARK (R197). -/
  | streamPark (core slot : Nat)
  /-- STREAM_FAIL (R198). -/
  | streamFail (core slot : Nat)
  /-- AWAIT_RELEASE (R201). -/
  | awaitRelease (core tid : Nat)
  /-- CDRAIN_RELEASE (R200). -/
  | cdrainRelease (core tid : Nat)
  /-- MCAST_RECEIVER_COMPLETE (R202). -/
  | mcastReceiverComplete (core slot member : Nat)
  /-- FLATTEN_MATERIALISE (R287). -/
  | flattenMaterialise (node : Nat)
  /-- FLATTEN_COMPLETE (R287). -/
  | flattenComplete (node : Nat)
  /-- CONTRIBUTION_ARRIVE (R226). -/
  | contributionArrive (die slot i : Nat)
  /-- DEADLINE_EXPIRY (R328). -/
  | deadlineExpiry (die slot : Nat)
  /-- DRWAIT_RELEASE (R227). -/
  | drwaitRelease (core tid : Nat)
  /-- DRFIX_RELEASE (R229). -/
  | drfixRelease (core tid : Nat)
  /-- TEST_COMPLETE (R355). -/
  | testComplete (die cluster : Nat) (failed : BitVec 16) (shared : Bool)
  /-- INVVA_PAGE (R267). -/
  | invvaPage (core tid : Nat) (v : BitVec 64)
  /-- INVVA_ROOT (R267). -/
  | invvaRoot (core tid : Nat) (v : BitVec 64)
  /-- INVVA_ALL (R267). -/
  | invvaAll (core tid : Nat) (v : BitVec 64)
  /-- MIGRATION_POOL_WRITE (R260). -/
  | migrationPoolWrite (core tid die off : Nat) (v : BitVec 64)
  /-- KEYLOAD (R274). -/
  | keyload (core tid die : Nat) (v : BitVec 64)
  /-- LINEAGE_POOL_WRITE (R284). -/
  | lineagePoolWrite (core tid die off : Nat) (v : BitVec 64)
  /-- OVERFLOW_REGION_WRITE (R329). -/
  | overflowRegionWrite (core tid die off : Nat) (v : BitVec 64)
  /-- ERROR_LOG_WRITE (R357). -/
  | errorLogWrite (core tid die off : Nat) (v : BitVec 64)
  /-- SERVICE_REGISTER_WRITE (R375). -/
  | serviceRegisterWrite (core tid die : Nat) (cluster : Option Nat) (off : Nat) (v : BitVec 64)
  /-- SCRUB_LINE (R348). -/
  | scrubLine (die line : Nat) (finding : ScrubFinding)
  /-- LANE_GROUP_FAIL (R324). -/
  | laneGroupFail (bridge group : Nat)
  /-- RESEND_TIMEOUT (R324). -/
  | resendTimeout (k : Nat)
  /-- WRITE_UNREACHABLE (R324). -/
  | writeUnreachable (k : Nat)
  /-- BRIDGE_WRITE_RECEIVE (R253). -/
  | bridgeWriteReceive (k : Nat)
  /-- PACKET_RECEIVE (R333). -/
  | packetReceive (pkt : Packet)
  /-- CXL_LINK_DOWN (R335). -/
  | cxlLinkDown (port : Nat)
  /-- CXL_READ_TIMEOUT (R335). -/
  | cxlReadTimeout (core tid : Nat)
  /-- LOAD_IMAGE (R377). -/
  | loadImage (req : Request) (job : Nat) (img : Image)
  /-- CREATE_TENSOR (R336). -/
  | createTensor (req : Request) (job : Nat) (shape : TensorShape)
  /-- WRITE_DATA (R336). -/
  | writeData (req : Request) (target : DataTarget) (off : Nat) (data : List (BitVec 8))
  /-- READ_DATA (R336). -/
  | readData (req : Request) (target : DataTarget) (off len : Nat)
  /-- SUBMIT_GRAPH (R336). -/
  | submitGraph (req : Request) (hdr : GraphHeader)
  /-- OPEN_DELIVERY_RING (R336). -/
  | openDeliveryRing (req : Request) (job cap stream : Nat)
  /-- CHECKPOINT (R290). -/
  | checkpoint (req : Request) (job : Nat) (outcome : StoreOutcome)
  /-- RESTORE (R291). -/
  | restore (req : Request) (job : Nat) (manifest : StoredManifest)
  /-- TELEMETRY (R336). -/
  | telemetry (req : Request) (sel : TelemetrySel)
  /-- TEST (R336). -/
  | test (req : Request) (clusters : List (Nat × Nat))
  /-- POWER_ON (R364). -/
  | powerOn (inp : BootInput)
  /-- UBELO_START_TIMEOUT (R364). -/
  | ubeloStartTimeout
  /-- MODULE_RESET (R363). -/
  | moduleReset (inp : BootInput)
  /-- POWER_OFF (R363). -/
  | powerOff
  /-- POWER_THROTTLE (R360). -/
  | powerThrottle
  /-- THERMAL_THROTTLE (R362). -/
  | thermalThrottle (die : Nat)
  /-- THERMAL_SHUTDOWN (R362). -/
  | thermalShutdown
  /-- LANE_GROUP_RETRAINED (R324). -/
  | laneGroupRetrained (bridge group : Nat)
  /-- CXL_LINK_UP (R335). -/
  | cxlLinkUp (port : Nat)
  /-- ETHERNET_LANE_RETRAIN (R358). -/
  | ethernetLaneRetrain (die lane : Nat)
  /-- WRITE_ACKNOWLEDGED (R253). -/
  | writeAcknowledged (k : Nat) (refused : Bool)
  /-- THROTTLE_END (R360). -/
  | throttleEnd
  /-- MAIN_POWER_LOSS (R362). -/
  | mainPowerLoss
  /-- MANAGEMENT_REGISTER_WRITE (R362). -/
  | managementRegisterWrite (idx : Nat) (v : BitVec 64)
  /-- JTAG_ACCESS (R366). -/
  | jtagAccess (cmd : JtagCommand)
  /-- ADD (R76). -/
  | add (d : BitVec 5) (a : BitVec 5) (b : BitVec 5)
  /-- SUB (R76). -/
  | sub (d : BitVec 5) (a : BitVec 5) (b : BitVec 5)
  /-- AND (R76). -/
  | and (d : BitVec 5) (a : BitVec 5) (b : BitVec 5)
  /-- OR (R76). -/
  | or (d : BitVec 5) (a : BitVec 5) (b : BitVec 5)
  /-- XOR (R76). -/
  | xor (d : BitVec 5) (a : BitVec 5) (b : BitVec 5)
  /-- ANDN (R76). -/
  | andn (d : BitVec 5) (a : BitVec 5) (b : BitVec 5)
  /-- SLL (R76). -/
  | sll (d : BitVec 5) (a : BitVec 5) (b : BitVec 5)
  /-- SRL (R76). -/
  | srl (d : BitVec 5) (a : BitVec 5) (b : BitVec 5)
  /-- SRA (R76). -/
  | sra (d : BitVec 5) (a : BitVec 5) (b : BitVec 5)
  /-- SLT (R76). -/
  | slt (d : BitVec 5) (a : BitVec 5) (b : BitVec 5)
  /-- SLTN (R76). -/
  | sltn (d : BitVec 5) (a : BitVec 5) (b : BitVec 5)
  /-- MIN (R76). -/
  | min (d : BitVec 5) (a : BitVec 5) (b : BitVec 5)
  /-- MAX (R76). -/
  | max (d : BitVec 5) (a : BitVec 5) (b : BitVec 5)
  /-- MINN (R76). -/
  | minn (d : BitVec 5) (a : BitVec 5) (b : BitVec 5)
  /-- MAXN (R76). -/
  | maxn (d : BitVec 5) (a : BitVec 5) (b : BitVec 5)
  /-- MUL (R76). -/
  | mul (d : BitVec 5) (a : BitVec 5) (b : BitVec 5)
  /-- MULH (R76). -/
  | mulh (d : BitVec 5) (a : BitVec 5) (b : BitVec 5)
  /-- MULHN (R76). -/
  | mulhn (d : BitVec 5) (a : BitVec 5) (b : BitVec 5)
  /-- DIV (R77). -/
  | div (d : BitVec 5) (a : BitVec 5) (b : BitVec 5)
  /-- DIVN (R77). -/
  | divn (d : BitVec 5) (a : BitVec 5) (b : BitVec 5)
  /-- REM (R77). -/
  | rem (d : BitVec 5) (a : BitVec 5) (b : BitVec 5)
  /-- REMN (R77). -/
  | remn (d : BitVec 5) (a : BitVec 5) (b : BitVec 5)
  /-- CLZ (R76). -/
  | clz (d : BitVec 5) (a : BitVec 5)
  /-- CTZ (R76). -/
  | ctz (d : BitVec 5) (a : BitVec 5)
  /-- POPC (R76). -/
  | popc (d : BitVec 5) (a : BitVec 5)
  /-- SEXT (R76). -/
  | sext (d : BitVec 5) (a : BitVec 5) (w : BitVec 5)
  /-- ZEXT (R76). -/
  | zext (d : BitVec 5) (a : BitVec 5) (w : BitVec 5)
  /-- CMOV (R76). -/
  | cmov (d : BitVec 5) (a : BitVec 5) (b : BitVec 5) (c : BitVec 5)
  /-- ADDI (R78). -/
  | addi (d : BitVec 5) (a : BitVec 5) (i : BitVec 16)
  /-- ANDI (R78). -/
  | andi (d : BitVec 5) (a : BitVec 5) (i : BitVec 16)
  /-- ORI (R78). -/
  | ori (d : BitVec 5) (a : BitVec 5) (i : BitVec 16)
  /-- XORI (R78). -/
  | xori (d : BitVec 5) (a : BitVec 5) (i : BitVec 16)
  /-- SLTI (R78). -/
  | slti (d : BitVec 5) (a : BitVec 5) (i : BitVec 16)
  /-- SLTIN (R78). -/
  | sltin (d : BitVec 5) (a : BitVec 5) (i : BitVec 16)
  /-- SLLI (R78). -/
  | slli (d : BitVec 5) (a : BitVec 5) (s : BitVec 6)
  /-- SRLI (R78). -/
  | srli (d : BitVec 5) (a : BitVec 5) (s : BitVec 6)
  /-- SRAI (R78). -/
  | srai (d : BitVec 5) (a : BitVec 5) (s : BitVec 6)
  /-- LUI (R78). -/
  | lui (d : BitVec 5) (i : BitVec 16)
  /-- ADDPC (R78). -/
  | addpc (d : BitVec 5) (i : BitVec 16)
  /-- FADD (R80). -/
  | fadd (d : BitVec 5) (a : BitVec 5) (b : BitVec 5) (r : BitVec 3)
  /-- FSUB (R80). -/
  | fsub (d : BitVec 5) (a : BitVec 5) (b : BitVec 5) (r : BitVec 3)
  /-- FMUL (R80). -/
  | fmul (d : BitVec 5) (a : BitVec 5) (b : BitVec 5) (r : BitVec 3)
  /-- FDIV (R80). -/
  | fdiv (d : BitVec 5) (a : BitVec 5) (b : BitVec 5) (r : BitVec 3)
  /-- FSQRT (R80). -/
  | fsqrt (d : BitVec 5) (a : BitVec 5) (r : BitVec 3)
  /-- FMADD (R80). -/
  | fmadd (d : BitVec 5) (a : BitVec 5) (b : BitVec 5) (c : BitVec 5)
  /-- FMIN (R80). -/
  | fmin (d : BitVec 5) (a : BitVec 5) (b : BitVec 5)
  /-- FMAX (R80). -/
  | fmax (d : BitVec 5) (a : BitVec 5) (b : BitVec 5)
  /-- FEQ (R80). -/
  | feq (d : BitVec 5) (a : BitVec 5) (b : BitVec 5)
  /-- FLT (R80). -/
  | flt (d : BitVec 5) (a : BitVec 5) (b : BitVec 5)
  /-- FLE (R80). -/
  | fle (d : BitVec 5) (a : BitVec 5) (b : BitVec 5)
  /-- FCLASS (R80). -/
  | fclass (d : BitVec 5) (a : BitVec 5)
  /-- FNEG (R80). -/
  | fneg (d : BitVec 5) (a : BitVec 5)
  /-- FABS (R80). -/
  | fabs (d : BitVec 5) (a : BitVec 5)
  /-- FTOI (R80). -/
  | ftoi (d : BitVec 5) (a : BitVec 5) (r : BitVec 3)
  /-- FTON (R80). -/
  | fton (d : BitVec 5) (a : BitVec 5) (r : BitVec 3)
  /-- ITOF (R80). -/
  | itof (d : BitVec 5) (a : BitVec 5) (r : BitVec 3)
  /-- NTOF (R80). -/
  | ntof (d : BitVec 5) (a : BitVec 5) (r : BitVec 3)
  /-- FTOBF (R80). -/
  | ftobf (d : BitVec 5) (a : BitVec 5) (r : BitVec 3)
  /-- BFTOF (R80). -/
  | bftof (d : BitVec 5) (a : BitVec 5)
  /-- FTOH (R80). -/
  | ftoh (d : BitVec 5) (a : BitVec 5) (r : BitVec 3)
  /-- HTOF (R80). -/
  | htof (d : BitVec 5) (a : BitVec 5)
  /-- FACQ (R241). -/
  | facq (s : BitVec 2)
  /-- FREL (R241). -/
  | frel (s : BitVec 2)
  /-- FSC (R241). -/
  | fsc (s : BitVec 2)
  /-- BEQ (R81). -/
  | beq (a : BitVec 5) (b : BitVec 5) (o : BitVec 16)
  /-- BNE (R81). -/
  | bne (a : BitVec 5) (b : BitVec 5) (o : BitVec 16)
  /-- BLT (R81). -/
  | blt (a : BitVec 5) (b : BitVec 5) (o : BitVec 16)
  /-- BGE (R81). -/
  | bge (a : BitVec 5) (b : BitVec 5) (o : BitVec 16)
  /-- BLTN (R81). -/
  | bltn (a : BitVec 5) (b : BitVec 5) (o : BitVec 16)
  /-- BGEN (R81). -/
  | bgen (a : BitVec 5) (b : BitVec 5) (o : BitVec 16)
  /-- JAL (R81). -/
  | jal (o : BitVec 26)
  /-- JALR (R81). -/
  | jalr (d : BitVec 5) (a : BitVec 5) (i : BitVec 16)
  /-- SVC (R89). -/
  | svc (c : BitVec 5)
  /-- BRK (R89). -/
  | brk (c : BitVec 5)
  /-- ERET (R89). -/
  | eret
  /-- YIELD (R90). -/
  | yield
  /-- TASKEND (R91). -/
  | taskend
  /-- SIGNAL (R92). -/
  | signal
  /-- DISBAND (R96). -/
  | disband (d : BitVec 5)
  /-- BARSET (R160). -/
  | barset (d : BitVec 5) (a : BitVec 5) (b : BitVec 5)
  /-- BARQ (R160). -/
  | barq (d : BitVec 5) (a : BitVec 5) (q : BitVec 5)
  /-- MBSUB (R162). -/
  | mbsub (d : BitVec 5) (a : BitVec 5) (n : BitVec 5)
  /-- MBREAD (R162). -/
  | mbread (d : BitVec 5) (n : BitVec 5)
  /-- LOOP (R83). -/
  | loop (a : BitVec 5) (o : BitVec 16)
  /-- CRIT (R84). -/
  | crit (n : BitVec 4)
  /-- REPEAT (R106). -/
  | repeat (a : BitVec 5) (x : BitVec 4) (y : BitVec 4) (z : BitVec 4) (l : BitVec 4)
  /-- COPY (R192). -/
  | copy (d : BitVec 5) (a : BitVec 5)
  /-- COPYT (R192). -/
  | copyt (d : BitVec 5) (a : BitVec 5)
  /-- RINGINIT (R201). -/
  | ringinit (d : BitVec 5) (a : BitVec 5) (c : BitVec 5)
  /-- RELSLOT (R201). -/
  | relslot (c : BitVec 5)
  /-- RINGQ (R201). -/
  | ringq (d : BitVec 5) (q : BitVec 5) (c : BitVec 5)
  /-- BFREE (R203). -/
  | bfree (a : BitVec 5)
  /-- BBINIT (R205). -/
  | bbinit (d : BitVec 5) (a : BitVec 5) (b : BitVec 5) (c : BitVec 5)
  /-- BBGET (R205). -/
  | bbget (d : BitVec 5) (b : BitVec 5) (c : BitVec 5)
  /-- BBPEEK (R205). -/
  | bbpeek (d : BitVec 5) (b : BitVec 5) (c : BitVec 5)
  /-- BBSKIP (R205). -/
  | bbskip (d : BitVec 5) (b : BitVec 5) (c : BitVec 5)
  /-- BBLZ (R205). -/
  | bblz (d : BitVec 5)
  /-- BBAPP (R205). -/
  | bbapp (d : BitVec 5) (a : BitVec 5) (b : BitVec 5) (c : BitVec 5)
  /-- BBFLUSH (R205). -/
  | bbflush (d : BitVec 5)
  /-- BBPOS (R205). -/
  | bbpos (d : BitVec 5)
  /-- TNEW (R171). -/
  | tnew (d : BitVec 5) (a : BitVec 5) (b : BitVec 5) (c : BitVec 5)
  /-- REBASE (R181). -/
  | rebase (d : BitVec 5) (a : BitVec 5) (b : BitVec 5)
  /-- FLATTEN (R178). -/
  | flatten (d : BitVec 5) (a : BitVec 5)
  /-- TDEL (R177). -/
  | tdel (d : BitVec 5) (a : BitVec 5)
  /-- TINFO (R186). -/
  | tinfo (d : BitVec 5) (a : BitVec 5) (q : BitVec 5)
  /-- TMAP (R183). -/
  | tmap (d : BitVec 5) (a : BitVec 5) (b : BitVec 5)
  /-- TUNMAP (R185). -/
  | tunmap (d : BitVec 5) (a : BitVec 5)
  /-- EQNEW (R211). -/
  | eqnew (d : BitVec 5) (a : BitVec 5)
  /-- EQFREE (R211). -/
  | eqfree (d : BitVec 5) (a : BitVec 5)
  /-- UNITE (R212). -/
  | unite (d : BitVec 5) (a : BitVec 5) (b : BitVec 5) (c : BitVec 5)
  /-- FIND (R212). -/
  | find (d : BitVec 5) (a : BitVec 5) (b : BitVec 5)
  /-- EQSIZE (R214). -/
  | eqsize (d : BitVec 5) (a : BitVec 5) (b : BitVec 5)
  /-- EQSTAT (R214). -/
  | eqstat (d : BitVec 5) (a : BitVec 5) (q : BitVec 5)
  /-- MILESTONE (R216). -/
  | milestone (d : BitVec 5) (a : BitVec 5)
  /-- UNDO (R217). -/
  | undo (d : BitVec 5) (a : BitVec 5) (b : BitVec 5)
  /-- UNDO_KEEP (R217). -/
  | undoKeep (d : BitVec 5) (a : BitVec 5) (b : BitVec 5)
  /-- VUNITE (R221). -/
  | vunite (d : BitVec 5) (a : BitVec 5) (b : BitVec 5) (c : BitVec 5)
  /-- VFIND (R221). -/
  | vfind (d : BitVec 5) (a : BitVec 5) (b : BitVec 5)
  /-- DRINIT (R224). -/
  | drinit (d : BitVec 5) (a : BitVec 5)
  /-- DRSCALE (R228). -/
  | drscale (d : BitVec 5) (a : BitVec 5)
  /-- DRSTAT (R230). -/
  | drstat (d : BitVec 5) (a : BitVec 5) (b : BitVec 5) (k : BitVec 5)
  deriving DecidableEq, Repr

end Sys2Proof
end

