-- ==== Sys2Proof/WellFormed.lean ====
section
/-! DEFINITION. Which words are instructions: what R65 refuses, on the word itself (legality depends only on the bits
of the word, R67) and on an instruction's fields. An event has no encoding and no check. -/

namespace Sys2Proof

/-- Why a word is not an instruction (R65, by its numbered items). -/
inductive Reject where
  /-- Item 1: the major is 0x00 or one of 0x39 to 0x3F. -/
  | noMajor
  /-- Item 2: the function code or the SHI kind lies above the last one listed. -/
  | functionCode
  /-- Item 3: a reserved field is not 0. -/
  | reservedField
  /-- Item 4: a register field, a selector or a count holds a value that the form does not allow. -/
  | fieldValue
  /-- Item 5: a type or format code that the form does not accept. -/
  | typeCode
  /-- Item 6: a system-register number that R14 does not permit. -/
  | systemRegister
  /-- Fewer than four bytes. -/
  | tooShort
  deriving DecidableEq, Repr

/-- Bits lo + n - 1 : lo of a word. -/
def fld (w : BitVec 32) (lo n : Nat) : BitVec n := w.extractLsb' lo n

/-- FP types FP32, BF16, FP16 (R102, F). -/
def isF (t : BitVec 3) : Bool := t.toNat ≤ 2

/-- Integer types S32, S16, S8, S4, N32 (R102, I). -/
def isI (t : BitVec 3) : Bool := 3 ≤ t.toNat

/-- The 32-bit types FP32, S32, N32. -/
def isT32 (t : BitVec 3) : Bool := t = 0#3 || t = 3#3 || t = 7#3

/-- The 32- and 16-bit types. -/
def isT32or16 (t : BitVec 3) : Bool := t.toNat ≤ 4 || t = 7#3

/-- A rounding field of FOP: a mode from 0 to 4, or 7 for FCTL.RND (R79). -/
def fopRoundOk (r : BitVec 3) : Bool := r.toNat ≤ 4 || r = 7#3

/-- System-register numbers that SYSR may name (R14, R111, R153, R199, R266). -/
def sysReadable : List Nat :=
  [0x000, 0x001, 0x002, 0x003, 0x004, 0x005, 0x006, 0x008, 0x010, 0x011, 0x012, 0x013, 0x020] ++
  [0x028, 0x029, 0x02A, 0x02B, 0x02C, 0x030, 0x031, 0x032, 0x033, 0x038, 0x040, 0x041] ++
  [0x044, 0x045, 0x046, 0x100, 0x101, 0x102, 0x103, 0x104, 0x105, 0x106, 0x107]

/-- Registers that are RO in both modes, which SYSW may not name (R14). -/
def sysReadOnly : List Nat := [0x000, 0x001, 0x002, 0x003, 0x004, 0x005, 0x006, 0x020, 0x040]

/-- Legal fields of MMA and MMS (R134). -/
def mmFieldsOk (x : Bool) (ta : Bool) (c : Reg) (f : BitVec 6) : Bool :=
  f.toNat ≤ 13 && !(x && ta) && !(f = 11#6 && ta) &&
    (f.toNat ≤ 5 || (f.toNat ≤ 11 && c ≠ 0#5) || (12 ≤ f.toNat && c = 0#5))

/-- A check with its reason. -/
def need (ok : Bool) (r : Reject) : Option Reject := if ok then none else some r

/-- What R65 refuses among the words of major 0x01. -/
def refuseOp (w : BitVec 32) : Option Reject :=
  match (fld w 0 6).toNat with
  | 0 => need (fld w 6 5 = 0#5) .reservedField
  | 1 => need (fld w 6 5 = 0#5) .reservedField
  | 2 => need (fld w 6 5 = 0#5) .reservedField
  | 3 => need (fld w 6 5 = 0#5) .reservedField
  | 4 => need (fld w 6 5 = 0#5) .reservedField
  | 5 => need (fld w 6 5 = 0#5) .reservedField
  | 6 => need (fld w 6 5 = 0#5) .reservedField
  | 7 => need (fld w 6 5 = 0#5) .reservedField
  | 8 => need (fld w 6 5 = 0#5) .reservedField
  | 9 => need (fld w 6 5 = 0#5) .reservedField
  | 10 => need (fld w 6 5 = 0#5) .reservedField
  | 11 => need (fld w 6 5 = 0#5) .reservedField
  | 12 => need (fld w 6 5 = 0#5) .reservedField
  | 13 => need (fld w 6 5 = 0#5) .reservedField
  | 14 => need (fld w 6 5 = 0#5) .reservedField
  | 15 => need (fld w 6 5 = 0#5) .reservedField
  | 16 => need (fld w 6 5 = 0#5) .reservedField
  | 17 => need (fld w 6 5 = 0#5) .reservedField
  | 18 => need (fld w 6 5 = 0#5) .reservedField
  | 19 => need (fld w 6 5 = 0#5) .reservedField
  | 20 => need (fld w 6 5 = 0#5) .reservedField
  | 21 => need (fld w 6 5 = 0#5) .reservedField
  | 22 => need (fld w 6 10 = 0#10) .reservedField
  | 23 => need (fld w 6 10 = 0#10) .reservedField
  | 24 => need (fld w 6 10 = 0#10) .reservedField
  | 25 => (need (fld w 11 5 = 0#5) .reservedField).or (need ((fld w 6 5).toNat ≤ 2) .fieldValue)
  | 26 => (need (fld w 11 5 = 0#5) .reservedField).or (need ((fld w 6 5).toNat ≤ 2) .fieldValue)
  | 27 => none
  | _ => some .functionCode

/-- What R65 refuses among the words of major 0x08. -/
def refuseShi (w : BitVec 32) : Option Reject :=
  match (fld w 14 2).toNat with
  | 0 => need (fld w 6 8 = 0#8) .reservedField
  | 1 => need (fld w 6 8 = 0#8) .reservedField
  | 2 => need (fld w 6 8 = 0#8) .reservedField
  | _ => some .functionCode

/-- What R65 refuses among the words of major 0x0B. -/
def refuseFop (w : BitVec 32) : Option Reject :=
  match (fld w 0 6).toNat with
  | 0 => (need (fld w 9 2 = 0#2) .reservedField).or (need (fopRoundOk (fld w 6 3)) .fieldValue)
  | 1 => (need (fld w 9 2 = 0#2) .reservedField).or (need (fopRoundOk (fld w 6 3)) .fieldValue)
  | 2 => (need (fld w 9 2 = 0#2) .reservedField).or (need (fopRoundOk (fld w 6 3)) .fieldValue)
  | 3 => (need (fld w 9 2 = 0#2) .reservedField).or (need (fopRoundOk (fld w 6 3)) .fieldValue)
  | 4 => (need (fld w 9 7 = 0#7) .reservedField).or (need (fopRoundOk (fld w 6 3)) .fieldValue)
  | 5 => none
  | 6 => need (fld w 6 5 = 0#5) .reservedField
  | 7 => need (fld w 6 5 = 0#5) .reservedField
  | 8 => need (fld w 6 5 = 0#5) .reservedField
  | 9 => need (fld w 6 5 = 0#5) .reservedField
  | 10 => need (fld w 6 5 = 0#5) .reservedField
  | 11 => need (fld w 6 10 = 0#10) .reservedField
  | 12 => need (fld w 6 10 = 0#10) .reservedField
  | 13 => need (fld w 6 10 = 0#10) .reservedField
  | 14 => (need (fld w 9 7 = 0#7) .reservedField).or (need (fopRoundOk (fld w 6 3)) .fieldValue)
  | 15 => (need (fld w 9 7 = 0#7) .reservedField).or (need (fopRoundOk (fld w 6 3)) .fieldValue)
  | 16 => (need (fld w 9 7 = 0#7) .reservedField).or (need (fopRoundOk (fld w 6 3)) .fieldValue)
  | 17 => (need (fld w 9 7 = 0#7) .reservedField).or (need (fopRoundOk (fld w 6 3)) .fieldValue)
  | 18 => (need (fld w 9 7 = 0#7) .reservedField).or (need (fopRoundOk (fld w 6 3)) .fieldValue)
  | 19 => need (fld w 6 10 = 0#10) .reservedField
  | 20 => (need (fld w 9 7 = 0#7) .reservedField).or (need (fopRoundOk (fld w 6 3)) .fieldValue)
  | 21 => need (fld w 6 10 = 0#10) .reservedField
  | _ => some .functionCode

/-- What R65 refuses among the words of major 0x17. -/
def refuseOrd (w : BitVec 32) : Option Reject :=
  match (fld w 0 6).toNat with
  | 0 => need (fld w 8 8 = 0#8) .reservedField
  | 1 => need (fld w 8 8 = 0#8) .reservedField
  | 2 => need (fld w 8 8 = 0#8) .reservedField
  | 3 => need (fld w 8 8 = 0#8) .reservedField
  | 4 => (need (fld w 21 5 = 0#5) .reservedField).or (need (fld w 8 3 = 0#3) .reservedField)
  | 5 => (need (fld w 21 5 = 0#5) .reservedField).or (need (fld w 8 3 = 0#3) .reservedField)
  | 6 => (need (fld w 21 5 = 0#5) .reservedField).or (need (fld w 8 3 = 0#3) .reservedField)
  | 7 => (need (fld w 21 5 = 0#5) .reservedField).or (need (fld w 8 3 = 0#3) .reservedField)
  | 8 => (need (fld w 21 5 = 0#5) .reservedField).or ((need (fld w 16 5 = 0#5) .reservedField).or (need (fld w 8 8 = 0#8) .reservedField))
  | 9 => (need (fld w 21 5 = 0#5) .reservedField).or ((need (fld w 16 5 = 0#5) .reservedField).or (need (fld w 8 8 = 0#8) .reservedField))
  | 10 => (need (fld w 21 5 = 0#5) .reservedField).or ((need (fld w 16 5 = 0#5) .reservedField).or (need (fld w 8 8 = 0#8) .reservedField))
  | _ => some .functionCode

/-- What R65 refuses among the words of major 0x18. -/
def refuseAmo (w : BitVec 32) : Option Reject :=
  match (fld w 0 6).toNat with
  | 0 => none
  | 1 => none
  | 2 => none
  | 3 => none
  | 4 => none
  | 5 => none
  | 6 => none
  | 7 => none
  | 8 => none
  | 9 => none
  | 10 => need (fld w 10 1 = 0#1) .reservedField
  | 11 => need (fld w 10 1 = 0#1) .reservedField
  | _ => some .functionCode

/-- What R65 refuses among the words of major 0x21. -/
def refuseSys (w : BitVec 32) : Option Reject :=
  match (fld w 0 6).toNat with
  | 0 => (need (fld w 21 5 = 0#5) .reservedField).or ((need (fld w 16 5 = 0#5) .reservedField).or (need (fld w 11 5 = 0#5) .reservedField))
  | 1 => (need (fld w 21 5 = 0#5) .reservedField).or ((need (fld w 16 5 = 0#5) .reservedField).or (need (fld w 11 5 = 0#5) .reservedField))
  | 2 => (need (fld w 21 5 = 0#5) .reservedField).or ((need (fld w 16 5 = 0#5) .reservedField).or (need (fld w 6 10 = 0#10) .reservedField))
  | 3 => (need (fld w 21 5 = 0#5) .reservedField).or ((need (fld w 16 5 = 0#5) .reservedField).or (need (fld w 6 10 = 0#10) .reservedField))
  | 4 => (need (fld w 21 5 = 0#5) .reservedField).or ((need (fld w 16 5 = 0#5) .reservedField).or (need (fld w 6 10 = 0#10) .reservedField))
  | 5 => (need (fld w 21 5 = 0#5) .reservedField).or ((need (fld w 16 5 = 0#5) .reservedField).or (need (fld w 6 10 = 0#10) .reservedField))
  | 6 => (need (fld w 21 5 = 0#5) .reservedField).or ((need (fld w 16 5 = 0#5) .reservedField).or (need (fld w 6 10 = 0#10) .reservedField))
  | 7 => (need (fld w 21 5 = 0#5) .reservedField).or ((need (fld w 16 5 = 0#5) .reservedField).or (need (fld w 6 10 = 0#10) .reservedField))
  | 8 => if fld w 8 8 = 4#8 then (need (fld w 16 5 = 0#5) .reservedField).or (need ((fld w 6 2) ≠ 0#2) .fieldValue) else (need (fld w 16 5 = 0#5) .reservedField).or ((need (fld w 8 8 = 0#8) .reservedField).or (need ((fld w 6 2) ≠ 0#2) .fieldValue))
  | 9 => (need (fld w 16 5 = 0#5) .reservedField).or (need (fld w 6 10 = 0#10) .reservedField)
  | 10 => (need (fld w 16 5 = 0#5) .reservedField).or (need (fld w 6 10 = 0#10) .reservedField)
  | 11 => (need (fld w 16 5 = 0#5) .reservedField).or (need (fld w 6 10 = 0#10) .reservedField)
  | 12 => need (fld w 6 10 = 0#10) .reservedField
  | 13 => need (fld w 6 10 = 0#10) .reservedField
  | 14 => need (fld w 6 10 = 0#10) .reservedField
  | _ => some .functionCode

/-- What R65 refuses among the words of major 0x24. -/
def refuseSync (w : BitVec 32) : Option Reject :=
  match (fld w 0 6).toNat with
  | 0 => (need (fld w 16 5 = 0#5) .reservedField).or (need (fld w 6 10 = 0#10) .reservedField)
  | 1 => (need (fld w 21 5 = 0#5) .reservedField).or (need (fld w 6 10 = 0#10) .reservedField)
  | 2 => need (fld w 6 5 = 0#5) .reservedField
  | 3 => (need (fld w 11 5 = 0#5) .reservedField).or (need ((fld w 6 5).toNat ≤ 2) .fieldValue)
  | 4 => (need (fld w 6 5 = 0#5) .reservedField).or (need ((fld w 11 5).toNat ≤ 15) .fieldValue)
  | 5 => (need (fld w 6 5 = 0#5) .reservedField).or (need ((fld w 11 5).toNat ≤ 15) .fieldValue)
  | 6 => (need (fld w 16 5 = 0#5) .reservedField).or ((need (fld w 6 5 = 0#5) .reservedField).or (need ((fld w 11 5).toNat ≤ 15) .fieldValue))
  | 7 => (need (fld w 16 5 = 0#5) .reservedField).or (need (fld w 6 10 = 0#10) .reservedField)
  | 8 => (need (fld w 16 5 = 0#5) .reservedField).or (need (fld w 6 10 = 0#10) .reservedField)
  | 9 => none
  | 10 => need (fld w 6 10 = 0#10) .reservedField
  | _ => some .functionCode

/-- What R65 refuses among the words of major 0x28. -/
def refuseVarith (w : BitVec 32) : Option Reject :=
  match (fld w 0 5).toNat with
  | 0 => none
  | 1 => none
  | 2 => none
  | 3 => none
  | 4 => none
  | 5 => none
  | 6 => none
  | 7 => need (fld w 11 5 = 0#5) .reservedField
  | 8 => need (fld w 11 5 = 0#5) .reservedField
  | 9 => need (isF (fld w 5 3)) .typeCode
  | 10 => (need (fld w 11 5 = 0#5) .reservedField).or (need (isF (fld w 5 3)) .typeCode)
  | 11 => (need (fld w 11 5 = 0#5) .reservedField).or (need (isF (fld w 5 3)) .typeCode)
  | 12 => (need (fld w 11 5 = 0#5) .reservedField).or (need (isF (fld w 5 3)) .typeCode)
  | 13 => need (isI (fld w 5 3)) .typeCode
  | 14 => need (isI (fld w 5 3)) .typeCode
  | 15 => need (isI (fld w 5 3)) .typeCode
  | _ => some .functionCode

/-- What R65 refuses among the words of major 0x29. -/
def refuseVlogic (w : BitVec 32) : Option Reject :=
  match (fld w 0 5).toNat with
  | 0 => none
  | 1 => none
  | 2 => none
  | 3 => none
  | 4 => need (fld w 11 5 = 0#5) .reservedField
  | 5 => need (isI (fld w 5 3)) .typeCode
  | 6 => need (isI (fld w 5 3)) .typeCode
  | 7 => need (isI (fld w 5 3)) .typeCode
  | 8 => need ((fld w 21 5).toNat ≤ 7) .fieldValue
  | 9 => need ((fld w 21 5).toNat ≤ 7) .fieldValue
  | 10 => need ((fld w 21 5).toNat ≤ 7) .fieldValue
  | 11 => need ((fld w 21 5).toNat ≤ 7) .fieldValue
  | 12 => (need ((fld w 21 5).toNat ≤ 7) .fieldValue).or (need (isI (fld w 5 3)) .typeCode)
  | 13 => none
  | 14 => (need (fld w 5 6 = 0#6) .reservedField).or (need ((fld w 21 5).toNat ≤ 7 && (fld w 16 5).toNat ≤ 7 && (fld w 11 5).toNat ≤ 7) .fieldValue)
  | 15 => (need (fld w 5 6 = 0#6) .reservedField).or (need ((fld w 21 5).toNat ≤ 7 && (fld w 16 5).toNat ≤ 7 && (fld w 11 5).toNat ≤ 7) .fieldValue)
  | 16 => (need (fld w 5 6 = 0#6) .reservedField).or (need ((fld w 21 5).toNat ≤ 7 && (fld w 16 5).toNat ≤ 7 && (fld w 11 5).toNat ≤ 7) .fieldValue)
  | 17 => (need (fld w 5 11 = 0#11) .reservedField).or (need ((fld w 21 5).toNat ≤ 7 && (fld w 16 5).toNat ≤ 7) .fieldValue)
  | 18 => (need (fld w 8 8 = 0#8) .reservedField).or (need ((fld w 16 5).toNat ≤ 7) .fieldValue)
  | 19 => (need (fld w 8 8 = 0#8) .reservedField).or (need ((fld w 16 5).toNat ≤ 7) .fieldValue)
  | 20 => (need (fld w 8 8 = 0#8) .reservedField).or (need ((fld w 21 5).toNat ≤ 7) .fieldValue)
  | _ => some .functionCode

/-- What R65 refuses among the words of major 0x2A. -/
def refuseVperm (w : BitVec 32) : Option Reject :=
  match (fld w 0 5).toNat with
  | 0 => need (fld w 5 3 = 5#3) .typeCode
  | 1 => none
  | 2 => none
  | 3 => none
  | 4 => need (fld w 11 5 = 0#5) .reservedField
  | 5 => need (fld w 8 3 = 0#3) .reservedField
  | 6 => need (fld w 8 3 = 0#3) .reservedField
  | 7 => (need (fld w 16 5 = 0#5) .reservedField).or ((need (fld w 11 5 = 0#5) .reservedField).or (need (isI (fld w 5 3)) .typeCode))
  | 8 => none
  | 9 => none
  | 10 => need (fld w 11 5 = 0#5) .reservedField
  | _ => some .functionCode

/-- What R65 refuses among the words of major 0x2B. -/
def refuseVconv (w : BitVec 32) : Option Reject :=
  match (fld w 0 5).toNat with
  | 0 => need ((fld w 11 5).toNat ≤ 16) .typeCode
  | 1 => need ((fld w 11 5).toNat ≤ 16) .typeCode
  | 2 => (need (isF (fld w 5 3)) .typeCode).or (need ((fld w 21 5) ≠ (fld w 11 5)) .fieldValue)
  | 3 => (need (isF (fld w 5 3)) .typeCode).or (need ((fld w 21 5) ≠ (fld w 11 5)) .fieldValue)
  | 4 => need (isF (fld w 5 3)) .typeCode
  | 5 => (need (fld w 21 5 = 0#5) .reservedField).or ((need (fld w 5 11 = 0#11) .reservedField).or (need ((fld w 16 5).toNat % 8 = 0) .fieldValue))
  | _ => some .functionCode

/-- What R65 refuses among the words of major 0x2C. -/
def refuseVred (w : BitVec 32) : Option Reject :=
  match (fld w 0 5).toNat with
  | 0 => need (fld w 11 5 = 0#5) .reservedField
  | 1 => need (fld w 11 5 = 0#5) .reservedField
  | 2 => need (fld w 11 5 = 0#5) .reservedField
  | 3 => (need (fld w 11 5 = 0#5) .reservedField).or (need (isF (fld w 5 3)) .typeCode)
  | 4 => (need (fld w 11 5 = 0#5) .reservedField).or (need (isF (fld w 5 3)) .typeCode)
  | 5 => need (fld w 11 5 = 0#5) .reservedField
  | _ => some .functionCode

/-- What R65 refuses among the words of major 0x2D. -/
def refuseVsfn (w : BitVec 32) : Option Reject :=
  match (fld w 0 5).toNat with
  | 0 => (need (fld w 11 5 = 0#5) .reservedField).or (need (fld w 5 3 = 0#3) .typeCode)
  | 1 => (need (fld w 11 5 = 0#5) .reservedField).or (need (fld w 5 3 = 0#3) .typeCode)
  | 2 => (need (fld w 11 5 = 0#5) .reservedField).or (need (isF (fld w 5 3)) .typeCode)
  | 3 => (need (fld w 11 5 = 0#5) .reservedField).or (need (isF (fld w 5 3)) .typeCode)
  | 4 => (need (fld w 11 5 = 0#5) .reservedField).or (need (isF (fld w 5 3)) .typeCode)
  | 5 => (need (fld w 11 5 = 0#5) .reservedField).or (need (isF (fld w 5 3)) .typeCode)
  | 6 => (need (fld w 11 5 = 0#5) .reservedField).or (need (isF (fld w 5 3)) .typeCode)
  | 7 => (need (fld w 11 5 = 0#5) .reservedField).or (need (isF (fld w 5 3)) .typeCode)
  | 8 => (need (fld w 16 5 = 0#5) .reservedField).or ((need (fld w 11 5 = 0#5) .reservedField).or (need ((fld w 5 3) = 0#3 || (fld w 5 3) = 7#3) .typeCode))
  | _ => some .functionCode

/-- What R65 refuses among the words of major 0x2E. -/
def refuseVimm (w : BitVec 32) : Option Reject :=
  match (fld w 18 3).toNat with
  | 0 => none
  | 1 => none
  | 2 => none
  | 3 => none
  | 4 => none
  | 5 => none
  | 6 => none
  | 7 => none
  | _ => some .functionCode

/-- What R65 refuses among the words of major 0x2F. -/
def refuseVmem (w : BitVec 32) : Option Reject :=
  match (fld w 0 5).toNat with
  | 0 => need (fld w 11 5 = 0#5) .reservedField
  | 1 => need (fld w 11 5 = 0#5) .reservedField
  | 2 => none
  | 3 => none
  | 4 => need (isT32or16 (fld w 5 3)) .typeCode
  | 5 => need (isT32or16 (fld w 5 3)) .typeCode
  | 6 => need (isT32 (fld w 5 3)) .typeCode
  | 7 => need (isT32 (fld w 5 3)) .typeCode
  | 8 => need (isT32 (fld w 5 3)) .typeCode
  | 9 => need (isT32 (fld w 5 3)) .typeCode
  | 10 => need (isT32 (fld w 5 3)) .typeCode
  | 11 => need (fld w 11 5 = 0#5) .reservedField
  | _ => some .functionCode

/-- What R65 refuses among the words of major 0x33. -/
def refuseMctl (w : BitVec 32) : Option Reject :=
  match (fld w 0 6).toNat with
  | 0 => need (fld w 6 10 = 0#10) .reservedField
  | 1 => (need (fld w 16 5 = 0#5) .reservedField).or ((need (fld w 6 10 = 0#10) .reservedField).or (need ((fld w 21 5).toNat ≤ 1) .fieldValue))
  | 2 => (need (fld w 6 5 = 0#5) .reservedField).or (need ((fld w 21 5).toNat ≤ 1) .fieldValue)
  | 3 => (need ((fld w 21 5).toNat ≤ 1) .fieldValue).or (need ((fld w 6 5).toNat ≤ 3) .typeCode)
  | 4 => need (fld w 6 10 = 0#10) .reservedField
  | 5 => need (fld w 6 10 = 0#10) .reservedField
  | 6 => (need (fld w 6 5 = 0#5) .reservedField).or (need ((fld w 21 5) ≠ (fld w 11 5)) .fieldValue)
  | 7 => (need (fld w 21 5 = 0#5) .reservedField).or ((need (fld w 6 10 = 0#10) .reservedField).or (need ((fld w 16 5).toNat % 2 = 0) .fieldValue))
  | _ => some .functionCode

/-- What R65 refuses among the words of major 0x34. -/
def refuseCopy (w : BitVec 32) : Option Reject :=
  match (fld w 0 6).toNat with
  | 0 => (need (fld w 6 10 = 0#10) .reservedField).or (need (4 ≤ (fld w 16 5).toNat && (fld w 16 5).toNat % 4 = 0) .fieldValue)
  | 1 => (need (fld w 6 10 = 0#10) .reservedField).or (need (4 ≤ (fld w 16 5).toNat && (fld w 16 5).toNat % 4 = 0) .fieldValue)
  | 2 => (need (fld w 11 5 = 0#5) .reservedField).or (need ((fld w 6 5).toNat ≤ 7) .fieldValue)
  | 3 => (need (fld w 16 5 = 0#5) .reservedField).or ((need (fld w 11 5 = 0#5) .reservedField).or (need ((fld w 6 5).toNat ≤ 7) .fieldValue))
  | 4 => (need (fld w 21 5 = 0#5) .reservedField).or ((need (fld w 16 5 = 0#5) .reservedField).or ((need (fld w 11 5 = 0#5) .reservedField).or (need ((fld w 6 5).toNat ≤ 7) .fieldValue)))
  | 5 => (need (fld w 16 5 = 0#5) .reservedField).or ((need ((fld w 6 5).toNat ≤ 7) .fieldValue).or (need ((fld w 11 5).toNat ≤ 2) .fieldValue))
  | 6 => (need (fld w 21 5 = 0#5) .reservedField).or (need (fld w 6 10 = 0#10) .reservedField)
  | 7 => (need (fld w 16 5 = 0#5) .reservedField).or (need (fld w 6 10 = 0#10) .reservedField)
  | _ => some .functionCode

/-- What R65 refuses among the words of major 0x35. -/
def refuseBits (w : BitVec 32) : Option Reject :=
  match (fld w 0 6).toNat with
  | 0 => need ((fld w 6 5).toNat ≤ 1) .fieldValue
  | 1 => (need (fld w 16 5 = 0#5) .reservedField).or (need ((fld w 6 5) = 0#5 || (fld w 11 5) = 0#5) .reservedField)
  | 2 => (need (fld w 16 5 = 0#5) .reservedField).or (need ((fld w 6 5) = 0#5 || (fld w 11 5) = 0#5) .reservedField)
  | 3 => (need (fld w 16 5 = 0#5) .reservedField).or (need ((fld w 6 5) = 0#5 || (fld w 11 5) = 0#5) .reservedField)
  | 4 => (need (fld w 16 5 = 0#5) .reservedField).or (need (fld w 6 10 = 0#10) .reservedField)
  | 5 => need ((fld w 6 5) = 0#5 || (fld w 11 5) = 0#5) .reservedField
  | 6 => (need (fld w 16 5 = 0#5) .reservedField).or (need (fld w 6 10 = 0#10) .reservedField)
  | 7 => (need (fld w 16 5 = 0#5) .reservedField).or (need (fld w 6 10 = 0#10) .reservedField)
  | _ => some .functionCode

/-- What R65 refuses among the words of major 0x36. -/
def refuseLin (w : BitVec 32) : Option Reject :=
  match (fld w 0 6).toNat with
  | 0 => none
  | 1 => need (fld w 6 10 = 0#10) .reservedField
  | 2 => need (fld w 6 5 = 0#5) .reservedField
  | 3 => need (fld w 6 10 = 0#10) .reservedField
  | 4 => need (fld w 6 10 = 0#10) .reservedField
  | 5 => (need (fld w 11 5 = 0#5) .reservedField).or (need ((fld w 6 5).toNat ≤ 8 && ((fld w 6 5).toNat ≤ 6 || (fld w 16 5) = 0#5)) .fieldValue)
  | 6 => need (fld w 6 5 = 0#5) .reservedField
  | 7 => need (fld w 6 10 = 0#10) .reservedField
  | 8 => none
  | 9 => need (fld w 6 5 = 0#5) .reservedField
  | 10 => need (fld w 6 10 = 0#10) .reservedField
  | _ => some .functionCode

/-- What R65 refuses among the words of major 0x37. -/
def refuseEqv (w : BitVec 32) : Option Reject :=
  match (fld w 0 6).toNat with
  | 0 => need (fld w 6 10 = 0#10) .reservedField
  | 1 => need (fld w 6 10 = 0#10) .reservedField
  | 2 => none
  | 3 => need (fld w 6 5 = 0#5) .reservedField
  | 4 => need (fld w 6 5 = 0#5) .reservedField
  | 5 => (need (fld w 11 5 = 0#5) .reservedField).or (need ((fld w 6 5).toNat ≤ 3) .fieldValue)
  | 6 => need (fld w 6 10 = 0#10) .reservedField
  | 7 => if fld w 6 5 = 1#5 then none else need (fld w 6 5 = 0#5) .reservedField
  | 8 => need (fld w 6 5 = 0#5) .reservedField
  | 9 => none
  | 10 => need (fld w 6 5 = 0#5) .reservedField
  | _ => some .functionCode

/-- What R65 refuses among the words of major 0x38. -/
def refuseDred (w : BitVec 32) : Option Reject :=
  match (fld w 0 6).toNat with
  | 0 => need (fld w 6 10 = 0#10) .reservedField
  | 1 => none
  | 2 => need (fld w 6 10 = 0#10) .reservedField
  | 3 => need (fld w 6 10 = 0#10) .reservedField
  | 4 => need (fld w 6 5 = 0#5) .reservedField
  | 5 => need ((fld w 6 5).toNat ≤ 3) .fieldValue
  | _ => some .functionCode

/-- The reason for which a word is not an instruction, if any (R65): its major, its function code, its reserved
fields, then the values of its other fields. The rule on covered words (R66) needs those words and stands with ADMIT. -/
def wordRefusal (w : BitVec 32) : Option Reject :=
  match (fld w 26 6).toNat with
  | 0x01 => refuseOp w
  | 0x02 => none
  | 0x03 => none
  | 0x04 => none
  | 0x05 => none
  | 0x06 => none
  | 0x07 => none
  | 0x08 => refuseShi w
  | 0x09 => need (fld w 16 5 = 0#5) .reservedField
  | 0x0A => need (fld w 16 5 = 0#5) .reservedField
  | 0x0B => refuseFop w
  | 0x0C => none
  | 0x0D => none
  | 0x0E => none
  | 0x0F => none
  | 0x10 => none
  | 0x11 => none
  | 0x12 => none
  | 0x13 => none
  | 0x14 => none
  | 0x15 => none
  | 0x16 => none
  | 0x17 => refuseOrd w
  | 0x18 => refuseAmo w
  | 0x19 => none
  | 0x1A => none
  | 0x1B => none
  | 0x1C => none
  | 0x1D => none
  | 0x1E => none
  | 0x1F => none
  | 0x20 => none
  | 0x21 => refuseSys w
  | 0x22 => (need (fld w 16 5 = 0#5) .reservedField).or ((need (fld w 12 4 = 0#4) .reservedField).or (need (sysReadable.contains (fld w 0 12).toNat) .systemRegister))
  | 0x23 => (need (fld w 21 5 = 0#5) .reservedField).or ((need (fld w 12 4 = 0#4) .reservedField).or (need (sysReadable.contains (fld w 0 12).toNat && !sysReadOnly.contains (fld w 0 12).toNat) .systemRegister))
  | 0x24 => refuseSync w
  | 0x25 => (need (fld w 16 5 = 0#5) .reservedField).or (need ((fld w 21 5) ≠ 0#5) .fieldValue)
  | 0x26 => (need (fld w 21 5 = 0#5) .reservedField).or ((need (fld w 16 5 = 0#5) .reservedField).or (need (fld w 4 12 = 0#12) .reservedField))
  | 0x27 => need (fld w 21 5 = 0#5) .reservedField
  | 0x28 => refuseVarith w
  | 0x29 => refuseVlogic w
  | 0x2A => refuseVperm w
  | 0x2B => refuseVconv w
  | 0x2C => refuseVred w
  | 0x2D => refuseVsfn w
  | 0x2E => refuseVimm w
  | 0x2F => refuseVmem w
  | 0x30 => need (mmFieldsOk ((fld w 23 1) = 1#1) ((fld w 21 2).getLsbD 1) (fld w 6 5) (fld w 0 6)) .fieldValue
  | 0x31 => (need (fld w 21 1 = 0#1) .reservedField).or (need (((fld w 0 6).toNat ≤ 5 || (fld w 0 6) = 12#6 || (fld w 0 6) = 13#6) && !((fld w 23 1) = 1#1 && (fld w 22 1) = 1#1)) .fieldValue)
  | 0x32 => (need (fld w 23 1 = 0#1) .reservedField).or (need (mmFieldsOk false ((fld w 21 2).getLsbD 1) (fld w 6 5) (fld w 0 6)) .fieldValue)
  | 0x33 => refuseMctl w
  | 0x34 => refuseCopy w
  | 0x35 => refuseBits w
  | 0x36 => refuseLin w
  | 0x37 => refuseEqv w
  | 0x38 => refuseDred w
  | _ => some .noMajor

/-- The same field values on an instruction: the reason for which no word of it exists, if any. -/
def Instr.refusal : Instr → Option Reject
  | .sext _ _ w => need (w.toNat ≤ 2) .fieldValue
  | .zext _ _ w => need (w.toNat ≤ 2) .fieldValue
  | .fadd _ _ _ r => need (fopRoundOk r) .fieldValue
  | .fsub _ _ _ r => need (fopRoundOk r) .fieldValue
  | .fmul _ _ _ r => need (fopRoundOk r) .fieldValue
  | .fdiv _ _ _ r => need (fopRoundOk r) .fieldValue
  | .fsqrt _ _ r => need (fopRoundOk r) .fieldValue
  | .ftoi _ _ r => need (fopRoundOk r) .fieldValue
  | .fton _ _ r => need (fopRoundOk r) .fieldValue
  | .itof _ _ r => need (fopRoundOk r) .fieldValue
  | .ntof _ _ r => need (fopRoundOk r) .fieldValue
  | .ftobf _ _ r => need (fopRoundOk r) .fieldValue
  | .ftoh _ _ r => need (fopRoundOk r) .fieldValue
  | .convoy _ n => need (n ≠ 0#2) .fieldValue
  | .convoyS _ n => need (n ≠ 0#2) .fieldValue
  | .sysr _ r => need (sysReadable.contains r.toNat) .systemRegister
  | .sysw _ r => need (sysReadable.contains r.toNat && !sysReadOnly.contains r.toNat) .systemRegister
  | .barq _ _ q => need (q.toNat ≤ 2) .fieldValue
  | .mbwait _ _ n => need (n.toNat ≤ 15) .fieldValue
  | .mbsub _ _ n => need (n.toNat ≤ 15) .fieldValue
  | .mbread _ n => need (n.toNat ≤ 15) .fieldValue
  | .loop a _ => need (a ≠ 0#5) .fieldValue
  | .vdiv _ _ _ _ t => need (isF t) .typeCode
  | .vsqrt _ _ _ t => need (isF t) .typeCode
  | .vrcp _ _ _ t => need (isF t) .typeCode
  | .vrsqrt _ _ _ t => need (isF t) .typeCode
  | .vadds _ _ _ _ t => need (isI t) .typeCode
  | .vsubs _ _ _ _ t => need (isI t) .typeCode
  | .vmulh _ _ _ _ t => need (isI t) .typeCode
  | .vshl _ _ _ _ t => need (isI t) .typeCode
  | .vshr _ _ _ _ t => need (isI t) .typeCode
  | .vsra _ _ _ _ t => need (isI t) .typeCode
  | .vcmpeq d _ _ _ _ => need (d.toNat ≤ 7) .fieldValue
  | .vcmpne d _ _ _ _ => need (d.toNat ≤ 7) .fieldValue
  | .vcmplt d _ _ _ _ => need (d.toNat ≤ 7) .fieldValue
  | .vcmple d _ _ _ _ => need (d.toNat ≤ 7) .fieldValue
  | .vcmpltn d _ _ _ t => (need (d.toNat ≤ 7) .fieldValue).or (need (isI t) .typeCode)
  | .pand d a b => need (d.toNat ≤ 7 && a.toNat ≤ 7 && b.toNat ≤ 7) .fieldValue
  | .por d a b => need (d.toNat ≤ 7 && a.toNat ≤ 7 && b.toNat ≤ 7) .fieldValue
  | .pxor d a b => need (d.toNat ≤ 7 && a.toNat ≤ 7 && b.toNat ≤ 7) .fieldValue
  | .pnot d a => need (d.toNat ≤ 7 && a.toNat ≤ 7) .fieldValue
  | .pcnt _ a _ => need (a.toNat ≤ 7) .fieldValue
  | .pfirst _ a _ => need (a.toNat ≤ 7) .fieldValue
  | .pset d _ _ => need (d.toNat ≤ 7) .fieldValue
  | .viota _ _ t => need (isI t) .typeCode
  | .vcvt _ _ f _ _ => need (f.toNat ≤ 16) .typeCode
  | .vcvts _ _ f _ _ => need (f.toNat ≤ 16) .typeCode
  | .vquant d _ b _ t => (need (isF t) .typeCode).or (need (d ≠ b) .fieldValue)
  | .vdequant d _ b _ t => (need (isF t) .typeCode).or (need (d ≠ b) .fieldValue)
  | .vcbdec _ _ _ _ t => need (isF t) .typeCode
  | .vcbload a => need (a.toNat % 8 = 0) .fieldValue
  | .vredamax _ _ _ t => need (isF t) .typeCode
  | .vredamin _ _ _ t => need (isF t) .typeCode
  | .vexp _ _ _ t => need (isF t) .typeCode
  | .vlog _ _ _ t => need (isF t) .typeCode
  | .vtanh _ _ _ t => need (isF t) .typeCode
  | .vsigm _ _ _ t => need (isF t) .typeCode
  | .vsilu _ _ _ t => need (isF t) .typeCode
  | .vgelu _ _ _ t => need (isF t) .typeCode
  | .vrand _ _ t => need (t = 0#3 || t = 7#3) .typeCode
  | .vldx _ _ _ _ t => need (isT32or16 t) .typeCode
  | .vstx _ _ _ _ t => need (isT32or16 t) .typeCode
  | .vldrow _ _ _ _ t => need (isT32 t) .typeCode
  | .vldcol _ _ _ _ t => need (isT32 t) .typeCode
  | .vstrow _ _ _ _ t => need (isT32 t) .typeCode
  | .vstcol _ _ _ _ t => need (isT32 t) .typeCode
  | .vscatadd _ _ _ _ t => need (isT32 t) .typeCode
  | .mma _ _ x t _ _ c f => need (mmFieldsOk (x = 1#1) (t.getLsbD 1) c f) .fieldValue
  | .mmd _ _ x t _ _ _ f => need ((f.toNat ≤ 5 || f = 12#6 || f = 13#6) && !(x = 1#1 && t = 1#1)) .fieldValue
  | .mms _ _ t _ _ c f => need (mmFieldsOk false (t.getLsbD 1) c f) .fieldValue
  | .mzero d => need (d.toNat ≤ 1) .fieldValue
  | .mload d _ _ => need (d.toNat ≤ 1) .fieldValue
  | .mstore d _ _ f => (need (d.toNat ≤ 1) .fieldValue).or (need (f.toNat ≤ 3) .typeCode)
  | .mquant d _ b => need (d ≠ b) .fieldValue
  | .midx a => need (a.toNat % 2 = 0) .fieldValue
  | .copy _ a => need (4 ≤ a.toNat && a.toNat % 4 = 0) .fieldValue
  | .copyt _ a => need (4 ≤ a.toNat && a.toNat % 4 = 0) .fieldValue
  | .ringinit _ _ c => need (c.toNat ≤ 7) .fieldValue
  | .await _ c => need (c.toNat ≤ 7) .fieldValue
  | .relslot c => need (c.toNat ≤ 7) .fieldValue
  | .ringq _ q c => (need (c.toNat ≤ 7) .fieldValue).or (need (q.toNat ≤ 2) .fieldValue)
  | .bbinit _ _ _ c => need (c.toNat ≤ 1) .fieldValue
  | .bbget _ b c => need (c = 0#5 || b = 0#5) .reservedField
  | .bbpeek _ b c => need (c = 0#5 || b = 0#5) .reservedField
  | .bbskip _ b c => need (c = 0#5 || b = 0#5) .reservedField
  | .bbapp _ _ b c => need (c = 0#5 || b = 0#5) .reservedField
  | .tinfo _ a q => need (q.toNat ≤ 8 && (q.toNat ≤ 6 || a = 0#5)) .fieldValue
  | .eqstat _ _ q => need (q.toNat ≤ 3) .fieldValue
  | .drstat _ _ _ k => need (k.toNat ≤ 3) .fieldValue
  | .add _ _ _ => none
  | .sub _ _ _ => none
  | .and _ _ _ => none
  | .or _ _ _ => none
  | .xor _ _ _ => none
  | .andn _ _ _ => none
  | .sll _ _ _ => none
  | .srl _ _ _ => none
  | .sra _ _ _ => none
  | .slt _ _ _ => none
  | .sltn _ _ _ => none
  | .min _ _ _ => none
  | .max _ _ _ => none
  | .minn _ _ _ => none
  | .maxn _ _ _ => none
  | .mul _ _ _ => none
  | .mulh _ _ _ => none
  | .mulhn _ _ _ => none
  | .div _ _ _ => none
  | .divn _ _ _ => none
  | .rem _ _ _ => none
  | .remn _ _ _ => none
  | .clz _ _ => none
  | .ctz _ _ => none
  | .popc _ _ => none
  | .cmov _ _ _ _ => none
  | .addi _ _ _ => none
  | .andi _ _ _ => none
  | .ori _ _ _ => none
  | .xori _ _ _ => none
  | .slti _ _ _ => none
  | .sltin _ _ _ => none
  | .slli _ _ _ => none
  | .srli _ _ _ => none
  | .srai _ _ _ => none
  | .lui _ _ => none
  | .addpc _ _ => none
  | .fmadd _ _ _ _ => none
  | .fmin _ _ _ => none
  | .fmax _ _ _ => none
  | .feq _ _ _ => none
  | .flt _ _ _ => none
  | .fle _ _ _ => none
  | .fclass _ _ => none
  | .fneg _ _ => none
  | .fabs _ _ => none
  | .bftof _ _ => none
  | .htof _ _ => none
  | .lb _ _ _ => none
  | .lbn _ _ _ => none
  | .lh _ _ _ => none
  | .lhn _ _ _ => none
  | .lw _ _ _ => none
  | .lwn _ _ _ => none
  | .ld _ _ _ => none
  | .sb _ _ _ => none
  | .sh _ _ _ => none
  | .sw _ _ _ => none
  | .sd _ _ _ => none
  | .ldab _ _ _ => none
  | .ldah _ _ _ => none
  | .ldaw _ _ _ => none
  | .ldad _ _ _ => none
  | .stlb _ _ _ => none
  | .stlh _ _ _ => none
  | .stlw _ _ _ => none
  | .stld _ _ _ => none
  | .facq _ => none
  | .frel _ => none
  | .fsc _ => none
  | .amoadd _ _ _ _ _ _ => none
  | .amoand _ _ _ _ _ _ => none
  | .amoor _ _ _ _ _ _ => none
  | .amoxor _ _ _ _ _ _ => none
  | .amomin _ _ _ _ _ _ => none
  | .amomax _ _ _ _ _ _ => none
  | .amominn _ _ _ _ _ _ => none
  | .amomaxn _ _ _ _ _ _ => none
  | .amoswap _ _ _ _ _ _ => none
  | .amocas _ _ _ _ _ _ => none
  | .amofadd _ _ _ _ _ => none
  | .amobfadd _ _ _ _ _ => none
  | .beq _ _ _ => none
  | .bne _ _ _ => none
  | .blt _ _ _ => none
  | .bge _ _ _ => none
  | .bltn _ _ _ => none
  | .bgen _ _ _ => none
  | .jal _ => none
  | .jalr _ _ _ => none
  | .svc _ => none
  | .brk _ => none
  | .eret => none
  | .wfi => none
  | .yield => none
  | .taskend => none
  | .signal => none
  | .waitpred => none
  | .disband _ => none
  | .pair _ => none
  | .unpair _ => none
  | .admitPage _ _ => none
  | .replay _ _ => none
  | .testc _ _ => none
  | .arrive _ => none
  | .wait _ => none
  | .barset _ _ _ => none
  | .xphase _ => none
  | .cphase _ => none
  | .xsend _ _ _ _ => none
  | .xrecv _ _ => none
  | .crit _ => none
  | .repeat _ _ _ _ _ => none
  | .vadd _ _ _ _ _ => none
  | .vsub _ _ _ _ _ => none
  | .vmul _ _ _ _ _ => none
  | .vfma _ _ _ _ _ => none
  | .vfms _ _ _ _ _ => none
  | .vmin _ _ _ _ _ => none
  | .vmax _ _ _ _ _ => none
  | .vabs _ _ _ _ => none
  | .vneg _ _ _ _ => none
  | .vand _ _ _ _ _ => none
  | .vor _ _ _ _ _ => none
  | .vxor _ _ _ _ _ => none
  | .vandn _ _ _ _ _ => none
  | .vnot _ _ _ _ => none
  | .vsel _ _ _ _ _ => none
  | .vpermb _ _ _ _ => none
  | .vperm _ _ _ _ _ => none
  | .vslideup _ _ _ _ _ => none
  | .vslidedn _ _ _ _ _ => none
  | .vbcast _ _ _ _ => none
  | .vextr _ _ _ _ => none
  | .vins _ _ _ _ => none
  | .vzipl _ _ _ _ _ => none
  | .vziph _ _ _ _ _ => none
  | .vmov _ _ _ _ => none
  | .vredsum _ _ _ _ => none
  | .vredmax _ _ _ _ => none
  | .vredmin _ _ _ _ => none
  | .vscan _ _ _ _ => none
  | .vtolog _ _ _ => none
  | .vfromlog _ _ _ => none
  | .vmovi _ _ _ => none
  | .vaddi _ _ _ => none
  | .vmuli _ _ _ => none
  | .vmini _ _ _ => none
  | .vmaxi _ _ _ => none
  | .vrsubi _ _ _ => none
  | .vandi _ _ _ => none
  | .vori _ _ _ => none
  | .vld _ _ _ _ => none
  | .vst _ _ _ _ => none
  | .vlds _ _ _ _ _ => none
  | .vsts _ _ _ _ _ => none
  | .vldb _ _ _ _ => none
  | .mshape _ _ => none
  | .mslice _ _ => none
  | .mwait _ _ => none
  | .bfree _ => none
  | .cdrain _ => none
  | .bblz _ => none
  | .bbflush _ => none
  | .bbpos _ => none
  | .tnew _ _ _ _ => none
  | .fork _ _ => none
  | .rebase _ _ _ => none
  | .flatten _ _ => none
  | .tdel _ _ => none
  | .tmap _ _ _ => none
  | .tunmap _ _ => none
  | .tadd _ _ _ _ => none
  | .tseal _ _ _ => none
  | .twait _ _ => none
  | .eqnew _ _ => none
  | .eqfree _ _ => none
  | .unite _ _ _ _ => none
  | .find _ _ _ => none
  | .eqsize _ _ _ => none
  | .milestone _ _ => none
  | .undo _ _ _ => none
  | .undoKeep _ _ _ => none
  | .relabel _ _ _ => none
  | .vunite _ _ _ _ => none
  | .vfind _ _ _ => none
  | .drinit _ _ => none
  | .drsend _ _ _ _ => none
  | .drwait _ _ => none
  | .drscale _ _ => none
  | .drfix _ _ _ => none
  | .fetchBlock _ _ => none
  | .watchdogExpiry _ _ => none
  | .wfiWake _ _ => none
  | .waitRelease _ _ => none
  | .mbwaitRelease _ _ => none
  | .convoyForm _ _ => none
  | .waitpredRelease _ _ => none
  | .xsendSlot _ _ => none
  | .xsendArrival _ => none
  | .xrecvRelease _ _ => none
  | .exchangeOverrun _ _ => none
  | .vectorWordExecute _ => none
  | .repeatPass _ _ => none
  | .matrixWordExecute _ => none
  | .mwaitRelease _ _ => none
  | .mmsPanel _ => none
  | .pairIntervalEnd _ _ _ => none
  | .admitComplete _ _ => none
  | .preemptionStop _ => none
  | .quantumExpiry _ => none
  | .priorityPreemption _ => none
  | .placeInstance _ => none
  | .memberEnd _ _ => none
  | .instanceFail _ => none
  | .deventRead _ _ _ => none
  | .gsubmitWrite _ _ _ _ => none
  | .dfailWrite _ _ _ _ => none
  | .restartInstance _ _ _ _ => none
  | .failTask _ _ _ _ => none
  | .restartApply _ => none
  | .streamStart _ => none
  | .streamComplete _ _ => none
  | .streamPark _ _ => none
  | .streamFail _ _ => none
  | .awaitRelease _ _ => none
  | .cdrainRelease _ _ => none
  | .mcastReceiverComplete _ _ _ => none
  | .flattenMaterialise _ => none
  | .flattenComplete _ => none
  | .contributionArrive _ _ _ => none
  | .deadlineExpiry _ _ => none
  | .drwaitRelease _ _ => none
  | .drfixRelease _ _ => none
  | .testComplete _ _ _ _ => none
  | .invvaPage _ _ _ => none
  | .invvaRoot _ _ _ => none
  | .invvaAll _ _ _ => none
  | .migrationPoolWrite _ _ _ _ _ => none
  | .keyload _ _ _ _ => none
  | .lineagePoolWrite _ _ _ _ _ => none
  | .overflowRegionWrite _ _ _ _ _ => none
  | .errorLogWrite _ _ _ _ _ => none
  | .serviceRegisterWrite _ _ _ _ _ _ => none
  | .scrubLine _ _ _ => none
  | .laneGroupFail _ _ => none
  | .resendTimeout _ => none
  | .writeUnreachable _ => none
  | .bridgeWriteReceive _ => none
  | .packetReceive _ => none
  | .cxlLinkDown _ => none
  | .cxlReadTimeout _ _ => none
  | .loadImage _ _ _ => none
  | .createTensor _ _ _ => none
  | .writeData _ _ _ _ => none
  | .readData _ _ _ _ => none
  | .submitGraph _ _ => none
  | .openDeliveryRing _ _ _ _ => none
  | .checkpoint _ _ _ => none
  | .restore _ _ _ => none
  | .telemetry _ _ => none
  | .test _ _ => none
  | .powerOn _ => none
  | .ubeloStartTimeout => none
  | .moduleReset _ => none
  | .powerOff => none
  | .powerThrottle => none
  | .thermalThrottle _ => none
  | .thermalShutdown => none
  | .laneGroupRetrained _ _ => none
  | .cxlLinkUp _ => none
  | .ethernetLaneRetrain _ _ => none
  | .writeAcknowledged _ _ => none
  | .throttleEnd => none
  | .mainPowerLoss => none
  | .managementRegisterWrite _ _ => none
  | .jtagAccess _ => none

/-- A well-formed instruction: no field value that R65 refuses. -/
def Instr.wf (i : Instr) : Bool := i.refusal.isNone

end Sys2Proof
end

