-- ==== Sys2Proof/Decode.lean ====
section
/-! DEFINITION. The decoder, total on every word, and the encoder, both from the formats of R57 and the code tables
of R62 to R64. Functions that build an instruction whose constructor stands after the 245th are noncomputable for the
compiler (its limit); Lean's kernel evaluates them. -/

namespace Sys2Proof

/-- The forms of major 0x01 (R63). -/
noncomputable def formOp (w : BitVec 32) : Option Instr :=
  match (fld w 0 6).toNat with
  | 0 => some (.add (fld w 21 5) (fld w 16 5) (fld w 11 5))
  | 1 => some (.sub (fld w 21 5) (fld w 16 5) (fld w 11 5))
  | 2 => some (.and (fld w 21 5) (fld w 16 5) (fld w 11 5))
  | 3 => some (.or (fld w 21 5) (fld w 16 5) (fld w 11 5))
  | 4 => some (.xor (fld w 21 5) (fld w 16 5) (fld w 11 5))
  | 5 => some (.andn (fld w 21 5) (fld w 16 5) (fld w 11 5))
  | 6 => some (.sll (fld w 21 5) (fld w 16 5) (fld w 11 5))
  | 7 => some (.srl (fld w 21 5) (fld w 16 5) (fld w 11 5))
  | 8 => some (.sra (fld w 21 5) (fld w 16 5) (fld w 11 5))
  | 9 => some (.slt (fld w 21 5) (fld w 16 5) (fld w 11 5))
  | 10 => some (.sltn (fld w 21 5) (fld w 16 5) (fld w 11 5))
  | 11 => some (.min (fld w 21 5) (fld w 16 5) (fld w 11 5))
  | 12 => some (.max (fld w 21 5) (fld w 16 5) (fld w 11 5))
  | 13 => some (.minn (fld w 21 5) (fld w 16 5) (fld w 11 5))
  | 14 => some (.maxn (fld w 21 5) (fld w 16 5) (fld w 11 5))
  | 15 => some (.mul (fld w 21 5) (fld w 16 5) (fld w 11 5))
  | 16 => some (.mulh (fld w 21 5) (fld w 16 5) (fld w 11 5))
  | 17 => some (.mulhn (fld w 21 5) (fld w 16 5) (fld w 11 5))
  | 18 => some (.div (fld w 21 5) (fld w 16 5) (fld w 11 5))
  | 19 => some (.divn (fld w 21 5) (fld w 16 5) (fld w 11 5))
  | 20 => some (.rem (fld w 21 5) (fld w 16 5) (fld w 11 5))
  | 21 => some (.remn (fld w 21 5) (fld w 16 5) (fld w 11 5))
  | 22 => some (.clz (fld w 21 5) (fld w 16 5))
  | 23 => some (.ctz (fld w 21 5) (fld w 16 5))
  | 24 => some (.popc (fld w 21 5) (fld w 16 5))
  | 25 => some (.sext (fld w 21 5) (fld w 16 5) (fld w 6 5))
  | 26 => some (.zext (fld w 21 5) (fld w 16 5) (fld w 6 5))
  | 27 => some (.cmov (fld w 21 5) (fld w 16 5) (fld w 11 5) (fld w 6 5))
  | _ => none

/-- The forms of major 0x08 (R63). -/
noncomputable def formShi (w : BitVec 32) : Option Instr :=
  match (fld w 14 2).toNat with
  | 0 => some (.slli (fld w 21 5) (fld w 16 5) (fld w 0 6))
  | 1 => some (.srli (fld w 21 5) (fld w 16 5) (fld w 0 6))
  | 2 => some (.srai (fld w 21 5) (fld w 16 5) (fld w 0 6))
  | _ => none

/-- The forms of major 0x0B (R63). -/
noncomputable def formFop (w : BitVec 32) : Option Instr :=
  match (fld w 0 6).toNat with
  | 0 => some (.fadd (fld w 21 5) (fld w 16 5) (fld w 11 5) (fld w 6 3))
  | 1 => some (.fsub (fld w 21 5) (fld w 16 5) (fld w 11 5) (fld w 6 3))
  | 2 => some (.fmul (fld w 21 5) (fld w 16 5) (fld w 11 5) (fld w 6 3))
  | 3 => some (.fdiv (fld w 21 5) (fld w 16 5) (fld w 11 5) (fld w 6 3))
  | 4 => some (.fsqrt (fld w 21 5) (fld w 16 5) (fld w 6 3))
  | 5 => some (.fmadd (fld w 21 5) (fld w 16 5) (fld w 11 5) (fld w 6 5))
  | 6 => some (.fmin (fld w 21 5) (fld w 16 5) (fld w 11 5))
  | 7 => some (.fmax (fld w 21 5) (fld w 16 5) (fld w 11 5))
  | 8 => some (.feq (fld w 21 5) (fld w 16 5) (fld w 11 5))
  | 9 => some (.flt (fld w 21 5) (fld w 16 5) (fld w 11 5))
  | 10 => some (.fle (fld w 21 5) (fld w 16 5) (fld w 11 5))
  | 11 => some (.fclass (fld w 21 5) (fld w 16 5))
  | 12 => some (.fneg (fld w 21 5) (fld w 16 5))
  | 13 => some (.fabs (fld w 21 5) (fld w 16 5))
  | 14 => some (.ftoi (fld w 21 5) (fld w 16 5) (fld w 6 3))
  | 15 => some (.fton (fld w 21 5) (fld w 16 5) (fld w 6 3))
  | 16 => some (.itof (fld w 21 5) (fld w 16 5) (fld w 6 3))
  | 17 => some (.ntof (fld w 21 5) (fld w 16 5) (fld w 6 3))
  | 18 => some (.ftobf (fld w 21 5) (fld w 16 5) (fld w 6 3))
  | 19 => some (.bftof (fld w 21 5) (fld w 16 5))
  | 20 => some (.ftoh (fld w 21 5) (fld w 16 5) (fld w 6 3))
  | 21 => some (.htof (fld w 21 5) (fld w 16 5))
  | _ => none

/-- The forms of major 0x17 (R63). -/
noncomputable def formOrd (w : BitVec 32) : Option Instr :=
  match (fld w 0 6).toNat with
  | 0 => some (.ldab (fld w 21 5) (fld w 16 5) (fld w 6 2))
  | 1 => some (.ldah (fld w 21 5) (fld w 16 5) (fld w 6 2))
  | 2 => some (.ldaw (fld w 21 5) (fld w 16 5) (fld w 6 2))
  | 3 => some (.ldad (fld w 21 5) (fld w 16 5) (fld w 6 2))
  | 4 => some (.stlb (fld w 16 5) (fld w 11 5) (fld w 6 2))
  | 5 => some (.stlh (fld w 16 5) (fld w 11 5) (fld w 6 2))
  | 6 => some (.stlw (fld w 16 5) (fld w 11 5) (fld w 6 2))
  | 7 => some (.stld (fld w 16 5) (fld w 11 5) (fld w 6 2))
  | 8 => some (.facq (fld w 6 2))
  | 9 => some (.frel (fld w 6 2))
  | 10 => some (.fsc (fld w 6 2))
  | _ => none

/-- The forms of major 0x18 (R63). -/
def formAmo (w : BitVec 32) : Option Instr :=
  match (fld w 0 6).toNat with
  | 0 => some (.amoadd (fld w 21 5) (fld w 16 5) (fld w 11 5) (fld w 10 1) (fld w 8 2) (fld w 6 2))
  | 1 => some (.amoand (fld w 21 5) (fld w 16 5) (fld w 11 5) (fld w 10 1) (fld w 8 2) (fld w 6 2))
  | 2 => some (.amoor (fld w 21 5) (fld w 16 5) (fld w 11 5) (fld w 10 1) (fld w 8 2) (fld w 6 2))
  | 3 => some (.amoxor (fld w 21 5) (fld w 16 5) (fld w 11 5) (fld w 10 1) (fld w 8 2) (fld w 6 2))
  | 4 => some (.amomin (fld w 21 5) (fld w 16 5) (fld w 11 5) (fld w 10 1) (fld w 8 2) (fld w 6 2))
  | 5 => some (.amomax (fld w 21 5) (fld w 16 5) (fld w 11 5) (fld w 10 1) (fld w 8 2) (fld w 6 2))
  | 6 => some (.amominn (fld w 21 5) (fld w 16 5) (fld w 11 5) (fld w 10 1) (fld w 8 2) (fld w 6 2))
  | 7 => some (.amomaxn (fld w 21 5) (fld w 16 5) (fld w 11 5) (fld w 10 1) (fld w 8 2) (fld w 6 2))
  | 8 => some (.amoswap (fld w 21 5) (fld w 16 5) (fld w 11 5) (fld w 10 1) (fld w 8 2) (fld w 6 2))
  | 9 => some (.amocas (fld w 21 5) (fld w 16 5) (fld w 11 5) (fld w 10 1) (fld w 8 2) (fld w 6 2))
  | 10 => some (.amofadd (fld w 21 5) (fld w 16 5) (fld w 11 5) (fld w 8 2) (fld w 6 2))
  | 11 => some (.amobfadd (fld w 21 5) (fld w 16 5) (fld w 11 5) (fld w 8 2) (fld w 6 2))
  | _ => none

/-- The forms of major 0x21 (R63). -/
noncomputable def formSys (w : BitVec 32) : Option Instr :=
  match (fld w 0 6).toNat with
  | 0 => some (.svc (fld w 6 5))
  | 1 => some (.brk (fld w 6 5))
  | 2 => some .eret
  | 3 => some .wfi
  | 4 => some .yield
  | 5 => some .taskend
  | 6 => some .signal
  | 7 => some .waitpred
  | 8 => some (if fld w 8 8 = 4#8 then (.convoyS (fld w 21 5) (fld w 6 2)) else (.convoy (fld w 21 5) (fld w 6 2)))
  | 9 => some (.disband (fld w 21 5))
  | 10 => some (.pair (fld w 21 5))
  | 11 => some (.unpair (fld w 21 5))
  | 12 => some (.admitPage (fld w 21 5) (fld w 16 5))
  | 13 => some (.replay (fld w 21 5) (fld w 16 5))
  | 14 => some (.testc (fld w 21 5) (fld w 16 5))
  | _ => none

/-- The forms of major 0x24 (R63). -/
noncomputable def formSync (w : BitVec 32) : Option Instr :=
  match (fld w 0 6).toNat with
  | 0 => some (.arrive (fld w 21 5))
  | 1 => some (.wait (fld w 16 5))
  | 2 => some (.barset (fld w 21 5) (fld w 16 5) (fld w 11 5))
  | 3 => some (.barq (fld w 21 5) (fld w 16 5) (fld w 6 5))
  | 4 => some (.mbwait (fld w 21 5) (fld w 16 5) (fld w 11 5))
  | 5 => some (.mbsub (fld w 21 5) (fld w 16 5) (fld w 11 5))
  | 6 => some (.mbread (fld w 21 5) (fld w 11 5))
  | 7 => some (.xphase (fld w 21 5))
  | 8 => some (.cphase (fld w 21 5))
  | 9 => some (.xsend (fld w 21 5) (fld w 16 5) (fld w 11 5) (fld w 6 5))
  | 10 => some (.xrecv (fld w 21 5) (fld w 16 5))
  | _ => none

/-- The forms of major 0x28 (R63). -/
def formVarith (w : BitVec 32) : Option Instr :=
  match (fld w 0 5).toNat with
  | 0 => some (.vadd (fld w 21 5) (fld w 16 5) (fld w 11 5) (fld w 8 3) (fld w 5 3))
  | 1 => some (.vsub (fld w 21 5) (fld w 16 5) (fld w 11 5) (fld w 8 3) (fld w 5 3))
  | 2 => some (.vmul (fld w 21 5) (fld w 16 5) (fld w 11 5) (fld w 8 3) (fld w 5 3))
  | 3 => some (.vfma (fld w 21 5) (fld w 16 5) (fld w 11 5) (fld w 8 3) (fld w 5 3))
  | 4 => some (.vfms (fld w 21 5) (fld w 16 5) (fld w 11 5) (fld w 8 3) (fld w 5 3))
  | 5 => some (.vmin (fld w 21 5) (fld w 16 5) (fld w 11 5) (fld w 8 3) (fld w 5 3))
  | 6 => some (.vmax (fld w 21 5) (fld w 16 5) (fld w 11 5) (fld w 8 3) (fld w 5 3))
  | 7 => some (.vabs (fld w 21 5) (fld w 16 5) (fld w 8 3) (fld w 5 3))
  | 8 => some (.vneg (fld w 21 5) (fld w 16 5) (fld w 8 3) (fld w 5 3))
  | 9 => some (.vdiv (fld w 21 5) (fld w 16 5) (fld w 11 5) (fld w 8 3) (fld w 5 3))
  | 10 => some (.vsqrt (fld w 21 5) (fld w 16 5) (fld w 8 3) (fld w 5 3))
  | 11 => some (.vrcp (fld w 21 5) (fld w 16 5) (fld w 8 3) (fld w 5 3))
  | 12 => some (.vrsqrt (fld w 21 5) (fld w 16 5) (fld w 8 3) (fld w 5 3))
  | 13 => some (.vadds (fld w 21 5) (fld w 16 5) (fld w 11 5) (fld w 8 3) (fld w 5 3))
  | 14 => some (.vsubs (fld w 21 5) (fld w 16 5) (fld w 11 5) (fld w 8 3) (fld w 5 3))
  | 15 => some (.vmulh (fld w 21 5) (fld w 16 5) (fld w 11 5) (fld w 8 3) (fld w 5 3))
  | _ => none

/-- The forms of major 0x29 (R63). -/
def formVlogic (w : BitVec 32) : Option Instr :=
  match (fld w 0 5).toNat with
  | 0 => some (.vand (fld w 21 5) (fld w 16 5) (fld w 11 5) (fld w 8 3) (fld w 5 3))
  | 1 => some (.vor (fld w 21 5) (fld w 16 5) (fld w 11 5) (fld w 8 3) (fld w 5 3))
  | 2 => some (.vxor (fld w 21 5) (fld w 16 5) (fld w 11 5) (fld w 8 3) (fld w 5 3))
  | 3 => some (.vandn (fld w 21 5) (fld w 16 5) (fld w 11 5) (fld w 8 3) (fld w 5 3))
  | 4 => some (.vnot (fld w 21 5) (fld w 16 5) (fld w 8 3) (fld w 5 3))
  | 5 => some (.vshl (fld w 21 5) (fld w 16 5) (fld w 11 5) (fld w 8 3) (fld w 5 3))
  | 6 => some (.vshr (fld w 21 5) (fld w 16 5) (fld w 11 5) (fld w 8 3) (fld w 5 3))
  | 7 => some (.vsra (fld w 21 5) (fld w 16 5) (fld w 11 5) (fld w 8 3) (fld w 5 3))
  | 8 => some (.vcmpeq (fld w 21 5) (fld w 16 5) (fld w 11 5) (fld w 8 3) (fld w 5 3))
  | 9 => some (.vcmpne (fld w 21 5) (fld w 16 5) (fld w 11 5) (fld w 8 3) (fld w 5 3))
  | 10 => some (.vcmplt (fld w 21 5) (fld w 16 5) (fld w 11 5) (fld w 8 3) (fld w 5 3))
  | 11 => some (.vcmple (fld w 21 5) (fld w 16 5) (fld w 11 5) (fld w 8 3) (fld w 5 3))
  | 12 => some (.vcmpltn (fld w 21 5) (fld w 16 5) (fld w 11 5) (fld w 8 3) (fld w 5 3))
  | 13 => some (.vsel (fld w 21 5) (fld w 16 5) (fld w 11 5) (fld w 8 3) (fld w 5 3))
  | 14 => some (.pand (fld w 21 5) (fld w 16 5) (fld w 11 5))
  | 15 => some (.por (fld w 21 5) (fld w 16 5) (fld w 11 5))
  | 16 => some (.pxor (fld w 21 5) (fld w 16 5) (fld w 11 5))
  | 17 => some (.pnot (fld w 21 5) (fld w 16 5))
  | 18 => some (.pcnt (fld w 21 5) (fld w 16 5) (fld w 5 3))
  | 19 => some (.pfirst (fld w 21 5) (fld w 16 5) (fld w 5 3))
  | 20 => some (.pset (fld w 21 5) (fld w 16 5) (fld w 5 3))
  | _ => none

/-- The forms of major 0x2A (R63). -/
def formVperm (w : BitVec 32) : Option Instr :=
  match (fld w 0 5).toNat with
  | 0 => some (.vpermb (fld w 21 5) (fld w 16 5) (fld w 11 5) (fld w 8 3))
  | 1 => some (.vperm (fld w 21 5) (fld w 16 5) (fld w 11 5) (fld w 8 3) (fld w 5 3))
  | 2 => some (.vslideup (fld w 21 5) (fld w 16 5) (fld w 11 5) (fld w 8 3) (fld w 5 3))
  | 3 => some (.vslidedn (fld w 21 5) (fld w 16 5) (fld w 11 5) (fld w 8 3) (fld w 5 3))
  | 4 => some (.vbcast (fld w 21 5) (fld w 16 5) (fld w 8 3) (fld w 5 3))
  | 5 => some (.vextr (fld w 21 5) (fld w 16 5) (fld w 11 5) (fld w 5 3))
  | 6 => some (.vins (fld w 21 5) (fld w 16 5) (fld w 11 5) (fld w 5 3))
  | 7 => some (.viota (fld w 21 5) (fld w 8 3) (fld w 5 3))
  | 8 => some (.vzipl (fld w 21 5) (fld w 16 5) (fld w 11 5) (fld w 8 3) (fld w 5 3))
  | 9 => some (.vziph (fld w 21 5) (fld w 16 5) (fld w 11 5) (fld w 8 3) (fld w 5 3))
  | 10 => some (.vmov (fld w 21 5) (fld w 16 5) (fld w 8 3) (fld w 5 3))
  | _ => none

/-- The forms of major 0x2B (R63). -/
def formVconv (w : BitVec 32) : Option Instr :=
  match (fld w 0 5).toNat with
  | 0 => some (.vcvt (fld w 21 5) (fld w 16 5) (fld w 11 5) (fld w 8 3) (fld w 5 3))
  | 1 => some (.vcvts (fld w 21 5) (fld w 16 5) (fld w 11 5) (fld w 8 3) (fld w 5 3))
  | 2 => some (.vquant (fld w 21 5) (fld w 16 5) (fld w 11 5) (fld w 8 3) (fld w 5 3))
  | 3 => some (.vdequant (fld w 21 5) (fld w 16 5) (fld w 11 5) (fld w 8 3) (fld w 5 3))
  | 4 => some (.vcbdec (fld w 21 5) (fld w 16 5) (fld w 11 5) (fld w 8 3) (fld w 5 3))
  | 5 => some (.vcbload (fld w 16 5))
  | _ => none

/-- The forms of major 0x2C (R63). -/
def formVred (w : BitVec 32) : Option Instr :=
  match (fld w 0 5).toNat with
  | 0 => some (.vredsum (fld w 21 5) (fld w 16 5) (fld w 8 3) (fld w 5 3))
  | 1 => some (.vredmax (fld w 21 5) (fld w 16 5) (fld w 8 3) (fld w 5 3))
  | 2 => some (.vredmin (fld w 21 5) (fld w 16 5) (fld w 8 3) (fld w 5 3))
  | 3 => some (.vredamax (fld w 21 5) (fld w 16 5) (fld w 8 3) (fld w 5 3))
  | 4 => some (.vredamin (fld w 21 5) (fld w 16 5) (fld w 8 3) (fld w 5 3))
  | 5 => some (.vscan (fld w 21 5) (fld w 16 5) (fld w 8 3) (fld w 5 3))
  | _ => none

/-- The forms of major 0x2D (R63). -/
def formVsfn (w : BitVec 32) : Option Instr :=
  match (fld w 0 5).toNat with
  | 0 => some (.vtolog (fld w 21 5) (fld w 16 5) (fld w 8 3))
  | 1 => some (.vfromlog (fld w 21 5) (fld w 16 5) (fld w 8 3))
  | 2 => some (.vexp (fld w 21 5) (fld w 16 5) (fld w 8 3) (fld w 5 3))
  | 3 => some (.vlog (fld w 21 5) (fld w 16 5) (fld w 8 3) (fld w 5 3))
  | 4 => some (.vtanh (fld w 21 5) (fld w 16 5) (fld w 8 3) (fld w 5 3))
  | 5 => some (.vsigm (fld w 21 5) (fld w 16 5) (fld w 8 3) (fld w 5 3))
  | 6 => some (.vsilu (fld w 21 5) (fld w 16 5) (fld w 8 3) (fld w 5 3))
  | 7 => some (.vgelu (fld w 21 5) (fld w 16 5) (fld w 8 3) (fld w 5 3))
  | 8 => some (.vrand (fld w 21 5) (fld w 8 3) (fld w 5 3))
  | _ => none

/-- The forms of major 0x2E (R63). -/
def formVimm (w : BitVec 32) : Option Instr :=
  match (fld w 18 3).toNat with
  | 0 => some (.vmovi (fld w 21 5) (fld w 16 2) (fld w 0 16))
  | 1 => some (.vaddi (fld w 21 5) (fld w 16 2) (fld w 0 16))
  | 2 => some (.vmuli (fld w 21 5) (fld w 16 2) (fld w 0 16))
  | 3 => some (.vmini (fld w 21 5) (fld w 16 2) (fld w 0 16))
  | 4 => some (.vmaxi (fld w 21 5) (fld w 16 2) (fld w 0 16))
  | 5 => some (.vrsubi (fld w 21 5) (fld w 16 2) (fld w 0 16))
  | 6 => some (.vandi (fld w 21 5) (fld w 16 2) (fld w 0 16))
  | 7 => some (.vori (fld w 21 5) (fld w 16 2) (fld w 0 16))
  | _ => none

/-- The forms of major 0x2F (R63). -/
def formVmem (w : BitVec 32) : Option Instr :=
  match (fld w 0 5).toNat with
  | 0 => some (.vld (fld w 21 5) (fld w 16 5) (fld w 8 3) (fld w 5 3))
  | 1 => some (.vst (fld w 21 5) (fld w 16 5) (fld w 8 3) (fld w 5 3))
  | 2 => some (.vlds (fld w 21 5) (fld w 16 5) (fld w 11 5) (fld w 8 3) (fld w 5 3))
  | 3 => some (.vsts (fld w 21 5) (fld w 16 5) (fld w 11 5) (fld w 8 3) (fld w 5 3))
  | 4 => some (.vldx (fld w 21 5) (fld w 16 5) (fld w 11 5) (fld w 8 3) (fld w 5 3))
  | 5 => some (.vstx (fld w 21 5) (fld w 16 5) (fld w 11 5) (fld w 8 3) (fld w 5 3))
  | 6 => some (.vldrow (fld w 21 5) (fld w 16 5) (fld w 11 5) (fld w 8 3) (fld w 5 3))
  | 7 => some (.vldcol (fld w 21 5) (fld w 16 5) (fld w 11 5) (fld w 8 3) (fld w 5 3))
  | 8 => some (.vstrow (fld w 21 5) (fld w 16 5) (fld w 11 5) (fld w 8 3) (fld w 5 3))
  | 9 => some (.vstcol (fld w 21 5) (fld w 16 5) (fld w 11 5) (fld w 8 3) (fld w 5 3))
  | 10 => some (.vscatadd (fld w 21 5) (fld w 16 5) (fld w 11 5) (fld w 8 3) (fld w 5 3))
  | 11 => some (.vldb (fld w 21 5) (fld w 16 5) (fld w 8 3) (fld w 5 3))
  | _ => none

/-- The forms of major 0x33 (R63). -/
def formMctl (w : BitVec 32) : Option Instr :=
  match (fld w 0 6).toNat with
  | 0 => some (.mshape (fld w 21 5) (fld w 16 5))
  | 1 => some (.mzero (fld w 21 5))
  | 2 => some (.mload (fld w 21 5) (fld w 16 5) (fld w 11 5))
  | 3 => some (.mstore (fld w 21 5) (fld w 16 5) (fld w 11 5) (fld w 6 5))
  | 4 => some (.mslice (fld w 21 5) (fld w 16 5))
  | 5 => some (.mwait (fld w 21 5) (fld w 16 5))
  | 6 => some (.mquant (fld w 21 5) (fld w 16 5) (fld w 11 5))
  | 7 => some (.midx (fld w 16 5))
  | _ => none

/-- The forms of major 0x34 (R63). -/
noncomputable def formCopy (w : BitVec 32) : Option Instr :=
  match (fld w 0 6).toNat with
  | 0 => some (.copy (fld w 21 5) (fld w 16 5))
  | 1 => some (.copyt (fld w 21 5) (fld w 16 5))
  | 2 => some (.ringinit (fld w 21 5) (fld w 16 5) (fld w 6 5))
  | 3 => some (.await (fld w 21 5) (fld w 6 5))
  | 4 => some (.relslot (fld w 6 5))
  | 5 => some (.ringq (fld w 21 5) (fld w 11 5) (fld w 6 5))
  | 6 => some (.bfree (fld w 16 5))
  | 7 => some (.cdrain (fld w 21 5))
  | _ => none

/-- The forms of major 0x35 (R63). -/
noncomputable def formBits (w : BitVec 32) : Option Instr :=
  match (fld w 0 6).toNat with
  | 0 => some (.bbinit (fld w 21 5) (fld w 16 5) (fld w 11 5) (fld w 6 5))
  | 1 => some (.bbget (fld w 21 5) (fld w 11 5) (fld w 6 5))
  | 2 => some (.bbpeek (fld w 21 5) (fld w 11 5) (fld w 6 5))
  | 3 => some (.bbskip (fld w 21 5) (fld w 11 5) (fld w 6 5))
  | 4 => some (.bblz (fld w 21 5))
  | 5 => some (.bbapp (fld w 21 5) (fld w 16 5) (fld w 11 5) (fld w 6 5))
  | 6 => some (.bbflush (fld w 21 5))
  | 7 => some (.bbpos (fld w 21 5))
  | _ => none

/-- The forms of major 0x36 (R63). -/
noncomputable def formLin (w : BitVec 32) : Option Instr :=
  match (fld w 0 6).toNat with
  | 0 => some (.tnew (fld w 21 5) (fld w 16 5) (fld w 11 5) (fld w 6 5))
  | 1 => some (.fork (fld w 21 5) (fld w 16 5))
  | 2 => some (.rebase (fld w 21 5) (fld w 16 5) (fld w 11 5))
  | 3 => some (.flatten (fld w 21 5) (fld w 16 5))
  | 4 => some (.tdel (fld w 21 5) (fld w 16 5))
  | 5 => some (.tinfo (fld w 21 5) (fld w 16 5) (fld w 6 5))
  | 6 => some (.tmap (fld w 21 5) (fld w 16 5) (fld w 11 5))
  | 7 => some (.tunmap (fld w 21 5) (fld w 16 5))
  | 8 => some (.tadd (fld w 21 5) (fld w 16 5) (fld w 11 5) (fld w 6 5))
  | 9 => some (.tseal (fld w 21 5) (fld w 16 5) (fld w 11 5))
  | 10 => some (.twait (fld w 21 5) (fld w 16 5))
  | _ => none

/-- The forms of major 0x37 (R63). -/
noncomputable def formEqv (w : BitVec 32) : Option Instr :=
  match (fld w 0 6).toNat with
  | 0 => some (.eqnew (fld w 21 5) (fld w 16 5))
  | 1 => some (.eqfree (fld w 21 5) (fld w 16 5))
  | 2 => some (.unite (fld w 21 5) (fld w 16 5) (fld w 11 5) (fld w 6 5))
  | 3 => some (.find (fld w 21 5) (fld w 16 5) (fld w 11 5))
  | 4 => some (.eqsize (fld w 21 5) (fld w 16 5) (fld w 11 5))
  | 5 => some (.eqstat (fld w 21 5) (fld w 16 5) (fld w 6 5))
  | 6 => some (.milestone (fld w 21 5) (fld w 16 5))
  | 7 => some (if fld w 6 5 = 1#5 then (.undoKeep (fld w 21 5) (fld w 16 5) (fld w 11 5)) else (.undo (fld w 21 5) (fld w 16 5) (fld w 11 5)))
  | 8 => some (.relabel (fld w 21 5) (fld w 16 5) (fld w 11 5))
  | 9 => some (.vunite (fld w 21 5) (fld w 16 5) (fld w 11 5) (fld w 6 5))
  | 10 => some (.vfind (fld w 21 5) (fld w 16 5) (fld w 11 5))
  | _ => none

/-- The forms of major 0x38 (R63). -/
noncomputable def formDred (w : BitVec 32) : Option Instr :=
  match (fld w 0 6).toNat with
  | 0 => some (.drinit (fld w 21 5) (fld w 16 5))
  | 1 => some (.drsend (fld w 21 5) (fld w 16 5) (fld w 11 5) (fld w 6 5))
  | 2 => some (.drwait (fld w 21 5) (fld w 16 5))
  | 3 => some (.drscale (fld w 21 5) (fld w 16 5))
  | 4 => some (.drfix (fld w 21 5) (fld w 16 5) (fld w 11 5))
  | 5 => some (.drstat (fld w 21 5) (fld w 16 5) (fld w 11 5) (fld w 6 5))
  | _ => none

/-- The form of a word, read by its major and its function code (R62, R63). -/
noncomputable def formOf (w : BitVec 32) : Option Instr :=
  match (fld w 26 6).toNat with
  | 0x01 => formOp w
  | 0x02 => some (.addi (fld w 21 5) (fld w 16 5) (fld w 0 16))
  | 0x03 => some (.andi (fld w 21 5) (fld w 16 5) (fld w 0 16))
  | 0x04 => some (.ori (fld w 21 5) (fld w 16 5) (fld w 0 16))
  | 0x05 => some (.xori (fld w 21 5) (fld w 16 5) (fld w 0 16))
  | 0x06 => some (.slti (fld w 21 5) (fld w 16 5) (fld w 0 16))
  | 0x07 => some (.sltin (fld w 21 5) (fld w 16 5) (fld w 0 16))
  | 0x08 => formShi w
  | 0x09 => some (.lui (fld w 21 5) (fld w 0 16))
  | 0x0A => some (.addpc (fld w 21 5) (fld w 0 16))
  | 0x0B => formFop w
  | 0x0C => some (.lb (fld w 21 5) (fld w 16 5) (fld w 0 16))
  | 0x0D => some (.lbn (fld w 21 5) (fld w 16 5) (fld w 0 16))
  | 0x0E => some (.lh (fld w 21 5) (fld w 16 5) (fld w 0 16))
  | 0x0F => some (.lhn (fld w 21 5) (fld w 16 5) (fld w 0 16))
  | 0x10 => some (.lw (fld w 21 5) (fld w 16 5) (fld w 0 16))
  | 0x11 => some (.lwn (fld w 21 5) (fld w 16 5) (fld w 0 16))
  | 0x12 => some (.ld (fld w 21 5) (fld w 16 5) (fld w 0 16))
  | 0x13 => some (.sb (fld w 21 5) (fld w 16 5) (fld w 0 16))
  | 0x14 => some (.sh (fld w 21 5) (fld w 16 5) (fld w 0 16))
  | 0x15 => some (.sw (fld w 21 5) (fld w 16 5) (fld w 0 16))
  | 0x16 => some (.sd (fld w 21 5) (fld w 16 5) (fld w 0 16))
  | 0x17 => formOrd w
  | 0x18 => formAmo w
  | 0x19 => some (.beq (fld w 21 5) (fld w 16 5) (fld w 0 16))
  | 0x1A => some (.bne (fld w 21 5) (fld w 16 5) (fld w 0 16))
  | 0x1B => some (.blt (fld w 21 5) (fld w 16 5) (fld w 0 16))
  | 0x1C => some (.bge (fld w 21 5) (fld w 16 5) (fld w 0 16))
  | 0x1D => some (.bltn (fld w 21 5) (fld w 16 5) (fld w 0 16))
  | 0x1E => some (.bgen (fld w 21 5) (fld w 16 5) (fld w 0 16))
  | 0x1F => some (.jal (fld w 0 26))
  | 0x20 => some (.jalr (fld w 21 5) (fld w 16 5) (fld w 0 16))
  | 0x21 => formSys w
  | 0x22 => some (.sysr (fld w 21 5) (fld w 0 12))
  | 0x23 => some (.sysw (fld w 16 5) (fld w 0 12))
  | 0x24 => formSync w
  | 0x25 => some (.loop (fld w 21 5) (fld w 0 16))
  | 0x26 => some (.crit (fld w 0 4))
  | 0x27 => some (.repeat (fld w 16 5) (fld w 12 4) (fld w 8 4) (fld w 4 4) (fld w 0 4))
  | 0x28 => formVarith w
  | 0x29 => formVlogic w
  | 0x2A => formVperm w
  | 0x2B => formVconv w
  | 0x2C => formVred w
  | 0x2D => formVsfn w
  | 0x2E => formVimm w
  | 0x2F => formVmem w
  | 0x30 => some (.mma (fld w 25 1) (fld w 24 1) (fld w 23 1) (fld w 21 2) (fld w 16 5) (fld w 11 5) (fld w 6 5) (fld w 0 6))
  | 0x31 => some (.mmd (fld w 25 1) (fld w 24 1) (fld w 23 1) (fld w 22 1) (fld w 16 5) (fld w 11 5) (fld w 6 5) (fld w 0 6))
  | 0x32 => some (.mms (fld w 25 1) (fld w 24 1) (fld w 21 2) (fld w 16 5) (fld w 11 5) (fld w 6 5) (fld w 0 6))
  | 0x33 => formMctl w
  | 0x34 => formCopy w
  | 0x35 => formBits w
  | 0x36 => formLin w
  | 0x37 => formEqv w
  | 0x38 => formDred w
  | _ => none

/-- The instruction of a word, or the reason for which the word is not an instruction (R65). -/
noncomputable def decode (w : BitVec 32) : Except Reject Instr :=
  match wordRefusal w with
  | some r => .error r
  | none =>
    match formOf w with
    | some i => .ok i
    | none => .error .functionCode

/-- The vector or matrix instruction of a word of majors 0x28 to 0x33, which REPEAT captures (R66). -/
def decodeCaptured (w : BitVec 32) : Option Instr :=
  match wordRefusal w with
  | some _ => none
  | none =>
    match (fld w 26 6).toNat with
    | 0x28 => formVarith w
    | 0x29 => formVlogic w
    | 0x2A => formVperm w
    | 0x2B => formVconv w
    | 0x2C => formVred w
    | 0x2D => formVsfn w
    | 0x2E => formVimm w
    | 0x2F => formVmem w
    | 0x30 => some (.mma (fld w 25 1) (fld w 24 1) (fld w 23 1) (fld w 21 2) (fld w 16 5) (fld w 11 5) (fld w 6 5) (fld w 0 6))
    | 0x31 => some (.mmd (fld w 25 1) (fld w 24 1) (fld w 23 1) (fld w 22 1) (fld w 16 5) (fld w 11 5) (fld w 6 5) (fld w 0 6))
    | 0x32 => some (.mms (fld w 25 1) (fld w 24 1) (fld w 21 2) (fld w 16 5) (fld w 11 5) (fld w 6 5) (fld w 0 6))
    | 0x33 => formMctl w
    | _ => none

/-- The word of an instruction: its fields in the order of its strip, high bits first (R57). An event has none. -/
def encode : Instr → BitVec 32
  | .add d a b => 1#6 ++ d ++ a ++ b ++ 0#5 ++ 0#6
  | .sub d a b => 1#6 ++ d ++ a ++ b ++ 0#5 ++ 1#6
  | .and d a b => 1#6 ++ d ++ a ++ b ++ 0#5 ++ 2#6
  | .or d a b => 1#6 ++ d ++ a ++ b ++ 0#5 ++ 3#6
  | .xor d a b => 1#6 ++ d ++ a ++ b ++ 0#5 ++ 4#6
  | .andn d a b => 1#6 ++ d ++ a ++ b ++ 0#5 ++ 5#6
  | .sll d a b => 1#6 ++ d ++ a ++ b ++ 0#5 ++ 6#6
  | .srl d a b => 1#6 ++ d ++ a ++ b ++ 0#5 ++ 7#6
  | .sra d a b => 1#6 ++ d ++ a ++ b ++ 0#5 ++ 8#6
  | .slt d a b => 1#6 ++ d ++ a ++ b ++ 0#5 ++ 9#6
  | .sltn d a b => 1#6 ++ d ++ a ++ b ++ 0#5 ++ 10#6
  | .min d a b => 1#6 ++ d ++ a ++ b ++ 0#5 ++ 11#6
  | .max d a b => 1#6 ++ d ++ a ++ b ++ 0#5 ++ 12#6
  | .minn d a b => 1#6 ++ d ++ a ++ b ++ 0#5 ++ 13#6
  | .maxn d a b => 1#6 ++ d ++ a ++ b ++ 0#5 ++ 14#6
  | .mul d a b => 1#6 ++ d ++ a ++ b ++ 0#5 ++ 15#6
  | .mulh d a b => 1#6 ++ d ++ a ++ b ++ 0#5 ++ 16#6
  | .mulhn d a b => 1#6 ++ d ++ a ++ b ++ 0#5 ++ 17#6
  | .div d a b => 1#6 ++ d ++ a ++ b ++ 0#5 ++ 18#6
  | .divn d a b => 1#6 ++ d ++ a ++ b ++ 0#5 ++ 19#6
  | .rem d a b => 1#6 ++ d ++ a ++ b ++ 0#5 ++ 20#6
  | .remn d a b => 1#6 ++ d ++ a ++ b ++ 0#5 ++ 21#6
  | .clz d a => 1#6 ++ d ++ a ++ 0#10 ++ 22#6
  | .ctz d a => 1#6 ++ d ++ a ++ 0#10 ++ 23#6
  | .popc d a => 1#6 ++ d ++ a ++ 0#10 ++ 24#6
  | .sext d a w => 1#6 ++ d ++ a ++ 0#5 ++ w ++ 25#6
  | .zext d a w => 1#6 ++ d ++ a ++ 0#5 ++ w ++ 26#6
  | .cmov d a b c => 1#6 ++ d ++ a ++ b ++ c ++ 27#6
  | .addi d a i => 2#6 ++ d ++ a ++ i
  | .andi d a i => 3#6 ++ d ++ a ++ i
  | .ori d a i => 4#6 ++ d ++ a ++ i
  | .xori d a i => 5#6 ++ d ++ a ++ i
  | .slti d a i => 6#6 ++ d ++ a ++ i
  | .sltin d a i => 7#6 ++ d ++ a ++ i
  | .slli d a s => 8#6 ++ d ++ a ++ 0#2 ++ 0#8 ++ s
  | .srli d a s => 8#6 ++ d ++ a ++ 1#2 ++ 0#8 ++ s
  | .srai d a s => 8#6 ++ d ++ a ++ 2#2 ++ 0#8 ++ s
  | .lui d i => 9#6 ++ d ++ 0#5 ++ i
  | .addpc d i => 10#6 ++ d ++ 0#5 ++ i
  | .fadd d a b r => 11#6 ++ d ++ a ++ b ++ 0#2 ++ r ++ 0#6
  | .fsub d a b r => 11#6 ++ d ++ a ++ b ++ 0#2 ++ r ++ 1#6
  | .fmul d a b r => 11#6 ++ d ++ a ++ b ++ 0#2 ++ r ++ 2#6
  | .fdiv d a b r => 11#6 ++ d ++ a ++ b ++ 0#2 ++ r ++ 3#6
  | .fsqrt d a r => 11#6 ++ d ++ a ++ 0#7 ++ r ++ 4#6
  | .fmadd d a b c => 11#6 ++ d ++ a ++ b ++ c ++ 5#6
  | .fmin d a b => 11#6 ++ d ++ a ++ b ++ 0#5 ++ 6#6
  | .fmax d a b => 11#6 ++ d ++ a ++ b ++ 0#5 ++ 7#6
  | .feq d a b => 11#6 ++ d ++ a ++ b ++ 0#5 ++ 8#6
  | .flt d a b => 11#6 ++ d ++ a ++ b ++ 0#5 ++ 9#6
  | .fle d a b => 11#6 ++ d ++ a ++ b ++ 0#5 ++ 10#6
  | .fclass d a => 11#6 ++ d ++ a ++ 0#10 ++ 11#6
  | .fneg d a => 11#6 ++ d ++ a ++ 0#10 ++ 12#6
  | .fabs d a => 11#6 ++ d ++ a ++ 0#10 ++ 13#6
  | .ftoi d a r => 11#6 ++ d ++ a ++ 0#7 ++ r ++ 14#6
  | .fton d a r => 11#6 ++ d ++ a ++ 0#7 ++ r ++ 15#6
  | .itof d a r => 11#6 ++ d ++ a ++ 0#7 ++ r ++ 16#6
  | .ntof d a r => 11#6 ++ d ++ a ++ 0#7 ++ r ++ 17#6
  | .ftobf d a r => 11#6 ++ d ++ a ++ 0#7 ++ r ++ 18#6
  | .bftof d a => 11#6 ++ d ++ a ++ 0#10 ++ 19#6
  | .ftoh d a r => 11#6 ++ d ++ a ++ 0#7 ++ r ++ 20#6
  | .htof d a => 11#6 ++ d ++ a ++ 0#10 ++ 21#6
  | .lb d a i => 12#6 ++ d ++ a ++ i
  | .lbn d a i => 13#6 ++ d ++ a ++ i
  | .lh d a i => 14#6 ++ d ++ a ++ i
  | .lhn d a i => 15#6 ++ d ++ a ++ i
  | .lw d a i => 16#6 ++ d ++ a ++ i
  | .lwn d a i => 17#6 ++ d ++ a ++ i
  | .ld d a i => 18#6 ++ d ++ a ++ i
  | .sb b a i => 19#6 ++ b ++ a ++ i
  | .sh b a i => 20#6 ++ b ++ a ++ i
  | .sw b a i => 21#6 ++ b ++ a ++ i
  | .sd b a i => 22#6 ++ b ++ a ++ i
  | .ldab d a s => 23#6 ++ d ++ a ++ 0#8 ++ s ++ 0#6
  | .ldah d a s => 23#6 ++ d ++ a ++ 0#8 ++ s ++ 1#6
  | .ldaw d a s => 23#6 ++ d ++ a ++ 0#8 ++ s ++ 2#6
  | .ldad d a s => 23#6 ++ d ++ a ++ 0#8 ++ s ++ 3#6
  | .stlb a b s => 23#6 ++ 0#5 ++ a ++ b ++ 0#3 ++ s ++ 4#6
  | .stlh a b s => 23#6 ++ 0#5 ++ a ++ b ++ 0#3 ++ s ++ 5#6
  | .stlw a b s => 23#6 ++ 0#5 ++ a ++ b ++ 0#3 ++ s ++ 6#6
  | .stld a b s => 23#6 ++ 0#5 ++ a ++ b ++ 0#3 ++ s ++ 7#6
  | .facq s => 23#6 ++ 0#5 ++ 0#5 ++ 0#8 ++ s ++ 8#6
  | .frel s => 23#6 ++ 0#5 ++ 0#5 ++ 0#8 ++ s ++ 9#6
  | .fsc s => 23#6 ++ 0#5 ++ 0#5 ++ 0#8 ++ s ++ 10#6
  | .amoadd d a b z o s => 24#6 ++ d ++ a ++ b ++ z ++ o ++ s ++ 0#6
  | .amoand d a b z o s => 24#6 ++ d ++ a ++ b ++ z ++ o ++ s ++ 1#6
  | .amoor d a b z o s => 24#6 ++ d ++ a ++ b ++ z ++ o ++ s ++ 2#6
  | .amoxor d a b z o s => 24#6 ++ d ++ a ++ b ++ z ++ o ++ s ++ 3#6
  | .amomin d a b z o s => 24#6 ++ d ++ a ++ b ++ z ++ o ++ s ++ 4#6
  | .amomax d a b z o s => 24#6 ++ d ++ a ++ b ++ z ++ o ++ s ++ 5#6
  | .amominn d a b z o s => 24#6 ++ d ++ a ++ b ++ z ++ o ++ s ++ 6#6
  | .amomaxn d a b z o s => 24#6 ++ d ++ a ++ b ++ z ++ o ++ s ++ 7#6
  | .amoswap d a b z o s => 24#6 ++ d ++ a ++ b ++ z ++ o ++ s ++ 8#6
  | .amocas d a b z o s => 24#6 ++ d ++ a ++ b ++ z ++ o ++ s ++ 9#6
  | .amofadd d a b o s => 24#6 ++ d ++ a ++ b ++ 0#1 ++ o ++ s ++ 10#6
  | .amobfadd d a b o s => 24#6 ++ d ++ a ++ b ++ 0#1 ++ o ++ s ++ 11#6
  | .beq a b o => 25#6 ++ a ++ b ++ o
  | .bne a b o => 26#6 ++ a ++ b ++ o
  | .blt a b o => 27#6 ++ a ++ b ++ o
  | .bge a b o => 28#6 ++ a ++ b ++ o
  | .bltn a b o => 29#6 ++ a ++ b ++ o
  | .bgen a b o => 30#6 ++ a ++ b ++ o
  | .jal o => 31#6 ++ o
  | .jalr d a i => 32#6 ++ d ++ a ++ i
  | .svc c => 33#6 ++ 0#5 ++ 0#5 ++ 0#5 ++ c ++ 0#6
  | .brk c => 33#6 ++ 0#5 ++ 0#5 ++ 0#5 ++ c ++ 1#6
  | .eret => 33#6 ++ 0#5 ++ 0#5 ++ 0#10 ++ 2#6
  | .wfi => 33#6 ++ 0#5 ++ 0#5 ++ 0#10 ++ 3#6
  | .yield => 33#6 ++ 0#5 ++ 0#5 ++ 0#10 ++ 4#6
  | .taskend => 33#6 ++ 0#5 ++ 0#5 ++ 0#10 ++ 5#6
  | .signal => 33#6 ++ 0#5 ++ 0#5 ++ 0#10 ++ 6#6
  | .waitpred => 33#6 ++ 0#5 ++ 0#5 ++ 0#10 ++ 7#6
  | .convoy d n => 33#6 ++ d ++ 0#5 ++ 0#8 ++ n ++ 8#6
  | .convoyS d n => 33#6 ++ d ++ 0#5 ++ 4#8 ++ n ++ 8#6
  | .disband d => 33#6 ++ d ++ 0#5 ++ 0#10 ++ 9#6
  | .pair d => 33#6 ++ d ++ 0#5 ++ 0#10 ++ 10#6
  | .unpair d => 33#6 ++ d ++ 0#5 ++ 0#10 ++ 11#6
  | .admitPage d a => 33#6 ++ d ++ a ++ 0#10 ++ 12#6
  | .replay d a => 33#6 ++ d ++ a ++ 0#10 ++ 13#6
  | .testc d a => 33#6 ++ d ++ a ++ 0#10 ++ 14#6
  | .sysr d r => 34#6 ++ d ++ 0#5 ++ 0#4 ++ r
  | .sysw a r => 35#6 ++ 0#5 ++ a ++ 0#4 ++ r
  | .arrive d => 36#6 ++ d ++ 0#5 ++ 0#10 ++ 0#6
  | .wait a => 36#6 ++ 0#5 ++ a ++ 0#10 ++ 1#6
  | .barset d a b => 36#6 ++ d ++ a ++ b ++ 0#5 ++ 2#6
  | .barq d a q => 36#6 ++ d ++ a ++ 0#5 ++ q ++ 3#6
  | .mbwait d a n => 36#6 ++ d ++ a ++ n ++ 0#5 ++ 4#6
  | .mbsub d a n => 36#6 ++ d ++ a ++ n ++ 0#5 ++ 5#6
  | .mbread d n => 36#6 ++ d ++ 0#5 ++ n ++ 0#5 ++ 6#6
  | .xphase d => 36#6 ++ d ++ 0#5 ++ 0#10 ++ 7#6
  | .cphase d => 36#6 ++ d ++ 0#5 ++ 0#10 ++ 8#6
  | .xsend d a b c => 36#6 ++ d ++ a ++ b ++ c ++ 9#6
  | .xrecv d a => 36#6 ++ d ++ a ++ 0#10 ++ 10#6
  | .loop a o => 37#6 ++ a ++ 0#5 ++ o
  | .crit n => 38#6 ++ 0#5 ++ 0#5 ++ 0#12 ++ n
  | .repeat a x y z l => 39#6 ++ 0#5 ++ a ++ x ++ y ++ z ++ l
  | .vadd d a b m t => 40#6 ++ d ++ a ++ b ++ m ++ t ++ 0#5
  | .vsub d a b m t => 40#6 ++ d ++ a ++ b ++ m ++ t ++ 1#5
  | .vmul d a b m t => 40#6 ++ d ++ a ++ b ++ m ++ t ++ 2#5
  | .vfma d a b m t => 40#6 ++ d ++ a ++ b ++ m ++ t ++ 3#5
  | .vfms d a b m t => 40#6 ++ d ++ a ++ b ++ m ++ t ++ 4#5
  | .vmin d a b m t => 40#6 ++ d ++ a ++ b ++ m ++ t ++ 5#5
  | .vmax d a b m t => 40#6 ++ d ++ a ++ b ++ m ++ t ++ 6#5
  | .vabs d a m t => 40#6 ++ d ++ a ++ 0#5 ++ m ++ t ++ 7#5
  | .vneg d a m t => 40#6 ++ d ++ a ++ 0#5 ++ m ++ t ++ 8#5
  | .vdiv d a b m t => 40#6 ++ d ++ a ++ b ++ m ++ t ++ 9#5
  | .vsqrt d a m t => 40#6 ++ d ++ a ++ 0#5 ++ m ++ t ++ 10#5
  | .vrcp d a m t => 40#6 ++ d ++ a ++ 0#5 ++ m ++ t ++ 11#5
  | .vrsqrt d a m t => 40#6 ++ d ++ a ++ 0#5 ++ m ++ t ++ 12#5
  | .vadds d a b m t => 40#6 ++ d ++ a ++ b ++ m ++ t ++ 13#5
  | .vsubs d a b m t => 40#6 ++ d ++ a ++ b ++ m ++ t ++ 14#5
  | .vmulh d a b m t => 40#6 ++ d ++ a ++ b ++ m ++ t ++ 15#5
  | .vand d a b m t => 41#6 ++ d ++ a ++ b ++ m ++ t ++ 0#5
  | .vor d a b m t => 41#6 ++ d ++ a ++ b ++ m ++ t ++ 1#5
  | .vxor d a b m t => 41#6 ++ d ++ a ++ b ++ m ++ t ++ 2#5
  | .vandn d a b m t => 41#6 ++ d ++ a ++ b ++ m ++ t ++ 3#5
  | .vnot d a m t => 41#6 ++ d ++ a ++ 0#5 ++ m ++ t ++ 4#5
  | .vshl d a b m t => 41#6 ++ d ++ a ++ b ++ m ++ t ++ 5#5
  | .vshr d a b m t => 41#6 ++ d ++ a ++ b ++ m ++ t ++ 6#5
  | .vsra d a b m t => 41#6 ++ d ++ a ++ b ++ m ++ t ++ 7#5
  | .vcmpeq d a b m t => 41#6 ++ d ++ a ++ b ++ m ++ t ++ 8#5
  | .vcmpne d a b m t => 41#6 ++ d ++ a ++ b ++ m ++ t ++ 9#5
  | .vcmplt d a b m t => 41#6 ++ d ++ a ++ b ++ m ++ t ++ 10#5
  | .vcmple d a b m t => 41#6 ++ d ++ a ++ b ++ m ++ t ++ 11#5
  | .vcmpltn d a b m t => 41#6 ++ d ++ a ++ b ++ m ++ t ++ 12#5
  | .vsel d a b m t => 41#6 ++ d ++ a ++ b ++ m ++ t ++ 13#5
  | .pand d a b => 41#6 ++ d ++ a ++ b ++ 0#6 ++ 14#5
  | .por d a b => 41#6 ++ d ++ a ++ b ++ 0#6 ++ 15#5
  | .pxor d a b => 41#6 ++ d ++ a ++ b ++ 0#6 ++ 16#5
  | .pnot d a => 41#6 ++ d ++ a ++ 0#11 ++ 17#5
  | .pcnt d a t => 41#6 ++ d ++ a ++ 0#8 ++ t ++ 18#5
  | .pfirst d a t => 41#6 ++ d ++ a ++ 0#8 ++ t ++ 19#5
  | .pset d a t => 41#6 ++ d ++ a ++ 0#8 ++ t ++ 20#5
  | .vpermb d a b m => 42#6 ++ d ++ a ++ b ++ m ++ 5#3 ++ 0#5
  | .vperm d a b m t => 42#6 ++ d ++ a ++ b ++ m ++ t ++ 1#5
  | .vslideup d a b m t => 42#6 ++ d ++ a ++ b ++ m ++ t ++ 2#5
  | .vslidedn d a b m t => 42#6 ++ d ++ a ++ b ++ m ++ t ++ 3#5
  | .vbcast d a m t => 42#6 ++ d ++ a ++ 0#5 ++ m ++ t ++ 4#5
  | .vextr d a b t => 42#6 ++ d ++ a ++ b ++ 0#3 ++ t ++ 5#5
  | .vins d a b t => 42#6 ++ d ++ a ++ b ++ 0#3 ++ t ++ 6#5
  | .viota d m t => 42#6 ++ d ++ 0#5 ++ 0#5 ++ m ++ t ++ 7#5
  | .vzipl d a b m t => 42#6 ++ d ++ a ++ b ++ m ++ t ++ 8#5
  | .vziph d a b m t => 42#6 ++ d ++ a ++ b ++ m ++ t ++ 9#5
  | .vmov d a m t => 42#6 ++ d ++ a ++ 0#5 ++ m ++ t ++ 10#5
  | .vcvt d a f m t => 43#6 ++ d ++ a ++ f ++ m ++ t ++ 0#5
  | .vcvts d a f m t => 43#6 ++ d ++ a ++ f ++ m ++ t ++ 1#5
  | .vquant d a b m t => 43#6 ++ d ++ a ++ b ++ m ++ t ++ 2#5
  | .vdequant d a b m t => 43#6 ++ d ++ a ++ b ++ m ++ t ++ 3#5
  | .vcbdec d a b m t => 43#6 ++ d ++ a ++ b ++ m ++ t ++ 4#5
  | .vcbload a => 43#6 ++ 0#5 ++ a ++ 0#11 ++ 5#5
  | .vredsum d a m t => 44#6 ++ d ++ a ++ 0#5 ++ m ++ t ++ 0#5
  | .vredmax d a m t => 44#6 ++ d ++ a ++ 0#5 ++ m ++ t ++ 1#5
  | .vredmin d a m t => 44#6 ++ d ++ a ++ 0#5 ++ m ++ t ++ 2#5
  | .vredamax d a m t => 44#6 ++ d ++ a ++ 0#5 ++ m ++ t ++ 3#5
  | .vredamin d a m t => 44#6 ++ d ++ a ++ 0#5 ++ m ++ t ++ 4#5
  | .vscan d a m t => 44#6 ++ d ++ a ++ 0#5 ++ m ++ t ++ 5#5
  | .vtolog d a m => 45#6 ++ d ++ a ++ 0#5 ++ m ++ 0#3 ++ 0#5
  | .vfromlog d a m => 45#6 ++ d ++ a ++ 0#5 ++ m ++ 0#3 ++ 1#5
  | .vexp d a m t => 45#6 ++ d ++ a ++ 0#5 ++ m ++ t ++ 2#5
  | .vlog d a m t => 45#6 ++ d ++ a ++ 0#5 ++ m ++ t ++ 3#5
  | .vtanh d a m t => 45#6 ++ d ++ a ++ 0#5 ++ m ++ t ++ 4#5
  | .vsigm d a m t => 45#6 ++ d ++ a ++ 0#5 ++ m ++ t ++ 5#5
  | .vsilu d a m t => 45#6 ++ d ++ a ++ 0#5 ++ m ++ t ++ 6#5
  | .vgelu d a m t => 45#6 ++ d ++ a ++ 0#5 ++ m ++ t ++ 7#5
  | .vrand d m t => 45#6 ++ d ++ 0#5 ++ 0#5 ++ m ++ t ++ 8#5
  | .vmovi d t i => 46#6 ++ d ++ 0#3 ++ t ++ i
  | .vaddi d t i => 46#6 ++ d ++ 1#3 ++ t ++ i
  | .vmuli d t i => 46#6 ++ d ++ 2#3 ++ t ++ i
  | .vmini d t i => 46#6 ++ d ++ 3#3 ++ t ++ i
  | .vmaxi d t i => 46#6 ++ d ++ 4#3 ++ t ++ i
  | .vrsubi d t i => 46#6 ++ d ++ 5#3 ++ t ++ i
  | .vandi d t i => 46#6 ++ d ++ 6#3 ++ t ++ i
  | .vori d t i => 46#6 ++ d ++ 7#3 ++ t ++ i
  | .vld d a m t => 47#6 ++ d ++ a ++ 0#5 ++ m ++ t ++ 0#5
  | .vst d a m t => 47#6 ++ d ++ a ++ 0#5 ++ m ++ t ++ 1#5
  | .vlds d a b m t => 47#6 ++ d ++ a ++ b ++ m ++ t ++ 2#5
  | .vsts d a b m t => 47#6 ++ d ++ a ++ b ++ m ++ t ++ 3#5
  | .vldx d a b m t => 47#6 ++ d ++ a ++ b ++ m ++ t ++ 4#5
  | .vstx d a b m t => 47#6 ++ d ++ a ++ b ++ m ++ t ++ 5#5
  | .vldrow d a b m t => 47#6 ++ d ++ a ++ b ++ m ++ t ++ 6#5
  | .vldcol d a b m t => 47#6 ++ d ++ a ++ b ++ m ++ t ++ 7#5
  | .vstrow d a b m t => 47#6 ++ d ++ a ++ b ++ m ++ t ++ 8#5
  | .vstcol d a b m t => 47#6 ++ d ++ a ++ b ++ m ++ t ++ 9#5
  | .vscatadd d a b m t => 47#6 ++ d ++ a ++ b ++ m ++ t ++ 10#5
  | .vldb d a m t => 47#6 ++ d ++ a ++ 0#5 ++ m ++ t ++ 11#5
  | .mma n z x t a b c f => 48#6 ++ n ++ z ++ x ++ t ++ a ++ b ++ c ++ f
  | .mmd n z x t a b c f => 49#6 ++ n ++ z ++ x ++ t ++ 0#1 ++ a ++ b ++ c ++ f
  | .mms n z t a b c f => 50#6 ++ n ++ z ++ 0#1 ++ t ++ a ++ b ++ c ++ f
  | .mshape d a => 51#6 ++ d ++ a ++ 0#10 ++ 0#6
  | .mzero d => 51#6 ++ d ++ 0#5 ++ 0#10 ++ 1#6
  | .mload d a b => 51#6 ++ d ++ a ++ b ++ 0#5 ++ 2#6
  | .mstore d a b f => 51#6 ++ d ++ a ++ b ++ f ++ 3#6
  | .mslice d a => 51#6 ++ d ++ a ++ 0#10 ++ 4#6
  | .mwait d a => 51#6 ++ d ++ a ++ 0#10 ++ 5#6
  | .mquant d a b => 51#6 ++ d ++ a ++ b ++ 0#5 ++ 6#6
  | .midx a => 51#6 ++ 0#5 ++ a ++ 0#10 ++ 7#6
  | .copy d a => 52#6 ++ d ++ a ++ 0#10 ++ 0#6
  | .copyt d a => 52#6 ++ d ++ a ++ 0#10 ++ 1#6
  | .ringinit d a c => 52#6 ++ d ++ a ++ 0#5 ++ c ++ 2#6
  | .await d c => 52#6 ++ d ++ 0#5 ++ 0#5 ++ c ++ 3#6
  | .relslot c => 52#6 ++ 0#5 ++ 0#5 ++ 0#5 ++ c ++ 4#6
  | .ringq d q c => 52#6 ++ d ++ 0#5 ++ q ++ c ++ 5#6
  | .bfree a => 52#6 ++ 0#5 ++ a ++ 0#10 ++ 6#6
  | .cdrain d => 52#6 ++ d ++ 0#5 ++ 0#10 ++ 7#6
  | .bbinit d a b c => 53#6 ++ d ++ a ++ b ++ c ++ 0#6
  | .bbget d b c => 53#6 ++ d ++ 0#5 ++ b ++ c ++ 1#6
  | .bbpeek d b c => 53#6 ++ d ++ 0#5 ++ b ++ c ++ 2#6
  | .bbskip d b c => 53#6 ++ d ++ 0#5 ++ b ++ c ++ 3#6
  | .bblz d => 53#6 ++ d ++ 0#5 ++ 0#10 ++ 4#6
  | .bbapp d a b c => 53#6 ++ d ++ a ++ b ++ c ++ 5#6
  | .bbflush d => 53#6 ++ d ++ 0#5 ++ 0#10 ++ 6#6
  | .bbpos d => 53#6 ++ d ++ 0#5 ++ 0#10 ++ 7#6
  | .tnew d a b c => 54#6 ++ d ++ a ++ b ++ c ++ 0#6
  | .fork d a => 54#6 ++ d ++ a ++ 0#10 ++ 1#6
  | .rebase d a b => 54#6 ++ d ++ a ++ b ++ 0#5 ++ 2#6
  | .flatten d a => 54#6 ++ d ++ a ++ 0#10 ++ 3#6
  | .tdel d a => 54#6 ++ d ++ a ++ 0#10 ++ 4#6
  | .tinfo d a q => 54#6 ++ d ++ a ++ 0#5 ++ q ++ 5#6
  | .tmap d a b => 54#6 ++ d ++ a ++ b ++ 0#5 ++ 6#6
  | .tunmap d a => 54#6 ++ d ++ a ++ 0#10 ++ 7#6
  | .tadd d a b c => 54#6 ++ d ++ a ++ b ++ c ++ 8#6
  | .tseal d a b => 54#6 ++ d ++ a ++ b ++ 0#5 ++ 9#6
  | .twait d a => 54#6 ++ d ++ a ++ 0#10 ++ 10#6
  | .eqnew d a => 55#6 ++ d ++ a ++ 0#10 ++ 0#6
  | .eqfree d a => 55#6 ++ d ++ a ++ 0#10 ++ 1#6
  | .unite d a b c => 55#6 ++ d ++ a ++ b ++ c ++ 2#6
  | .find d a b => 55#6 ++ d ++ a ++ b ++ 0#5 ++ 3#6
  | .eqsize d a b => 55#6 ++ d ++ a ++ b ++ 0#5 ++ 4#6
  | .eqstat d a q => 55#6 ++ d ++ a ++ 0#5 ++ q ++ 5#6
  | .milestone d a => 55#6 ++ d ++ a ++ 0#10 ++ 6#6
  | .undo d a b => 55#6 ++ d ++ a ++ b ++ 0#5 ++ 7#6
  | .undoKeep d a b => 55#6 ++ d ++ a ++ b ++ 1#5 ++ 7#6
  | .relabel d a b => 55#6 ++ d ++ a ++ b ++ 0#5 ++ 8#6
  | .vunite d a b c => 55#6 ++ d ++ a ++ b ++ c ++ 9#6
  | .vfind d a b => 55#6 ++ d ++ a ++ b ++ 0#5 ++ 10#6
  | .drinit d a => 56#6 ++ d ++ a ++ 0#10 ++ 0#6
  | .drsend d a b c => 56#6 ++ d ++ a ++ b ++ c ++ 1#6
  | .drwait d a => 56#6 ++ d ++ a ++ 0#10 ++ 2#6
  | .drscale d a => 56#6 ++ d ++ a ++ 0#10 ++ 3#6
  | .drfix d a b => 56#6 ++ d ++ a ++ b ++ 0#5 ++ 4#6
  | .drstat d a b k => 56#6 ++ d ++ a ++ b ++ k ++ 5#6
  | .fetchBlock _ _ => 0#32
  | .watchdogExpiry _ _ => 0#32
  | .wfiWake _ _ => 0#32
  | .waitRelease _ _ => 0#32
  | .mbwaitRelease _ _ => 0#32
  | .convoyForm _ _ => 0#32
  | .waitpredRelease _ _ => 0#32
  | .xsendSlot _ _ => 0#32
  | .xsendArrival _ => 0#32
  | .xrecvRelease _ _ => 0#32
  | .exchangeOverrun _ _ => 0#32
  | .vectorWordExecute _ => 0#32
  | .repeatPass _ _ => 0#32
  | .matrixWordExecute _ => 0#32
  | .mwaitRelease _ _ => 0#32
  | .mmsPanel _ => 0#32
  | .pairIntervalEnd _ _ _ => 0#32
  | .admitComplete _ _ => 0#32
  | .preemptionStop _ => 0#32
  | .quantumExpiry _ => 0#32
  | .priorityPreemption _ => 0#32
  | .placeInstance _ => 0#32
  | .memberEnd _ _ => 0#32
  | .instanceFail _ => 0#32
  | .deventRead _ _ _ => 0#32
  | .gsubmitWrite _ _ _ _ => 0#32
  | .dfailWrite _ _ _ _ => 0#32
  | .restartInstance _ _ _ _ => 0#32
  | .failTask _ _ _ _ => 0#32
  | .restartApply _ => 0#32
  | .streamStart _ => 0#32
  | .streamComplete _ _ => 0#32
  | .streamPark _ _ => 0#32
  | .streamFail _ _ => 0#32
  | .awaitRelease _ _ => 0#32
  | .cdrainRelease _ _ => 0#32
  | .mcastReceiverComplete _ _ _ => 0#32
  | .flattenMaterialise _ => 0#32
  | .flattenComplete _ => 0#32
  | .contributionArrive _ _ _ => 0#32
  | .deadlineExpiry _ _ => 0#32
  | .drwaitRelease _ _ => 0#32
  | .drfixRelease _ _ => 0#32
  | .testComplete _ _ _ _ => 0#32
  | .invvaPage _ _ _ => 0#32
  | .invvaRoot _ _ _ => 0#32
  | .invvaAll _ _ _ => 0#32
  | .migrationPoolWrite _ _ _ _ _ => 0#32
  | .keyload _ _ _ _ => 0#32
  | .lineagePoolWrite _ _ _ _ _ => 0#32
  | .overflowRegionWrite _ _ _ _ _ => 0#32
  | .errorLogWrite _ _ _ _ _ => 0#32
  | .serviceRegisterWrite _ _ _ _ _ _ => 0#32
  | .scrubLine _ _ _ => 0#32
  | .laneGroupFail _ _ => 0#32
  | .resendTimeout _ => 0#32
  | .writeUnreachable _ => 0#32
  | .bridgeWriteReceive _ => 0#32
  | .packetReceive _ => 0#32
  | .cxlLinkDown _ => 0#32
  | .cxlReadTimeout _ _ => 0#32
  | .loadImage _ _ _ => 0#32
  | .createTensor _ _ _ => 0#32
  | .writeData _ _ _ _ => 0#32
  | .readData _ _ _ _ => 0#32
  | .submitGraph _ _ => 0#32
  | .openDeliveryRing _ _ _ _ => 0#32
  | .checkpoint _ _ _ => 0#32
  | .restore _ _ _ => 0#32
  | .telemetry _ _ => 0#32
  | .test _ _ => 0#32
  | .powerOn _ => 0#32
  | .ubeloStartTimeout => 0#32
  | .moduleReset _ => 0#32
  | .powerOff => 0#32
  | .powerThrottle => 0#32
  | .thermalThrottle _ => 0#32
  | .thermalShutdown => 0#32
  | .laneGroupRetrained _ _ => 0#32
  | .cxlLinkUp _ => 0#32
  | .ethernetLaneRetrain _ _ => 0#32
  | .writeAcknowledged _ _ => 0#32
  | .throttleEnd => 0#32
  | .mainPowerLoss => 0#32
  | .managementRegisterWrite _ _ => 0#32
  | .jtagAccess _ => 0#32

/-- Rows that are events, not words. -/
def Instr.isEvent : Instr → Bool
  | .fetchBlock _ _ => true
  | .watchdogExpiry _ _ => true
  | .wfiWake _ _ => true
  | .waitRelease _ _ => true
  | .mbwaitRelease _ _ => true
  | .convoyForm _ _ => true
  | .waitpredRelease _ _ => true
  | .xsendSlot _ _ => true
  | .xsendArrival _ => true
  | .xrecvRelease _ _ => true
  | .exchangeOverrun _ _ => true
  | .vectorWordExecute _ => true
  | .repeatPass _ _ => true
  | .matrixWordExecute _ => true
  | .mwaitRelease _ _ => true
  | .mmsPanel _ => true
  | .pairIntervalEnd _ _ _ => true
  | .admitComplete _ _ => true
  | .preemptionStop _ => true
  | .quantumExpiry _ => true
  | .priorityPreemption _ => true
  | .placeInstance _ => true
  | .memberEnd _ _ => true
  | .instanceFail _ => true
  | .deventRead _ _ _ => true
  | .gsubmitWrite _ _ _ _ => true
  | .dfailWrite _ _ _ _ => true
  | .restartInstance _ _ _ _ => true
  | .failTask _ _ _ _ => true
  | .restartApply _ => true
  | .streamStart _ => true
  | .streamComplete _ _ => true
  | .streamPark _ _ => true
  | .streamFail _ _ => true
  | .awaitRelease _ _ => true
  | .cdrainRelease _ _ => true
  | .mcastReceiverComplete _ _ _ => true
  | .flattenMaterialise _ => true
  | .flattenComplete _ => true
  | .contributionArrive _ _ _ => true
  | .deadlineExpiry _ _ => true
  | .drwaitRelease _ _ => true
  | .drfixRelease _ _ => true
  | .testComplete _ _ _ _ => true
  | .invvaPage _ _ _ => true
  | .invvaRoot _ _ _ => true
  | .invvaAll _ _ _ => true
  | .migrationPoolWrite _ _ _ _ _ => true
  | .keyload _ _ _ _ => true
  | .lineagePoolWrite _ _ _ _ _ => true
  | .overflowRegionWrite _ _ _ _ _ => true
  | .errorLogWrite _ _ _ _ _ => true
  | .serviceRegisterWrite _ _ _ _ _ _ => true
  | .scrubLine _ _ _ => true
  | .laneGroupFail _ _ => true
  | .resendTimeout _ => true
  | .writeUnreachable _ => true
  | .bridgeWriteReceive _ => true
  | .packetReceive _ => true
  | .cxlLinkDown _ => true
  | .cxlReadTimeout _ _ => true
  | .loadImage _ _ _ => true
  | .createTensor _ _ _ => true
  | .writeData _ _ _ _ => true
  | .readData _ _ _ _ => true
  | .submitGraph _ _ => true
  | .openDeliveryRing _ _ _ _ => true
  | .checkpoint _ _ _ => true
  | .restore _ _ _ => true
  | .telemetry _ _ => true
  | .test _ _ => true
  | .powerOn _ => true
  | .ubeloStartTimeout => true
  | .moduleReset _ => true
  | .powerOff => true
  | .powerThrottle => true
  | .thermalThrottle _ => true
  | .thermalShutdown => true
  | .laneGroupRetrained _ _ => true
  | .cxlLinkUp _ => true
  | .ethernetLaneRetrain _ _ => true
  | .writeAcknowledged _ _ => true
  | .throttleEnd => true
  | .mainPowerLoss => true
  | .managementRegisterWrite _ _ => true
  | .jtagAccess _ => true
  | .add _ _ _ => false
  | .sub _ _ _ => false
  | .and _ _ _ => false
  | .or _ _ _ => false
  | .xor _ _ _ => false
  | .andn _ _ _ => false
  | .sll _ _ _ => false
  | .srl _ _ _ => false
  | .sra _ _ _ => false
  | .slt _ _ _ => false
  | .sltn _ _ _ => false
  | .min _ _ _ => false
  | .max _ _ _ => false
  | .minn _ _ _ => false
  | .maxn _ _ _ => false
  | .mul _ _ _ => false
  | .mulh _ _ _ => false
  | .mulhn _ _ _ => false
  | .div _ _ _ => false
  | .divn _ _ _ => false
  | .rem _ _ _ => false
  | .remn _ _ _ => false
  | .clz _ _ => false
  | .ctz _ _ => false
  | .popc _ _ => false
  | .sext _ _ _ => false
  | .zext _ _ _ => false
  | .cmov _ _ _ _ => false
  | .addi _ _ _ => false
  | .andi _ _ _ => false
  | .ori _ _ _ => false
  | .xori _ _ _ => false
  | .slti _ _ _ => false
  | .sltin _ _ _ => false
  | .slli _ _ _ => false
  | .srli _ _ _ => false
  | .srai _ _ _ => false
  | .lui _ _ => false
  | .addpc _ _ => false
  | .fadd _ _ _ _ => false
  | .fsub _ _ _ _ => false
  | .fmul _ _ _ _ => false
  | .fdiv _ _ _ _ => false
  | .fsqrt _ _ _ => false
  | .fmadd _ _ _ _ => false
  | .fmin _ _ _ => false
  | .fmax _ _ _ => false
  | .feq _ _ _ => false
  | .flt _ _ _ => false
  | .fle _ _ _ => false
  | .fclass _ _ => false
  | .fneg _ _ => false
  | .fabs _ _ => false
  | .ftoi _ _ _ => false
  | .fton _ _ _ => false
  | .itof _ _ _ => false
  | .ntof _ _ _ => false
  | .ftobf _ _ _ => false
  | .bftof _ _ => false
  | .ftoh _ _ _ => false
  | .htof _ _ => false
  | .lb _ _ _ => false
  | .lbn _ _ _ => false
  | .lh _ _ _ => false
  | .lhn _ _ _ => false
  | .lw _ _ _ => false
  | .lwn _ _ _ => false
  | .ld _ _ _ => false
  | .sb _ _ _ => false
  | .sh _ _ _ => false
  | .sw _ _ _ => false
  | .sd _ _ _ => false
  | .ldab _ _ _ => false
  | .ldah _ _ _ => false
  | .ldaw _ _ _ => false
  | .ldad _ _ _ => false
  | .stlb _ _ _ => false
  | .stlh _ _ _ => false
  | .stlw _ _ _ => false
  | .stld _ _ _ => false
  | .facq _ => false
  | .frel _ => false
  | .fsc _ => false
  | .amoadd _ _ _ _ _ _ => false
  | .amoand _ _ _ _ _ _ => false
  | .amoor _ _ _ _ _ _ => false
  | .amoxor _ _ _ _ _ _ => false
  | .amomin _ _ _ _ _ _ => false
  | .amomax _ _ _ _ _ _ => false
  | .amominn _ _ _ _ _ _ => false
  | .amomaxn _ _ _ _ _ _ => false
  | .amoswap _ _ _ _ _ _ => false
  | .amocas _ _ _ _ _ _ => false
  | .amofadd _ _ _ _ _ => false
  | .amobfadd _ _ _ _ _ => false
  | .beq _ _ _ => false
  | .bne _ _ _ => false
  | .blt _ _ _ => false
  | .bge _ _ _ => false
  | .bltn _ _ _ => false
  | .bgen _ _ _ => false
  | .jal _ => false
  | .jalr _ _ _ => false
  | .svc _ => false
  | .brk _ => false
  | .eret => false
  | .wfi => false
  | .yield => false
  | .taskend => false
  | .signal => false
  | .waitpred => false
  | .convoy _ _ => false
  | .convoyS _ _ => false
  | .disband _ => false
  | .pair _ => false
  | .unpair _ => false
  | .admitPage _ _ => false
  | .replay _ _ => false
  | .testc _ _ => false
  | .sysr _ _ => false
  | .sysw _ _ => false
  | .arrive _ => false
  | .wait _ => false
  | .barset _ _ _ => false
  | .barq _ _ _ => false
  | .mbwait _ _ _ => false
  | .mbsub _ _ _ => false
  | .mbread _ _ => false
  | .xphase _ => false
  | .cphase _ => false
  | .xsend _ _ _ _ => false
  | .xrecv _ _ => false
  | .loop _ _ => false
  | .crit _ => false
  | .repeat _ _ _ _ _ => false
  | .vadd _ _ _ _ _ => false
  | .vsub _ _ _ _ _ => false
  | .vmul _ _ _ _ _ => false
  | .vfma _ _ _ _ _ => false
  | .vfms _ _ _ _ _ => false
  | .vmin _ _ _ _ _ => false
  | .vmax _ _ _ _ _ => false
  | .vabs _ _ _ _ => false
  | .vneg _ _ _ _ => false
  | .vdiv _ _ _ _ _ => false
  | .vsqrt _ _ _ _ => false
  | .vrcp _ _ _ _ => false
  | .vrsqrt _ _ _ _ => false
  | .vadds _ _ _ _ _ => false
  | .vsubs _ _ _ _ _ => false
  | .vmulh _ _ _ _ _ => false
  | .vand _ _ _ _ _ => false
  | .vor _ _ _ _ _ => false
  | .vxor _ _ _ _ _ => false
  | .vandn _ _ _ _ _ => false
  | .vnot _ _ _ _ => false
  | .vshl _ _ _ _ _ => false
  | .vshr _ _ _ _ _ => false
  | .vsra _ _ _ _ _ => false
  | .vcmpeq _ _ _ _ _ => false
  | .vcmpne _ _ _ _ _ => false
  | .vcmplt _ _ _ _ _ => false
  | .vcmple _ _ _ _ _ => false
  | .vcmpltn _ _ _ _ _ => false
  | .vsel _ _ _ _ _ => false
  | .pand _ _ _ => false
  | .por _ _ _ => false
  | .pxor _ _ _ => false
  | .pnot _ _ => false
  | .pcnt _ _ _ => false
  | .pfirst _ _ _ => false
  | .pset _ _ _ => false
  | .vpermb _ _ _ _ => false
  | .vperm _ _ _ _ _ => false
  | .vslideup _ _ _ _ _ => false
  | .vslidedn _ _ _ _ _ => false
  | .vbcast _ _ _ _ => false
  | .vextr _ _ _ _ => false
  | .vins _ _ _ _ => false
  | .viota _ _ _ => false
  | .vzipl _ _ _ _ _ => false
  | .vziph _ _ _ _ _ => false
  | .vmov _ _ _ _ => false
  | .vcvt _ _ _ _ _ => false
  | .vcvts _ _ _ _ _ => false
  | .vquant _ _ _ _ _ => false
  | .vdequant _ _ _ _ _ => false
  | .vcbdec _ _ _ _ _ => false
  | .vcbload _ => false
  | .vredsum _ _ _ _ => false
  | .vredmax _ _ _ _ => false
  | .vredmin _ _ _ _ => false
  | .vredamax _ _ _ _ => false
  | .vredamin _ _ _ _ => false
  | .vscan _ _ _ _ => false
  | .vtolog _ _ _ => false
  | .vfromlog _ _ _ => false
  | .vexp _ _ _ _ => false
  | .vlog _ _ _ _ => false
  | .vtanh _ _ _ _ => false
  | .vsigm _ _ _ _ => false
  | .vsilu _ _ _ _ => false
  | .vgelu _ _ _ _ => false
  | .vrand _ _ _ => false
  | .vmovi _ _ _ => false
  | .vaddi _ _ _ => false
  | .vmuli _ _ _ => false
  | .vmini _ _ _ => false
  | .vmaxi _ _ _ => false
  | .vrsubi _ _ _ => false
  | .vandi _ _ _ => false
  | .vori _ _ _ => false
  | .vld _ _ _ _ => false
  | .vst _ _ _ _ => false
  | .vlds _ _ _ _ _ => false
  | .vsts _ _ _ _ _ => false
  | .vldx _ _ _ _ _ => false
  | .vstx _ _ _ _ _ => false
  | .vldrow _ _ _ _ _ => false
  | .vldcol _ _ _ _ _ => false
  | .vstrow _ _ _ _ _ => false
  | .vstcol _ _ _ _ _ => false
  | .vscatadd _ _ _ _ _ => false
  | .vldb _ _ _ _ => false
  | .mma _ _ _ _ _ _ _ _ => false
  | .mmd _ _ _ _ _ _ _ _ => false
  | .mms _ _ _ _ _ _ _ => false
  | .mshape _ _ => false
  | .mzero _ => false
  | .mload _ _ _ => false
  | .mstore _ _ _ _ => false
  | .mslice _ _ => false
  | .mwait _ _ => false
  | .mquant _ _ _ => false
  | .midx _ => false
  | .copy _ _ => false
  | .copyt _ _ => false
  | .ringinit _ _ _ => false
  | .await _ _ => false
  | .relslot _ => false
  | .ringq _ _ _ => false
  | .bfree _ => false
  | .cdrain _ => false
  | .bbinit _ _ _ _ => false
  | .bbget _ _ _ => false
  | .bbpeek _ _ _ => false
  | .bbskip _ _ _ => false
  | .bblz _ => false
  | .bbapp _ _ _ _ => false
  | .bbflush _ => false
  | .bbpos _ => false
  | .tnew _ _ _ _ => false
  | .fork _ _ => false
  | .rebase _ _ _ => false
  | .flatten _ _ => false
  | .tdel _ _ => false
  | .tinfo _ _ _ => false
  | .tmap _ _ _ => false
  | .tunmap _ _ => false
  | .tadd _ _ _ _ => false
  | .tseal _ _ _ => false
  | .twait _ _ => false
  | .eqnew _ _ => false
  | .eqfree _ _ => false
  | .unite _ _ _ _ => false
  | .find _ _ _ => false
  | .eqsize _ _ _ => false
  | .eqstat _ _ _ => false
  | .milestone _ _ => false
  | .undo _ _ _ => false
  | .undoKeep _ _ _ => false
  | .relabel _ _ _ => false
  | .vunite _ _ _ _ => false
  | .vfind _ _ _ => false
  | .drinit _ _ => false
  | .drsend _ _ _ _ => false
  | .drwait _ _ => false
  | .drscale _ _ => false
  | .drfix _ _ _ => false
  | .drstat _ _ _ _ => false

/-- The word whose bytes stand at ascending addresses: little-endian (R2). -/
def wordOfBytes (b0 b1 b2 b3 : Byte) : BitVec 32 := b3 ++ b2 ++ b1 ++ b0

/-- The four bytes of a word at ascending addresses (R2). -/
def bytesOfWord (w : BitVec 32) : List Byte :=
  [w.extractLsb' 0 8, w.extractLsb' 8 8, w.extractLsb' 16 8, w.extractLsb' 24 8]

/-- Decode the instruction at the head of a list of bytes; the rest of the list follows it. -/
noncomputable def decodeBytes : List Byte → Except Reject (Instr × List Byte)
  | b0 :: b1 :: b2 :: b3 :: rest =>
    match decode (wordOfBytes b0 b1 b2 b3) with
    | .ok i => .ok (i, rest)
    | .error r => .error r
  | _ => .error .tooShort

/-- The instruction that the decoder reads from an instruction whose bits are w: each instruction is one 32-bit
word, laid out in memory order and decoded from there; bits above nbits are 0. -/
noncomputable def decodeTableWord (nbits w : Nat) : Option Instr :=
  match decodeBytes (bytesOfWord (BitVec.ofNat 32 (w % 2 ^ (min nbits 32)))) with
  | .ok (i, _) => some i
  | .error _ => none

end Sys2Proof
end

