-- ==== Sys2Proof/Machine/State.lean ====
section
/-! DEFINITION. The state of the device as plain data: threads, cores, clusters, dies, memory, lineage nodes, task
graphs, links, management; and the state right after a module reset. What the model itself adds (the schedule, the
counter of free values) is named as such. -/

namespace Sys2Proof.Machine

/-- Memory as (address, byte) pairs with rising addresses and no zero byte; an unlisted address reads 0. Keys below
2^52 are physical addresses (R257); the scratchpad of core c stands at 2^52 + c × 2^18 in the model. -/
abbrev Memory := List Host.Cell

/-- The mode of a thread (R11). -/
inductive Mode where
  | task
  | service
  deriving DecidableEq, Repr

/-- DOMAIN (R16). -/
structure Domain where
  spanch : BitVec 11
  pkgv : Bool
  diev : Bool
  pkgch : BitVec 2
  diech : BitVec 4
  level : BitVec 2
  deriving DecidableEq, Repr

/-- VCTL (R18). -/
structure VCtl where
  qfmt : BitVec 5
  sat : Bool
  rnd : BitVec 3
  deriving DecidableEq, Repr

/-- VSEQ (R111). -/
structure VSeq where
  capf : Bool
  act : Bool
  word : BitVec 4
  kmod : BitVec 5
  remain : BitVec 24
  deriving DecidableEq, Repr

/-- VSRES (R153). -/
structure VsRes where
  valid : Bool
  lane : BitVec 5
  cap : Bool
  widx : BitVec 4
  loc : BitVec 53
  deriving DecidableEq, Repr

/-- The bit buffer with BBCNT, BBPTR and BBLIM (R204). -/
structure BitBuffer where
  buf : BitVec 128
  cnt : BitVec 8
  /-- DIR: false read, true write. -/
  dir : Bool
  ptr : BitVec 18
  lim : BitVec 18
  deriving DecidableEq, Repr

/-- A REPEAT capture of a thread (R106). -/
structure Capture where
  words : List (BitVec 32)
  sd : BitVec 4
  sa : BitVec 4
  sb : BitVec 4
  /-- Address of the REPEAT prefix (R152). -/
  addr : Word
  /-- Passes P. -/
  passes : Nat
  /-- Pass number k. -/
  pass : Nat
  /-- Captured word at which the pass goes on. -/
  word : Nat
  /-- Suspended by a trap (R110). -/
  suspended : Bool
  /-- The pass has begun and has not ended (R110, R112). -/
  begun : Bool
  /-- Place in the core's order of issue to its queues (R12, R104). -/
  stamp : Nat
  deriving DecidableEq, Repr

/-- A convoy as each member holds it: members by span index, the leader first (R95). -/
structure Convoy where
  strict : Bool
  members : List Nat
  deriving DecidableEq, Repr

/-- A data access parked in the fault buffer (R269). -/
structure Parked where
  va : Word
  write : Bool
  /-- Element at which a vector word stopped. -/
  lane : Option Nat
  /-- Entry of the cluster, if one was free. -/
  entry : Option Nat
  deriving DecidableEq, Repr

/-- A fetch block in hand: its address and its 16 words (R56). -/
structure FetchBlock where
  addr : Word
  words : List (BitVec 32)
  deriving DecidableEq, Repr

/-- A leaf that translates an address: where it stands, its value, its size. -/
structure Leaf where
  at_ : Nat
  pte : Word
  large : Bool
  deriving DecidableEq, Repr

/-- A trap that a thread takes at its next instruction boundary: cause and TVAL. -/
structure PendingTrap where
  cause : BitVec 8
  tval : Word
  /-- Its own word raised it, and it waits for the captured pass under way (R110). -/
  own : Bool
  deriving DecidableEq, Repr

/-- A VUNITE, or a VFIND, whose lanes are under way, with its registers (R221). -/
structure ForestForm where
  unite : Bool
  d : BitVec 5
  a : BitVec 5
  b : BitVec 5
  c : BitVec 5
  deriving DecidableEq, Repr

/-- A write that waits, not yet sent, for a path from a die to another: the cycle from which the waiting is counted (R324). -/
structure PathWait where
  src : Nat
  home : Nat
  since : Word
  deriving DecidableEq, Repr

/-- The state held per thread (01). -/
structure Thread where
  /-- The context runs a thread that has not executed TASKEND. -/
  running : Bool
  g : Vector Word 32
  pc : Word
  v : Vector VReg 32
  p : Vector Pred 8
  bb : BitBuffer
  shape : Word
  /-- The index list of MIDX, entry i in bits 16i + 15 : 16i (R131). -/
  idx : BitVec 2048
  tid : BitVec 2
  spanix : BitVec 6
  spansz : BitVec 32
  taskid : BitVec 48
  launch : Word
  domain : Domain
  vstat : BitVec 6
  vctl : VCtl
  fstat : BitVec 5
  frnd : BitVec 3
  rngkey : Word
  rngstream : BitVec 32
  rngpos : Word
  rngdraw : BitVec 32
  wdog : BitVec 48
  /-- WDOG has reached 0 by decrement and trap 12 waits (R15). -/
  wdogDue : Bool
  instret : Word
  vseq : VSeq
  vsres : VsRes
  cvb : Bool
  aie : Bool
  pmode : Mode
  mode : Mode
  epc : Word
  causeAsync : Bool
  causeCode : BitVec 8
  tval : Word
  invroot : BitVec 36
  /-- Cover remainder (R85). -/
  cover : Nat
  /-- The remainder that trap entry kept; EPC written since then discards it. -/
  keptCover : Nat
  convoy : Option Convoy
  capture : Option Capture
  fetched : Option FetchBlock
  /-- The word in which the thread is blocked. -/
  wait : Option Instr
  /-- The engine event that completes the blocked word, where it is one fixed event. -/
  op : Option Instr
  /-- The leaf that the ADMIT in hand has walked to (R69). -/
  admitting : Option Leaf
  parked : Option Parked
  /-- Element at which the parked vector word goes on (R269), or lane that the forest form performs next. -/
  lane : Nat
  /-- The forest form in which the thread is blocked (R210, R221). -/
  forest : Option ForestForm
  pending : Option PendingTrap
  /-- Trap 15 waits, and has been taken in the present stop (R99). -/
  stopTrap : Bool
  stopTold : Bool
  /-- Threads that issue before this one after YIELD (R90). -/
  yielded : BitVec 4
  /-- Cycle at which WFI stopped the thread or it began to wait for a CXL link, and a wake event seen since. -/
  wfiAt : Word
  wake : Bool
  /-- Exchange phase: inside it, cycle of XCLK 0, tokens of arrivals made by XPHASE and CPHASE, ended by overrun. -/
  inPhase : Bool
  xbase : Word
  xArrived : Option (BitVec 32)
  cArrived : Option (BitVec 32)
  overrun : Bool
  /-- Streams accepted by the core before the CDRAIN that the thread waits in (R200). -/
  drainSeq : Nat
  /-- Place in the core's order of issue of the AWAIT that the thread waits in (R201). -/
  awaitSeq : Nat
  /-- It left its phase by overrun, and its arrival waits for its earlier writes (R165, R244). -/
  owes : Bool
  /-- The mask of contributors that the DRFIX in which it waits has read (R229). -/
  fixMask : Option Nat
  /-- A write of it waits at issue for a path to a die (R324). -/
  pathSince : Option PathWait
  deriving DecidableEq, Repr

/-- A barrier channel: bitmaps by cluster, or by groups of 16 members for a span channel (R158). -/
structure Channel where
  members : Map (BitVec 64)
  arrived : Map (BitVec 64)
  phase : BitVec 32
  deriving DecidableEq, Repr

/-- A ring slot claimed by a stream, in claim order (R201). -/
structure Claim where
  /-- Span index of the member whose stream claims it, and the order in which its core accepted the request. -/
  member : Nat
  seq : Nat
  done : Bool
  deriving DecidableEq, Repr

/-- A ring header (R13) with what the ring rules count beside it. -/
structure Ring where
  base : Word
  slotSize : BitVec 16
  slots : BitVec 16
  read : BitVec 16
  write : BitVec 16
  free : BitVec 16
  filled : BitVec 16
  /-- Filled slots that AWAIT has returned and RELSLOT has not freed. -/
  awaited : BitVec 16
  claims : List Claim
  deriving DecidableEq, Repr

/-- A copy request (R187) with its descriptor as read at acceptance (R188). -/
structure CopyRequest where
  word0 : Word
  src : Word
  dst : Word
  word3 : Word
  /-- 64 bytes of the shape descriptor. -/
  desc : List Byte
  /-- 32-bit entries of the index list. -/
  idx : List (BitVec 32)
  mode : Mode
  taskid : BitVec 48
  /-- Order of acceptance in the core. -/
  seq : Nat
  deriving DecidableEq, Repr

/-- A piece of a request that is read and written together: row, first column, columns. A byte of two 4-bit elements, a
block of 32 elements that is quantised, or one element. -/
structure CopyUnit where
  i : Nat
  j : Nat
  n : Nat
  deriving DecidableEq, Repr

/-- A unit as read: the codes to write, the scale of a quantised block, whether a source byte was poisoned. -/
structure UnitLoad where
  u : CopyUnit
  codes : List Nat
  scale : Nat
  poisoned : Bool
  deriving DecidableEq, Repr

/-- A stream in a context slot (R194). -/
structure Stream where
  req : CopyRequest
  /-- First element not yet performed. -/
  cursor : Nat
  parked : Option Parked
  /-- Address of the claimed ring slot, once claimed. -/
  ringAddr : Option Word
  /-- Receivers of a multicast whose copy is complete. -/
  served : List Nat
  /-- Remote packets not yet acknowledged. -/
  unacked : Nat
  /-- Its instance has been stopped. -/
  stopped : Bool
  /-- Cycle at which a read of it began to wait for a CXL link that is down (R335). -/
  linkAt : Option Word
  /-- The read of the element at the cursor has waited for a link too long, and has returned poisoned data (R335). -/
  late : Bool
  /-- A write of it waits for a path to a die (R324). -/
  pathSince : Option PathWait
  /-- What it has read and not yet written, where source and destination share a scratchpad (R196). -/
  held : List UnitLoad
  /-- A word of its context is poisoned (R348). -/
  poisoned : Bool
  deriving DecidableEq, Repr

/-- CERR (R199). -/
structure CErr where
  valid : Bool
  code : BitVec 5
  addr : BitVec 55
  deriving DecidableEq, Repr


/-- A cached leaf (R265): root tag, first virtual page of 64 KiB, size, entry. -/
structure TlbEntry where
  root : BitVec 36
  page : Nat
  large : Bool
  pte : Word
  deriving DecidableEq, Repr

/-- A vector word in the sequencer with the g operands read at issue (R104). -/
structure VecEntry where
  tid : BitVec 2
  instr : Instr
  ga : Word
  gb : Word
  /-- Place in the core's order of issue to its queues. -/
  stamp : Nat
  /-- Its address (R152), and the element at which it goes on. -/
  pc : Word
  lane : Nat
  /-- Where it accesses memory: the leaves that its check at issue has found (R105), and the 4 KiB blocks that it accesses. -/
  leaves : List TlbEntry
  blocks : List Nat
  /-- Cycle at which it began to wait for a CXL link that is down (R335), or its waiting for a path to a die (R324). -/
  linkAt : Option Word
  pathSince : Option PathWait
  deriving DecidableEq, Repr

/-- A block of a lineage path as MMD read it at issue: row and column of the block in the plane, sign, codes (R141). -/
structure PathTerm where
  row : Nat
  col : Nat
  negated : Bool
  codes : Map (BitVec 32)
  deriving DecidableEq, Repr

/-- A matrix word in the queue with what it captured at issue (R127). -/
structure MatEntry where
  tid : BitVec 2
  instr : Instr
  shape : Word
  idx : BitVec 2048
  ga : Word
  gb : Word
  gc : Word
  /-- The own scratchpad as it stood at issue (R128). -/
  pad : Memory
  /-- What MMD read at issue. -/
  path : List PathTerm
  /-- Next k-panel of an MMS. -/
  panel : Nat
  /-- Receivers that have taken the last panel of this holder's MMS. -/
  served : List Nat
  /-- Staging slots of an MMS, to be seen when it retires (R138, R246): A slots 0 and 1, B slots 2 and 3. -/
  staged : Map (List Byte)
  /-- Place in the core's order of issue to its queues. -/
  stamp : Nat
  /-- It was saved in the queue by a pre-emption stop: later accesses of its thread follow its own (R251). -/
  carried : Bool
  deriving DecidableEq, Repr

/-- The rectangle of a multicast buffer and the releases counted (R202, R203). -/
structure FreeMb where
  /-- Width, height and origin once fixed. -/
  rect : Option (Nat × Nat × Nat)
  /-- BFREE executed, by span index. -/
  counts : Map Nat
  /-- Releases already combined. -/
  combined : Nat
  deriving DecidableEq, Repr

/-- PTBASE (R20). -/
structure PtBase where
  root : BitVec 36
  key : BitVec 11
  deriving DecidableEq, Repr

/-- An entry that is not a leaf, as the walkers of a die cache it (R265): root tag, whether it stands in a table of level 2
rather than the root, the address bits above its range, the table that it names. -/
structure WalkEntry where
  root : BitVec 36
  low : Bool
  index : Nat
  table : Nat
  deriving DecidableEq, Repr

/-- The state held per core (01). -/
structure Core where
  tvec : Word
  ptbase : PtBase
  mb : Vector (BitVec 32) 16
  /-- Mailboxes marked by a contained core (R162). -/
  mbMark : BitVec 16
  rings : Vector Ring 8
  ringPoison : BitVec 8
  fifo : List CopyRequest
  streams : Map Stream
  copySeq : Nat
  cerr : CErr
  freeMbs : Map FreeMb
  acc0 : Map (BitVec 32)
  acc1 : Map (BitVec 32)
  /-- Poisoned elements: tile × 16,384 + row × 128 + column. -/
  accPoison : List Nat
  /-- The CB2 magnitude table (R49). -/
  cb2 : Map (BitVec 32)
  cb2Poison : List Nat
  vq : List VecEntry
  mq : List MatEntry
  /-- Words that have entered the two queues, and AWAITs that have begun to wait (R12). -/
  queued : Nat
  chan : Channel
  /-- Exchange blocks written here since the phase began. -/
  arrivals : Nat
  l1 : List TlbEntry
  lastTid : BitVec 2
  contained : Bool
  /-- Coupled by PAIR (R98). -/
  paired : Bool
  /-- Intervals agreed since PAIR. -/
  agreed : Nat
  /-- Instructions retired in the interval of each thread. -/
  interval : Vector Nat 4
  /-- Threads whose interval has mismatched once. -/
  mismatched : BitVec 4
  /-- Threads whose interval, with the word in hand taken in, has matched: what the word does beyond the pair may take
  effect. -/
  matched : BitVec 4
  /-- The resident instance and the member that runs here. -/
  inst : Option Nat
  deriving DecidableEq, Repr

/-- An entry of a fault buffer (R271). -/
structure FaultEntry where
  root : BitVec 36
  page : BitVec 39
  deliver : Bool
  tid : BitVec 2
  core : BitVec 4
  perm : Bool
  stream : Bool
  write : Bool
  read : Bool
  time : BitVec 32
  count : BitVec 9
  deriving DecidableEq, Repr

/-- The state of a cluster: fault buffer, L2 TLB, self-test. -/
structure Cluster where
  fb : Map FaultEntry
  /-- DELIVER as it was written to entries that are not valid (R271). -/
  deliver : BitVec 8
  dropped : Bool
  parked : BitVec 9
  total : Word
  dropcnt : Word
  l2 : List TlbEntry
  testing : Bool
  deriving DecidableEq, Repr

/-- A notification register: EN, MB, SCORE. -/
structure Note where
  en : Bool
  mb : BitVec 4
  score : BitVec 3
  deriving DecidableEq, Repr

/-- What a key slot holds: the boot ROM's random key of a die and slot, or eight words that Ubelo loaded (R274). -/
inductive KeyMat where
  | boot (die : Nat) (slot : Nat)
  | loaded (words : BitVec 512)
  deriving DecidableEq, Repr

/-- Under which key each 16-byte unit was last written; lost bytes were written under another key (R273). -/
structure LineTag where
  key : KeyMat
  lost : BitVec 16
  deriving DecidableEq, Repr

/-- A piece of the second tier in the migration pool (R258). -/
structure Piece where
  frame : Nat
  pin : Bool
  modified : Bool
  deriving DecidableEq, Repr

/-- An equivalence forest (R206, R207). -/
structure Forest where
  gen : BitVec 24
  /-- Graph that owns it; none for service mode. -/
  owner : Option Nat
  n : Nat
  /-- Parents of the elements that are not roots. -/
  parent : Map Nat
  /-- Class sizes of the roots whose class has more than one element. -/
  size : Map Nat
  /-- Active milestones, oldest first: number and log position. -/
  milestones : List (Nat × Nat)
  nextMile : BitVec 32
  lostMax : BitVec 32
  /-- Log entries, oldest first: element and old parent. -/
  log : List (Nat × Nat)
  poisoned : Bool
  deriving DecidableEq, Repr

/-- States of a reduction slot (R226). -/
inductive SlotState where
  | armed
  | complete
  | partial_
  | closed
  deriving DecidableEq, Repr

/-- A contribution: contributor, its elements, on time or late. -/
structure Contribution where
  i : Nat
  data : List (BitVec 32)
  onTime : Bool
  deriving DecidableEq, Repr

/-- A reduction slot (R222, R224). -/
structure DrSlot where
  gen : BitVec 16
  owner : Option Nat
  st : SlotState
  dst : Word
  e : Nat
  n : Nat
  op : BitVec 8
  deadline : Nat
  t0 : Word
  ptbase : PtBase
  contribs : List Contribution
  part : List (BitVec 32)
  dropped : Word
  poisoned : Bool
  deriving DecidableEq, Repr

/-- A row of a device's row table (R358). -/
structure RowCount where
  count : BitVec 32
  bank : BitVec 4
  row : BitVec 20
  deriving DecidableEq, Repr

/-- LANECNT (R358). -/
structure LaneCount where
  retrain : BitVec 16
  fec : BitVec 32
  deriving DecidableEq, Repr

/-- CXLCNT (R358). -/
structure CxlCount where
  linkdown : BitVec 16
  poison : BitVec 16
  replay : BitVec 32
  deriving DecidableEq, Repr

/-- What the home knows of one source of numbered writes (R324). -/
structure Window where
  base : Nat
  seen : List Nat
  deriving DecidableEq, Repr

/-- The state held per die. -/
structure Die where
  fbpend : BitVec 128
  fbnote : Note
  migbase : BitVec 36
  migsize : Word
  migin : Word
  migout : Word
  migdirect : Word
  walks : Word
  walkers : List WalkEntry
  /-- Resident pieces, least recently used first. -/
  pieces : List Piece
  keys : Map KeyMat
  keywords : Vector Word 8
  lpbase : BitVec 36
  lpsize : BitVec 26
  lfree : Word
  lresv : BitVec 7
  lwarn : BitVec 26
  lnote : Note
  lcopy : Word
  lmat : Word
  lsplice : Word
  lrefuse : Word
  /-- Flattening nodes homed here, in the order in which they started. -/
  flattens : List Nat
  glast : Word
  dquant : BitVec 48
  dnote : Note
  /-- DEVENT queue, oldest first: FAILED and TASKID. -/
  devents : List (Bool × BitVec 48)
  dtvec : BitVec 53
  wdrawn : BitVec 2048
  chans : Map Channel
  chanHolder : Map Nat
  forests : Map Forest
  forestGen : Map (BitVec 24)
  slots : Map DrSlot
  slotGen : Map (BitVec 16)
  /-- Free reduction slots, the one free longest first. -/
  slotFree : List Nat
  seobase : BitVec 36
  seokey : BitVec 11
  seosize : Word
  seresv : Word
  sedrop : Word
  seatom : Word
  eptbase : BitVec 47
  eptsize : BitVec 13
  inwbase : BitVec 48
  inwsize : BitVec 16
  netdup : Word
  /-- The die's IPv6 address (R330). -/
  ipv6 : BitVec 128
  /-- Numbers recorded for each delivery context, and the number that a context with ordered delivery performs next
  (R330). -/
  netSeen : Map (List Nat)
  netNext : Map Nat
  errbase : BitVec 36
  errkey : BitVec 11
  errsize : BitVec 16
  errhead : BitVec 16
  errtail : BitVec 16
  errlost : Word
  errnote : Note
  msym : Map (BitVec 32)
  mrow : Map RowCount
  lanecnt : Map LaneCount
  cxlcnt : Map CxlCount
  votecor : Word
  pairfix : Word
  rowth : BitVec 32
  symth : BitVec 32
  retrth : BitVec 16
  fecth : BitVec 32
  cxlth : BitVec 32
  /-- Windows of numbered writes by source (R324), and the next number this die gives as a source. -/
  windows : Map Window
  nextSeq : Nat
  deriving DecidableEq, Repr

/-- Kind and contents of a block that has a directory entry (R29, R278). -/
inductive Block where
  /-- A full block of 4 KiB, as bytes by offset, in a pool block of a die, written under a key. -/
  | replace (data : Memory) (pool : Nat) (key : KeyMat)
  /-- A delta: code by element of the tile, no +0 code (R182). -/
  | add (delta : Map (BitVec 32)) (pool : Nat) (key : KeyMat)
  deriving DecidableEq, Repr

/-- States of a node (R30). -/
inductive NodeState where
  | live
  | sealed
  | retired
  | flattening
  deriving DecidableEq, Repr

/-- A lineage node in its slot (R27, R30). -/
structure Node where
  gen : BitVec 12
  shape : TensorShape
  home : Nat
  key : BitVec 11
  st : NodeState
  parent : Option Nat
  depth : Nat
  /-- Node on which the pending blocks of a bound root are pending (R174). -/
  pendingOn : Option Nat
  /-- Blocks of the element plane and of the scale plane that have an entry. -/
  elems : Map Block
  scales : Map Block
  /-- Next block, over both planes, that the flatten looks at. -/
  flatAt : Nat
  /-- The flatten waits for a free block. -/
  flatWaits : Bool
  /-- Order in which the flatten started. -/
  flatSeq : Nat
  /-- Poisoned 64-byte units: plane × 2^40 + block × 64 + unit. -/
  poison : List Nat
  /-- Poisoned 8-byte entries (R348): the node's own in the node table, or those of blocks in its directory, by plane and
  block. -/
  badEntries : List (Option (Bool × Nat))
  /-- Poisoned 8-byte words of the base SRAM lines that hold its blocks (R348): plane × 2^43 + block × 512 + word. -/
  fine : List Nat
  deriving DecidableEq, Repr

/-- A lineage mapping of a task (R183). -/
structure Mapping where
  /-- Task number, or none for a service core. -/
  owner : Option (BitVec 32)
  base : Nat
  len : Nat
  slot : Nat
  gen : BitVec 12
  scalePlane : Bool
  readOnly : Bool
  deriving DecidableEq, Repr

/-- A task of a graph as the dispatchers read it (R294). -/
structure Task where
  desc : Word
  entry : Word
  w : Nat
  h : Nat
  threads : Nat
  prio : Nat
  early : Bool
  paired : Bool
  diech : Option (BitVec 4)
  pkgch : Option (BitVec 2)
  instances : Nat
  quantum : BitVec 48
  preds : List Nat
  tens : List (BitVec 32 × Bool × Bool)
  wdexit : Word
  args : List Word
  /-- Failed for good (R319). -/
  failed : Bool
  deriving DecidableEq, Repr

/-- A submitted graph (R296). -/
structure Graph where
  ptbase : Word
  tasks : List Task
  deriving DecidableEq, Repr

/-- States of an instance (R302). -/
inductive InstState where
  | pending
  | early
  | ready
  | reserving
  | resident
  | stopping
  | saved
  | ending
  | ended
  | failed
  deriving DecidableEq, Repr

/-- A rectangle of a die: die, column and row of its top-left core. -/
structure Rect where
  die : Nat
  x : Nat
  y : Nat
  deriving DecidableEq, Repr

/-- The saved context of a member (R309). -/
structure MemberCtx where
  threads : List Thread
  core : Core
  pad : Memory
  /-- Poisoned words of the scratchpad, by offset. -/
  poison : List Nat
  deriving DecidableEq, Repr

/-- What a rollback of one thread of a paired core goes back to (R98): the thread and its queued words as its last matched
interval left them, and the old values of what it has written since in the state that it shares with the core's other
threads. -/
structure PairPoint where
  thread : Thread
  vq : List VecEntry
  mq : List MatEntry
  /-- Elements of the accumulator store by their number in accPoison, and of the magnitude table. -/
  acc : Map (BitVec 32)
  cb2 : Map (BitVec 32)
  /-- Poison that the thread's writes have cleared. -/
  accPoison : List Nat
  cb2Poison : List Nat
  tvec : Option Word
  ptbase : Option PtBase
  deriving DecidableEq, Repr

/-- An instance of a task. Its key is the TASKID of its threads. -/
structure Inst where
  graph : Nat
  task : Nat
  num : Nat
  st : InstState
  signalled : Bool
  /-- Order of entry into the ready queue. -/
  entry : Nat
  bypass : Nat
  rect : Option Rect
  /-- Rectangle reserved for it. -/
  reserved : Option Rect
  quantum : Nat
  /-- Order of placement. -/
  placed : Nat
  /-- Cycle at which it first found no rectangle. -/
  stuckAt : Option Word
  ctx : Option (List MemberCtx)
  /-- Members that have ended. -/
  membersEnded : List Nat
  chan : Channel
  /-- Restarted: its predecessors count as ended (R352). -/
  predsDone : Bool
  /-- Held RESTART write: the FAIL bit (R352). -/
  restart : Option Bool
  /-- Every member stopped and the DEVENT appended. -/
  released : Bool
  deriving DecidableEq, Repr

/-- An exchange block in flight (R164). -/
structure XBlock where
  src : Nat
  tid : BitVec 2
  dst : Nat
  off : Nat
  data : List Byte
  deriving DecidableEq, Repr

/-- A contribution in flight to its slot (R328). -/
structure DrFlight where
  core : Nat
  tid : BitVec 2
  die : Nat
  slot : Nat
  gen : BitVec 16
  i : Nat
  data : List (BitVec 32)
  deriving DecidableEq, Repr

/-- What the home does with the bytes of a numbered write: writes them, replaces one nibble of a byte (R154), or adds them
as elements of a format (R190). -/
inductive FlightKind where
  | bytes
  | nibble (odd : Bool)
  | reduce (fmt : BitVec 5)
  deriving DecidableEq, Repr

/-- A numbered write that its source has not seen acknowledged (R253, R324). -/
structure Flight where
  src : Nat
  seq : Nat
  home : Nat
  /-- Issuing core and thread; a stream's slot when it is a packet of a remote stream. -/
  core : Nat
  tid : BitVec 2
  stream : Option Nat
  addr : Nat
  key : BitVec 11
  kind : FlightKind
  data : List Byte
  performed : Bool
  /-- Copies of it under way. -/
  copies : Nat
  sentAt : Word
  /-- Cycle from which its waiting without a path is counted (R324). -/
  since : Word
  /-- Address that the access named, and poison that the data carry (R350). -/
  va : Nat
  poisoned : Bool
  /-- The word that it belongs to, by INSTRET of its thread, and the root of the tables that translated it (R267). -/
  word : Word
  root : BitVec 36
  /-- Its stream has ended without it: its acknowledgement counts for no stream. -/
  gone : Bool
  /-- PIN of the leaf that translated a write of a reduction slot (R259). -/
  pin : Bool
  /-- Units of poison, by first byte and size, that its word or its stream covers whole with this write and others (R350). -/
  covers : List (Nat × Nat)
  /-- Where an Ultra Ethernet packet goes: the peer's address and the window there (R332). -/
  peer : Option (BitVec 128 × BitVec 16)
  deriving DecidableEq, Repr

/-- A response that Ubelo sent to a client (R336, R337). -/
structure Response where
  client : Nat
  id : Word
  code : BitVec 8
  status : BitVec 16
  data : List Word
  deriving DecidableEq, Repr

/-- What a manifest says of a tensor: handle of its snapshot, shape, the object's name (job, sequence number of the checkpoint
and place of the tensor), its length and CRC-32C (R290). -/
structure ManifestEntry where
  handle : BitVec 32
  shape : TensorShape
  object : Nat × Nat × Nat
  length : Nat
  crc : BitVec 32
  deriving DecidableEq, Repr

/-- A manifest written in full: sequence number and entries. -/
structure Manifest where
  seq : Nat
  entries : List ManifestEntry
  deriving DecidableEq, Repr

/-- What Ubelo keeps for a job (R377, R290). -/
structure Job where
  ptbase : Word
  key : BitVec 11
  tensors : List (BitVec 32)
  /-- Snapshot nodes of earlier checkpoints. -/
  snapshots : List (BitVec 32)
  /-- Sequence number of the latest checkpoint. -/
  seq : Nat
  manifest : Option Manifest
  /-- The checkpoint in progress: its sequence number, and the snapshots that it has sealed and whose objects it writes. -/
  sealing : Option (Nat × List (BitVec 32))
  /-- A checkpoint request that waits for a boundary between two graphs, with what the file store will answer. -/
  waiting : Option (Request × StoreOutcome)
  /-- Addresses of the handle words of its images, and the tensor whose handle each holds (R290, R377). -/
  words : List (Nat × Nat)
  deriving DecidableEq, Repr

/-- A delivery ring that Ubelo opened (R316). -/
structure DeliveryRing where
  job : Nat
  addr : Word
  cap : Nat
  client : Nat
  stream : Nat
  /-- Records sent, and those that the transport has acknowledged (R338). -/
  sent : Nat
  acked : Nat
  deriving DecidableEq, Repr

/-- A test request that waits for its clusters (R336): clusters left, and results so far. -/
structure TestReq where
  client : Nat
  id : Word
  left : List Nat
  results : List (Nat × Word)
  deriving DecidableEq, Repr

/-- The management registers (R362, R364). -/
structure Mgmt where
  reason : BitVec 8
  failed : Bool
  step : BitVec 4
  mplim : BitVec 14
  mtlim : BitVec 7
  mthrot : Word
  deriving DecidableEq, Repr

/-- A unit of storage in which an uncorrectable error is found (R348). -/
inductive Held where
  /-- A word of a scratchpad, an element of the accumulator store (by its number in accPoison), an entry of the magnitude
  table, a ring header, a word of the copy context in a slot. -/
  | pad (core off : Nat)
  | acc (core elem : Nat)
  | cb2 (core entry : Nat)
  | ring (core n : Nat)
  | context (core slot : Nat)
  /-- A word of a forest or of a reduction slot in the synchronisation engine's SRAM. -/
  | forest (die k : Nat)
  | slot (die k : Nat)
  /-- A node's directory entry of a block; the node table's entry of a node. -/
  | directory (node : Nat) (scale : Bool) (q : Nat)
  | node (node : Nat)
  /-- A codeword of GDDR7 in a pool or overflow region: of a block of a node, from a byte on; of a migrated page, by its
  second-tier address; of a forest or a reduction slot. -/
  | block (node : Nat) (scale : Bool) (q off : Nat)
  | piece (pa : Nat)
  /-- An 8-byte word of the base SRAM line that holds a block of a node, or a migrated page by its second-tier address. -/
  | blockWord (node : Nat) (scale : Bool) (q off : Nat)
  | pieceWord (pa : Nat)
  | forestPage (die k : Nat)
  | slotPage (die k : Nat)
  /-- A line of the second tier, which the expander returns with poison from now on. -/
  | expander (pa : Nat)
  deriving DecidableEq, Repr

/-- An error that an array or a link shows without an event of its own (R347, R348, R358). The schedule brings it about. -/
inductive Upset where
  /-- An uncorrectable error: what it hits, and what its record says where the unit does not: core index of the place,
  physical address, syndrome (R356). -/
  | held (h : Held) (cid addr : Nat) (syndrome : Word)
  /-- A symbol of GDDR7 that a read corrects: device, pin group, bank, row (R358). -/
  | symbol (die dev pin : Nat) (bank : BitVec 4) (row : BitVec 20)
  /-- Corrected symbols of a lane of Ethernet or a bridge, replays of a CXL port. -/
  | fec (die lane n : Nat)
  | replays (die port n : Nat)
  deriving DecidableEq, Repr

/-- Who moves next. The schedule is the model's own field: it stands for the timing that the spec leaves open. -/
inductive Move where
  /-- A core issues a word of the thread that the round robin gives; its engine work is done at once. -/
  | issue (core : Nat)
  /-- The same, but the engine work of the word is left for later events. -/
  | issueDeferred (core : Nat)
  /-- An event of an engine or from outside. -/
  | event (i : Instr)
  /-- A cycle passes. -/
  | tick
  /-- A TLB drops an entry (replacement is not architectural, R265). -/
  | evictL1 (core k : Nat)
  | evictL2 (cluster k : Nat)
  | evictWalker (die k : Nat)
  /-- The base SRAM writes back the 64 bytes that hold an address, or those of a block of a node, with their poison (R350). -/
  | writeBack (pa : Nat)
  | writeBackBlock (node : Nat) (scale : Bool) (q off : Nat)
  /-- The transport acknowledges the oldest record of a delivery ring that it has not acknowledged (R338). -/
  | acknowledge (ring : Nat)
  | upset (u : Upset)
  deriving DecidableEq, Repr

/-- The state of the device. -/
structure State where
  mem : Memory
  /-- Poisoned units: 64 bytes of device memory, 4 bytes of a scratchpad, by their first key in mem. -/
  poison : List Nat
  /-- Poisoned 8-byte units of the base SRAM, by physical address (R348). -/
  sramPoison : List Nat
  tags : Map LineTag
  /-- Runs of GDDR7, by first byte and length, into which a pool has written what the spec does not give (R260, R284,
  R329). -/
  blurred : List (Nat × Nat)
  /-- Admitted 64 KiB frames (R68). -/
  admitted : List Nat
  threads : Map Thread
  cores : Map Core
  clusters : Map Cluster
  dies : Map Die
  nodes : Map Node
  nodeGen : Map (BitVec 12)
  mappings : List Mapping
  graphs : Map Graph
  insts : Map Inst
  nextGraph : BitVec 20
  /-- Counts entries into queues and placements. -/
  stamp : Nat
  pkgChans : Map Channel
  pkgHolder : Map Nat
  /-- State of each thread of a paired core at the end of its last matched interval, by the key of the thread (R98). -/
  checkpoints : Map PairPoint
  xblocks : List XBlock
  drFlights : List DrFlight
  flights : List Flight
  /-- Bridge lane groups that are down: bridge × 8 + group. -/
  groupsDown : List Nat
  cxlUp : BitVec 8
  cxlPopulated : BitVec 8
  ethUp : BitVec 16
  clients : List Nat
  jobs : Map Job
  rings : List DeliveryRing
  tests : List TestReq
  responses : List Response
  /-- Requests that wait for their client's earlier ones, in order of arrival (R337). -/
  inbox : List Instr
  /-- Events whose read of the second tier waits for a link that is down, and the cycle in which each began to wait (R335). -/
  linkWaits : List (Instr × Word)
  /-- Events whose write waits for a path, each with its waiting (R324). -/
  pathWaits : List (Instr × PathWait)
  /-- First 64 KiB frame of die 0 that Ubelo has not handed out. -/
  nextFrame : Nat
  mgmt : Mgmt
  /-- What a boot finds since power was applied: flash, fuses, rails, links (R364). A reset finds the same (log 37). -/
  booting : Option BootInput
  powered : Bool
  throttled : Bool
  hotDies : BitVec 4
  /-- Verified image: slot B rather than A, debug flag. -/
  image : Option (Bool × Bool)
  jtag : List (JtagCommand × Bool)
  /-- Records that Ubelo owes for ports left down at boot: die, unit, place (R364). -/
  owed : List (Nat × Nat × Nat)
  cycle : Word
  /-- The model's own fields: the schedule, the events that have become possible, whether engine work is deferred, the
  thread whose word executes, the counter of free values, votes that disagree. -/
  plan : List Move
  agenda : List Instr
  defer : Bool
  curCore : Nat
  curTid : BitVec 2
  free : Nat
  /-- For each coming covered word: 0 agreement, 1 one correction, 2 or more no majority twice (R84). -/
  upsets : List Nat
  deriving DecidableEq, Repr

/-- Why the machine stops. -/
inductive Fault where
  /-- A word fetched from an admitted page is not an instruction. Raised by the step alone; R65 to R68 rule it out.
  Safe: the model stops where the spec says the machine never comes. -/
  | notAnInstruction (w : BitVec 32)
  deriving DecidableEq, Repr

/-- Why an instruction has no meaning in the model. -/
inductive Refusal where
  /-- An instruction whose meaning has not been written. Raised by its arm of exec alone. Safe. -/
  | notModelled (mnemonic : String)
  deriving DecidableEq, Repr

/-- VSTAT to FCTL, DOMAIN and STATUS hold their Reset columns; every other register holds 0. -/
def Thread.idle (tid : BitVec 2) : Thread where
  running := false
  g := Vector.replicate 32 0
  pc := 0
  v := Vector.replicate 32 0
  p := Vector.replicate 8 0
  bb := ⟨0, 0, false, 0, 0⟩
  shape := 0
  idx := 0
  tid := tid
  spanix := 0
  spansz := 0
  taskid := 0
  launch := 0
  domain := ⟨0, false, false, 0, 0, 1⟩
  vstat := 0
  vctl := ⟨11, true, 0⟩
  fstat := 0
  frnd := 0
  rngkey := 0
  rngstream := 0
  rngpos := 0
  rngdraw := 0
  wdog := 0
  wdogDue := false
  instret := 0
  vseq := ⟨false, false, 0, 0, 0⟩
  vsres := ⟨false, 0, false, 0, 0⟩
  cvb := false
  aie := true
  pmode := .task
  mode := .task
  epc := 0
  causeAsync := false
  causeCode := 0
  tval := 0
  invroot := 0
  cover := 0
  keptCover := 0
  convoy := none
  capture := none
  fetched := none
  wait := none
  op := none
  admitting := none
  parked := none
  lane := 0
  forest := none
  pending := none
  stopTrap := false
  stopTold := false
  yielded := 0
  wfiAt := 0
  wake := false
  inPhase := false
  xbase := 0
  xArrived := none
  cArrived := none
  overrun := false
  drainSeq := 0
  awaitSeq := 0
  owes := false
  fixMask := none
  pathSince := none

/-- A thread of a service core: it runs, in service mode (R11, R19). -/
def Thread.service (tid : BitVec 2) : Thread := { Thread.idle tid with running := true, mode := .service }

/-- A channel without members. -/
def Channel.empty : Channel := ⟨[], [], 0⟩

/-- A ring that is not set (R31). -/
def Ring.unset : Ring := ⟨0, 0, 0, 0, 0, 0, 0, 0, []⟩

/-- A core on which no task has run. -/
def Core.idle : Core where
  tvec := 0
  ptbase := ⟨0, 0⟩
  mb := Vector.replicate 16 0
  mbMark := 0
  rings := Vector.replicate 8 Ring.unset
  ringPoison := 0
  fifo := []
  streams := []
  copySeq := 0
  cerr := ⟨false, 0, 0⟩
  freeMbs := []
  acc0 := []
  acc1 := []
  accPoison := []
  cb2 := []
  cb2Poison := []
  vq := []
  mq := []
  queued := 0
  chan := Channel.empty
  arrivals := 0
  l1 := []
  lastTid := 3
  contained := false
  paired := false
  agreed := 0
  interval := Vector.replicate 4 0
  mismatched := 0
  matched := 0
  inst := none

/-- A cluster after reset (R271). -/
def Cluster.reset : Cluster := ⟨[], 0, false, 0, 0, 0, [], false⟩

/-- A die after reset: the Reset columns of its register maps. -/
def Die.reset : Die where
  fbpend := 0
  fbnote := ⟨false, 0, 0⟩
  migbase := 0
  migsize := 0
  migin := 0
  migout := 0
  migdirect := 0
  walks := 0
  walkers := []
  pieces := []
  keys := []
  keywords := Vector.replicate 8 0
  lpbase := 0
  lpsize := 0
  lfree := 0
  lresv := 0
  lwarn := 0
  lnote := ⟨false, 0, 0⟩
  lcopy := 0
  lmat := 0
  lsplice := 0
  lrefuse := 0
  flattens := []
  glast := 0
  dquant := 2500000
  dnote := ⟨false, 0, 0⟩
  devents := []
  dtvec := 0
  wdrawn := 0
  chans := []
  chanHolder := []
  forests := []
  forestGen := []
  slots := []
  slotGen := []
  slotFree := List.range 256
  seobase := 0
  seokey := 0
  seosize := 0
  seresv := 0
  sedrop := 0
  seatom := 0
  eptbase := 0
  eptsize := 0
  inwbase := 0
  inwsize := 0
  netdup := 0
  ipv6 := 0
  netSeen := []
  netNext := []
  errbase := 0
  errkey := 0
  errsize := 0
  errhead := 0
  errtail := 0
  errlost := 0
  errnote := ⟨false, 0, 0⟩
  msym := []
  mrow := []
  lanecnt := []
  cxlcnt := []
  votecor := 0
  pairfix := 0
  rowth := 16
  symth := 1024
  retrth := 4
  fecth := 16777216
  cxlth := 65536
  windows := []
  nextSeq := 0

/-- What a thread context holds before anything has set it: contexts of task cores are idle, those of service cores
run in service mode. The key is core × 4 + TID. -/
def Thread.initial (k : Nat) : Thread :=
  if k < Config.taskCores * 4 then Thread.idle (BitVec.ofNat 2 k) else Thread.service (BitVec.ofNat 2 k)

/-- The machine right after a module reset, at boot step 1 (R363, R364): no task, no node, no forest, memory with
nothing listed, every register at its Reset value. -/
def State.reset : State where
  mem := []
  poison := []
  sramPoison := []
  tags := []
  blurred := []
  admitted := []
  threads := []
  cores := []
  clusters := []
  dies := []
  nodes := []
  nodeGen := []
  mappings := []
  graphs := []
  insts := []
  nextGraph := 0
  stamp := 0
  pkgChans := []
  pkgHolder := []
  checkpoints := []
  xblocks := []
  drFlights := []
  flights := []
  groupsDown := []
  cxlUp := 0
  cxlPopulated := 0
  ethUp := 0
  clients := []
  jobs := []
  rings := []
  tests := []
  responses := []
  inbox := []
  linkWaits := []
  pathWaits := []
  nextFrame := 16
  mgmt := ⟨0, false, 1, 10000, 105, 0⟩
  booting := none
  powered := true
  throttled := false
  hotDies := 0
  image := none
  jtag := []
  owed := []
  cycle := 0
  plan := []
  agenda := []
  defer := false
  curCore := Config.taskCores
  curTid := 0
  free := 0
  upsets := []

end Sys2Proof.Machine
end

