-- ==== Sys2Proof/Machine/Ops.lean ====
section
/-! DEFINITION. The named operations over registers and over the state of threads, cores, clusters and dies: how an
instruction retires, blocks, jumps; how a trap is taken and returned from; mailboxes, notifications, channels. -/

namespace Sys2Proof.Machine

/-- What a meaning answers. -/
abbrev Out := Host.Outcome State Fault Refusal

/-! ### Where things stand -/

/-- A task core rather than a service core. -/
def isTaskCore (core : Nat) : Bool := core < Config.taskCores

/-- The die of a core. -/
def dieOf (core : Nat) : Nat :=
  if isTaskCore core then core / Config.coresPerDie else (core - Config.taskCores) / Config.serviceCoresPerDie

/-- CID of a task core (R8). -/
def cidOf (core : Nat) : Nat := core % Config.coresPerDie

/-- Mesh column and row of a task core (R8). -/
def meshX (core : Nat) : Nat := cidOf core % 64
def meshY (core : Nat) : Nat := cidOf core / 64

/-- Core number of the core at a column and row of a die. -/
def coreAt (die x y : Nat) : Nat := die * Config.coresPerDie + y * 64 + x

/-- Key of the cluster of a task core: die × 128 + cluster (R8). -/
def clusterOf (core : Nat) : Nat := dieOf core * 128 + meshY core / 4 * 16 + meshX core / 4

/-- Position of a core in its cluster, row-major (DEDUCED from R8, log 3). -/
def coreInCluster (core : Nat) : Nat := meshY core % 4 * 4 + meshX core % 4

/-- The core at a position of a cluster. -/
def coreOfCluster (cluster pos : Nat) : Nat :=
  coreAt (cluster / 128) (cluster % 16 * 4 + pos % 4) (cluster % 128 / 16 * 4 + pos / 4)

/-- Service core k of a die. -/
def serviceCore (die k : Nat) : Nat := Config.taskCores + die * Config.serviceCoresPerDie + k

/-- Key of a thread context. -/
def threadKey (core tid : Nat) : Nat := core * 4 + tid

/-- First key in memory of a core's scratchpad. -/
def padBase (core : Nat) : Nat := 2 ^ 52 + core * Config.padSize

/-! ### Accessors -/

namespace State

/-- A thread context. -/
def threadAt (s : State) (k : Nat) : Thread := Map.get (Thread.initial k) s.threads k

/-- Replace a thread context. -/
def setThreadAt (s : State) (k : Nat) (t : Thread) : State := { s with threads := Map.insert s.threads k t }

/-- The thread of a core. -/
def thread (s : State) (core tid : Nat) : Thread := s.threadAt (threadKey core tid)

/-- Replace the thread of a core. -/
def setThread (s : State) (core tid : Nat) (t : Thread) : State := s.setThreadAt (threadKey core tid) t

/-- A core. -/
def core (s : State) (c : Nat) : Core := Map.get Core.idle s.cores c

/-- Replace a core. -/
def setCore (s : State) (c : Nat) (x : Core) : State := { s with cores := Map.insert s.cores c x }

/-- A cluster by its key. -/
def cluster (s : State) (c : Nat) : Cluster := Map.get Cluster.reset s.clusters c

/-- Replace a cluster. -/
def setCluster (s : State) (c : Nat) (x : Cluster) : State := { s with clusters := Map.insert s.clusters c x }

/-- A die. -/
def die (s : State) (d : Nat) : Die := Map.get Die.reset s.dies d

/-- Replace a die. -/
def setDie (s : State) (d : Nat) (x : Die) : State := { s with dies := Map.insert s.dies d x }

/-- Key of the thread whose word executes. -/
def meKey (s : State) : Nat := threadKey s.curCore s.curTid.toNat

/-- The thread whose word executes. -/
def me (s : State) : Thread := s.threadAt s.meKey

/-- Replace the thread whose word executes. -/
def setMe (s : State) (t : Thread) : State := s.setThreadAt s.meKey t

/-- The core whose word executes. -/
def myCore (s : State) : Core := s.core s.curCore

/-- Replace the core whose word executes. -/
def setMyCore (s : State) (c : Core) : State := s.setCore s.curCore c

/-- The die of the core whose word executes. -/
def myDie (s : State) : Nat := dieOf s.curCore

/-- Run the following for a thread of a core. -/
def asThread (s : State) (core tid : Nat) : State := { s with curCore := core, curTid := BitVec.ofNat 2 tid }

/-- Do something as another thread, and come back. -/
def within (s : State) (core tid : Nat) (f : State → State) : State :=
  let s' := f (s.asThread core tid)
  { s' with curCore := s.curCore, curTid := s.curTid }

/-- Append an engine event that has become possible. -/
def enqueue (s : State) (i : Instr) : State := { s with agenda := s.agenda ++ [i] }

/-- The Quoco request that an event carries. -/
def requestOf : Instr → Option Request
  | .loadImage r _ _ => some r
  | .createTensor r _ _ => some r
  | .writeData r _ _ _ => some r
  | .readData r _ _ _ => some r
  | .submitGraph r _ => some r
  | .openDeliveryRing r _ _ _ => some r
  | .checkpoint r _ _ => some r
  | .restore r _ _ => some r
  | .telemetry r _ => some r
  | .test r _ => some r
  | _ => none

/-- The request of a client that Ubelo serves next, of those that wait (R337). -/
def inboxHead (s : State) (client : Nat) : Option Instr := s.inbox.find? fun e => (requestOf e).any (·.client = client)

/-- The next request of each client. -/
def inboxHeads (s : State) : List Instr :=
  s.inbox.filter fun e => (requestOf e).any fun r => s.inboxHead r.client = some e

/-- Ubelo looks at the next request of a client, of each client. -/
def wakeClient (s : State) (client : Nat) : State := (s.inboxHead client).elim s s.enqueue
def wakeInbox (s : State) : State := s.inboxHeads.foldl enqueue s

/-- The read of an event waits for the link of a port (R335): its waiting is timed from its beginning. -/
def waitLink (s : State) (e : Instr) : State :=
  if s.linkWaits.any fun x => x.1 = e then s else { s with linkWaits := s.linkWaits ++ [(e, s.cycle)] }

/-- Has an event waited so long that its read returns poisoned data (R335)? -/
def linkLate (s : State) (e : Instr) : Bool := s.linkWaits.any fun x => x.1 = e && 1250000 ≤ (s.cycle - x.2).toNat

/-- An event waits no more, for a link or for a path. -/
def endLinkWait (s : State) (e : Instr) : State :=
  { s with linkWaits := s.linkWaits.filter fun x => x.1 ≠ e, pathWaits := s.pathWaits.filter fun x => x.1 ≠ e }

/-- The write of an event waits for a path from a die to another: its waiting is timed from its beginning (R324). -/
def waitPathOf (s : State) (e : Instr) (src home : Nat) : State :=
  if s.pathWaits.any fun x => x.1 = e && x.2.src = src && x.2.home = home then s
  else { s with pathWaits := s.pathWaits.filter (fun x => x.1 ≠ e) ++ [(e, ⟨src, home, s.cycle⟩)] }

/-- CYCLE as a core reads it (R15). -/
def cycleOf (s : State) (core : Nat) : Word := s.cycle + BitVec.ofNat 64 (Config.cycleLead core % 9)

/-! ### General, vector and predicate registers -/

/-- g(r); g0 reads 0. -/
def g (s : State) (r : Reg) : Word := if r = 0#5 then 0 else s.me.g[r.toNat]

/-- Write g(r); a write to g0 is discarded. -/
def setG (s : State) (r : Reg) (x : Word) : State :=
  if r = 0#5 then s else s.setMe { s.me with g := s.me.g.set r.toNat x }

/-- v(r). -/
def v (s : State) (r : Reg) : VReg := s.me.v[r.toNat]

/-- Write v(r). -/
def setV (s : State) (r : Reg) (x : VReg) : State := s.setMe { s.me with v := s.me.v.set r.toNat x }

/-- p(r); p0 reads all ones. -/
def p (s : State) (r : BitVec 3) : Pred := if r = 0#3 then BitVec.allOnes 128 else s.me.p[r.toNat]

/-- Write p(r); a write to p0 is discarded. -/
def setP (s : State) (r : BitVec 3) (x : Pred) : State :=
  if r = 0#3 then s else s.setMe { s.me with p := s.me.p.set r.toNat x }

/-! ### Retiring, jumping, blocking -/

/-- A word of the executing thread counts in its interval on a paired core, which has not matched with the next word
(R98). -/
def countInterval (s : State) : State :=
  let c := s.myCore
  if c.paired then
    s.setMyCore { c with
      interval := c.interval.set s.curTid.toNat (c.interval[s.curTid.toNat]'s.curTid.isLt + 1) s.curTid.isLt
      matched := c.matched &&& ~~~(1#4 <<< s.curTid.toNat) }
  else s

/-- Count the retired word: INSTRET, cover remainder, interval of a paired core; the thread is no longer blocked. -/
def countRetired (s : State) : State :=
  let t := s.me
  (s.setMe { t with
    instret := t.instret + 1, cover := t.cover - 1, wait := none, op := none, lane := 0, forest := none,
    fixMask := none, pathSince := none }).countInterval

/-- Set the pc; its bits 1:0 are always 0. -/
def setPc (s : State) (pc : Word) : State := s.setMe { s.me with pc := pc &&& ~~~3#64 }

/-- Retire: the pc moves to the next word. -/
def retire (s : State) : State := (s.setPc (s.me.pc + 4)).countRetired

/-- Retire with the pc at a target: a taken branch begins a fetch block (R56). -/
def jump (s : State) (target : Word) : State :=
  let s := s.setPc target
  (s.setMe { s.me with fetched := none }).countRetired

/-- The word blocks: it has not retired and stays the word in hand. -/
def block (s : State) (i : Instr) : State := s.setMe { s.me with wait := some i }

/-! ### Members and convoys -/

/-- The instance that runs on a core. -/
def instOf (s : State) (core : Nat) : Option Inst :=
  match (s.core core).inst with
  | some k => Map.find s.insts k
  | none => none

/-- Width and height of a span as SPANSZ holds them (R14). -/
def spanW (t : Thread) : Nat := bits t.spansz.toNat 16 8
def spanH (t : Thread) : Nat := bits t.spansz.toNat 24 8

/-- The task that an instance runs. -/
def taskOf (s : State) (i : Inst) : Option Task :=
  match Map.find s.graphs i.graph with
  | some g => g.tasks[i.task]?
  | none => none

/-- The core of member k of an instance placed on a rectangle (R304). -/
def memberCoreAt (s : State) (i : Inst) (r : Rect) (k : Nat) : Nat :=
  match s.taskOf i with
  | some t =>
    let col := if t.paired then 2 * (k % t.w) else k % t.w
    coreAt r.die (r.x + col) (r.y + k / t.w)
  | none => coreAt r.die r.x r.y

/-- The core of member k of the instance that runs on a core. -/
def memberCore (s : State) (core k : Nat) : Option Nat :=
  match s.instOf core with
  | some i =>
    match i.rect with
    | some r => some (s.memberCoreAt i r k)
    | none => none
  | none => none

/-- The trap that waits once another is left to a thread: the one that waits already, unless the thread's own word raised
that, which raises it again. -/
def firstTrap (q : Option PendingTrap) (p : PendingTrap) : PendingTrap :=
  match q with
  | some x => if x.own then p else x
  | none => p

/-- A trap that a thread takes at its next boundary, unless one waits there already; a thread in WFI wakes (R90). -/
def pendTrap (s : State) (core tid : Nat) (p : PendingTrap) : State :=
  let t := s.thread core tid
  let s := s.setThread core tid { t with pending := some (firstTrap t.pending p) }
  if t.wait = some .wfi then s.enqueue (.wfiWake core tid) else s

/-- Break the convoy of a member by its trap (R97): every other member leaves it with CVB set, and one of a strict
convoy takes trap 11 at its next word. -/
def breakConvoy (s : State) : State :=
  match s.me.convoy with
  | none => s
  | some c =>
    let mine := s.me.spanix.toNat
    let s := c.members.foldl (fun s k =>
      if k = mine then s
      else
        match s.memberCore s.curCore k with
        | none => s
        | some core =>
          let t := s.thread core s.curTid.toNat
          let s := s.setThread core s.curTid.toNat { t with convoy := none, cvb := true }
          if c.strict then s.pendTrap core s.curTid.toNat ⟨11, BitVec.ofNat 64 mine, false⟩ else s) s
    s.setMe { s.me with convoy := none }

/-! ### Traps -/

/-- Suspend the REPEAT capture of a thread that has passes left, at the word it stands at (R110, R111). -/
def suspendCapture (t : Thread) (capf : Bool) : Thread :=
  match t.capture with
  | none => { t with vseq := { t.vseq with capf := capf } }
  | some c =>
    if c.suspended then { t with vseq := { t.vseq with capf := capf } }
    else if c.pass < c.passes then
      { t with
        capture := some { c with suspended := true },
        vseq := ⟨capf, true, BitVec.ofNat 4 c.word, BitVec.ofNat 5 c.pass, BitVec.ofNat 24 (c.passes - c.pass)⟩ }
    else { t with capture := none, vseq := { t.vseq with capf := capf } }

/-- Is a captured pass under way in a thread? -/
def midPass (t : Thread) : Bool :=
  match t.capture with
  | some c => !c.suspended && c.begun && c.pass < c.passes
  | none => false

/-- The entry of a trap (R86): the saved registers, the mode and the pc. The cover remainder is kept (R85), a REPEAT
capture is suspended, CAPF telling whether a captured word raised the trap (R110), and the thread begins a fetch block at
the handler. A trap of the thread's own word that waited for the captured pass under way is dropped with a fault of that
pass: EPC names the word, which raises it again. -/
def enterTrap (s : State) (capf : Bool) (cause : BitVec 8) (tval : Word) : State :=
  let s := s.breakConvoy
  let t := suspendCapture s.me capf
  s.setMe { t with
    epc := t.pc, causeCode := cause, causeAsync := cause = 15, tval := tval, pmode := t.mode, mode := .service,
    pc := s.myCore.tvec, keptCover := t.cover, cover := 0, wait := none, op := none, lane := 0, forest := none,
    fetched := none, parked := none, fixMask := none, pathSince := none, pending := t.pending.filter fun p => !p.own }

/-- Take a trap. One that no captured word raised lets the current pass of the thread's capture complete first: it is
taken at the boundary before the same word, which has had no effect (R110). -/
def takeTrapFrom (s : State) (capf : Bool) (cause : BitVec 8) (tval : Word) : State :=
  if !capf && midPass s.me then
    s.setMe { s.me with pending := some (s.me.pending.getD ⟨cause, tval, true⟩), wait := none, op := none, parked := none }
  else s.enterTrap capf cause tval

/-- Take a trap that no captured word raised. -/
def takeTrap (s : State) (cause : BitVec 8) (tval : Word) : State := s.takeTrapFrom false cause tval

/-- Resume the suspended capture at WORD of the recorded pass (R110); with REMAIN 0 it has ended. A capture that is not
suspended goes on as it is. -/
def resumeCapture (t : Thread) : Thread :=
  if t.vseq.act then
    { t with
      capture := t.capture.bind fun c =>
        if !c.suspended then some c
        else if t.vseq.remain = 0 then none
        else some { c with
          suspended := false, begun := t.vseq.word ≠ 0, word := t.vseq.word.toNat, pass := t.vseq.kmod.toNat,
          passes := t.vseq.kmod.toNat + t.vseq.remain.toNat }
      vseq := { t.vseq with act := false } }
  else t

/-- Return from a trap (R89, R85, R110): pc := EPC, MODE := PMODE, PMODE unchanged, the kept cover remainder restored,
a suspended capture resumed, whose words enter the sequencer's order anew. A service core copies PMODE as any other does
(R19), 0 included, which R11 leaves open (log 36). -/
def returnFromTrap (s : State) : State :=
  let t := s.me
  let s := (s.setMe (resumeCapture { t with mode := t.pmode, keptCover := 0 })).jump t.epc
  let s := s.setMe { s.me with cover := t.keptCover }
  match s.me.capture with
  | none => s
  | some c =>
    let x := s.myCore
    let s := if t.vseq.act then
        (s.setMe { s.me with capture := some { c with stamp := x.queued } }).setMyCore { x with queued := x.queued + 1 }
      else s
    s.enqueue (.repeatPass s.curCore s.curTid.toNat)

/-- The word in a register that a privilege trap records (R87): the instruction word. -/
def privTval (i : Instr) : Word := (encode i).setWidth 64

/-- Is the thread in service mode? -/
def inService (s : State) : Bool := s.me.mode = .service

/-! ### Wake events, mailboxes, notifications -/

/-- The event that may release a thread from the word it is blocked in. -/
def releaseEvent (core tid : Nat) : Instr → Option Instr
  | .mbwait _ _ _ => some (.mbwaitRelease core tid)
  | .wait _ => some (.waitRelease core tid)
  | .arrive _ => some (.waitRelease core tid)
  | .xphase _ => some (.waitRelease core tid)
  | .cphase _ => some (.waitRelease core tid)
  | .wfi => some (.wfiWake core tid)
  | .xrecv _ _ => some (.xrecvRelease core tid)
  | .await _ _ => some (.awaitRelease core tid)
  | .cdrain _ => some (.cdrainRelease core tid)
  | .mwait _ _ => some (.mwaitRelease core tid)
  | .waitpred => some (.waitpredRelease core tid)
  | .drwait _ _ => some (.drwaitRelease core tid)
  | .drfix _ _ _ => some (.drfixRelease core tid)
  | .convoy _ _ => some (.convoyForm core tid)
  | .convoyS _ _ => some (.convoyForm core tid)
  | .xsend _ _ _ _ => some (.xsendSlot core tid)
  | _ => none

/-- Let the blocked threads of a core look at their condition again. -/
def notifyCore (s : State) (core : Nat) : State :=
  (List.range 4).foldl (fun s tid =>
    match (s.thread core tid).wait with
    | some w =>
      match releaseEvent core tid w with
      | some e => s.enqueue e
      | none => s
    | none => s) s

/-- A wake event for the threads of a core that stand in WFI (R90). -/
def wakeCore (s : State) (core : Nat) : State :=
  (List.range 4).foldl (fun s tid =>
    let t := s.thread core tid
    if t.wait = some .wfi then s.setThread core tid { t with wake := true } else s) s

/-- A mailbox of a core changes (R162): its waiting threads look again. Mailboxes of a contained core change no more
(R351). -/
def setMailbox (s : State) (core : Nat) (n : BitVec 4) (x : BitVec 32) : State :=
  let c := s.core core
  if c.contained then s
  else ((s.setCore core { c with mb := c.mb.set n.toNat x n.isLt }).wakeCore core).notifyCore core

/-- Increment a mailbox; a saturated one does not change (R162), and no event occurs (R90). -/
def incMailbox (s : State) (core : Nat) (n : BitVec 4) : State :=
  let x := (s.core core).mb[n.toNat]'n.isLt
  if x = BitVec.allOnes 32 then s else s.setMailbox core n (x + 1)

/-- A die's notification: with EN set, increment mailbox MB of service core SCORE. -/
def notify (s : State) (die : Nat) (n : Note) : State :=
  if n.en then s.incMailbox (serviceCore die n.score.toNat) n.mb else s

/-! ### Barrier channels -/

/-- A channel that a thread acts on (R158). -/
inductive ChanRef where
  | core (c : Nat)
  /-- The span channel of an instance. -/
  | span (inst : Nat)
  /-- A span channel that belongs to no resident instance. -/
  | noSpan
  | die (die ch : Nat)
  | pkg (ch : Nat)
  deriving DecidableEq, Repr

/-- CID of member 0 of a resident instance, with its die. -/
def spanOrigin (i : Inst) : Option (Nat × Nat) :=
  match i.rect with
  | some r => some (r.die, r.y * 64 + r.x)
  | none => none

/-- The instance that owns a span channel of a die. -/
def spanOwner (s : State) (die ch : Nat) : ChanRef :=
  match s.insts.find? (fun e => spanOrigin e.2 = some (die, ch)) with
  | some e => .span e.1
  | none => .noSpan

/-- The channel that a thread's DOMAIN.LEVEL selects; none if the level has no channel (R158, R16). -/
def chanOf (s : State) (core : Nat) (t : Thread) : Option ChanRef :=
  match t.domain.level.toNat with
  | 0 => some (.core core)
  | 1 => some (s.spanOwner (dieOf core) t.domain.spanch.toNat)
  | 2 => if t.domain.diev then some (.die (dieOf core) t.domain.diech.toNat) else none
  | _ => if t.domain.pkgv then some (.pkg t.domain.pkgch.toNat) else none

/-- The bitmaps and phase of a channel. -/
def channel (s : State) : ChanRef → Channel
  | .core c => (s.core c).chan
  | .span k => match Map.find s.insts k with
    | some i => i.chan
    | none => Channel.empty
  | .noSpan => Channel.empty
  | .die d k => Map.get Channel.empty (s.die d).chans k
  | .pkg k => Map.get Channel.empty s.pkgChans k

/-- Replace a channel. -/
def setChannel (s : State) (r : ChanRef) (x : Channel) : State :=
  match r with
  | .core c => s.setCore c { s.core c with chan := x }
  | .span k => match Map.find s.insts k with
    | some i => { s with insts := Map.insert s.insts k { i with chan := x } }
    | none => s
  | .noSpan => s
  | .die d k => s.setDie d { s.die d with chans := Map.insert (s.die d).chans k x }
  | .pkg k => { s with pkgChans := Map.insert s.pkgChans k x }

/-- The bitmap key and bit of a thread in a channel (R158); none for a thread that a span channel cannot hold. -/
def chanBit (s : State) (core : Nat) (t : Thread) : ChanRef → Option (Nat × Nat)
  | .core c => if core = c then some (0, t.tid.toNat) else none
  | .span k =>
    if (s.core core).inst = some k then
      some (t.spanix.toNat / 16, 4 * (t.spanix.toNat % 16) + t.tid.toNat)
    else none
  | .noSpan => none
  | .die _ _ => if isTaskCore core then some (clusterOf core, 4 * coreInCluster core + t.tid.toNat) else none
  | .pkg _ => if isTaskCore core then some (clusterOf core, 4 * coreInCluster core + t.tid.toNat) else none

/-- A bitmap with one bit set. -/
def bitmapSet (m : Map (BitVec 64)) (key bit : Nat) : Map (BitVec 64) :=
  Map.put 0 m key (Map.get 0 m key ||| (1#64 <<< bit))

/-- A bitmap with one bit cleared. -/
def bitmapClear (m : Map (BitVec 64)) (key bit : Nat) : Map (BitVec 64) :=
  Map.put 0 m key (Map.get 0 m key &&& ~~~(1#64 <<< bit))

/-- Is a bit of a bitmap set? -/
def bitmapHas (m : Map (BitVec 64)) (key bit : Nat) : Bool := (Map.get 0 m key).getLsbD bit

/-- Does the phase complete: arrivals equal membership and some bit is set (R158)? -/
def phaseDone (c : Channel) : Bool := c.members = c.arrived && c.members.any fun e => e.2 ≠ 0

/-- Does a thread's DOMAIN name a barrier channel? -/
def namesChan (s : State) (core : Nat) (t : Thread) : ChanRef → Bool
  | .core _ => false
  | .noSpan => false
  | .span k => s.spanOwner (dieOf core) t.domain.spanch.toNat = .span k
  | .die d k => t.domain.diev && dieOf core = d && t.domain.diech.toNat = k
  | .pkg k => t.domain.pkgv && t.domain.pkgch.toNat = k

/-- Threads that wait on a channel look again, and those in WFI whose DOMAIN names it wake (R90). -/
def notifyChan (s : State) (r : ChanRef) : State :=
  s.threads.foldl (fun s e =>
    let core := e.1 / 4
    match e.2.wait with
    | some .wfi =>
      if s.namesChan core e.2 r then
        (s.setThreadAt e.1 { s.threadAt e.1 with wake := true }).enqueue (.wfiWake core (e.1 % 4))
      else s
    | some w =>
      if s.chanOf core e.2 = some r then
        match releaseEvent core (e.1 % 4) w with
        | some ev => s.enqueue ev
        | none => s
      else s
    | none => s) s

/-- A contained member of a channel: the window base that cause 13 reports (R161). -/
def containedMember (s : State) (r : ChanRef) : Option Word :=
  let hit := s.threads.find? fun e =>
    (s.core (e.1 / 4)).contained &&
      (match s.chanBit (e.1 / 4) e.2 r with
      | some (k, b) => bitmapHas (s.channel r).members k b
      | none => false)
  hit.map fun e => 0x1000000 + (e.2.spanix.setWidth 64) * 0x40000

/-- The cycle at which the first frame of 16 cycles after a cycle begins (R163, R322). -/
def frameAfter (now : Word) : Word := (now &&& ~~~15#64) + 16

/-- Does the saved thread of an instance act on a die or package channel when it resumes (R158)? A span or core channel
completes no phase while its members are saved. -/
def savedNames (s : State) (i : Inst) (t : Thread) : ChanRef → Bool
  | .die d k => t.domain.level = 2 && t.domain.diev && t.domain.diech.toNat = k && Map.find (s.die d).chanHolder k = some i.graph
  | .pkg k => t.domain.level = 3 && t.domain.pkgv && t.domain.pkgch.toNat = k && Map.find s.pkgHolder k = some i.graph
  | _ => false

/-- The exchange clocks of the threads that arrived by XPHASE at a phase of a channel begin in one frame, and the arrival
counts of their cores restart (R163): of threads that wait, of those that a trap took from their XPHASE, and of those that
are saved (R147). -/
def beginExchange (s : State) (r : ChanRef) (phase : BitVec 32) : State :=
  let at_ := frameAfter s.cycle
  let s := s.threads.foldl (fun s e =>
    if e.2.xArrived = some phase && !e.2.inPhase && s.chanOf (e.1 / 4) e.2 = some r then
      let s := s.setCore (e.1 / 4) { s.core (e.1 / 4) with arrivals := 0 }
      s.setThreadAt e.1 { s.threadAt e.1 with xbase := at_ }
    else s) s
  if s.insts.all fun e => e.2.ctx.isNone then s
  else
    let saved (i : Inst) (x : MemberCtx) : MemberCtx :=
      let hit (t : Thread) : Bool := t.xArrived = some phase && s.savedNames i t r
      if x.threads.any hit then
        { x with
          threads := x.threads.map fun t => if hit t then { t with xbase := at_ } else t
          core := { x.core with arrivals := 0 } }
      else x
    { s with insts := s.insts.map fun e => (e.1, { e.2 with ctx := e.2.ctx.map fun xs => xs.map (saved e.2) }) }

/-- Set a channel's bitmaps and complete the phase if they agree (R158): the phase count advances, every arrival bit
clears, and the exchange clocks of the threads that arrived by XPHASE begin (R163). -/
def settleChannel (s : State) (r : ChanRef) (c : Channel) : State :=
  if phaseDone c && (s.containedMember r).isNone then
    ((s.setChannel r { c with arrived := [], phase := c.phase + 1 }).beginExchange r c.phase).notifyChan r
  else s.setChannel r c

end State

end Sys2Proof.Machine
end

