-- ==== Sys2Proof/Machine/MatShape.lean ====
section
/-! DEFINITION. The matrix shape (R130), the format pairs (R64), the position of a member in its matrix group (R137), and
the own-scratchpad bytes that a queued matrix word has still to write (R128). -/

namespace Sys2Proof.Machine

/-- Fields of a matrix shape (R130). -/
def shM (x : Word) : Nat := bits x.toNat 0 8
def shN (x : Word) : Nat := bits x.toNat 8 8
def shK (x : Word) : Nat := bits x.toNat 16 15
def shALD (x : Word) : Nat := bits x.toNat 32 12
def shBLD (x : Word) : Nat := bits x.toNat 44 12
/-- Width and height of the matrix group. -/
def shGW (x : Word) : Nat := bits x.toNat 56 3 + 1
def shGH (x : Word) : Nat := bits x.toNat 60 2 + 1

/-- The result of MSHAPE for a shape (R130). -/
def shapeCode (x : Word) : Nat :=
  if shM x = 0 || 128 < shM x || shN x = 0 || 128 < shN x then 1
  else if shK x = 0 || 16384 < shK x then 2
  else if shALD x = 0 || shBLD x = 0 then 3
  else if x.getLsbD 63 || x.getLsbD 62 || x.getLsbD 59 || x.getLsbD 31 then 4
  else 0

/-- A format pair (R64): format codes of A and B, whether MX or CB2 scales apply, k-step, k-panel, integer pair. -/
structure MatPair where
  a : Nat
  b : Nat
  mx : Bool
  cb2 : Bool
  kstep : Nat
  kp : Nat
  int : Bool
  deriving DecidableEq, Repr

/-- The table of R64, with the k-panels of R138. -/
def matPair (f : BitVec 6) : MatPair :=
  match f.toNat with
  | 0 => ⟨1, 1, false, false, 32, 64, false⟩
  | 1 => ⟨2, 2, false, false, 32, 64, false⟩
  | 2 => ⟨11, 11, false, false, 64, 128, false⟩
  | 3 => ⟨11, 12, false, false, 64, 128, false⟩
  | 4 => ⟨12, 11, false, false, 64, 128, false⟩
  | 5 => ⟨12, 12, false, false, 64, 128, false⟩
  | 6 => ⟨11, 11, true, false, 64, 128, false⟩
  | 7 => ⟨12, 12, true, false, 64, 128, false⟩
  | 8 => ⟨13, 13, true, false, 64, 128, false⟩
  | 9 => ⟨14, 14, true, false, 64, 128, false⟩
  | 10 => ⟨15, 15, true, false, 128, 256, false⟩
  | 11 => ⟨17, 11, false, true, 128, 128, false⟩
  | 12 => ⟨5, 5, false, false, 64, 128, true⟩
  | _ => ⟨6, 5, false, false, 128, 128, true⟩

/-- Does a queued word read the magnitude table? -/
def usesCb2 : Instr → Bool
  | .mma _ _ _ _ _ _ _ f => f = 11#6
  | .mms _ _ _ _ _ _ f => f = 11#6
  | _ => false

/-- Bytes of a slot of a staging area (R138). -/
def stageSlot : Nat := 0x4400

/-- Row and column of a member in its matrix group (R137). -/
def groupRow (t : Thread) (sh : Word) : Nat := t.spanix.toNat / State.spanW t % shGH sh
def groupCol (t : Thread) (sh : Word) : Nat := t.spanix.toNat % State.spanW t % shGW sh

/-- Element size of MSTORE's storage format (R143). -/
def storeSize (f : Reg) : Nat := if f = 1#5 || f = 2#5 then 2 else 4

/-- Rows of an MLOAD or MSTORE: address and length (R143). -/
def moveRuns (sh ga gb : Word) (size : Nat) : List (Nat × Nat) :=
  (List.range (shM sh)).map fun i => (pattern 64 (ga.toNat + i * gb.toInt), shN sh * size)

namespace State

/-- The own-scratchpad runs that a queued matrix word of a core has still to write: the rows of an MSTORE, the staging
areas of an MMS. -/
def matWrites (s : State) (core : Nat) (e : MatEntry) : List (Nat × Nat) :=
  match e.instr with
  | .mstore _ _ _ f => moveRuns e.shape e.ga e.gb (storeSize f)
  | .mms _ _ _ _ _ _ _ =>
    let t := s.thread core e.tid.toNat
    (if groupCol t e.shape ≠ 0 then [(e.ga.toNat, 2 * stageSlot)] else []) ++
      (if groupRow t e.shape ≠ 0 then [(e.gb.toNat, 2 * stageSlot)] else [])
  | _ => []

/-- Must an access to n bytes of the own scratchpad wait for a queued matrix word that writes them (R128, log 32)? -/
def matrixHazard (s : State) (core off n : Nat) : Bool :=
  (s.core core).mq.any fun e => (s.matWrites core e).any fun r => off < r.1 + r.2 && r.1 < off + n

/-- Is a word that accesses a 4 KiB block of n bytes at a key queued in the sequencer of a core, of a thread where one is
named (R128, R236, R238)? -/
def queuedIn (s : State) (core : Nat) (tid : Option Nat) (k n : Nat) : Bool :=
  (s.core core).vq.any fun e => tid.all (e.tid.toNat = ·) && e.blocks.any fun b => k / 4096 ≤ b && b ≤ (k + n - 1) / 4096

/-- Has a thread an exchange block on its way to n bytes of a scratchpad (R236)? -/
def sentTo (s : State) (core tid dst off n : Nat) : Bool :=
  s.xblocks.any fun b => b.src = core && b.tid.toNat = tid && b.dst = dst && off < b.off + b.data.length && b.off < off + n

/-- Must an access of the executing thread to its own scratchpad wait for a queued matrix word of its own that writes in
a 4 KiB block that it touches (R238), for a queued vector word of its core that accesses one (R128), or for an exchange
block of its own that is on its way there (R236)? -/
def blockHazard (s : State) (core off n : Nat) : Bool :=
  s.queuedIn core none (padBase core + off) n || core = s.curCore && (s.sentTo core s.curTid.toNat core off n ||
    (s.core core).mq.any fun e => e.tid = s.curTid && (s.matWrites core e).any fun r =>
      r.2 ≠ 0 && off / 4096 ≤ (r.1 + r.2 - 1) / 4096 && r.1 / 4096 ≤ (off + n - 1) / 4096)

/-- Has the executing thread a queued vector word that accesses memory? What orders its earlier accesses waits for it (R241,
R244). -/
def accessQueued (s : State) : Bool := s.myCore.vq.any fun e => e.tid = s.curTid && !e.blocks.isEmpty

/-- Has the executing thread a queued matrix word that has still to write its scratchpad, or a queued vector word that
accesses memory? What orders its earlier writes waits for it (R241, R244). -/
def storesQueued (s : State) : Bool :=
  s.accessQueued || s.myCore.mq.any fun e => e.tid = s.curTid && (s.matWrites s.curCore e).any fun r => r.2 ≠ 0

end State

end Sys2Proof.Machine
end

