-- ==== Sys2Proof/Machine/CopyShape.lean ====
section
/-! DEFINITION. Copy requests as data: the fields of the quad and of the shape descriptor (R187, R188), the bytes that
each kind reads and writes (R189), and the waits of R195 that follow from them. -/

namespace Sys2Proof.Machine

/-- Bits lo + n - 1 : lo of a word. -/
def wbits (x : Word) (lo n : Nat) : Nat := bits x.toNat lo n

namespace CopyRequest

/-- Fields of word 0 (R187). -/
def kind (r : CopyRequest) : Nat := wbits r.word0 0 4
def sfmt (r : CopyRequest) : Nat := wbits r.word0 4 5
def dfmt (r : CopyRequest) : Nat := wbits r.word0 9 5
def mx (r : CopyRequest) : Bool := wbits r.word0 17 1 = 1
def dir (r : CopyRequest) : Bool := wbits r.word0 18 1 = 1
def scope (r : CopyRequest) : Nat := wbits r.word0 22 2
def len (r : CopyRequest) : Nat := wbits r.word0 24 40

/-- Fields of word 3 (R187). -/
def cmode (r : CopyRequest) : Nat := wbits r.word3 0 2
def num (r : CopyRequest) : Nat := wbits r.word3 3 4
def remote (r : CopyRequest) : Bool := wbits r.word3 11 1 = 1
def member (r : CopyRequest) : Nat := wbits r.word3 12 6
def shp (r : CopyRequest) : Nat := wbits r.word3 18 14

/-- n bytes of the descriptor from an offset, as a number. -/
def descNat (r : CopyRequest) (off n : Nat) : Nat := ofLe ((r.desc.drop off).take n)

/-- Fields of the shape descriptor (R188). -/
def rows (r : CopyRequest) : Nat := r.descNat 0 4
def cols (r : CopyRequest) : Nat := r.descNat 4 4
def sstride (r : CopyRequest) : Int := signed 64 (r.descNat 8 8)
def dstride (r : CopyRequest) : Int := signed 64 (r.descNat 16 8)
def idxAddr (r : CopyRequest) : Nat := r.descNat 24 8
def rb (r : CopyRequest) : Nat := r.descNat 32 8
def scales (r : CopyRequest) : Nat := r.descNat 40 8
def scpitch (r : CopyRequest) : Int := signed 64 (r.descNat 48 8)
def mcW (r : CopyRequest) : Nat := bits (r.descNat 56 8) 0 7
def mcH (r : CopyRequest) : Nat := bits (r.descNat 56 8) 8 6
def origin (r : CopyRequest) : Nat := bits (r.descNat 56 8) 16 6
def freeMb (r : CopyRequest) : Nat := bits (r.descNat 56 8) 24 4

/-- Is the request two-dimensional (R189)? -/
def is2d (r : CopyRequest) : Bool :=
  r.kind = 1 || r.kind = 2 || r.kind = 9 || (r.kind = 8 && r.len = 0)

/-- Rows and columns of the extent: a one-dimensional request is one row; GATHER and SCATTER have LEN rows of RB
bytes. -/
def extRows (r : CopyRequest) : Nat := if r.is2d then r.rows else if r.kind = 3 || r.kind = 4 then r.len else 1
def extCols (r : CopyRequest) : Nat := if r.is2d then r.cols else if r.kind = 3 || r.kind = 4 then r.rb else r.len

/-- Elements of the extent. -/
def count (r : CopyRequest) : Nat := r.extRows * r.extCols

/-- An address from an integer, modulo 2^64. -/
def addr (x : Int) : Nat := pattern 64 x

/-- Index entry of row i (R189). -/
def index (r : CopyRequest) (i : Nat) : Int := ((r.idx.getD i 0).toNat : Int)

/-- Byte offset of column j of a row in a format. -/
def colOff (fmt j : Nat) : Nat := j * formatWidth fmt / 8

/-- Rows and columns of a tile of a format (R28). -/
def tileRows (fmt : Nat) : Nat := if 16 ≤ formatWidth fmt then 32 else 64
def tileCols (fmt : Nat) : Nat := if formatWidth fmt = 32 then 32 else if formatWidth fmt = 4 then 128 else 64

/-- Byte offset of element (i, j) of contiguous row-major tiles that hold COLS columns (R189). -/
def tileOff (r : CopyRequest) (i j : Nat) : Nat :=
  let tr := tileRows r.sfmt
  let tc := tileCols r.sfmt
  (i / tr * ceilDiv r.cols tc + j / tc) * 4096 + colOff r.sfmt (i % tr * tc + j % tc)

/-- Address of the source of element (i, j) of the extent; base is SRC. -/
def srcAddr (r : CopyRequest) (i j : Nat) : Nat :=
  let b : Int := r.src.toNat
  if r.kind = 3 then addr (b + r.index i * r.sstride + j)
  else if r.kind = 9 && !r.dir then addr (b + r.tileOff i j)
  else if r.is2d || r.kind = 4 then addr (b + i * r.sstride + colOff r.sfmt j)
  else addr (b + colOff r.sfmt j)

/-- Address of the destination of element (i, j) of the extent, from a base. -/
def dstAddr (r : CopyRequest) (base : Word) (i j : Nat) : Nat :=
  let b : Int := base.toNat
  if r.kind = 2 then addr (b + j * r.dstride + colOff r.dfmt i)
  else if r.kind = 4 then addr (b + r.index i * r.dstride + j)
  else if r.kind = 9 && r.dir then addr (b + r.tileOff i j)
  else if r.is2d || r.kind = 3 then addr (b + i * r.dstride + colOff r.dfmt j)
  else addr (b + colOff r.dfmt j)

/-- Address of scale k of row i (R190). -/
def scaleAddr (r : CopyRequest) (i k : Nat) : Nat :=
  if r.is2d then addr ((r.scales : Int) + i * r.scpitch + k) else r.scales + k

/-- Does the request quantise, that is write scales? -/
def quantises (r : CopyRequest) : Bool := r.kind = 8 && r.mx && r.sfmt ≤ 2

/-- Does the request decode MX blocks, that is read scales? -/
def decodesMx (r : CopyRequest) : Bool := r.kind = 8 && r.mx && 11 ≤ r.sfmt

/-- Bytes of one element, one at least. -/
def elemBytes (fmt : Nat) : Nat := max 1 (formatWidth fmt / 8)

/-- Columns of a unit of a request. -/
def step (r : CopyRequest) : Nat :=
  if r.quantises then 32 else if formatWidth r.sfmt = 4 || formatWidth r.dfmt = 4 then 2 else 1

/-- Elements in 4 KiB of destination progress (R197). -/
def perPage (r : CopyRequest) : Nat := if formatWidth r.dfmt = 4 then 8192 else 4096 / elemBytes r.dfmt

/-- Does a cursor stand at a 4 KiB boundary of destination progress: at the first unit that begins in it? -/
def atBoundary (r : CopyRequest) (cursor : Nat) : Bool := cursor % r.perPage < r.step

/-- Does some element of the extent satisfy a condition? -/
def anyElem (r : CopyRequest) (f : Nat → Nat → Bool) : Bool :=
  (List.range r.extRows).any fun i => (List.range r.extCols).any fun j => f i j

end CopyRequest

/-- Do two runs of bytes meet? -/
def runsMeet (a n b m : Nat) : Bool := a < b + m && b < a + n

/-- Offset in the own scratchpad of an address in the own region or the own window (R21, R22). -/
def ownOffset (spanix va : Nat) : Option Nat :=
  if va < Config.padSize then some va
  else
    let w := 0x1000000 + spanix * Config.padSize
    if w ≤ va && va < w + Config.padSize then some (va - w) else none

/-- Does an access to n bytes at an address meet n' bytes of the own scratchpad at off? -/
def meetsOwn (spanix va n off n' : Nat) : Bool :=
  match ownOffset spanix va with
  | some o => runsMeet o n off n'
  | none => false

namespace State

/-- Base of a stream's destination: its ring slot once claimed, DST otherwise (R201). -/
def streamBase (r : CopyRequest) (ringAddr : Option Word) : Word := ringAddr.getD r.dst

/-- Has an accepted request bytes of the own scratchpad that it has not yet read, or not yet written, among n bytes at
off? Elements before the cursor are done. A stream of CMODE 2 that has not claimed its slot has no destination yet, and holds
back no access to the bytes of a slot (DESIGN CHOICE, log 36: R195 does not say). -/
def requestMeets (spanix : Nat) (r : CopyRequest) (ringAddr : Option Word) (ringWait : Bool) (cursor : Nat) (reads : Bool)
    (off n : Nat) : Bool :=
  let todo (i j : Nat) : Bool := cursor ≤ i * r.extCols + j
  if reads then
    r.kind ≠ 7 && r.anyElem (fun i j => todo i j && meetsOwn spanix (r.srcAddr i j) (CopyRequest.elemBytes r.sfmt) off n) ||
      r.decodesMx && r.anyElem (fun i j => todo i j && meetsOwn spanix (r.scaleAddr i (j / 32)) 1 off n)
  else if r.kind = 5 || ringWait then false
  else
    r.anyElem (fun i j => todo i j && meetsOwn spanix (r.dstAddr (streamBase r ringAddr) i j)
      (CopyRequest.elemBytes r.dfmt) off n) ||
      r.quantises && r.anyElem (fun i j => todo i j && meetsOwn spanix (r.scaleAddr i (j / 32)) 1 off n)

/-- Must an access of a core to n bytes of its own scratchpad wait for a stream accepted before it (R195)? Requests
accepted at or after the number before are later ones. -/
def streamHazard (s : State) (core : Nat) (before : Nat) (write : Bool) (off n : Nat) : Bool :=
  let c := s.core core
  if c.fifo.isEmpty && c.streams.isEmpty then false
  else
    let ix := (s.thread core 0).spanix.toNat
    let one (r : CopyRequest) (ringAddr : Option Word) (cursor : Nat) : Bool :=
      r.seq < before &&
        (requestMeets ix r ringAddr (r.cmode = 2 && ringAddr.isNone) cursor false off n ||
          write && requestMeets ix r ringAddr false cursor true off n)
    c.fifo.any (fun r => one r none 0) || c.streams.any fun e => !e.2.stopped && one e.2.req e.2.ringAddr e.2.cursor

/-- Must an access to the own scratchpad wait at issue (R195, R128, R238)? -/
def padHazard (s : State) (core : Nat) (write : Bool) (off n : Nat) : Bool :=
  s.streamHazard core (s.core core).copySeq write off n || s.matrixHazard core off n || s.blockHazard core off n

end State

end Sys2Proof.Machine
end

