-- ==== Sys2Proof/Machine/Float.lean ====
section
/-! DEFINITION. Floating-point values, exact arithmetic on them, and the one rounding (R35 to R43). -/

namespace Sys2Proof.Machine

/-- A value: NaN, an infinity, or (−1)^neg × m × 2^e exactly. -/
inductive Fp where
  | nan
  | inf (neg : Bool)
  | fin (neg : Bool) (m : Nat) (e : Int)
  deriving DecidableEq, Repr

/-- Parameters of a format with a sign bit (R36). -/
structure FpFormat where
  ebits : Nat
  mbits : Nat
  bias : Nat
  /-- Code of +infinity, if the format has one. -/
  infCode : Option Nat
  /-- Canonical NaN, if the format has one. -/
  nanCode : Option Nat
  maxCode : Nat
  deriving DecidableEq, Repr

/-- The format table of R36, by format code; FP32 for a code that names no such format. -/
def fpFormat (c : Nat) : FpFormat :=
  match c with
  | 1 => ⟨8, 7, 127, some 0x7F80, some 0x7FC0, 0x7F7F⟩
  | 2 => ⟨5, 10, 15, some 0x7C00, some 0x7E00, 0x7BFF⟩
  | 11 => ⟨4, 3, 7, none, some 0x7F, 0x7E⟩
  | 12 => ⟨5, 2, 15, some 0x7C, some 0x7E, 0x7B⟩
  | 13 => ⟨2, 3, 1, none, none, 0x1F⟩
  | 14 => ⟨3, 2, 3, none, none, 0x1F⟩
  | 15 => ⟨2, 1, 1, none, none, 0x7⟩
  | _ => ⟨8, 23, 127, some 0x7F800000, some 0x7FC00000, 0x7F7FFFFF⟩

/-- Bits below the sign. -/
def FpFormat.magBits (f : FpFormat) : Nat := f.ebits + f.mbits

/-- The value of a code (R35, R36); bits above the sign are ignored (R38). -/
def fpDecode (c code : Nat) : Fp :=
  if c = 16 then (if code % 256 = 255 then .nan else .fin false 1 ((code % 256 : Nat) - 127))
  else
    let f := fpFormat c
    let neg := bits code f.magBits 1 = 1
    let mag := code % 2 ^ f.magBits
    let e := mag / 2 ^ f.mbits
    let m := mag % 2 ^ f.mbits
    if f.infCode = some mag then .inf neg
    else if f.maxCode < mag then .nan
    else if e = 0 then .fin neg m (1 - (f.bias : Int) - f.mbits)
    else .fin neg (2 ^ f.mbits + m) ((e : Int) - f.bias - f.mbits)

/-- Flags in the order of VSTAT and FSTAT bits 0 to 4 (R17, R43). -/
structure Flags where
  invalid : Bool := false
  overflow : Bool := false
  underflow : Bool := false
  inexact : Bool := false
  divzero : Bool := false
  nonfinite : Bool := false
  deriving DecidableEq, Repr

/-- No flag. -/
def Flags.none : Flags := {}

/-- Flags raised by either of two operations. -/
def Flags.or (a b : Flags) : Flags :=
  ⟨a.invalid || b.invalid, a.overflow || b.overflow, a.underflow || b.underflow, a.inexact || b.inexact,
    a.divzero || b.divzero, a.nonfinite || b.nonfinite⟩

/-- Only invalid. -/
def Flags.inv : Flags := { invalid := true }

/-- The quotient of m by 2^s rounded by a mode (R39); sticky: the true value lies above m. Answers the rounded
quotient and whether it is inexact. -/
def roundShift (mode : Nat) (neg : Bool) (m s : Nat) (sticky : Bool) : Nat × Bool :=
  let q := m / 2 ^ s
  let r := m % 2 ^ s
  let inexact := r ≠ 0 || sticky
  -- twice the remainder against the divisor: below, at or above half
  let above := 2 ^ s < 2 * r || (2 ^ s = 2 * r && sticky)
  let tie := 2 ^ s = 2 * r && !sticky
  let up :=
    match mode with
    | 0 => above || (tie && q % 2 = 1)
    | 1 => false
    | 2 => inexact && neg
    | 3 => inexact && !neg
    | _ => above || tie
  (if up then q + 1 else q, inexact)

/-- What an overflow delivers (R40). -/
def overflowCode (c mode : Nat) (sat neg : Bool) : Nat × Flags :=
  let f := fpFormat c
  let sgn := if neg then 2 ^ f.magBits else 0
  match f.infCode with
  | some i =>
    let towardZero := mode = 1 || (mode = 2 && !neg) || (mode = 3 && neg)
    (sgn + (if sat || towardZero then f.maxCode else i), { overflow := true, inexact := true })
  | none =>
    match f.nanCode with
    | some n => if sat then (sgn + f.maxCode, { overflow := true, inexact := true }) else (n, { overflow := true })
    | none => (sgn + f.maxCode, { overflow := true, inexact := true })

/-- Round a finite value (−1)^neg × (m + δ) × 2^e, δ in (0, 1) if sticky, to a format with a sign (R39 to R41, R43). -/
def roundFinite (c mode : Nat) (sat neg : Bool) (m : Nat) (e : Int) (sticky : Bool) : Nat × Flags :=
  let f := fpFormat c
  let noNegZero := f.nanCode.isNone
  let sgn := if neg then 2 ^ f.magBits else 0
  if m = 0 && !sticky then ((if noNegZero then 0 else sgn), {})
  else
    let qmin : Int := 1 - (f.bias : Int) - f.mbits
    let top : Int := (log2 m : Int) + e
    let q : Int := max (top - f.mbits) qmin
    let m' := if q < e then m * 2 ^ (e - q).toNat else m
    let s := (q - e).toNat
    let (k, inexact) := roundShift mode neg m' s sticky
    let code := (q - qmin).toNat * 2 ^ f.mbits + k
    if f.maxCode < code then overflowCode c mode sat neg
    else
      let tiny := decide (top < qmin + f.mbits)
      (if code = 0 && noNegZero then 0 else sgn + code,
        { inexact := inexact, underflow := inexact && tiny })

/-- Conversion to E8M0 (R374). -/
def roundE8M0 (mode : Nat) : Fp → Nat × Flags
  | .nan => (0xFF, {})
  | .inf false => (0xFE, { overflow := true })
  | .inf true => (0xFF, Flags.inv)
  | .fin neg m e =>
    if m = 0 then (0x00, { inexact := true })
    else if neg then (0xFF, Flags.inv)
    else
      let k : Int := (log2 m : Int) + e
      if k < -127 then (0x00, { underflow := true, inexact := true })
      else
        let exact := m = 2 ^ log2 m
        -- compare 2m with 3 × 2^log2 m: below, at or above the middle of 2^k and 2^(k + 1)
        let twice := 2 * m
        let mid := 3 * 2 ^ log2 m
        let up :=
          !exact && (match mode with
            | 0 => mid < twice || (mid = twice && (k + 127).toNat % 2 = 1)
            | 1 => false
            | 2 => false
            | 3 => true
            | _ => mid ≤ twice)
        let k' := if up then k + 1 else k
        if 127 < k' then (0xFE, { overflow := true })
        else ((k' + 127).toNat, { inexact := !exact })

/-- What a NaN source delivers (R37, R40). -/
def nanCode (c : Nat) : Nat × Flags :=
  if c = 16 then (0xFF, {})
  else
    match (fpFormat c).nanCode with
    | some n => (n, {})
    | none => (2 ^ (fpFormat c).magBits, Flags.inv)

/-- What an infinite source delivers (R40). -/
def infCode (c : Nat) (sat neg : Bool) : Nat × Flags :=
  let f := fpFormat c
  let sgn := if neg then 2 ^ f.magBits else 0
  match f.infCode with
  | some i => (sgn + i, {})
  | none =>
    match f.nanCode with
    | some n => if sat then (sgn + f.maxCode, { overflow := true }) else (n, { overflow := true })
    | none => (sgn + f.maxCode, { overflow := true })

/-- Round an exact value to a floating format (R39 to R41, R43, R374). -/
def fpRound (c mode : Nat) (sat : Bool) (x : Fp) : Nat × Flags :=
  if c = 16 then roundE8M0 mode x
  else
    match x with
    | .nan => nanCode c
    | .inf neg => infCode c sat neg
    | .fin neg m e => roundFinite c mode sat neg m e false

/-- The integer nearest to a value by a mode, and whether it is inexact. -/
def roundToInt (mode : Nat) (neg : Bool) (m : Nat) (e : Int) (sticky : Bool) : Int × Bool :=
  let (k, inexact) := if 0 ≤ e then (m * 2 ^ e.toNat, sticky) else roundShift mode neg m (-e).toNat sticky
  (if neg then -(k : Int) else k, inexact)

/-- Conversion to an integer range (R42): nearest end and invalid outside it; a NaN gives 0 and invalid. -/
def fpToInt (mode : Nat) (lo hi : Int) : Fp → Int × Flags
  | .nan => (0, Flags.inv)
  | .inf true => (lo, Flags.inv)
  | .inf false => (hi, Flags.inv)
  | .fin neg m e =>
    let (k, inexact) := roundToInt mode neg m e false
    if k < lo then (lo, Flags.inv) else if hi < k then (hi, Flags.inv) else (k, { inexact := inexact })

/-- The value of an integer. -/
def fpOfInt (x : Int) : Fp := .fin (decide (x < 0)) x.natAbs 0

/-- Sign bit inverted. -/
def Fp.neg : Fp → Fp
  | .nan => .nan
  | .inf s => .inf (!s)
  | .fin s m e => .fin (!s) m e

/-- Sign bit cleared. -/
def Fp.abs : Fp → Fp
  | .nan => .nan
  | .inf _ => .inf false
  | .fin _ m e => .fin false m e

/-- The exact sum, and invalid for ∞ − ∞. An exact zero from opposite signs is +0, −0 under mode 2 (R37). -/
def fpAdd (mode : Nat) : Fp → Fp → Fp × Flags
  | .nan, _ => (.nan, {})
  | _, .nan => (.nan, {})
  | .inf s, .inf t => if s = t then (.inf s, {}) else (.nan, Flags.inv)
  | .inf s, .fin _ _ _ => (.inf s, {})
  | .fin _ _ _, .inf t => (.inf t, {})
  | .fin s m e, .fin t n f =>
    let g := min e f
    let a : Int := (m * 2 ^ (e - g).toNat : Nat)
    let b : Int := (n * 2 ^ (f - g).toNat : Nat)
    let x := (if s then -a else a) + (if t then -b else b)
    if x = 0 then (.fin (if s = t then s else mode = 2) 0 g, {})
    else (.fin (decide (x < 0)) x.natAbs g, {})

/-- The exact product, and invalid for 0 × ∞. -/
def fpMul : Fp → Fp → Fp × Flags
  | .nan, _ => (.nan, {})
  | _, .nan => (.nan, {})
  | .inf s, .inf t => (.inf (s != t), {})
  | .inf s, .fin t n _ => if n = 0 then (.nan, Flags.inv) else (.inf (s != t), {})
  | .fin s m _, .inf t => if m = 0 then (.nan, Flags.inv) else (.inf (s != t), {})
  | .fin s m e, .fin t n f => (.fin (s != t) (m * n) (e + f), {})

/-- x × y + z exactly; 0 × ∞ is invalid whatever z is (R80). -/
def fpFma (mode : Nat) (x y z : Fp) : Fp × Flags :=
  let (p, fl) := fpMul x y
  let (r, fl') := fpAdd mode p z
  (r, fl.or fl')

/-- Is a value a zero? -/
def Fp.isZero : Fp → Bool
  | .fin _ m _ => m = 0
  | _ => false

/-- x / y rounded once (R80): flags of the division and of the rounding. -/
def fpDivRound (c mode : Nat) (sat : Bool) : Fp → Fp → Nat × Flags
  | .nan, _ => nanCode c
  | _, .nan => nanCode c
  | .inf s, .inf t => ((nanCode c).1, let _ := (s, t); Flags.inv)
  | .inf s, .fin t _ _ => fpRound c mode sat (.inf (s != t))
  | .fin s _ _, .inf t => fpRound c mode sat (.fin (s != t) 0 0)
  | .fin s m e, .fin t n f =>
    if n = 0 then
      if m = 0 then ((nanCode c).1, Flags.inv)
      else
        let (k, fl) := fpRound c mode sat (.inf (s != t))
        (k, fl.or { divzero := true })
    else
      let sh := 80 + log2 n
      let q := m * 2 ^ sh / n
      roundFinite c mode sat (s != t) q (e - f - sh) (m * 2 ^ sh % n ≠ 0)

/-- The square root rounded once (R80). -/
def fpSqrtRound (c mode : Nat) (sat : Bool) : Fp → Nat × Flags
  | .nan => nanCode c
  | .inf true => ((nanCode c).1, Flags.inv)
  | .inf false => fpRound c mode sat (.inf false)
  | .fin s m e =>
    if m = 0 then fpRound c mode sat (.fin s 0 0)
    else if s then ((nanCode c).1, Flags.inv)
    else
      let odd := e % 2 ≠ 0
      let x := m * 2 ^ (if odd then 81 else 80)
      let r := isqrt x
      let e' := (if odd then e - 1 else e) / 2 - 40
      roundFinite c mode sat false r e' (r * r ≠ x)

/-- x < y for values that are not NaN; −0 = +0. -/
def fpLt : Fp → Fp → Bool
  | .nan, _ => false
  | _, .nan => false
  | .inf s, .inf t => s && !t
  | .inf s, .fin _ _ _ => s
  | .fin _ _ _, .inf t => !t
  | .fin s m e, .fin t n f =>
    let g := min e f
    let a : Int := (m * 2 ^ (e - g).toNat : Nat)
    let b : Int := (n * 2 ^ (f - g).toNat : Nat)
    decide ((if s then -a else a) < (if t then -b else b))

/-- x = y for values that are not NaN; −0 = +0. -/
def fpEq : Fp → Fp → Bool
  | .nan, _ => false
  | _, .nan => false
  | x, y => !fpLt x y && !fpLt y x

/-- Is a value NaN? -/
def Fp.isNan : Fp → Bool
  | .nan => true
  | _ => false

/-- The sign of a value that is not NaN. -/
def Fp.isNeg : Fp → Bool
  | .nan => false
  | .inf s => s
  | .fin s _ _ => s

/-- FMIN and FMAX on codes of one format (R80): one NaN gives the other operand, two the canonical NaN; −0 < +0. -/
def fpMinMax (c : Nat) (wantMax : Bool) (x y : Nat) : Nat :=
  let a := fpDecode c x
  let b := fpDecode c y
  match a.isNan, b.isNan with
  | true, true => (nanCode c).1
  | true, false => y
  | false, true => x
  | false, false =>
    let less := fpLt a b || (fpEq a b && a.isNeg && !b.isNeg)
    if wantMax then (if less then y else x) else (if less then x else y)

/-- One rounded addition on codes of a format. -/
def fpAddCode (c mode : Nat) (sat : Bool) (x y : Nat) : Nat × Flags :=
  let (v, fl) := fpAdd mode (fpDecode c x) (fpDecode c y)
  let (k, fl') := fpRound c mode sat v
  (k, fl.or fl')

/-- One rounded multiplication on codes of a format. -/
def fpMulCode (c mode : Nat) (sat : Bool) (x y : Nat) : Nat × Flags :=
  let (v, fl) := fpMul (fpDecode c x) (fpDecode c y)
  let (k, fl') := fpRound c mode sat v
  (k, fl.or fl')

/-- Convert a code between floating formats. -/
def fpConvert (src dst mode : Nat) (sat : Bool) (x : Nat) : Nat × Flags := fpRound dst mode sat (fpDecode src x)

/-- The addition that atomics, REDUCE and lineage deltas use: nearest-even, SAT 0, no flag (R156, R190). -/
def fpAddRne (c x y : Nat) : Nat := (fpAddCode c 0 false x y).1

/-- FCLASS (R80). -/
def fpClass (x : Nat) : Nat :=
  match fpDecode 0 x with
  | .nan => 8
  | .inf true => 0
  | .inf false => 7
  | .fin neg m _ =>
    let normal := decide (2 ^ 23 ≤ m)
    if m = 0 then (if neg then 3 else 4)
    else if neg then (if normal then 1 else 2)
    else (if normal then 6 else 5)

end Sys2Proof.Machine
end

