-- ==== Sys2Proof/Machine/Phys.lean ====
section
/-! DEFINITION. Physical memory: the bytes of device memory and of scratchpads, encryption by key slot (R273),
poison (R348, R350), the end of admission by a write (R71), and the error log of a die (R356, R357). -/

namespace Sys2Proof.Machine

/-- The canonical form of memory: addresses rise strictly, and no entry holds the 0 that an unlisted address reads as. -/
def Memory.wf (m : Memory) : Bool := Map.wf (0 : Byte) m

/-- The physical regions of R257 and R331. -/
inductive PhysRegion where
  /-- GDDR7 of a die. -/
  | gddr (die : Nat)
  /-- Second tier behind a port. -/
  | tier2 (port : Nat)
  /-- Service block of a cluster of a die, and the offset in it. -/
  | clusterBlock (cluster off : Nat)
  /-- Service block of a die, and the offset in it. -/
  | dieBlock (die off : Nat)
  /-- Byte of a remote endpoint. -/
  | remote (endpoint off : Nat)
  | unpopulated
  deriving DecidableEq, Repr

/-- Bytes of a CXL port's second tier (R257). -/
def tier2Size : Nat := 768000000000

/-- The region of a physical address (R257, R331). -/
def physRegion (pa : Nat) : PhysRegion :=
  if pa < 2 ^ 39 then .gddr (pa / 2 ^ 37)
  else if 0xF000000000000 ≤ pa then
    let d := (pa - 0xF000000000000) / 2 ^ 32
    let off := pa % 2 ^ 32
    if Config.dies ≤ d then .unpopulated
    else if off < 0x800000 then .clusterBlock (d * 128 + off / 2 ^ 16) (off % 2 ^ 16)
    else if off < 0x810000 then .dieBlock d (off - 0x800000)
    else .unpopulated
  else if 0xE000000000000 ≤ pa then .remote ((pa - 0xE000000000000) / 2 ^ 36) (pa % 2 ^ 36)
  else if 2 ^ 48 ≤ pa then
    let p := (pa - 2 ^ 48) / 2 ^ 40
    if p < 8 && pa % 2 ^ 40 < tier2Size then .tier2 p else .unpopulated
  else .unpopulated

/-- The die that performs accesses to a physical address. -/
def homeOfPhys (pa : Nat) : Nat :=
  match physRegion pa with
  | .gddr d => d
  | .tier2 p => p / 2
  | .clusterBlock c _ => c / 128
  | .dieBlock d _ => d
  | _ => 0

namespace State

/-- The byte at a key of memory. -/
def memByte (s : State) (k : Nat) : Byte := Map.get 0 s.mem k

/-- Write the byte at a key of memory; a zero byte is not listed. -/
def putByte (s : State) (k : Nat) (b : Byte) : State := { s with mem := Map.put 0 s.mem k b }

/-- The keys that a slot of a die holds (R274). -/
def keyOf (s : State) (die slot : Nat) : KeyMat := Map.get (.boot die slot) (s.die die).keys slot

/-! ### Poison -/

/-- First key of the unit of poison that holds a byte: 64 bytes of device memory, 4 of a scratchpad (R348). -/
def poisonUnit (k : Nat) : Nat := if 2 ^ 52 ≤ k then k / 4 * 4 else k / 64 * 64

/-- Is a byte in a poisoned unit, of its array or of the base SRAM that caches it? -/
def isPoisoned (s : State) (k : Nat) : Bool :=
  s.poison.contains (poisonUnit k) || s.sramPoison.contains (k / 8 * 8)

/-- The first byte of a run that lies in a poisoned unit. -/
def poisonIn (s : State) (k n : Nat) : Option Nat :=
  if s.poison.isEmpty && s.sramPoison.isEmpty then none else (List.range n).map (k + ·) |>.find? s.isPoisoned

/-- Poison the unit of a byte. -/
def setPoison (s : State) (k : Nat) : State := { s with poison := setInsert s.poison (poisonUnit k) }

/-- The base SRAM writes back the 64 bytes of words that satisfy a condition: the poison of a word of them covers them all
(R350). -/
def writeBackWhere (s : State) (f : Nat → Bool) : State :=
  (s.sramPoison.filter f).foldl setPoison { s with sramPoison := s.sramPoison.filter fun u => !f u }

/-- The base SRAM writes back the 64 bytes that hold an address. -/
def writeBackUnit (s : State) (pa : Nat) : State := s.writeBackWhere fun u => u / 64 = pa / 64

/-- The words of a second-tier frame go back with the piece that is written back (R258, R350). -/
def writeBackPiece (s : State) (p : Piece) : State := if p.modified then s.writeBackWhere fun u => u / 2 ^ 16 = p.frame else s

/-- Clear the poison of every unit all of whose bytes have been written (R350). -/
def coverPoison (s : State) (written : Nat → Bool) : State :=
  { s with
    poison := s.poison.filter fun u => !((List.range (if 2 ^ 52 ≤ u then 4 else 64)).all fun i => written (u + i))
    sramPoison := s.sramPoison.filter fun u => !((List.range 8).all fun i => written (u + i)) }

/-- Clear the poison of the units that a run covers. -/
def coverRun (s : State) (k n : Nat) : State :=
  if s.poison.isEmpty && s.sramPoison.isEmpty then s else s.coverPoison fun x => k ≤ x && x < k + n

/-! ### Scratchpads -/

/-- Bytes of a core's scratchpad. -/
def padRead (s : State) (core off n : Nat) : List Byte :=
  (List.range n).map fun i => s.memByte (padBase core + off + i)

/-- Write bytes one after the other. -/
def putBytes (s : State) (k : Nat) : List Byte → State
  | [] => s
  | b :: r => putBytes (s.putByte k b) (k + 1) r

/-- Write bytes of a core's scratchpad. -/
def padWrite (s : State) (core off : Nat) (bs : List Byte) : State :=
  (s.putBytes (padBase core + off) bs).coverRun (padBase core + off) bs.length

/-! ### Pools that no mapping may name (R260, R284, R329) -/

/-- Do two ranges meet? An empty range meets none. -/
def rangesMeet (a n b m : Nat) : Bool := n ≠ 0 && m ≠ 0 && a < b + m && b < a + n

/-- Bytes of the migration pool, the overflow region and the lineage pool of a die. -/
def migBytes (d : Die) : Nat := d.migsize.toNat * 2 ^ 16
def seoBytes (d : Die) : Nat := d.seosize.toNat * 2 ^ 16
def lpBytes (d : Die) : Nat := d.lpsize.toNat * 4096

/-- Does a run meet the migration pool, the lineage pool, the overflow region of a die? -/
def meetsMig (d : Die) (pa n : Nat) : Bool := rangesMeet pa n (d.migbase.toNat * 2 ^ 16) (migBytes d)
def meetsLp (d : Die) (pa n : Nat) : Bool := rangesMeet pa n (d.lpbase.toNat * 2 ^ 16) (lpBytes d)
def meetsSeo (d : Die) (pa n : Nat) : Bool := rangesMeet pa n (d.seobase.toNat * 2 ^ 16) (seoBytes d)

/-- A run of bytes without those of another: what is left of it before and after. -/
def carveRun (pa n : Nat) (r : Nat × Nat) : List (Nat × Nat) :=
  if rangesMeet pa n r.1 r.2 then
    [(r.1, pa - r.1), (pa + n, r.1 + r.2 - (pa + n))].filter fun e => e.2 ≠ 0
  else [r]

/-- Bytes that a mapping writes hold what it writes. -/
def carve (s : State) (pa n : Nat) : State := { s with blurred := s.blurred.flatMap (carveRun pa n) }

/-- A write to n bytes ends the admission of every frame that it touches (R71). -/
def endAdmission (s : State) (pa n : Nat) : State :=
  { s with admitted := s.admitted.filter fun f => f < pa / 0x10000 || (pa + n - 1) / 0x10000 < f }

/-- A pool writes into a run of its own bytes: what they are is not architectural (R260, R284, R329), and the frames there
are admitted no more (R68, R71). -/
def blur (s : State) (pa n : Nat) : State :=
  if n = 0 then s
  else
    let s := s.endAdmission pa n
    if s.blurred.contains (pa, n) then s else { s with blurred := (pa, n) :: s.blurred }

/-- The migration pool, the lineage pool, the overflow region of a die take what belongs there. -/
def blurMig (s : State) (die : Nat) : State := s.blur ((s.die die).migbase.toNat * 2 ^ 16) (migBytes (s.die die))
def blurLp (s : State) (die : Nat) : State := s.blur ((s.die die).lpbase.toNat * 2 ^ 16) (lpBytes (s.die die))
def blurSeo (s : State) (die : Nat) : State := s.blur ((s.die die).seobase.toNat * 2 ^ 16) (seoBytes (s.die die))

/-- Has a pool written a byte since a mapping did? -/
def isBlurred (s : State) (pa : Nat) : Bool := s.blurred.any fun r => r.1 ≤ pa && pa < r.1 + r.2

/-! ### Device memory under a key -/

/-- The byte at a physical address decrypted under a key: another key, or a byte lost by a write under another key,
gives an unrelated byte (R273). So does a byte that a pool has written for itself (R260, R284, R329). -/
def physByte (s : State) (pa : Nat) (key : KeyMat) : Byte :=
  if s.isBlurred pa then Config.unrelatedByte s.free pa
  else
  match Map.find s.tags (pa / 16) with
  | none => s.memByte pa
  | some t =>
    if t.key = key && !t.lost.getLsbD (pa % 16) then s.memByte pa else Config.unrelatedByte s.free pa

/-- Bytes from a physical address on, under a key slot of the home die. -/
def physRead (s : State) (pa n slot : Nat) : List Byte :=
  let key := s.keyOf (homeOfPhys pa) slot
  (List.range n).map fun i => s.physByte (pa + i) key

/-- Record the key under which a byte is written. -/
def tagByte (s : State) (pa : Nat) (key : KeyMat) : State :=
  let bit : BitVec 16 := 1#16 <<< (pa % 16)
  let t : LineTag :=
    match Map.find s.tags (pa / 16) with
    | none => ⟨key, 0⟩
    | some t => if t.key = key then ⟨key, t.lost &&& ~~~bit⟩ else ⟨key, ~~~bit⟩
  { s with tags := Map.insert s.tags (pa / 16) t }

/-- Write bytes under a key, one after the other. -/
def physPut (s : State) (pa : Nat) (key : KeyMat) : List Byte → State
  | [] => s
  | b :: r => physPut ((s.putByte pa b).tagByte pa key) (pa + 1) key r

/-! ### What a write into a pool destroys (R260, R284, R329) -/

/-- The contents of a block of a die's pool become unpredictable. -/
def lostBlock (s : State) (die k : Nat) : Block → Block
  | .replace data p key => .replace (if p = die then Config.lostBytes (s.free + k) else data) p key
  | .add delta p key => .add (if p = die then Config.lostCodes (s.free + k) else delta) p key

/-- The contents of every node whose blocks lie in a die's pool become unpredictable (R284). -/
def loseNodes (s : State) (die : Nat) : State :=
  { s with nodes := s.nodes.map fun e => (e.1, { e.2 with
      elems := e.2.elems.map fun b => (b.1, s.lostBlock die b.1 b.2)
      scales := e.2.scales.map fun b => (b.1, s.lostBlock die b.1 b.2) }) }

/-- The contents of the forests and slots of a die become unpredictable (R329). -/
def loseObjects (s : State) (die : Nat) (d : Die) : State :=
  { s with dies := Map.insert s.dies die { d with
      forests := d.forests.map fun e => (e.1, { e.2 with
        parent := Config.lostNumbers (s.free + 3 * e.1), size := Config.lostNumbers (s.free + 3 * e.1 + 1),
        log := Config.lostNumbers (s.free + 3 * e.1 + 2) })
      slots := d.slots.map fun e => (e.1, { e.2 with
        part := Config.lostWords (s.free + e.1)
        contribs := e.2.contribs.map fun c => { c with data := Config.lostWords (s.free + e.1 + c.i) } }) } }

/-- The second-tier pieces resident in a die's pool become unpredictable (R260): their bytes count as written under
another key. -/
def losePieces (s : State) (d : Die) : State :=
  { s with tags := d.pieces.foldl (fun m p => (List.range 4096).foldl (fun m i =>
      Map.insert m (p.frame * 4096 + i) ⟨.loaded 0, BitVec.allOnes 16⟩) m) s.tags }

/-- A write through a mapping that names a pool: what lies there becomes unpredictable. -/
def disturbPools (s : State) (pa n : Nat) : State :=
  s.dies.foldl (fun s e =>
    let s := if meetsLp e.2 pa n then s.loseNodes e.1 else s
    let s := if meetsSeo e.2 pa n then s.loseObjects e.1 e.2 else s
    if meetsMig e.2 pa n then s.losePieces e.2 else s) s

/-- Write bytes to a physical address under a key slot: the write clears the poison of units it covers and the
admission of the frames; what a pool holds there is lost, and the bytes read as written (R260, R284, R329). -/
def physWrite (s : State) (pa slot : Nat) (bs : List Byte) : State :=
  match bs with
  | [] => s
  | _ =>
    ((((s.physPut pa (s.keyOf (homeOfPhys pa) slot) bs).coverRun pa bs.length).endAdmission pa bs.length).carve pa
      bs.length).disturbPools pa bs.length

/-! ### Error log -/

/-- The word at offset 0x08 of an error record (R356). -/
def recordWord (kind unit code sub loc cluster die : Nat) : Nat :=
  kind % 256 * 2 ^ 56 + unit % 256 * 2 ^ 48 + code % 256 * 2 ^ 40 + 2 ^ 32 + sub % 32 * 2 ^ 24 +
    loc % 4096 * 2 ^ 12 + cluster % 128 * 2 ^ 4 + die % 4

/-- Append an error record to a die's ring (R357): a full ring drops it into ERRLOST. -/
def errorRecord (s : State) (die kind unit code sub loc cluster addr synd : Nat) : State :=
  let d := s.die die
  let count := d.errsize.toNat
  if count ≤ 1 || (d.errtail.toNat + 1) % count = d.errhead.toNat then
    s.setDie die { d with errlost := d.errlost + 1 }
  else
    let pa := d.errbase.toNat * 2 ^ 16 + d.errtail.toNat * 32
    let bytes := leBytes 8 s.cycle.toNat ++ leBytes 8 (recordWord kind unit code sub loc cluster die) ++
      leBytes 8 addr ++ leBytes 8 synd
    let s := s.physWrite pa d.errkey.toNat bytes
    let s := s.setDie die { s.die die with errtail := BitVec.ofNat 16 ((d.errtail.toNat + 1) % count) }
    s.notify die d.errnote

/-- A record about a core (units 1 to 9). -/
def coreRecord (s : State) (core kind unit code sub addr synd : Nat) : State :=
  let loc := if isTaskCore core then cidOf core else 0
  let cluster := if isTaskCore core then clusterOf core % 128 else 0
  s.errorRecord (dieOf core) kind unit code sub loc cluster addr synd

end State

end Sys2Proof.Machine
end

