-- ==== Sys2Proof/Machine/NodeStore.lean ====
section
/-! DEFINITION. The lineage store: geometry of a node's planes (R28, R172), resolution (R29, R279), pool blocks (R281,
R282, R285), stores with copy-on-write (R30, R179), loss of a child, splice, retirement, fork, flatten (R173 to R178). -/

namespace Sys2Proof.Machine

/-- A plane of a node: element width and dimensions. -/
structure Plane where
  w : Nat
  n0 : Nat
  n1 : Nat
  n2 : Nat
  n3 : Nat
  deriving DecidableEq, Repr

namespace Plane

/-- Rows and columns of a tile (R28). -/
def tr (p : Plane) : Nat := if 16 ≤ p.w then 32 else 64
def tc (p : Plane) : Nat := if p.w = 32 then 32 else if p.w = 4 then 128 else 64

/-- Tiles of the innermost two dimensions. -/
def t0 (p : Plane) : Nat := ceilDiv p.n0 p.tc
def t1 (p : Plane) : Nat := ceilDiv p.n1 p.tr

/-- Blocks of the plane. -/
def blocks (p : Plane) : Nat := p.n3 * p.n2 * p.t1 * p.t0

/-- Elements of a tile. -/
def tileSize (p : Plane) : Nat := p.tr * p.tc

/-- Block and element in the tile of an element (R28). -/
def place (p : Plane) (i3 i2 i1 i0 : Nat) : Nat × Nat :=
  (((i3 * p.n2 + i2) * p.t1 + i1 / p.tr) * p.t0 + i0 / p.tc, i1 % p.tr * p.tc + i0 % p.tc)

/-- Does an element of a block lie within the shape, rather than being padding (R28)? -/
def inShape (p : Plane) (q idx : Nat) : Bool :=
  let i0 := q % p.t0 * p.tc + idx % p.tc
  let i1 := q / p.t0 % p.t1 * p.tr + idx / p.tc
  q < p.blocks && i0 < p.n0 && i1 < p.n1

/-- Block and element of the logical element number (i0 innermost). -/
def placeLinear (p : Plane) (k : Nat) : Nat × Nat :=
  p.place (k / p.n0 / p.n1 / p.n2) (k / p.n0 / p.n1 % p.n2) (k / p.n0 % p.n1) (k % p.n0)

end Plane

end Sys2Proof.Machine

namespace Sys2Proof

/-- The element plane of a shape. -/
def TensorShape.elemPlane (t : TensorShape) : Machine.Plane := ⟨Machine.formatWidth t.fmt.toNat, t.n0, t.n1, t.n2, t.n3⟩

/-- The scale plane (R172). -/
def TensorShape.scalePlane (t : TensorShape) : Machine.Plane := ⟨8, Machine.ceilDiv t.n0 32, t.n1, t.n2, t.n3⟩

/-- A plane of a shape: false elements, true scales. -/
def TensorShape.plane (t : TensorShape) (scale : Bool) : Machine.Plane := if scale then t.scalePlane else t.elemPlane

/-- Blocks over both planes. -/
def TensorShape.allBlocks (t : TensorShape) : Nat := t.elemPlane.blocks + if t.sp then t.scalePlane.blocks else 0

end Sys2Proof

namespace Sys2Proof.Machine

/-- The code of element idx in a block's bytes. -/
def blockCode (data : Memory) (w idx : Nat) : Nat :=
  let byte (k : Nat) : Nat := (Map.get (0 : Byte) data k).toNat
  if w = 4 then byte (idx / 2) / 16 ^ (idx % 2) % 16
  else ofLe ((List.range (w / 8)).map fun j => Map.get (0 : Byte) data (idx * (w / 8) + j))

/-- Bytes put into a block from an offset on. -/
def putBlockBytes (data : Memory) (off : Nat) : List Byte → Memory
  | [] => data
  | b :: r => putBlockBytes (Map.put 0 data off b) (off + 1) r

/-- The code of element idx replaced. -/
def putBlockCode (data : Memory) (w idx code : Nat) : Memory :=
  if w = 4 then
    let old := (Map.get (0 : Byte) data (idx / 2)).toNat
    let new := if idx % 2 = 0 then old / 16 * 16 + code % 16 else code % 16 * 16 + old % 16
    Map.put 0 data (idx / 2) (BitVec.ofNat 8 new)
  else putBlockBytes data (idx * (w / 8)) (leBytes (w / 8) code)

/-- fa of R182: rounded to nearest-even in a floating format, saturated in an S format. -/
def lineageAdd (fmt x y : Nat) : Nat :=
  if isFloatFormat fmt then fpAddRne fmt x y
  else
    let w := formatWidth fmt
    let z := signed w x + signed w y
    let lo : Int := -(2 ^ (w - 1) : Nat)
    let hi : Int := (2 ^ (w - 1) : Nat) - 1
    pattern w (max lo (min hi z))

namespace Node

/-- The blocks of a plane that have an entry. -/
def blocks (n : Node) (scale : Bool) : Map Block := if scale then n.scales else n.elems

/-- Replace the blocks of a plane. -/
def setBlocks (n : Node) (scale : Bool) (m : Map Block) : Node :=
  if scale then { n with scales := m } else { n with elems := m }

/-- The node whose block an absent or ADD block resolves through (R279). -/
def source (n : Node) : Option Nat :=
  match n.pendingOn with
  | some m => some m
  | none => n.parent

/-- Is the node a bound root whose flatten is not complete? -/
def bound (n : Node) : Bool := n.pendingOn.isSome

/-- Poison key of a 64-byte unit. -/
def poisonKey (scale : Bool) (q off : Nat) : Nat := (if scale then 2 ^ 40 else 0) + q * 64 + off / 64

/-- Poison key of an 8-byte word of base SRAM; the unit that holds it has an eighth of it as its key. -/
def fineKey (scale : Bool) (q off : Nat) : Nat := (if scale then 2 ^ 43 else 0) + q * 512 + off / 8

/-- Plane and block of an 8-byte word by its key. -/
def fineBlock (u : Nat) : Bool × Nat := (decide (2 ^ 43 ≤ u), u % 2 ^ 43 / 512)

/-- Is a byte of a block of the node in a poisoned unit? -/
def badAt (n : Node) (scale : Bool) (q off : Nat) : Bool :=
  n.poison.contains (poisonKey scale q off) || n.fine.contains (fineKey scale q off)

/-- The base SRAM writes words of blocks of the node back: their poison covers their 64 bytes (R350). -/
def carryFine (n : Node) (f : Nat → Bool) : Node :=
  { n with fine := n.fine.filter fun u => !f u, poison := (n.fine.filter f).foldl (fun l u => setInsert l (u / 8)) n.poison }

end Node

/-- The pool die of a block. -/
def Block.pool : Block → Nat
  | .replace _ p _ => p
  | .add _ p _ => p

/-- The key under which a block was written. -/
def Block.key : Block → KeyMat
  | .replace _ _ k => k
  | .add _ _ k => k

namespace State

/-- The node in a slot. -/
def node (s : State) (k : Nat) : Option Node := Map.find s.nodes k

/-- Replace the node in a slot. -/
def setNode (s : State) (k : Nat) (n : Node) : State := { s with nodes := Map.insert s.nodes k n }

/-- The slot that a handle names (R27): null, a stale generation and a retired node name none. -/
def nodeOf (s : State) (handle : Nat) : Option (Nat × Node) :=
  let slot := handle % 2 ^ 20
  match s.node slot with
  | some n =>
    if n.gen.toNat = handle / 2 ^ 20 % 2 ^ 12 && n.st ≠ .retired && handle % 2 ^ 32 ≠ 0 then some (slot, n) else none
  | none => none

/-- The handle of a slot (R27). -/
def handleOf (s : State) (slot : Nat) : Nat :=
  match s.node slot with
  | some n => n.gen.toNat * 2 ^ 20 + slot
  | none => 0

/-- Children of a node, pending bound roots included (R174, R186). -/
def children (s : State) (k : Nat) : List Nat :=
  (s.nodes.filter fun e => e.2.parent = some k || e.2.pendingOn = some k).map (·.1)

/-- Does a node have a child? -/
def hasChild (s : State) (k : Nat) : Bool := s.nodes.any fun e => e.2.parent = some k || e.2.pendingOn = some k

/-- Do the keys loaded now read what a block holds? After another key was loaded, it reads unrelated bytes (R289). -/
def keyFits (s : State) (n : Node) (b : Block) : Bool := s.keyOf b.pool n.key.toNat = b.key

/-- What a block reads as after its key was replaced. -/
def unrelatedBlock (s : State) (slot q : Nat) : Memory :=
  (List.range 4096).map fun i => (i, Config.unrelatedByte s.free (2 ^ 60 + (slot * 2 ^ 27 + q) * 4096 + i))

/-- The resolved bytes of a block (R29, R279). -/
def resolveBlock (s : State) : Nat → Nat → Bool → Nat → Memory
  | 0, _, _, _ => []
  | fuel + 1, slot, scale, q =>
    match s.node slot with
    | none => []
    | some n =>
      let up : Memory := match n.source with
        | some m => resolveBlock s fuel m scale q
        | none => []
      match Map.find (n.blocks scale) q with
      | none => up
      | some b =>
        if !s.keyFits n b then s.unrelatedBlock slot q
        else
          match b with
          | .replace data _ _ => data
          | .add delta _ _ =>
            let w := (n.shape.plane scale).w
            delta.foldl (fun d e =>
              putBlockCode d w e.1 (lineageAdd n.shape.fmt.toNat (blockCode d w e.1) e.2.toNat)) up

/-- Steps of a walk: at most 8, and the block itself (R29). -/
def resolve (s : State) (slot : Nat) (scale : Bool) (q : Nat) : Memory := s.resolveBlock 10 slot scale q

/-- Does the resolution of a byte read a poisoned unit (R350): of the bytes, of a directory entry or of the node's own
entry? -/
def resolvePoison (s : State) : Nat → Nat → Bool → Nat → Nat → Bool
  | 0, _, _, _, _ => false
  | fuel + 1, slot, scale, q, off =>
    match s.node slot with
    | none => false
    | some n =>
      let up : Bool := match n.source with
        | some m => resolvePoison s fuel m scale q off
        | none => false
      n.badEntries.any (fun e => e = none || e = some (scale, q)) ||
      match Map.find (n.blocks scale) q with
      | none => n.badAt scale q off || up
      | some (.replace _ _ _) => n.badAt scale q off
      | some (.add _ _ _) => n.badAt scale q off || up

/-- Is no unit of any node poisoned? -/
def nodesClean (s : State) : Bool := 
  s.nodes.all fun e => e.2.poison.isEmpty && e.2.badEntries.isEmpty && e.2.fine.isEmpty

/-- Does the resolution of a 64-byte unit of a block read poison? -/
def unitPoisoned (s : State) (slot : Nat) (scale : Bool) (q u : Nat) : Bool :=
  (List.range 8).any fun w => s.resolvePoison 10 slot scale q (u * 64 + 8 * w)

/-- The poison keys of a block as it resolves. -/
def resolvedPoison (s : State) (slot : Nat) (scale : Bool) (q : Nat) : List Nat :=
  if s.nodesClean then []
  else ((List.range 64).filter (s.unitPoisoned slot scale q)).map fun u => Node.poisonKey scale q (u * 64)

/-! ### Pool blocks -/

/-- Directory entries of the nodes homed on a die: blocks with an entry and pending blocks (R278). -/
def dirEntries (s : State) (die : Nat) : Nat :=
  s.nodes.foldl (fun a e =>
    if e.2.home = die then
      a + (if e.2.bound then e.2.shape.allBlocks else e.2.elems.length + e.2.scales.length)
    else a) 0

/-- Free pool blocks of the package (TINFO selector 8). -/
def freeBlocks (s : State) : Nat := ((List.range Config.dies).map fun d => (s.die d).lfree.toNat).sum

/-- LFREE of a die changes; a fall below LWARN.LEVEL notifies (R286). -/
def setLfree (s : State) (d : Nat) (x : Nat) : State :=
  let old := (s.die d).lfree.toNat
  let s := s.setDie d { s.die d with lfree := BitVec.ofNat 64 x }
  let level := (s.die d).lwarn.toNat
  if level ≤ old && x < level then s.notify d (s.die d).lnote else s

/-- The pool from which the home die takes a block (R282). -/
def poolFor (s : State) (home : Nat) : Option Nat :=
  if 2 ^ 25 ≤ s.dirEntries home then none
  else ((List.range 4).map fun k => (home + k) % 4).find? fun d => (s.die d).lfree ≠ 0

/-- Take a block: the pool die. -/
def takeBlock (s : State) (home : Nat) : Option (Nat × State) :=
  match s.poolFor home with
  | some d => some (d, (s.setLfree d ((s.die d).lfree.toNat - 1)).blurLp d)
  | none => none

/-- Count an event that found no block (R286). -/
def refuseSpace (s : State) (home : Nat) : State :=
  s.setDie home { s.die home with lrefuse := (s.die home).lrefuse + 1 }

/-- Count a copy-on-write or a first root-block write (R283). -/
def countCopy (s : State) (home : Nat) : State :=
  s.setDie home { s.die home with lcopy := (s.die home).lcopy + 1 }

/-- Write a REPLACE block into a node from a pool die, and its directory entry: the pool of the ADD block that it replaces,
which is freed after it (R281). -/
def putReplace (s : State) (slot : Nat) (n : Node) (scale : Bool) (q pool : Nat) (data : Memory) (poison : List Nat) :
    Option Nat × State :=
  let n' := n.setBlocks scale (Map.insert (n.blocks scale) q (.replace data pool (s.keyOf pool n.key.toNat)))
  ((Map.find (n.blocks scale) q).map Block.pool, (s.setNode slot { n' with
    poison := poison.foldl setInsert n'.poison
    fine := n'.fine.filter fun u => Node.fineBlock u ≠ (scale, q)
    badEntries := n'.badEntries.filter (· ≠ some (scale, q)) }).blurLp pool)

/-- The block that the flatten of a node looks at: plane and block. -/
def flatBlock (n : Node) : Option (Bool × Nat) :=
  let e := n.shape.elemPlane.blocks
  if n.flatAt < e then some (false, n.flatAt)
  else if n.flatAt < n.shape.allBlocks then some (true, n.flatAt - e)
  else none

/-- Is a block of a node REPLACE by itself? -/
def isReplace (n : Node) (scale : Bool) (q : Nat) : Bool :=
  match Map.find (n.blocks scale) q with
  | some (.replace _ _ _) => true
  | _ => false

/-- The next block of a flatten is materialised in a pool block taken for it (R178): the pool of the block that this
frees. -/
def materialise (s : State) (slot : Nat) (n : Node) (scale : Bool) (q pool : Nat) : Option Nat × State :=
  let n' := { n with flatAt := n.flatAt + 1, flatWaits := false }
  let (old, s') := s.putReplace slot n' scale q pool (s.resolve slot scale q) (s.resolvedPoison slot scale q)
  (old, s'.setDie n.home { s'.die n.home with lmat := (s'.die n.home).lmat + 1 })

/-- The flatten that has waited for a block since the earliest start, of those whose home has room in its directory. -/
def oldestWaiting (s : State) : Option Nat :=
  let ws := s.nodes.filter fun e => e.2.st = .flattening && e.2.flatWaits && s.dirEntries e.2.home < 2 ^ 25
  (ws.find? fun e => ws.all fun f => e.2.flatSeq ≤ f.2.flatSeq).map (·.1)

/-- Use a freed block of a pool: its reserve takes it first, then the oldest waiting flatten, and LFREE last (R285). -/
def giveBack (s : State) (pool : Nat) : Nat → State
  | 0 => s.setLfree pool ((s.die pool).lfree.toNat + 1)
  | fuel + 1 =>
    let d := s.die pool
    if d.lresv.toNat < 64 then s.setDie pool { d with lresv := d.lresv + 1 }
    else
      match s.oldestWaiting with
      | none => s.setLfree pool (d.lfree.toNat + 1)
      | some k =>
        match s.node k with
        | none => s.setLfree pool (d.lfree.toNat + 1)
        | some n =>
          match flatBlock n with
          | none => s.setLfree pool (d.lfree.toNat + 1)
          | some (scale, q) =>
            if isReplace n scale q then
              giveBack ((s.setNode k { n with flatWaits := false }).enqueue (.flattenMaterialise k)) pool fuel
            else
              match s.materialise k n scale q pool with
              | (some p, s) => giveBack (s.enqueue (.flattenMaterialise k)) p fuel
              | (none, s) => s.enqueue (.flattenMaterialise k)

/-- Free a pool block (R285). -/
def freeBlock (s : State) (pool : Nat) : State := s.giveBack pool (s.nodes.length + 1)

/-- Free the block that a step gave back, if it gave one back. -/
def freed : Option Nat × State → State
  | (some p, s) => s.freeBlock p
  | (none, s) => s

/-- Write a REPLACE block into a node from a pool die; an ADD block that it replaces is returned after it (R281). -/
def installReplace (s : State) (slot : Nat) (n : Node) (scale : Bool) (q pool : Nat) (data : Memory)
    (poison : List Nat) : State := freed (s.putReplace slot n scale q pool data poison)

/-- Materialise the next block of a flatten (R178, R287); without a free block the flatten waits (R286). -/
def flattenStep (s : State) (slot : Nat) : State :=
  match s.node slot with
  | none => s
  | some n =>
    if n.st ≠ .flattening then s
    else
      match flatBlock n with
      | none => s
      | some (scale, q) =>
        if isReplace n scale q then s.setNode slot { n with flatAt := n.flatAt + 1 }
        else
          match s.takeBlock n.home with
          | none =>
            if n.flatWaits then s
            else (s.setNode slot { n with flatWaits := true }).refuseSpace n.home
          | some (pool, s') => freed (s'.materialise slot n scale q pool)

/-- The flattens that wait for a block take those of LFREE, the oldest first. -/
def serveWaiting (s : State) : Nat → State
  | 0 => s
  | fuel + 1 =>
    match s.oldestWaiting with
    | none => s
    | some k =>
      match s.node k with
      | none => s
      | some n =>
        if (s.poolFor n.home).isSome then serveWaiting ((s.flattenStep k).enqueue (.flattenMaterialise k)) fuel else s

/-- Copy the resolved block into a node as REPLACE if its own block is not REPLACE (R30, R179); none without space. -/
def ownBlock (s : State) (slot : Nat) (n : Node) (scale : Bool) (q : Nat) : Option State :=
  if isReplace n scale q then some s
  else
    match s.takeBlock n.home with
    | none => none
    | some (pool, s') =>
      some ((s'.installReplace slot n scale q pool (s.resolve slot scale q) (s.resolvedPoison slot scale q)).countCopy
        n.home)

/-- Bytes written into a REPLACE block of a node; padding keeps +0 codes (R184). The nibble, if given, alone is written
(R154). -/
def writeOwn (s : State) (slot : Nat) (scale : Bool) (q off : Nat) (bs : List Byte) (nibble : Option (Nat × Nat)) :
    State :=
  match s.node slot with
  | none => s
  | some n =>
    let pl := n.shape.plane scale
    let old := match Map.find (n.blocks scale) q with
      | some b => if s.keyFits n b then (match b with | .replace d _ _ => d | .add _ _ _ => []) else s.unrelatedBlock slot q
      | none => []
    let pool := match Map.find (n.blocks scale) q with
      | some b => b.pool
      | none => n.home
    let data :=
      match nibble with
      | some (i, code) => if pl.inShape q i then putBlockCode old 4 i code else old
      | none =>
        if pl.w = 4 then
          (List.range bs.length).foldl (fun d j =>
            let b := (bs.getD j 0).toNat
            let i := 2 * (off + j)
            let d := if pl.inShape q i then putBlockCode d 4 i (b % 16) else d
            if pl.inShape q (i + 1) then putBlockCode d 4 (i + 1) (b / 16) else d) old
        else
          (List.range bs.length).foldl (fun d j =>
            if pl.inShape q ((off + j) / (pl.w / 8)) then Map.put 0 d (off + j) (bs.getD j 0) else d) old
    (s.setNode slot (n.setBlocks scale (Map.insert (n.blocks scale) q (.replace data pool (s.keyOf pool n.key.toNat))))).blurLp
      pool

/-- Poison the units of a node that receive bytes of a poisoned source (R350). -/
def poisonOwn (s : State) (slot : Nat) (scale : Bool) (q off n : Nat) : State :=
  match s.node slot with
  | none => s
  | some nd =>
    s.setNode slot { nd with poison := (List.range n).foldl (fun l j => setInsert l (Node.poisonKey scale q (off + j))) nd.poison }

/-! ### Nodes coming and going -/

/-- The lowest number that a rising list lacks. -/
def firstGap : List Nat → Nat → Nat
  | [], n => n
  | k :: r, n => if k = n then firstGap r (n + 1) else n

/-- A free node slot: the lowest (log 18); none when 2^20 nodes exist (R168). -/
def freeSlot (s : State) : Option Nat :=
  let k := firstGap (Map.keys s.nodes) 0
  if k < 2 ^ 20 then some k else none

/-- Free node slots of the package. -/
def freeSlots (s : State) : Nat := 2 ^ 20 - s.nodes.length

/-- The generation with which a slot is issued next (R27). -/
def nextGen (s : State) (slot : Nat) : BitVec 12 :=
  let g := Map.get (0 : BitVec 12) s.nodeGen slot
  if g = 4095 then 1 else g + 1

/-- Put a new node into a slot. -/
def issueNode (s : State) (slot : Nat) (n : Node) : State :=
  let g := s.nextGen slot
  let s := { s with nodeGen := Map.insert s.nodeGen slot g }
  s.setNode slot { n with gen := g }

/-- A new root (R171). -/
def newRoot (s : State) (slot home : Nat) (shape : TensorShape) (key : BitVec 11) : State :=
  s.issueNode slot ⟨0, shape, home, key, .live, none, 0, none, [], [], 0, false, 0, [], [], []⟩

/-- Ranges of a node that has been freed, retired or spliced away fault from now on (R184). -/
def killMappings (s : State) (slot : Nat) : State :=
  { s with mappings := s.mappings.map fun m => if m.slot = slot then { m with gen := 0 } else m }

/-- Flattens of a die that run at once. -/
def runningFlattens : Nat := 64

/-- The queued flatten that runs now that one of the 64 before it has gone (R287). -/
def runNextFlatten (s : State) (die : Nat) : State :=
  (((s.die die).flattens.drop (runningFlattens - 1)).take 1).foldl (fun s k => s.enqueue (.flattenMaterialise k)) s

/-- Remove a node and free the blocks it holds; the next queued flatten runs in place of its own. -/
def removeNode (s : State) (slot : Nat) (blocks : List Block) : State :=
  let s := s.killMappings slot
  let s := { s with nodes := Map.erase s.nodes slot }
  let ran := (s.dies.filter fun e => (e.2.flattens.take runningFlattens).contains slot).map (·.1)
  let s := { s with dies := s.dies.map fun e => (e.1, { e.2 with flattens := setErase e.2.flattens slot }) }
  let s := ran.foldl runNextFlatten s
  blocks.foldl (fun s b => s.freeBlock b.pool) s

/-- Is node x below node c in the tree? -/
def isBelow (s : State) : Nat → Nat → Nat → Bool
  | 0, _, _ => false
  | fuel + 1, x, c =>
    match s.node x with
    | some n =>
      match n.parent with
      | some p => p = c || isBelow s fuel p c
      | none => false
    | none => false

/-- Depths of the nodes below a node fall by k. -/
def liftBelow (s : State) (c k : Nat) : State :=
  { s with nodes := s.nodes.map fun e => if s.isBelow 20 e.1 c then (e.1, { e.2 with depth := e.2.depth - k }) else e }

/-- Merge one plane of a spliced node p into its child c: the child's blocks and the parent's blocks that are freed. -/
def splicePlane (s : State) (pn cn : Node) (c : Nat) (scale : Bool) : Map Block × List Block :=
  let root := pn.parent.isNone
  (pn.blocks scale).foldl (fun acc e =>
    match Map.find acc.1 e.1 with
    | none => (Map.insert acc.1 e.1 e.2, acc.2)
    | some (.replace _ _ _) => (acc.1, e.2 :: acc.2)
    | some (.add _ pool _) =>
      (Map.insert acc.1 e.1 (.replace (s.resolve c scale e.1) pool (s.keyOf pool cn.key.toNat)), e.2 :: acc.2))
    (if root then
      (cn.blocks scale).map (fun e =>
        match e.2 with
        | .add _ pool _ =>
          if (Map.find (pn.blocks scale) e.1).isNone then
            (e.1, .replace (s.resolve c scale e.1) pool (s.keyOf pool cn.key.toNat))
          else e
        | _ => e)
    else cn.blocks scale, [])

/-- Splice p into its only child c (R176, R285). A block that becomes REPLACE takes the poison of all that it resolves
from (R350). -/
def splice (s : State) (p c : Nat) : State :=
  match s.node p, s.node c with
  | some pn, some cn =>
    let (es, f1) := s.splicePlane pn cn c false
    let (ss, f2) := s.splicePlane pn cn c true
    let kept := pn.poison.filter fun u =>
      let scale := 2 ^ 40 ≤ u
      let q := u % 2 ^ 40 / 64
      !isReplace cn scale q
    let converted (scale : Bool) : List Nat :=
      ((cn.blocks scale).filter fun e => !isReplace cn scale e.1 &&
        (pn.parent.isNone || (Map.find (pn.blocks scale) e.1).isSome)).map (·.1)
    let carried := (converted false).flatMap (s.resolvedPoison c false) ++ (converted true).flatMap (s.resolvedPoison c true)
    let cn' := { cn with elems := es, scales := ss, parent := pn.parent, depth := cn.depth - 1,
                         poison := (kept ++ carried).foldl setInsert cn.poison,
                         fine := (pn.fine.filter fun u =>
                             (Map.find (cn.blocks (Node.fineBlock u).1) (Node.fineBlock u).2).isNone).foldl setInsert
                           (cn.fine.filter fun u => !(converted (Node.fineBlock u).1).contains (Node.fineBlock u).2),
                         badEntries := cn.badEntries ++ pn.badEntries.filter fun e => e.any fun b => !isReplace cn b.1 b.2 }
    let s := (List.range Config.dies).foldl blurLp ((s.setNode c cn').liftBelow c 1)
    let s := s.removeNode p (f1 ++ f2)
    s.setDie cn.home { s.die cn.home with lsplice := (s.die cn.home).lsplice + 1 }
  | _, _ => s

/-- A node loses a child (R176); a retired one without a child is freed, and its own parent loses a child. -/
def loseChild (s : State) : Nat → Nat → State
  | 0, _ => s
  | fuel + 1, p =>
    match s.node p with
    | none => s
    | some n =>
      match n.st, s.children p with
      | .sealed, [] => s.setNode p { n with st := .live }
      | .retired, [] =>
        let s := s.removeNode p ((n.elems ++ n.scales).map (·.2))
        match n.parent with
        | some q => loseChild s fuel q
        | none => s
      | .retired, [c] =>
        match s.node c with
        | some cn => if cn.st = .flattening then s else s.splice p c
        | none => s
      | _, _ => s

/-- Free a node without a child; its parent, or the node its pending blocks name, loses a child (R177). -/
def freeNode (s : State) (slot : Nat) : State :=
  match s.node slot with
  | none => s
  | some n =>
    let s := s.removeNode slot ((n.elems ++ n.scales).map (·.2))
    match n.source with
    | some p => s.loseChild 20 p
    | none => s

/-- A node starts to flatten (R178, R287). -/
def startFlatten (s : State) (slot : Nat) : State :=
  match s.node slot with
  | none => s
  | some n =>
    let s := s.setNode slot { n with st := .flattening, flatAt := 0, flatWaits := false, flatSeq := s.stamp }
    let s := { s with stamp := s.stamp + 1 }
    let s := s.setDie n.home { s.die n.home with flattens := (s.die n.home).flattens ++ [slot] }
    s.enqueue (.flattenMaterialise slot)

/-- Seal a node as FORK does (R173). -/
def sealNode (s : State) (slot : Nat) : State :=
  match s.node slot with
  | none => s
  | some n => if n.st = .live then s.setNode slot { n with st := .sealed } else s

/-- Create a child of a sealed node in a free slot (R173): at depth 7 a bound root. -/
def makeChild (s : State) (slot child home : Nat) : State :=
  match s.node slot with
  | none => s
  | some n =>
    if n.depth < 7 then
      s.issueNode child ⟨0, n.shape, home, n.key, .live, some slot, n.depth + 1, none, [], [], 0, false, 0, [], [], []⟩
    else
      (s.issueNode child ⟨0, n.shape, home, n.key, .flattening, none, 0, some slot, [], [], 0, false, 0, [], [], []⟩).startFlatten
        child

/-- Has the flatten of a node nothing left to materialise? -/
def flattenDone (n : Node) : Bool := n.st = .flattening && (flatBlock n).isNone

/-- A flatten completes (R178, R287). -/
def completeFlatten (s : State) (slot : Nat) : State :=
  match s.node slot with
  | none => s
  | some n =>
    let src := n.source
    let st : NodeState := if s.hasChild slot then .sealed else .live
    let s := s.liftBelow slot n.depth
    let s := s.setNode slot { n with st := st, parent := none, pendingOn := none, depth := 0, flatAt := 0, flatWaits := false }
    let s := s.setDie n.home { s.die n.home with flattens := setErase (s.die n.home).flattens slot }
    match src with
    | some p => s.loseChild 20 p
    | none => s

/-- May a store reach a node (R30, R179, R184)? -/
def storable (s : State) (slot : Nat) (n : Node) : Bool :=
  match n.st with
  | .live => true
  | .flattening => !s.hasChild slot
  | _ => false

end State

end Sys2Proof.Machine
end

