-- ==== Sys2Proof/Machine/Walk.lean ====
section
/-! DEFINITION. Address translation: page-table entries, walks, TLBs (R257, R261 to R265), the second tier (R258,
R259), the fault buffer (R269, R271), and the resolution of a virtual address to what holds its bytes (R21 to R23). -/

namespace Sys2Proof.Machine

/-- Why a piece of an instruction, or of a stream, does not go on. -/
inductive Stop where
  /-- A trap with its TVAL. -/
  | trap (cause : BitVec 8) (tval : Word)
  /-- Poisoned data would be consumed at an address (R350). -/
  | poison (va : Word)
  /-- The access parks in the fault buffer (R269). -/
  | park (va : Word) (write perm : Bool)
  /-- A lineage store found no block (R286). -/
  | space (va : Word)
  /-- The access waits for a CXL link that is down, only to write or to read first (R335). -/
  | cxl (va : Word) (write : Bool)
  /-- The word waits at issue: it has not been issued. -/
  | stall
  /-- A write waits at issue for a path to a die (R324). -/
  | path (die : Nat)
  deriving DecidableEq, Repr

/-- A computation over the state that may stop; the state it has reached is kept. -/
abbrev Acc := ExceptT Stop (StateM State)

/-- Who performs an access. -/
structure Agent where
  core : Nat
  tid : Nat
  service : Bool
  pt : PtBase
  /-- Task number, which owns mappings; none for a service core. -/
  task : Option (BitVec 32)
  stream : Bool
  /-- It reaches service registers: LD, SD, LDAD or STLD of a thread in service mode (R375). -/
  regs : Bool
  /-- UNIT of a record of KIND 3 (R356). -/
  unit : Nat
  deriving DecidableEq, Repr

/-- What an access does with its bytes. -/
inductive Kind where
  | load
  | store
  /-- An atomic, a REDUCE element or a VSCATADD element (R262). -/
  | both
  deriving DecidableEq, Repr

/-- Does an access write? -/
def Kind.writes : Kind → Bool
  | .load => false
  | _ => true

/-! ### Page-table entries (R261) -/

namespace Pte

def v (e : Word) : Bool := e.getLsbD 0
def leaf (e : Word) : Bool := e.getLsbD 1
def r (e : Word) : Bool := e.getLsbD 2
def w (e : Word) : Bool := e.getLsbD 3
def x (e : Word) : Bool := e.getLsbD 4
def a (e : Word) : Bool := e.getLsbD 5
def d (e : Word) : Bool := e.getLsbD 6
def pin (e : Word) : Bool := e.getLsbD 7
def tier (e : Word) : Bool := e.getLsbD 8
def key (e : Word) : Nat := wbits e 11 11
def frame (e : Word) : Nat := wbits e 22 36
/-- A reserved bit is set; bits 21:2 of an entry that is not a leaf are ignored. -/
def reserved (e : Word) : Bool := wbits e 58 6 ≠ 0 || (leaf e && wbits e 9 2 ≠ 0)

/-- The right that an access needs (R262). -/
def permits (e : Word) : Kind → Bool
  | .load => r e
  | .store => w e
  | .both => r e && w e

/-- The entry with A set, and D for a write (R264). -/
def touched (e : Word) (write : Bool) : Word := e ||| (if write then 0x60 else 0x20)

end Pte

/-- Device memory in the virtual map (R21). -/
def inDeviceMemory (va : Nat) : Bool := 0x4000000000 ≤ va && va < 2 ^ 54

/-- The physical address that a leaf gives. -/
def Leaf.phys (l : Leaf) (va : Nat) : Nat :=
  Pte.frame l.pte * 2 ^ 16 + va % (if l.large then 2 ^ 29 else 2 ^ 16)

/-- How a walk ends (R262). -/
inductive WalkResult where
  | notValid
  /-- A malformed entry; with the address of the entry if it was poisoned (R350). -/
  | malformed (poisoned : Option Nat)
  | leaf (l : Leaf)
  deriving DecidableEq, Repr

namespace State

/-- Bytes of a table that the device reads by physical address without a key slot: as they were last written (log 24). -/
def rawRead (s : State) (pa n : Nat) : List Byte := (List.range n).map fun i => s.memByte (pa + i)

/-- Is endpoint e valid in a die's endpoint table (R331, R332)? -/
def endpointValid (s : State) (die e : Nat) : Bool :=
  e < (s.die die).eptsize.toNat &&
    ((s.rawRead ((s.die die).eptbase.toNat * 32 + e * 32 + 0x14) 1).getD 0 0).getLsbD 7

/-- A field of entry e of a die's endpoint table (R332). -/
def endpointField (s : State) (die e off n : Nat) : Nat :=
  ofLe (s.rawRead ((s.die die).eptbase.toNat * 32 + e * 32 + off) n)

/-- The ports that endpoint e allows, and whether its packets are delivered in order (R330, R332). -/
def endpointPorts (s : State) (die e : Nat) : BitVec 16 := BitVec.ofNat 16 (s.endpointField die e 0x12 2)
def endpointOrdered (s : State) (die e : Nat) : Bool := (s.endpointField die e 0x14 1).testBit 0

/-- Is the frame of a leaf well-formed (R257)? -/
def frameOk (s : State) (die : Nat) (e : Word) (large : Bool) : Bool :=
  let pa := Pte.frame e * 2 ^ 16
  let size := if large then 2 ^ 29 else 2 ^ 16
  if Pte.tier e then
    match physRegion pa with
    | .tier2 p => s.cxlPopulated.getLsbD p && pa % 2 ^ 40 + size ≤ tier2Size
    | _ => false
  else
    match physRegion pa with
    | .gddr _ => pa + size ≤ 2 ^ 39
    | .clusterBlock _ _ => !large
    | .dieBlock _ _ => !large
    | .remote e _ => s.endpointValid die e
    | _ => false

/-- A walk from a level on (R262). -/
def walkFrom (s : State) (die : Nat) (pt : PtBase) (va : Nat) : Nat → Nat → Nat → WalkResult
  | 0, _, _ => .malformed none
  | fuel + 1, level, t =>
    let at_ := t + 8 * bits va (42 - 13 * (level - 1)) 13
    if (s.poisonIn at_ 8).isSome then .malformed (some at_)
    else
      let e : Word := BitVec.ofNat 64 (ofLe (s.physRead at_ 8 pt.key.toNat))
      if !Pte.v e then .notValid
      else if Pte.reserved e || (Pte.leaf e && level = 1) || (!Pte.leaf e && level = 3) then .malformed none
      else if Pte.leaf e then
        if level = 2 && Pte.frame e % 2 ^ 13 ≠ 0 then .malformed none
        else if s.frameOk die e (level = 2) then .leaf ⟨at_, e, level = 2⟩
        else .malformed none
      else if Pte.frame e * 2 ^ 16 < 2 ^ 39 then walkFrom s die pt va fuel (level + 1) (Pte.frame e * 2 ^ 16)
      else .malformed none

/-- Walk the tables of an address as memory holds them (R262). -/
def walkTables (s : State) (die : Nat) (pt : PtBase) (va : Nat) : WalkResult :=
  s.walkFrom die pt va 3 1 (pt.root.toNat * 2 ^ 16)

/-- The table that the walkers of a die hold for an address: of level 3, or of level 2 (R265). -/
def walkerFind (d : Die) (root : BitVec 36) (low : Bool) (va : Nat) : Option Nat :=
  (d.walkers.find? fun e => e.root = root && e.low = low && e.index = va / 2 ^ (if low then 29 else 42)).map (·.table)

/-- Walk the tables of an address from the deepest one that the walkers of the die hold (R262, R265). -/
def walk (s : State) (die : Nat) (pt : PtBase) (va : Nat) : WalkResult :=
  match walkerFind (s.die die) pt.root true va with
  | some t => s.walkFrom die pt va 1 3 t
  | none =>
    match walkerFind (s.die die) pt.root false va with
    | some t => s.walkFrom die pt va 2 2 t
    | none => s.walkTables die pt va

/-- The table that an entry in memory names, if it is one that a walk goes on from. -/
def tableAt (s : State) (pt : PtBase) (at_ : Nat) : Option Nat :=
  let e : Word := BitVec.ofNat 64 (ofLe (s.physRead at_ 8 pt.key.toNat))
  if (s.poisonIn at_ 8).isSome || !Pte.v e || Pte.reserved e || Pte.leaf e || 2 ^ 39 ≤ Pte.frame e * 2 ^ 16 then none
  else some (Pte.frame e * 2 ^ 16)

/-- Add an entry to the walkers' cache of a die. -/
def cacheTable (s : State) (die : Nat) (e : WalkEntry) : State :=
  s.setDie die { s.die die with walkers := e :: (s.die die).walkers }

/-- The walkers of a die cache the entries that are not leaves that a walk reads (R265). -/
def cacheTables (s : State) (die : Nat) (pt : PtBase) (va : Nat) : State :=
  let low (s : State) (t2 : Nat) : State :=
    match s.tableAt pt (t2 + 8 * bits va 29 13) with
    | some t3 => s.cacheTable die ⟨pt.root, true, va / 2 ^ 29, t3⟩
    | none => s
  if (walkerFind (s.die die) pt.root true va).isSome then s
  else
    match walkerFind (s.die die) pt.root false va with
    | some t2 => low s t2
    | none =>
      match s.tableAt pt (pt.root.toNat * 2 ^ 16 + 8 * bits va 42 13) with
      | some t2 => low (s.cacheTable die ⟨pt.root, false, va / 2 ^ 42, t2⟩) t2
      | none => s

/-- The record of a poisoned entry that a walk reads (R350, R356), made at the home of the entry: the word of base SRAM that
holds it, by its slice, or its codeword of GDDR7. The syndrome of poison is a free value. -/
def walkRecord (s : State) (at_ : Nat) : State :=
  let die := homeOfPhys at_
  let synd := (Config.walkSyndrome s.free at_).toNat
  if s.sramPoison.contains (at_ / 8 * 8) then
    let cid := Config.sramSlice (at_ / 128 * 128) % Config.coresPerDie
    s.errorRecord die 2 3 0 0 cid (clusterOf (die * Config.coresPerDie + cid) % 128) at_ synd
  else s.errorRecord die 2 4 0 0 0 0 at_ synd

/-- A walk that the device begins (R262, R272): it counts, the walkers cache what they read (R265), and a poisoned entry
makes a record (R350). -/
def beginWalk (s : State) (die : Nat) (pt : PtBase) (va : Nat) : WalkResult × State :=
  let r := s.walk die pt va
  let s := (s.setDie die { s.die die with walks := (s.die die).walks + 1 }).cacheTables die pt va
  match r with
  | .malformed (some at_) => (r, s.walkRecord at_)
  | _ => (r, s)

/-- Set A, and D for a write, in a leaf in memory (R264). -/
def touchLeaf (s : State) (pt : PtBase) (l : Leaf) (write : Bool) : State :=
  if Pte.touched l.pte write = l.pte then s
  else s.physWrite l.at_ pt.key.toNat (leBytes 8 (Pte.touched l.pte write).toNat)

/-! ### TLBs (R265) -/

/-- Does an entry translate an address under a root? -/
def tlbCovers (e : TlbEntry) (root : BitVec 36) (va : Nat) : Bool :=
  e.root = root && (if e.large then e.page / 2 ^ 13 = va / 2 ^ 29 else e.page = va / 2 ^ 16)

/-- The cached leaf of an address. -/
def tlbFind (l : List TlbEntry) (root : BitVec 36) (va : Nat) : Option TlbEntry := l.find? fun e => tlbCovers e root va

/-- Cache a leaf in place of what was cached for the address, in a TLB of n entries. -/
def tlbFill (n : Nat) (l : List TlbEntry) (e : TlbEntry) (va : Nat) : List TlbEntry :=
  (e :: l.filter fun x => !tlbCovers x e.root va).take n

/-- May a cached leaf serve an access? A store through D = 0 walks again (R264). -/
def tlbServes (e : TlbEntry) (k : Kind) : Bool := Pte.permits e.pte k && (!k.writes || Pte.d e.pte)

/-- Fill the L1 TLB of a core, 128 entries, and the L2 TLB of its cluster, 4,096 (R265). -/
def fillTlbs (s : State) (core : Nat) (e : TlbEntry) (va : Nat) : State :=
  let s := s.setCore core { s.core core with l1 := tlbFill 128 (s.core core).l1 e va }
  if isTaskCore core then
    s.setCluster (clusterOf core) { s.cluster (clusterOf core) with l2 := tlbFill 4096 (s.cluster (clusterOf core)).l2 e va }
  else s

/-- The cached leaf of an address in L1 or L2. -/
def tlbLookup (s : State) (core : Nat) (root : BitVec 36) (va : Nat) : Option TlbEntry :=
  match tlbFind (s.core core).l1 root va with
  | some e => some e
  | none => if isTaskCore core then tlbFind (s.cluster (clusterOf core)).l2 root va else none

/-! ### The second tier (R258, R259) -/

/-- The link of a port is up. -/
def cxlLinkUp (s : State) (port : Nat) : Bool := s.cxlUp.getLsbD port

/-- Port of a second-tier frame. -/
def portOfFrame (frame : Nat) : Nat := (frame * 2 ^ 16 - 2 ^ 48) / 2 ^ 40

/-- The piece that makes room: the least recently used one that is not pinned. -/
def victim (d : Die) : Option Piece := d.pieces.find? fun p => !p.pin

/-- The counters of a CXL port of a die (R358). -/
def cxlOf (d : Die) (q : Nat) : CxlCount := Map.get ⟨0, 0, 0⟩ d.cxlcnt q

/-- Poisoned reads received from a port (R358); the field saturates. -/
def countPoisonRx (s : State) (port n : Nat) : State :=
  if n = 0 then s
  else
    let d := s.die (port / 2)
    let x := cxlOf d (port % 2)
    s.setDie (port / 2) { d with
      cxlcnt := Map.put ⟨0, 0, 0⟩ d.cxlcnt (port % 2) { x with poison := BitVec.ofNat 16 (min (x.poison.toNat + n) 65535) } }

/-- The port that an address of a core goes to, as its tables stand. -/
def portOf (s : State) (core : Nat) (va : Nat) : Option Nat :=
  match s.walk (dieOf core) (s.core core).ptbase va with
  | .leaf l => match physRegion (l.phys va) with
    | .tier2 p => some p
    | _ => none
  | _ => none

/-- A read that has waited too long for a port returns poisoned data (R335, R358). -/
def lateRead (s : State) (p : Option Nat) : State :=
  match p with
  | none => s
  | some p => s.countPoisonRx p 1

/-- Poisoned lines among n bytes that the expander returns (R335, R350). -/
def poisonedLines (s : State) (pa n : Nat) : Nat := s.poison.countP fun u => pa / 64 * 64 ≤ u && u < pa + n

/-- A piece is copied into the pool (R258), with the poison that the expander returns. -/
def copyIn (s : State) (dn frame : Nat) : State :=
  (s.countPoisonRx (portOfFrame frame) (s.poisonedLines (frame * 2 ^ 16) (2 ^ 16))).blurMig dn

/-- A state as it was before, but for what translation and the second tier have done since: the counters of walks, of
migration and of poisoned reads received (R272, R358), the walkers' caches, the pieces and what their copying in has
overwritten. -/
def keepReached (s0 s : State) : State :=
  (List.range Config.dies).foldl (fun u k =>
    let d := s.die k
    u.setDie k { u.die k with
      walks := d.walks, walkers := d.walkers, pieces := d.pieces, migin := d.migin, migout := d.migout,
      migdirect := d.migdirect, cxlcnt := d.cxlcnt }) { s0 with blurred := s.blurred, admitted := s.admitted }

/-- What an access to a second-tier address does to the migration pool; none if it waits for a link that is down. -/
def touchPiece (s : State) (pa : Nat) (pin write : Bool) : Option State :=
  let frame := pa / 2 ^ 16
  let port := portOfFrame frame
  let dn := port / 2
  let d := s.die dn
  let direct : State :=
    (s.setDie dn { d with migdirect := d.migdirect + 1 }).countPoisonRx port (if write then 0 else s.poisonedLines pa 1)
  match d.pieces.find? fun p => p.frame = frame with
  | some p =>
    let s := s.setDie dn { d with pieces :=
      (d.pieces.filter fun q => q.frame ≠ frame) ++ [{ p with pin := pin, modified := p.modified || write }] }
    some (if write then s.blurMig dn else s)
  | none =>
    if !s.cxlLinkUp port then none
    else if d.pieces.length < d.migsize.toNat then
      some ((s.setDie dn { d with pieces := d.pieces ++ [⟨frame, pin, write⟩], migin := d.migin + 1 }).copyIn dn frame)
    else if d.migsize = 0 then some direct
    else
      match victim d with
      | none => some direct
      | some v =>
        if v.modified && !s.cxlLinkUp (portOfFrame v.frame) then none
        else
          let s := s.writeBackPiece v
          some ((s.setDie dn { d with
            pieces := (d.pieces.filter fun q => q.frame ≠ v.frame) ++ [⟨frame, pin, write⟩],
            migin := d.migin + 1, migout := if v.modified then d.migout + 1 else d.migout }).copyIn dn frame)

/-- Reach device memory to write it: a page of the second tier as its access does; none if that waits for a link. -/
def reachWrite (s : State) (pa : Nat) (pin : Bool) : Option State :=
  match physRegion pa with
  | .tier2 _ => s.touchPiece pa pin true
  | _ => some s

/-! ### The fault buffer (R269 to R271) -/

/-- Raise the notification of a cluster (R271). -/
def notifyFault (s : State) (cluster : Nat) : State :=
  let dn := cluster / 128
  let s := s.setDie dn { s.die dn with fbpend := (s.die dn).fbpend ||| (1#128 <<< (cluster % 128)) }
  s.notify dn (s.die dn).fbnote

/-- The valid entry of a cluster that holds a page. -/
def faultEntry (s : State) (cluster : Nat) (root : BitVec 36) (va : Nat) : Option Nat :=
  ((s.cluster cluster).fb.find? fun e => e.2.root = root && e.2.page.toNat = bits va 16 39).map (·.1)

/-- An access parks in its cluster's buffer (R269), beside an entry whose accesses REPLAY is retrying (R270): the entry it
joins, if one is free. -/
def parkBeside (s : State) (taken : Option Nat) (a : Agent) (va : Nat) (write perm : Bool) : Option Nat × State :=
  let cl := clusterOf a.core
  let c := s.cluster cl
  match s.faultEntry cl a.pt.root va with
  | some k =>
    match Map.find c.fb k with
    | none => (none, s)
    | some e =>
      let e := { e with read := e.read || !write, write := e.write || write, stream := e.stream || a.stream, count := e.count + 1 }
      (some k, s.setCluster cl { c with fb := Map.insert c.fb k e, parked := c.parked + 1 })
  | none =>
    let k := (List.range 8).find? fun k => (Map.find c.fb k).isNone && taken ≠ some k
    match k with
    | some k =>
      let first := c.fb.isEmpty && taken.isNone
      let e : FaultEntry := ⟨a.pt.root, BitVec.ofNat 39 (bits va 16 39), false,
        if a.stream then 0 else BitVec.ofNat 2 a.tid, BitVec.ofNat 4 (coreInCluster a.core), perm, a.stream, write, !write,
        (s.cycleOf a.core).setWidth 32, 1⟩
      let s := s.setCluster cl { c with
        fb := Map.insert c.fb k e, deliver := c.deliver &&& ~~~(1#8 <<< k), total := c.total + 1, parked := c.parked + 1 }
      (some k, if first then s.notifyFault cl else s)
    | none =>
      let s' := s.setCluster cl { c with dropped := true, dropcnt := c.dropcnt + 1, parked := c.parked + 1 }
      (none, if c.dropped then s' else s'.notifyFault cl)

/-- An access parks in its cluster's buffer (R269). -/
def parkAccess (s : State) (a : Agent) (va : Nat) (write perm : Bool) : Option Nat × State := s.parkBeside none a va write perm

/-- A stream parks for lineage space (R286): no entry; it sets DROPPED. -/
def parkForSpace (s : State) (core : Nat) : State :=
  let cl := clusterOf core
  let c := s.cluster cl
  let s' := s.setCluster cl { c with dropped := true, dropcnt := c.dropcnt + 1, parked := c.parked + 1 }
  if c.dropped then s' else s'.notifyFault cl

end State

/-! ### Resolution of an address -/

/-- What holds the bytes of an access. -/
inductive Loc where
  | pad (core off : Nat)
  /-- Device memory: physical address and key slot. -/
  | phys (pa slot : Nat)
  /-- A node's plane: slot, plane, block, offset. -/
  | node (slot : Nat) (scale : Bool) (q off : Nat)
  /-- A service register: cluster or die, and offset. -/
  | clusterReg (cluster off : Nat)
  | dieReg (die off : Nat)
  /-- A remote byte (R331). -/
  | remote (endpoint off : Nat)
  deriving DecidableEq, Repr

/-- Stop with a trap. -/
def stopTrap {α : Type} (cause : BitVec 8) (tval : Nat) : Acc α := throw (.trap cause (BitVec.ofNat 64 tval))

/-- The physical place that a leaf gives an access; a service block is refused to all but the doubleword
accesses of service mode, and a remote frame to all
but the writes of a stream (R257, R331). -/
def placeOf (a : Agent) (k : Kind) (va : Nat) (l : Leaf) : Acc Loc := do
  let pa := l.phys va
  match physRegion pa with
  | .clusterBlock c off => if a.regs && a.service && !a.stream then pure (.clusterReg c off) else stopTrap 2 va
  | .dieBlock d off => if a.regs && a.service && !a.stream then pure (.dieReg d off) else stopTrap 2 va
  | .remote e off => if a.stream && k.writes then pure (.remote e off) else stopTrap 2 va
  | .tier2 _ =>
    match (← get).touchPiece pa (Pte.pin l.pte) k.writes with
    | some s => set s; pure (.phys pa (Pte.key l.pte))
    | none => throw (.cxl (BitVec.ofNat 64 va) (k == .store))
  | _ => pure (.phys pa (Pte.key l.pte))

/-- Does a leaf name a frame that the access may not reach at all (cause 2 before causes 3 and 4, R87, R375)? -/
def barredFrame (a : Agent) (k : Kind) (va : Nat) (l : Leaf) : Bool :=
  match physRegion (l.phys va) with
  | .clusterBlock _ _ => !a.regs || !a.service || a.stream
  | .dieBlock _ _ => !a.regs || !a.service || a.stream
  | .remote _ _ => !a.stream || k == .load
  | _ => false

/-- Stop an access that finds no mapping or no permission (R263). -/
def refuseAccess {α : Type} (a : Agent) (k : Kind) (va : Nat) (perm : Bool) : Acc α :=
  if isTaskCore a.core then throw (.park (BitVec.ofNat 64 va) k.writes perm)
  else if a.stream then stopTrap 2 va
  else stopTrap (if k.writes then 4 else 3) va

/-- The leaf that translates a device-memory address for an access (R262 to R265, R269). -/
def leafOf (a : Agent) (k : Kind) (va : Nat) : Acc Leaf := do
  let s ← get
  let cached := s.tlbLookup a.core a.pt.root va
  match cached with
  | some e =>
    if State.tlbServes e k then
      set (s.fillTlbs a.core e va)
      pure ⟨0, e.pte, e.large⟩
    else walkAgain s
  | none =>
    if isTaskCore a.core && (s.faultEntry (clusterOf a.core) a.pt.root va).isSome then
      throw (.park (BitVec.ofNat 64 va) k.writes false)
    else walkAgain s
where
  /-- A miss, or a cached leaf that refuses, walks. -/
  walkAgain (s : State) : Acc Leaf := do
    let (r, s) := s.beginWalk (dieOf a.core) a.pt va
    set s
    match r with
    | .notValid => refuseAccess a k va false
    | .malformed _ => stopTrap 2 va
    | .leaf l =>
      if barredFrame a k va l then stopTrap 2 va
      else if Pte.permits l.pte k then
        let s := s.touchLeaf a.pt l k.writes
        set (s.fillTlbs a.core ⟨a.pt.root, va / 2 ^ 16, l.large, Pte.touched l.pte k.writes⟩ va)
        pure l
      else refuseAccess a k va true

/-- Translate a device-memory address, and reach its place. -/
def translate (a : Agent) (k : Kind) (va : Nat) : Acc Loc := do
  let l ← leafOf a k va
  placeOf a k va l

/-- Are a member's windows open (R22): is it a member, and has one of its threads not executed TASKEND? -/
def State.windowOpen (s : State) (a : Agent) (m : Nat) : Option Nat :=
  let t := s.thread a.core 0
  if m < bits t.spansz.toNat 0 16 then
    match s.memberCore a.core m with
    | some c => if (List.range 4).any fun tid => (s.thread c tid).running then some c else none
    | none => none
  else none

/-- The lineage mapping that holds an address for an owner (R183). -/
def State.mappingAt (s : State) (owner : Option (BitVec 32)) (va : Nat) : Option Mapping :=
  s.mappings.find? fun m => m.owner = owner && m.base ≤ va && va < m.base + m.len

/-- Resolve a lineage-window address (R23, R183, R184). -/
def resolveLineage (a : Agent) (k : Kind) (va : Nat) : Acc Loc := do
  let s ← get
  match s.mappingAt a.task va with
  | none => stopTrap 2 va
  | some m =>
    match s.node m.slot with
    | none => stopTrap 2 va
    | some n =>
      let q := (va - m.base) / 4096
      if n.gen ≠ m.gen || n.st = .retired || (n.shape.plane m.scalePlane).blocks ≤ q || k = .both then stopTrap 2 va
      else if k.writes && m.readOnly then stopTrap 2 va
      else if k.writes && !s.storable m.slot n then stopTrap 6 va
      else pure (.node m.slot m.scalePlane q ((va - m.base) % 4096))

/-- Resolve an access to n bytes (R21 to R23): outside every region or in two of them is cause 2. -/
def resolve (a : Agent) (k : Kind) (va n : Nat) : Acc Loc := do
  let s ← get
  let last := va + n - 1
  if last < Config.padSize then pure (.pad a.core va)
  else if 0x1000000 ≤ va && last < 0x2000000 then
    let m := (va - 0x1000000) / Config.padSize
    if (last - 0x1000000) / Config.padSize ≠ m then stopTrap 2 va
    else
      match s.windowOpen a m with
      | none => stopTrap 2 va
      | some c => if (s.core c).contained then stopTrap 13 va else pure (.pad c (va % Config.padSize))
  else if inDeviceMemory va && inDeviceMemory last then translate a k va
  else if 2 ^ 54 ≤ va && last < 2 ^ 55 then resolveLineage a k va
  else stopTrap 2 va

end Sys2Proof.Machine
end

