-- ==== Sys2Proof/Machine/Access.lean ====
section
/-! DEFINITION. Reading and writing the bytes of an access (R146, R148, R350): poison, waits on the own scratchpad,
lineage blocks, and the way of a write to another die (R253, R324). -/

namespace Sys2Proof.Machine

namespace State

/-- The thread whose word executes, as an agent. -/
def agent (s : State) (unit : Nat) : Agent where
  core := s.curCore
  tid := s.curTid.toNat
  service := s.inService
  pt := s.myCore.ptbase
  task := if isTaskCore s.curCore then some (s.me.taskid.setWidth 32) else none
  stream := false
  regs := false
  unit := unit

/-! ### Bridges (R323, R324) -/

/-- Does a bridge carry traffic: is one of its lane groups up? -/
def bridgeUp (s : State) (b : Nat) : Bool := (List.range 8).any fun g => !s.groupsDown.contains (b * 8 + g)

/-- The bridge between two adjacent dies: 0 joins dies 0 and 1, 1 joins 2 and 3, 2 joins 0 and 2, 3 joins 1 and 3. -/
def adjacent (s : State) (a b : Nat) : Bool :=
  match min a b, max a b with
  | 0, 1 => s.bridgeUp 0
  | 2, 3 => s.bridgeUp 1
  | 0, 2 => s.bridgeUp 2
  | 1, 3 => s.bridgeUp 3
  | _, _ => false

/-- Dies that traffic from a die reaches in at most n bridges. -/
def reaches (s : State) : Nat → Nat → Nat → Bool
  | 0, a, b => a = b
  | n + 1, a, b => a = b || (List.range 4).any fun c => s.adjacent a c && reaches s n c b

/-- Is there a path between two dies? -/
def hasPath (s : State) (a b : Nat) : Bool := s.reaches 3 a b

/-- The name of a numbered write in the events about it: number and source die. -/
def flightKey (src seq : Nat) : Nat := seq * 4 + src

/-- Are writes of a thread on their way: not yet performed, or not yet acknowledged (R253)? -/
def flightsOut (s : State) (core tid : Nat) (unacked : Bool) : Bool :=
  s.flights.any fun f => f.core = core && f.tid.toNat = tid && f.stream.isNone && (unacked || !f.performed)

/-- Has a source 65,536 writes unacknowledged? It then sends no more (R324). A write without a copy under way that has not
been performed is still held at its source. -/
def sourceFull (s : State) (die : Nat) : Bool :=
  65536 ≤ s.flights.countP fun f => f.src = die && (f.copies ≠ 0 || f.performed)

/-- The peer of an endpoint as the table of a die names it: its address and the window there (R332). -/
def endpointPeer (s : State) (die e : Nat) : BitVec 128 × BitVec 16 :=
  (BitVec.ofNat 128 (s.endpointField die e 0 16), BitVec.ofNat 16 (s.endpointField die e 0x10 2))

/-- The next number of a source is used. -/
def useNumber (s : State) (src : Nat) : State := s.setDie src { s.die src with nextSeq := (s.die src).nextSeq + 1 }

/-- A write leaves for its home with the next number of its source (R253). -/
def sendWrite (s : State) (core tid : Nat) (stream : Option Nat) (kind : FlightKind) (home pa slot va : Nat)
    (bs : List Byte) (poisoned : Bool) : State :=
  let src := dieOf core
  let seq := (s.die src).nextSeq
  let s := s.useNumber src
  let f : Flight := ⟨src, seq, home, core, BitVec.ofNat 2 tid, stream, pa, BitVec.ofNat 11 slot, kind, bs, false, 1, s.cycle,
    s.cycle, va, poisoned, (s.thread core tid).instret, (s.core core).ptbase.root, false, false, [],
    if home < Config.dies then none else some (s.endpointPeer src (home - Config.dies))⟩
  { s with flights := s.flights ++ [f] }.enqueue (.bridgeWriteReceive (flightKey src seq))

/-- The synchronisation engine of a die as the issuer of the writes of its reduction slots: a number that no core has. -/
def engineCore (die : Nat) : Nat := 0x10000 + die

/-- Does a numbered write come from a reduction slot? -/
def ofSlot (f : Flight) : Bool := 0x10000 ≤ f.core

/-- A part of DST leaves for its home (R231), with the next number of the slot's die; while that source is full it is held
there. -/
def sendSlotWrite (s : State) (die slot home pa key va : Nat) (pt : PtBase) (pin : Bool) (bs : List Byte) (poisoned : Bool) :
    State :=
  let seq := (s.die die).nextSeq
  let held := s.sourceFull die
  let s := s.useNumber die
  let f : Flight := ⟨die, seq, home, engineCore die, 0, some slot, pa, BitVec.ofNat 11 key, .bytes, bs, false,
    if held then 0 else 1, s.cycle, s.cycle, va, poisoned, 0, pt.root, false, pin, [], none⟩
  { s with flights := s.flights ++ [f] }.enqueue (.bridgeWriteReceive (flightKey die seq))

/-- Move the base of a window over the numbers performed. -/
def advanceWindow : Nat → Window → Window
  | 0, w => w
  | fuel + 1, w => if w.seen.contains w.base then advanceWindow fuel ⟨w.base + 1, w.seen.filter (· ≠ w.base)⟩ else w

/-- A home records that it has performed a number of a source (R324). -/
def recordNumber (s : State) (home src seq : Nat) : State :=
  let d := s.die home
  let w := Map.get ⟨0, []⟩ d.windows src
  let w := advanceWindow (w.seen.length + 1) { w with seen := setInsert w.seen seq }
  s.setDie home { d with windows := Map.insert d.windows src w }

/-- A write from one die to another within the step that issues it: its number is given, performed and acknowledged there
(R253, R324). -/
def numberFrom (s : State) (src home : Nat) : State :=
  if home = src then s else (s.useNumber src).recordNumber home src (s.die src).nextSeq

/-- The same for a write that a core issues. -/
def numberAtOnce (s : State) (core home : Nat) : State := s.numberFrom (dieOf core) home

end State

/-- Stop if the bytes at a place are poisoned: the access consumes them (R350). -/
def checkPoison (loc : Loc) (va n : Nat) : Acc Unit := do
  let s ← get
  let hit : Option Nat :=
    match loc with
    | .pad c off => (s.poisonIn (padBase c + off) n).map (· - (padBase c + off))
    | .phys pa _ => (s.poisonIn pa n).map (· - pa)
    | .node slot scale q off =>
      if s.nodesClean then none
      else (List.range n).find? fun i => s.resolvePoison 10 slot scale q (off + i)
    | _ => none
  match hit with
  | some i => throw (.poison (BitVec.ofNat 64 (va + i)))
  | none => pure ()

/-- The place of bytes as a key: keys of memory, and one for all nodes. -/
def Loc.key : Loc → Nat
  | .pad c off => padBase c + off
  | .phys pa _ => pa
  | .node _ _ _ _ => 2 ^ 72
  | _ => 2 ^ 80

/-- Must an access of a thread wait at issue: for streams and matrix words before it on its own scratchpad (R195), for its
own queued vector words or exchange blocks on their way to the same bytes (R236, R238)? -/
def State.ownPending (s : State) (core tid : Nat) (write : Bool) (loc : Loc) (n : Nat) : Bool :=
  s.queuedIn core (some tid) loc.key n || (match loc with
    | .pad c off => (c = core && s.padHazard c write off n) || s.sentTo core tid c off n
    | _ => false)

/-- A thread's access waits at issue for what stands before it; a stream's does not. -/
def waitOwn (a : Agent) (write : Bool) (loc : Loc) (n : Nat) : Acc Unit := do
  if !a.stream && (← get).ownPending a.core a.tid write loc n then throw .stall else pure ()

/-- The die at which a place is accessed: the home of device memory, or of a lineage node (R232, R277). -/
def State.homeOfLoc (s : State) : Loc → Option Nat
  | .phys pa _ => some (homeOfPhys pa)
  | .node slot _ _ _ => (s.node slot).map (·.home)
  | _ => none

/-- An access to another die waits while no path leads there; the waiting of a write is timed (R324). -/
def waitPath (a : Agent) (write : Bool) (loc : Loc) : Acc Unit := do
  let s ← get
  match s.homeOfLoc loc with
  | some d => if s.hasPath (dieOf a.core) d then pure () else throw (if write then .path d else .stall)
  | none => pure ()

/-- The bytes at a place, whatever is poisoned. -/
def peekLoc (s : State) (loc : Loc) (n : Nat) : List Byte :=
  match loc with
  | .pad c off => s.padRead c off n
  | .phys pa slot => s.physRead pa n slot
  | .node slot scale q off =>
    let data := s.resolve slot scale q
    (List.range n).map fun i => Map.get 0 data (off + i)
  | _ => []

/-- Read n bytes at a place for an agent. -/
def readLoc (a : Agent) (loc : Loc) (va n : Nat) : Acc (List Byte) := do
  match loc with
  | .clusterReg _ _ => stopTrap 2 va
  | .dieReg _ _ => stopTrap 2 va
  | .remote _ _ => stopTrap 2 va
  | _ =>
    waitOwn a false loc n
    waitPath a false loc
    checkPoison loc va n
    pure (peekLoc (← get) loc n)

/-- Runs of bytes, by place, that one word or one stream has written. -/
abbrev Written := List (Loc × Nat)

/-- Do the runs hold the byte at a key of memory? -/
def Written.hasKey (ws : Written) (k : Nat) : Bool :=
  ws.any fun e => match e.1 with
    | .pad c off => padBase c + off ≤ k && k < padBase c + off + e.2
    | .phys pa _ => pa ≤ k && k < pa + e.2
    | _ => false

/-- Do the runs hold all bytes of a unit of 4096 / m bytes of a node's block, by the unit's key? -/
def Written.hasUnit (ws : Written) (slot m u : Nat) : Bool :=
  (List.range (4096 / m)).all fun b => ws.any fun e => match e.1 with
    | .node k scale q off =>
      let x := u % m * (4096 / m) + b
      k = slot && off ≤ x && x < off + e.2 && u / m = (if scale then 2 ^ 34 else 0) + q
    | _ => false

/-- Clear the poison of every unit that the runs cover whole (R350). -/
def State.coverWritten (s : State) (ws : Written) : State :=
  let s := if s.poison.isEmpty && s.sramPoison.isEmpty then s else s.coverPoison ws.hasKey
  if s.nodesClean then s
  else { s with nodes := s.nodes.map fun e => (e.1, { e.2 with
      poison := e.2.poison.filter fun u => !ws.hasUnit e.1 64 u
      fine := e.2.fine.filter fun u => !ws.hasUnit e.1 512 u }) }

/-- The units of poison that a run of device memory touches and that are written whole. -/
def coveredUnits (written : Nat → Bool) (k n : Nat) : List (Nat × Nat) :=
  let sized (m : Nat) : List (Nat × Nat) := (List.range ((k + n - 1) / m - k / m + 1)).map fun i => ((k / m + i) * m, m)
  (sized 64 ++ sized 8).filter fun u => (List.range u.2).all fun i => written (u.1 + i)

/-- The writes that one word, or one run of a stream, has sent on their way since the flights were n, beside what it has
written at once: each carries the units that all of them cover whole, which their arrival clears (R350). -/
def State.coverTravelling (s : State) (n : Nat) (ws : Written) : State :=
  let new := s.flights.drop n
  let meets (f : Flight) (k m : Nat) : Bool := f.addr < k + m && k < f.addr + f.data.length
  let written (k : Nat) : Bool := ws.hasKey k || new.any fun f => f.kind = .bytes && meets f k 1
  if new.isEmpty then s
  else { s with flights := s.flights.take n ++ new.map fun f => { f with
      covers := (coveredUnits written f.addr f.data.length).filter fun u => !new.any fun g => g.poisoned && meets g u.1 u.2 } }

/-- Write bytes at a place, at once. -/
def pokeLoc (loc : Loc) (va : Nat) (bs : List Byte) : Acc Unit := do
  let s ← get
  match loc with
  | .pad c off => set (s.padWrite c off bs)
  | .phys pa slot => set (s.physWrite pa slot bs)
  | .node slot scale q off =>
    match s.node slot with
    | none => stopTrap 2 va
    | some n =>
      match s.ownBlock slot n scale q with
      | none =>
        set (s.refuseSpace n.home)
        throw (.space (BitVec.ofNat 64 va))
      | some s' => set ((s'.writeOwn slot scale q off bs none).coverWritten [(loc, bs.length)])
  | _ => stopTrap 2 va

/-- Write bytes at a place for an agent within the step, with a number if they cross a bridge. -/
def pokeHome (a : Agent) (loc : Loc) (va : Nat) (bs : List Byte) : Acc Unit := do
  pokeLoc loc va bs
  modify fun s => match s.homeOfLoc loc with
    | some d => s.numberAtOnce a.core d
    | none => s

/-- Does a write to a place travel, rather than being performed at once: does it cross a bridge while engine work is
deferred or no path leads there (log 23)? So does, while engine work is deferred, a lane of a vector word that its own die
performs: the elements of one word are not atomic together (R150, R320). -/
def State.travels (s : State) (a : Agent) : Loc → Bool
  | .phys pa _ =>
    if homeOfPhys pa = dieOf a.core then s.defer && a.unit = 6
    else s.defer || !s.hasPath (dieOf a.core) (homeOfPhys pa)
  | _ => false

/-- Write bytes at a place for an agent: at once, or as a numbered write that travels to its home. -/
def writeLoc (a : Agent) (loc : Loc) (va : Nat) (bs : List Byte) : Acc Unit := do
  waitOwn a true loc bs.length
  let s ← get
  match loc with
  | .phys pa slot =>
    if s.travels a loc then
      if s.sourceFull (dieOf a.core) then throw .stall
      else set (s.sendWrite a.core a.tid none .bytes (homeOfPhys pa) pa slot va bs false)
    else pokeHome a loc va bs
  | _ =>
    waitPath a true loc
    pokeHome a loc va bs

/-- Alignment (R146, cause 1). -/
def checkAligned (va n : Nat) : Acc Unit := if va % n = 0 then pure () else stopTrap 1 va

/-- An aligned load of n bytes (R146). -/
def loadBytes (a : Agent) (va n : Nat) : Acc (List Byte) := do
  checkAligned va n
  let loc ← resolve a .load va n
  readLoc a loc va n

/-- An aligned load of n bytes as a number. -/
def loadNat (a : Agent) (va n : Nat) : Acc Nat := do return ofLe (← loadBytes a va n)

/-- An aligned store of n bytes (R146). -/
def storeBytes (a : Agent) (va : Nat) (bs : List Byte) : Acc Unit := do
  checkAligned va bs.length
  let loc ← resolve a .store va bs.length
  writeLoc a loc va bs

/-- An aligned store of the low n bytes of a number. -/
def storeNat (a : Agent) (va n x : Nat) : Acc Unit := storeBytes a va (leBytes n x)

/-- Count an atomic performed by a die's synchronisation engine (R328). -/
def State.countAtomic (s : State) (d : Nat) : State := s.setDie d { s.die d with seatom := (s.die d).seatom + 1 }

/-- A read-modify-write of n bytes as one access (R156, R157): the old value; nothing is written if the new value is
none. An atomic on device memory is performed by the synchronisation engine of the home die (R327). -/
def atomicNat (a : Agent) (count : Bool) (va n : Nat) (f : Nat → Option Nat) : Acc Nat := do
  checkAligned va n
  let loc ← resolve a .both va n
  waitPath a true loc
  let bytes ← readLoc a loc va n
  let old := ofLe bytes
  match loc with
  | .phys pa _ =>
    if count then modify (·.countAtomic (homeOfPhys pa))
  | _ => pure ()
  match f old with
  | some x =>
    waitOwn a true loc n
    pokeHome a loc va (leBytes n x)
  | none => pure ()
  pure old

/-- A 4-bit element at a byte address: the low nibble for even elements (R149). -/
def loadNibble (a : Agent) (va : Nat) (odd : Bool) : Acc Nat := do
  let x ← loadNat a va 1
  pure (if odd then x / 16 else x % 16)

/-- A byte with one nibble replaced. -/
def nibbleInto (odd : Bool) (code old : Nat) : Byte :=
  BitVec.ofNat 8 (if odd then code % 16 * 16 + old % 16 else old / 16 * 16 + code % 16)

/-- A 4-bit element store (R154): at the home of the byte it is a byte read-modify-write that needs W alone; padding of a node is discarded. -/
def storeNibble (a : Agent) (va : Nat) (odd : Bool) (code : Nat) : Acc Unit := do
  let loc ← resolve a .store va 1
  waitOwn a true loc 1
  match loc with
  | .node slot scale q off =>
    waitPath a true loc
    let s ← get
    match s.node slot with
    | none => stopTrap 2 va
    | some n =>
      match s.ownBlock slot n scale q with
      | none =>
        set (s.refuseSpace n.home)
        throw (.space (BitVec.ofNat 64 va))
      | some s' =>
        if (n.shape.plane scale).w = 4 then
          set ((s'.writeOwn slot scale q off [] (some (2 * off + (if odd then 1 else 0), code))).numberAtOnce a.core n.home)
        else
          let old := (Map.get (0 : Byte) (s'.resolve slot scale q) off).toNat
          set ((s'.writeOwn slot scale q off [nibbleInto odd code old] none).numberAtOnce a.core n.home)
  | _ =>
    let s ← get
    match loc with
    | .phys pa slot =>
      if s.travels a loc then
        if s.sourceFull (dieOf a.core) then throw .stall
        else set (s.sendWrite a.core a.tid none (.nibble odd) (homeOfPhys pa) pa slot va [BitVec.ofNat 8 (code % 16)] false)
      else pokeHome a loc va [nibbleInto odd code (ofLe (peekLoc s loc 1))]
    | _ => pokeHome a loc va [nibbleInto odd code (ofLe (peekLoc s loc 1))]

/-- The own-scratchpad bytes of an instruction operand: address and size known to lie inside. -/
def loadOwn (a : Agent) (off n : Nat) : Acc (List Byte) := do
  let loc := Loc.pad a.core off
  waitOwn a false loc n
  checkPoison loc off n
  pure (peekLoc (← get) loc n)

end Sys2Proof.Machine
end

