-- ==== Sys2Proof/Machine/SchedOps.lean ====
section
/-! DEFINITION. What every family needs of the dispatchers (16) and of containment (22): readiness of instances, the
failure of an instance, the containment of a core; and how an instruction that accesses memory ends. -/

namespace Sys2Proof.Machine

namespace State

/-! ### Readiness (R297, R302) -/

/-- TASKID of an instance, which is its key: task number in bits 31:0, instance number in bits 47:32 (R14, R296). -/
def taskKey (graph task num : Nat) : Nat := num * 2 ^ 32 + graph % 2 ^ 20 * 4096 + task

/-- The instances of a task of a graph. -/
def instsOf (s : State) (graph task : Nat) : List (Nat × Inst) :=
  s.insts.filter fun e => e.2.graph = graph && e.2.task = task

/-- Has a task ended: have all of its instances (R297)? -/
def taskEnded (s : State) (graph task : Nat) : Bool := (s.instsOf graph task).all fun e => e.2.st = .ended

/-- Has every predecessor of an instance ended (R93)? -/
def predsEnded (s : State) (i : Inst) : Bool :=
  i.predsDone ||
    match s.taskOf i with
    | some t => t.preds.all fun p => s.taskEnded i.graph p
    | none => true

/-- Has every predecessor signalled, each instance being resident or ended (R302)? One that is being stopped or that is
ending holds its cores, and is resident. -/
def predsSignalled (s : State) (i : Inst) : Bool :=
  match s.taskOf i with
  | some t => t.preds.all fun p => (s.instsOf i.graph p).all fun e => e.2.signalled &&
      (e.2.st = .resident || e.2.st = .stopping || e.2.st = .ending || e.2.st = .ended)
  | none => true

/-- Replace an instance. -/
def setInst (s : State) (k : Nat) (i : Inst) : State := { s with insts := Map.insert s.insts k i }

/-- Move one instance on if its predecessors allow it (R302). -/
def readyOne (s : State) (k : Nat) : State :=
  match Map.find s.insts k with
  | none => s
  | some i =>
    let early := match s.taskOf i with
      | some t => t.early
      | none => false
    match i.st with
    | .pending =>
      if s.predsEnded i then { s.setInst k { i with st := .ready, entry := s.stamp } with stamp := s.stamp + 1 }
      else if early && s.predsSignalled i then
        { s.setInst k { i with st := .early, entry := s.stamp } with stamp := s.stamp + 1 }
      else s
    | .early => if s.predsEnded i then s.setInst k { i with st := .ready } else s
    | _ => s

/-- Is an instance in a ready queue or reserving? -/
def waitsForCores (i : Inst) : Bool := i.st = .ready || i.st = .early || i.st = .reserving

/-- Priority of an instance. -/
def prioOf (s : State) (i : Inst) : Nat :=
  match s.taskOf i with
  | some t => t.prio
  | none => 0

/-- Does an instance stand before another in the order in which a dispatcher considers them (R303)? -/
def queuedBefore (s : State) (a b : Inst) : Bool :=
  let rank (i : Inst) : Nat := if i.st = .early then 1 else 0
  s.prioOf b < s.prioOf a ||
    (s.prioOf a = s.prioOf b && (rank a < rank b || (rank a = rank b && a.entry < b.entry)))

/-- Insert an instance into the queue order. -/
def queueInsert (s : State) (e : Nat × Inst) : List (Nat × Inst) → List (Nat × Inst)
  | [] => [e]
  | x :: r => if s.queuedBefore e.2 x.2 then e :: x :: r else x :: queueInsert s e r

/-- The waiting instances in the order in which they are considered. -/
def queue (s : State) : List (Nat × Inst) :=
  (s.insts.filter fun e => waitsForCores e.2).foldl (fun q e => s.queueInsert e q) []

/-- The dispatchers look again: instances become ready, waiting ones may be placed, WAITPREDs may return, held RESTARTs
may take effect. -/
def kick (s : State) : State :=
  let s := (Map.keys s.insts).foldl readyOne s
  let s := s.queue.foldl (fun s e => s.enqueue (.placeInstance e.1)) s
  let s := s.insts.foldl (fun s e => if e.2.restart.isSome then s.enqueue (.restartApply e.1) else s) s
  s.threads.foldl (fun s e =>
    if e.2.wait = some .waitpred then s.enqueue (.waitpredRelease (e.1 / 4) (e.1 % 4)) else s) s

/-! ### Members and their cores -/

/-- The cores that an instance holds: those of its members, with the partners of a paired task (R304). -/
def coresHeld (s : State) (k : Nat) : List Nat := (s.cores.filter fun e => e.2.inst = some k).map (·.1)

/-- The members of an instance with their cores. -/
def membersOf (s : State) (i : Inst) : List (Nat × Nat) :=
  match i.rect, s.taskOf i with
  | some r, some t => (List.range (t.w * t.h)).map fun m => (m, s.memberCoreAt i r m)
  | _, _ => []

/-- Do something for each thread of each core an instance holds. -/
def forThreads (s : State) (k : Nat) (f : State → Nat → Nat → State) : State :=
  (s.coresHeld k).foldl (fun s c => (List.range 4).foldl (fun s t => f s c t) s) s

/-! ### Failure (R376) -/

/-- States in which an instance holds cores. -/
def holdsCores (st : InstState) : Bool := st = .resident || st = .stopping || st = .ending

/-- An instance becomes FAILED (R302, R376): one that holds cores is stopped by INSTANCE_FAIL. -/
def failInstance (s : State) (k : Nat) : State :=
  match Map.find s.insts k with
  | none => s
  | some i =>
    if i.st = .ended || i.st = .failed then s
    else if holdsCores i.st then (s.setInst k { i with st := .failed, released := false }).enqueue (.instanceFail k)
    else s.setInst k { i with st := .failed, released := true, ctx := none, reserved := none }

/-- The executing thread takes trap 12 (R15); with WDEXIT 0 its instance fails (R314). -/
def watchdogTrap (s : State) : State :=
  let s := (s.setMe { s.me with wdogDue := false }).takeTrap 12 0
  match s.myCore.inst, s.instOf s.curCore with
  | some k, some i =>
    match s.taskOf i with
    | some u => if u.wdexit = 0 then s.failInstance k else s
    | none => s
  | _, _ => s

/-! ### Mailboxes of others that unfinished streams name (R162, R202) -/

/-- Cores and mailboxes that a request completes at, apart from the issuing core. -/
def foreignMailboxes (s : State) (core : Nat) (r : CopyRequest) : List (Nat × Nat) :=
  if r.cmode ≠ 1 then []
  else if r.kind = 5 then
    let w := bits (s.thread core 0).spansz.toNat 16 8
    let me := (s.thread core 0).spanix.toNat
    let rs := (List.range r.mcH).flatMap fun i => (List.range r.mcW).map fun j => r.origin + i * w + j
    rs.filterMap fun m => if m = me then none else (s.memberCore core m).map fun c => (c, r.num)
  else if r.remote then
    match s.memberCore core r.member with
    | some c => if c = core then [] else [(c, r.num)]
    | none => []
  else []

/-- Mark the mailboxes of other cores that the unfinished streams of a core name (R162); their waiters look again. -/
def markMailboxes (s : State) (core : Nat) : State :=
  let c := s.core core
  let rs := c.fifo ++ c.streams.map fun e => e.2.req
  (rs.flatMap fun r => s.foreignMailboxes core r).foldl (fun s e =>
    let x := s.core e.1
    (s.setCore e.1 { x with mbMark := x.mbMark ||| (1#16 <<< e.2) }).notifyCore e.1) s

/-- The streams of a core write nothing more and never complete; writes of it that have not been performed are
discarded (R252, R351, R376). -/
def discardEngines (s : State) (core : Nat) : State :=
  let s := s.markMailboxes core
  let c := s.core core
  let s := s.setCore core { c with
    fifo := [], streams := c.streams.map fun e => (e.1, { e.2 with stopped := true }), vq := [], mq := [] }
  { s with
    flights := (s.flights.filter fun f => f.core ≠ core || f.performed).map fun f =>
      if f.core = core then { f with gone := true } else f
    xblocks := s.xblocks.filter fun x => x.src ≠ core
    drFlights := s.drFlights.filter fun f => f.core ≠ core }

/-! ### Containment (R351) -/

/-- Threads of the instance that wait on a channel of which the contained core holds a membership take cause 13
(R161). -/
def trapWaiters (s : State) (k core : Nat) : State :=
  let base : Word := 0x1000000 + ((s.thread core 0).spanix.setWidth 64) * 0x40000
  s.forThreads k fun s c t =>
    let th := s.thread c t
    let waits := match th.wait with
      | some (.wait _) => true
      | some (.xphase _) => true
      | some (.cphase _) => true
      | _ => false
    if c = core || !waits then s
    else
      match s.chanOf c th with
      | none => s
      | some r =>
        if (s.containedMember r).isSome then
          let cur := (s.curCore, s.curTid)
          let s := (s.asThread c t).takeTrap 13 base
          { s with curCore := cur.1, curTid := cur.2 }
        else s

/-- The access with which a thread stands in the fault buffer; one that waits for a CXL link does not (R269, R335). -/
def parkedOf (t : Thread) : Option Parked := if t.op.isNone then t.parked else none

/-- An access that was parked is abandoned: its entry and PARKED lose it (R269). -/
def abandon (s : State) (c : Nat) (p : Option Parked) : State :=
  match p with
  | none => s
  | some p =>
    let k := clusterOf c
    let cl := s.cluster k
    let fb := match p.entry with
      | some e => match Map.find cl.fb e with
        | some x => Map.insert cl.fb e { x with count := x.count - 1 }
        | none => cl.fb
      | none => cl.fb
    s.setCluster k { cl with fb := fb, parked := cl.parked - 1 }

/-- A thread of a contained core stops: no word of it is in hand any more (R351). -/
def haltThread (s : State) (core tid : Nat) : State :=
  let t := s.thread core tid
  (s.abandon core (parkedOf t)).setThread core tid { t with
    wait := none, op := none, parked := none, forest := none, pending := none, stopTrap := false, inPhase := false,
    owes := false, pathSince := none }

/-- A core is contained: its threads stop, its mailboxes are sealed, its streams and unperformed writes are discarded, its
waiters take cause 13, its instance fails. -/
def contain (s : State) (core : Nat) : State :=
  let s := (List.range 4).foldl (fun s t => s.haltThread core t) (s.discardEngines core)
  let s := s.setCore core { s.core core with contained := true }
  match (s.core core).inst with
  | some k => ((s.trapWaiters k core).failInstance k).kick
  | none => s

/-- A thread consumes poison at an address: in service mode trap 17, in task mode containment with a record of KIND 3
(R350, R351, R356). -/
def consume (s : State) (unit : Nat) (va : Word) : State :=
  if s.inService then s.takeTrap 17 va
  else
    let s := s.coreRecord s.curCore 3 unit 17 s.curTid.toNat (2 ^ 63 + va.toNat % 2 ^ 55) 0
    s.contain s.curCore

/-- The thread parks in the fault buffer with the word in hand (R269). -/
def parkMe (s : State) (i : Instr) (unit : Nat) (va : Word) (write perm : Bool) (lane : Option Nat) : State :=
  let (k, s) := s.parkAccess (s.agent unit) va.toNat write perm
  s.setMe { s.me with wait := some i, parked := some ⟨va, write, lane, k⟩ }

/-- The word waits for a CXL link that is down (R335). -/
def waitCxl (s : State) (i : Instr) (va : Word) (write : Bool) : State :=
  s.setMe { s.me with
    wait := some i, op := some (.cxlReadTimeout s.curCore s.curTid.toNat), parked := some ⟨va, write, none, none⟩,
    wfiAt := s.cycle }

/-- The waiting of a write for a path, which goes on if it was for the same path before and begins now if not (R324). -/
def pathWait (s : State) (old : Option PathWait) (src home : Nat) : Option PathWait :=
  if old.any fun p => p.src = src && p.home = home then old else some ⟨src, home, s.cycle⟩

/-- A write of the executing thread waits at issue for a path from a die to another (R324). -/
def waitsPathFrom (s : State) (src home : Nat) : State :=
  s.setMe { s.me with pathSince := s.pathWait s.me.pathSince src home }

/-- The same for a path from the thread's own die. -/
def waitsPath (s : State) (die : Nat) : State := s.waitsPathFrom (dieOf s.curCore) die

/-- A word consumes poison. In task mode it has no effect (R351); what its accesses before the poison have translated,
migrated and counted stays (R272, R358). -/
def consumed (s0 s : State) (unit : Nat) (va : Word) : State :=
  if s.inService then s.consume unit va else (s0.keepReached s).consume unit va

/-- Let the captures of a core go on. -/
def kickCaptures (s : State) (core : Nat) : State :=
  (List.range 4).foldl (fun s t =>
    if (s.thread core t).capture.isSome then s.enqueue (.repeatPass core t) else s) s

/-- How a word that accesses memory ends when it does not complete. -/
def stopped (s0 s : State) (i : Instr) (unit : Nat) : Stop → State
  | .trap c v => s.takeTrap c v
  | .poison v => s0.consumed s unit v
  | .park v w perm => s.parkMe i unit v w perm none
  | .space v => s.takeTrap 4 v
  | .cxl v w => s.waitCxl i v w
  | .stall => s0
  | .path d => s0.waitsPath d

/-- How a word ends that reaches nothing but registers and its own scratchpad, where no access parks. -/
def stoppedOwn (s0 s : State) (unit : Nat) : Stop → State
  | .trap c v => s.takeTrap c v
  | .poison v => if s.inService then s.consume unit v else s0.consume unit v
  | _ => s0

/-- The engines of every core look again: its streams, and its queued vector words. -/
def wakeEngines (s : State) : State :=
  s.cores.foldl (fun s e =>
    let s := (Map.keys e.2.streams).foldl (fun s k => s.enqueue (.streamComplete e.1 k)) s
    if e.2.vq.isEmpty then s else s.enqueue (.vectorWordExecute e.1)) s

/-- Are earlier writes of the executing thread queued in its matrix words, unacknowledged, or in exchange blocks on their
way? -/
def ownWritesOut (s : State) : Bool :=
  s.storesQueued || s.flightsOut s.curCore s.curTid.toNat true || s.xblocks.any fun b => b.src = s.curCore && b.tid = s.curTid

end State

/-- Run a word that reaches nothing but registers and its own scratchpad, and retire it. -/
def finishOwn (unit : Nat) (m : Acc Unit) (s : State) : Out :=
  match m s with
  | (.ok _, s') => .next s'.retire
  | (.error e, s') => .next (State.stoppedOwn s s' unit e)

/-- Run the accesses of a word and retire it, or stop as its accesses say (R86, R146). -/
def finish (i : Instr) (unit : Nat) (m : Acc Unit) (s : State) : Out :=
  match m s with
  | (.ok _, s') => .next s'.retire
  | (.error e, s') => .next (State.stopped s s' i unit e)

end Sys2Proof.Machine
end

