-- ==== Sys2Proof/Machine/BitStream.lean ====
section
/-! DEFINITION. The bit buffer (R204, R205). -/

namespace Sys2Proof.Machine

/-- NONE of R204. -/
def noBits : Word := allOnes64

/-- Count field of a bit-stream word: c, or bits(g(b), 5:0) with 32 at most. -/
def State.bitCount (s : State) (b c : Reg) : Nat := if c = 0#5 then min (bits (s.g b).toNat 0 6) 32 else c.toNat

/-- Refill (R205): bytes from BBPTR while the count is at most 120 and the limit is not reached. -/
def refill (a : Agent) : Nat → BitBuffer → Acc BitBuffer
  | 0, b => pure b
  | fuel + 1, b =>
    if b.cnt.toNat ≤ 120 && b.ptr < b.lim then do
      let x ← loadNat a b.ptr.toNat 1
      let mask : BitVec 128 := 0xFF#128 <<< b.cnt.toNat
      refill a fuel { b with
        buf := (b.buf &&& ~~~mask) ||| (BitVec.ofNat 128 x <<< b.cnt.toNat), cnt := b.cnt + 8, ptr := b.ptr + 1 }
    else pure b

/-- Flush (R205): whole bytes to BBPTR while there are any and the limit is not reached. -/
def flush (a : Agent) : Nat → BitBuffer → Acc BitBuffer
  | 0, b => pure b
  | fuel + 1, b =>
    if 8 ≤ b.cnt.toNat && b.ptr < b.lim then do
      storeNat a b.ptr.toNat 1 (b.buf.toNat % 256)
      flush a fuel { b with buf := b.buf >>> 8, cnt := b.cnt - 8, ptr := b.ptr + 1 }
    else pure b

/-- Store the bit buffer and a result. -/
def putBits (d : Reg) (b : BitBuffer) (x : Word) : Acc Unit := modify fun s => (s.setMe { s.me with bb := b }).setG d x

/-- A read form: in write mode NONE; else a refill if it needs more bits than there are. -/
def readForm (d : Reg) (n : Nat) (f : BitBuffer → BitBuffer × Word) : Acc Unit := do
  let s ← get
  if s.me.bb.dir then putBits d s.me.bb noBits
  else
    let b ← if s.me.bb.cnt.toNat < n then refill (s.agent 5) 16 s.me.bb else pure s.me.bb
    let (b, x) := f b
    putBits d b x

/-- n bits consumed. -/
def consumeBits (b : BitBuffer) (n : Nat) : BitBuffer := { b with buf := b.buf >>> n, cnt := b.cnt - BitVec.ofNat 8 n }

/-- The next n bits. -/
def nextBits (b : BitBuffer) (n : Nat) : Word := BitVec.ofNat 64 (b.buf.toNat % 2 ^ n)

/-- The buffer as it stands before any BBINIT: pointer, limit and count 0. Every read form returns NONE then. -/
def uninit (b : BitBuffer) : Bool := b.ptr = 0 && b.lim = 0 && b.cnt = 0

/-- BBINIT (R205). -/
def execBbinit (d a b c : Reg) (s : State) : Out :=
  let x := s.g a
  let y := s.g b
  if y.toNat < x.toNat || Config.padSize ≤ x.toNat || Config.padSize ≤ y.toNat then .next (s.setG d 1).retire
  else
    let s := s.setMe { s.me with bb := ⟨0, 0, c = 1#5, x.setWidth 18, y.setWidth 18⟩ }
    .next (s.setG d 0).retire

/-- BBGET (R205). -/
def execBbget (d b c : Reg) (s : State) : Out :=
  let n := s.bitCount b c
  finishOwn 5 (readForm d n fun x =>
    if uninit x || x.cnt.toNat < n then (x, noBits) else (consumeBits x n, nextBits x n)) s

/-- BBPEEK (R205). -/
def execBbpeek (d b c : Reg) (s : State) : Out :=
  let n := s.bitCount b c
  finishOwn 5 (readForm d n fun x =>
    if uninit x || x.cnt.toNat < n then (x, noBits) else (x, nextBits x n)) s

/-- BBSKIP (R205). -/
def execBbskip (d b c : Reg) (s : State) : Out :=
  let n := s.bitCount b c
  finishOwn 5 (readForm d n fun x =>
    if uninit x || x.cnt.toNat < n then (x, noBits) else (consumeBits x n, 0)) s

/-- Zero bits before the first one bit among the next n. -/
def zerosBefore (b : BitBuffer) (n : Nat) : Option Nat := (List.range n).find? fun i => b.buf.getLsbD i

/-- The result of BBLZ: the count, 32 for 32 zero bits, NONE if fewer remain and none is 1. -/
def bblzValue (b : BitBuffer) : Word :=
  match zerosBefore b (min b.cnt.toNat 32) with
  | some k => BitVec.ofNat 64 k
  | none => if 32 ≤ b.cnt.toNat then 32 else noBits

/-- BBLZ (R205). -/
def execBblz (d : Reg) (s : State) : Out :=
  finishOwn 5 (readForm d 32 fun x => (x, if uninit x then noBits else bblzValue x)) s

/-- BBAPP (R205): append n bits, after a flush if they do not fit. R204 lets NONE change nothing except by refill, and R205
lets a flush come as far as BBLIM: the model keeps what the flush has stored, and returns NONE (log 36). -/
def bbappRun (d a : Reg) (n : Nat) : Acc Unit := do
  let s ← get
  let bb := s.me.bb
  if !bb.dir then putBits d bb noBits
  else
    let bb ← if 128 < bb.cnt.toNat + n then flush (s.agent 5) 17 bb else pure bb
    if 128 < bb.cnt.toNat + n then putBits d bb noBits
    else
      let x : BitVec 128 := BitVec.ofNat 128 ((s.g a).toNat % 2 ^ n)
      let mask : BitVec 128 := BitVec.ofNat 128 (2 ^ n - 1) <<< bb.cnt.toNat
      putBits d { bb with buf := (bb.buf &&& ~~~mask) ||| (x <<< bb.cnt.toNat), cnt := bb.cnt + BitVec.ofNat 8 n } 0

/-- BBAPP (R205), issued. -/
def execBbapp (d a b c : Reg) (s : State) : Out :=
  let n := s.bitCount b c
  finishOwn 5 (bbappRun d a n) s

/-- BBFLUSH (R205): whole bytes, then a partial byte with its high bits 0; with NONE, what it has stored stays stored
(log 36). -/
def bbflushRun (d : Reg) : Acc Unit := do
  let s ← get
  let bb := s.me.bb
  if !bb.dir then putBits d bb noBits
  else
    let bb ← flush (s.agent 5) 17 bb
    if bb.cnt = 0 then putBits d bb (bb.ptr.setWidth 64)
    else if bb.ptr < bb.lim then
      storeNat (s.agent 5) bb.ptr.toNat 1 (bb.buf.toNat % 2 ^ bb.cnt.toNat)
      let bb := { bb with buf := bb.buf >>> 8, cnt := 0, ptr := bb.ptr + 1 }
      putBits d bb (bb.ptr.setWidth 64)
    else putBits d bb noBits

/-- BBFLUSH (R205), issued. -/
def execBbflush (d : Reg) (s : State) : Out := finishOwn 5 (bbflushRun d) s

/-- BBPOS (R205). -/
def execBbpos (d : Reg) (s : State) : Out :=
  let b := s.me.bb
  let p : Word := b.ptr.setWidth 64 <<< 3
  .next (s.setG d (if b.dir then p + b.cnt.setWidth 64 else p - b.cnt.setWidth 64)).retire

end Sys2Proof.Machine
end

