-- ==== Sys2Proof/Machine/Operands.lean ====
section
/-! DEFINITION. Operand forms: how a word's fields name what it works on (R58 to R61, R76, R78, R148). -/

namespace Sys2Proof.Machine

/-- The address g(a) + sext(imm, 16) of a scalar access (R148). -/
def State.immAddr (s : State) (a : Reg) (i : BitVec 16) : Word := s.g a + sext16 i

/-- The target of a branch or LOOP (R59). -/
def State.branchTarget (s : State) (o : BitVec 16) : Word := s.me.pc + (sext16 o <<< 2)

/-- The target of JAL (R59). -/
def State.jalTarget (s : State) (o : BitVec 26) : Word := s.me.pc + (o.signExtend 64 <<< 2)

/-- imm of LUI and ADDPC: sext(imm, 16) << 16 (R78). -/
def upperImm (i : BitVec 16) : Word := sext16 i <<< 16

/-- The immediate of ANDI, ORI, XORI: zero-extended (R60). -/
def logicImm (i : BitVec 16) : Word := i.setWidth 64

/-- The width of SEXT and ZEXT (R76). -/
def extWidth (w : BitVec 5) : Nat :=
  match w.toNat with
  | 0 => 8
  | 1 => 16
  | _ => 32

/-- A shift amount: bits(y, 5, 0) (R76). -/
def shiftAmount (y : Word) : Nat := y.toNat % 64

/-- The number of one bits. -/
def popCount (x : Nat) : Nat := ((List.range 64).filter fun i => x.testBit i).length

/-- The number of leading zero bits of a word; 64 for 0. -/
def leadingZeros (x : Word) : Nat := if x = 0 then 64 else 63 - log2 x.toNat

/-- The number of trailing zero bits of a word; 64 for 0. -/
def trailingZeros (x : Word) : Nat :=
  match (List.range 64).find? fun i => x.getLsbD i with
  | some i => i
  | none => 64

end Sys2Proof.Machine
end

