-- ==== Sys2Proof/Machine/Control.lean ====
section
/-! DEFINITION. Control transfer, CRIT, and the instructions that trap or return (R81 to R89). -/

namespace Sys2Proof.Machine

/-- A branch (R81): to the target if the comparison holds, else to the next word. -/
def branchIf (c : Bool) (o : BitVec 16) (s : State) : State := if c then s.jump (s.branchTarget o) else s.retire

/-- BEQ (R81). -/
def execBeq (a b : Reg) (o : BitVec 16) (s : State) : Out := .next (branchIf (s.g a == s.g b) o s)

/-- BNE (R81). -/
def execBne (a b : Reg) (o : BitVec 16) (s : State) : Out := .next (branchIf (s.g a != s.g b) o s)

/-- BLT (R81): signed. -/
def execBlt (a b : Reg) (o : BitVec 16) (s : State) : Out := .next (branchIf ((s.g a).slt (s.g b)) o s)

/-- BGE (R81): signed. -/
def execBge (a b : Reg) (o : BitVec 16) (s : State) : Out := .next (branchIf (!(s.g a).slt (s.g b)) o s)

/-- BLTN (R81): unsigned. -/
def execBltn (a b : Reg) (o : BitVec 16) (s : State) : Out := .next (branchIf ((s.g a).ult (s.g b)) o s)

/-- BGEN (R81): unsigned. -/
def execBgen (a b : Reg) (o : BitVec 16) (s : State) : Out := .next (branchIf (!(s.g a).ult (s.g b)) o s)

/-- JAL (R81): g1 := pc + 4, then to the target. -/
def execJal (o : BitVec 26) (s : State) : Out := .next ((s.setG 1#5 (s.me.pc + 4)).jump (s.jalTarget o))

/-- JALR (R81): the target is read before the link is written. -/
def execJalr (d a : Reg) (i : BitVec 16) (s : State) : Out :=
  let t := s.g a + sext16 i
  .next ((s.setG d (s.me.pc + 4)).jump t)

/-- LOOP (R83): decrement, and branch while the new value is not 0. -/
def execLoop (a : Reg) (o : BitVec 16) (s : State) : Out :=
  let x := s.g a - 1
  .next (branchIf (x != 0) o (s.setG a x))

/-- CRIT (R84, R85): the next n words are covered. -/
def execCrit (n : BitVec 4) (s : State) : Out :=
  let s := s.retire
  .next (s.setMe { s.me with cover := n.toNat + 1 })

/-- SVC (R89): trap 9 with the code in TVAL. -/
def execSvc (c : BitVec 5) (s : State) : Out := .next (s.takeTrap 9 (c.setWidth 64))

/-- BRK (R89): trap 8 with the code in TVAL. -/
def execBrk (c : BitVec 5) (s : State) : Out := .next (s.takeTrap 8 (c.setWidth 64))

/-- A privileged form in task mode traps with cause 10 and has no other effect (R11, R87). -/
def privileged (w : Word) (run : State → Out) (s : State) : Out :=
  if s.inService then run s else .next (s.takeTrap 10 w)

/-- The word of ERET (R88). -/
def eretWord : Word := 0x84000002

/-- The word of TASKEND (R88). -/
def taskendWord : Word := 0x84000005

/-- ERET (R89). -/
def execEret (s : State) : Out := privileged eretWord (fun s => .next s.returnFromTrap) s

end Sys2Proof.Machine
end

