-- ==== Sys2Proof/Machine/Fetch.lean ====
section
/-! DEFINITION. Instruction fetch in blocks of 16 words (R56, R68, R71). -/

namespace Sys2Proof.Machine

namespace State

/-- Address of the fetch block of a word. -/
def blockOf (pc : Word) : Word := pc &&& ~~~63#64

/-- Does a leaf let words be fetched: X = 1, W = 0, a frame that is admitted (R68)? -/
def fetchable (s : State) (l : Leaf) (va : Nat) : Bool :=
  Pte.x l.pte && !Pte.w l.pte && s.admitted.contains (l.phys va / 0x10000)

/-- Do the tables still let words be fetched at an address: X = 1 and W = 0 (R71)? -/
def stillExecutable (s : State) (core va : Nat) : Bool :=
  match s.walk (dieOf core) (s.core core).ptbase va with
  | .leaf l => Pte.x l.pte && !Pte.w l.pte
  | _ => false

/-- The leaf through which a fetch of a core goes: a cached one with X = 1, as long as the leaf in memory has X = 1 and
W = 0 (R71), else what a walk finds (R68). A walk counts, records a poisoned entry, and sets A where the leaf permits the
fetch (R264). -/
def fetchLeaf (s : State) (core : Nat) (va : Nat) : Option Leaf × State :=
  let pt := (s.core core).ptbase
  let walked : Option Leaf × State :=
    match s.beginWalk (dieOf core) pt va with
    | (.leaf l, s) =>
      if Pte.x l.pte && !Pte.w l.pte then
        let s := s.touchLeaf pt l false
        (some l, s.fillTlbs core ⟨pt.root, va / 2 ^ 16, l.large, Pte.touched l.pte false⟩ va)
      else (none, s)
    | (_, s) => (none, s)
  if !inDeviceMemory va then (none, s)
  else
    match s.tlbLookup core pt.root va with
    | some e =>
      if !Pte.x e.pte then walked
      else if s.stillExecutable core va then (some ⟨0, e.pte, e.large⟩, s.fillTlbs core e va)
      else walked
    | none => walked

/-- Has the executing thread the block of an address in hand? -/
def inHand (t : Thread) (pc : Word) : Option (BitVec 32) :=
  match t.fetched with
  | some b => if b.addr = blockOf pc then some (b.words.getD ((pc - b.addr).toNat / 4) 0) else none
  | none => none

/-- The executing thread begins the fetch block of an address: the block in hand, or none after a trap (R68) or the
consumption of a poisoned word (R350). -/
def beginBlock (s : State) (pc : Word) : State × Bool :=
  match s.fetchLeaf s.curCore pc.toNat with
  | (none, s) => (s.takeTrap 5 pc, false)
  | (some l, s) =>
    if !s.fetchable l pc.toNat then (s.takeTrap 5 pc, false)
    else
      let pa := l.phys (blockOf pc).toNat
      if (s.poisonIn pa 64).isSome then (s.consume 5 pc, false)
      else
        let words := wordsFrom (s.physRead pa 64 (Pte.key l.pte))
        (s.setMe { s.me with fetched := some ⟨blockOf pc, words⟩ }, true)
where
  /-- Bytes as little-endian words. -/
  wordsFrom : List Byte → List (BitVec 32)
    | b0 :: b1 :: b2 :: b3 :: r => wordOfBytes b0 b1 b2 b3 :: wordsFrom r
    | _ => []

/-- The word at an address for the executing thread, fetched if it is not in hand; none after a trap. -/
def fetchWord (s : State) (pc : Word) : Option (BitVec 32) × State :=
  match inHand s.me pc with
  | some w => (some w, s)
  | none =>
    match s.beginBlock pc with
    | (s, false) => (none, s)
    | (s, true) => (some ((inHand s.me pc).getD 0), s)

/-- n words from an address on. -/
def fetchWords : Nat → Word → List (BitVec 32) → State → Option (List (BitVec 32)) × State
  | 0, _, acc, s => (some acc, s)
  | n + 1, pc, acc, s =>
    match s.fetchWord pc with
    | (none, s) => (none, s)
    | (some w, s) => fetchWords n (pc + 4) (acc ++ [w]) s

end State

/-- FETCH_BLOCK (R68): a running thread that has not the block of its pc in hand begins it. -/
def execFetchBlock (core tid : Nat) (s : State) : Out :=
  let t := s.thread core tid
  if t.running && t.wait.isNone && !(s.core core).contained && (State.inHand t t.pc).isNone then
    .next (s.within core tid fun s => (s.beginBlock s.me.pc).1)
  else .next s

end Sys2Proof.Machine
end

