-- ==== Sys2Proof/Machine/Flags.lean ====
section
/-! DEFINITION. Flag computations: the sticky flags of FSTAT and VSTAT (R17), and the rounding modes in force. -/

namespace Sys2Proof.Machine

/-- Bits of FSTAT that a scalar operation sets (R17, R43). -/
def Flags.fstat (f : Flags) : BitVec 5 :=
  (if f.invalid then 1 else 0) ||| (if f.overflow then 2 else 0) ||| (if f.underflow then 4 else 0) |||
    (if f.inexact then 8 else 0) ||| (if f.divzero then 16 else 0)

/-- Bits of VSTAT that a vector or matrix operation sets (R17). -/
def Flags.vstat (f : Flags) : BitVec 6 :=
  (if f.invalid then 1 else 0) ||| (if f.overflow then 2 else 0) ||| (if f.underflow then 4 else 0) |||
    (if f.inexact then 8 else 0) ||| (if f.nonfinite then 32 else 0)

/-- RNGWRAP in VSTAT. -/
def rngWrapBit : BitVec 6 := 16

/-- Set flags in FSTAT; none is cleared. -/
def State.raiseF (s : State) (f : Flags) : State := s.setMe { s.me with fstat := s.me.fstat ||| f.fstat }

/-- Set flags in VSTAT of a thread; none is cleared. -/
def State.raiseVAt (s : State) (k : Nat) (f : Flags) : State :=
  let t := s.threadAt k
  s.setThreadAt k { t with vstat := t.vstat ||| f.vstat }

/-- Set flags in VSTAT of the executing thread. -/
def State.raiseV (s : State) (f : Flags) : State := s.raiseVAt s.meKey f

/-- The mode of a FOP form (R79): codes 0 to 4 name it, 7 takes FCTL.RND. -/
def fopMode (s : State) (r : BitVec 3) : Nat := if r = 7#3 then s.me.frnd.toNat else r.toNat

/-- What a write stores in a rounding field: 5, 6 and 7 store 0 (R18). -/
def rndField (x : BitVec 3) : BitVec 3 := if x.toNat ≤ 4 then x else 0

/-- What a write stores in QFMT: codes other than 11 to 15 store 11 (R18). -/
def qfmtField (x : BitVec 5) : BitVec 5 := if 11 ≤ x.toNat && x.toNat ≤ 15 then x else 11

end Sys2Proof.Machine
end

