-- ==== Sys2Proof/Machine/System.lean ====
section
/-! DEFINITION. The SYS group and the system-register moves: WFI, YIELD, TASKEND, SIGNAL, WAITPRED, convoys, lockstep
pairs, ADMIT, SYSR, SYSW (R66, R69 to R71, R88 to R100, R266, R267). -/

namespace Sys2Proof.Machine

namespace State

/-- Could a thread issue, but for an earlier YIELD (R310)? -/
def readyBase (s : State) (core tid : Nat) : Bool :=
  let t := s.thread core tid
  t.running && t.wait.isNone && t.forest.isNone && !(s.core core).contained

/-- Do engines of the core still hold work of the executing thread? -/
def engineBusy (s : State) : Bool :=
  s.myCore.vq.any (fun e => e.tid = s.curTid) || s.myCore.mq.any (fun e => e.tid = s.curTid) ||
    (match s.me.capture with
    | some c => !c.suspended && c.pass < c.passes
    | none => false)

end State

/-- WFI (R90): the thread stops; a pending trap ends the wait at once. -/
def execWfi (s : State) : Out :=
  let t := s.me
  if t.pending.isSome || t.wdogDue || t.stopTrap then .next s.retire
  else .next (s.setMe { t with wait := some .wfi, wake := false, wfiAt := s.cycle })

/-- YIELD (R90): the other ready threads of the core issue once first. -/
def execYield (s : State) : Out :=
  let others : BitVec 4 := (List.range 4).foldl (fun m t =>
    if t ≠ s.curTid.toNat && s.readyBase s.curCore t then m ||| (1#4 <<< t) else m) 0
  let s := s.retire
  .next (s.setMe { s.me with yielded := others })

/-! ### The end of a thread, and signals -/

namespace State

/-- The channels of the instance that runs on a core (R161). -/
def channelsOf (s : State) (core : Nat) : List ChanRef :=
  match (s.core core).inst with
  | none => [.core core]
  | some k =>
    let named := match Map.find s.insts k with
      | some i => match s.taskOf i with
        | some t =>
          (match t.diech with
          | some c => [ChanRef.die (dieOf core) c.toNat]
          | none => []) ++
          (match t.pkgch with
          | some c => [ChanRef.pkg c.toNat]
          | none => [])
        | none => []
      | none => []
    [.core core, .span k] ++ named

/-- Clear the executing thread's bits in a channel; a phase that this completes completes (R161). -/
def leaveChannel (s : State) (r : ChanRef) : State :=
  match s.chanBit s.curCore s.me r with
  | none => s
  | some (k, b) =>
    let c := s.channel r
    s.settleChannel r { c with members := bitmapClear c.members k b, arrived := bitmapClear c.arrived k b }

/-- Have all threads of all members of an instance executed TASKEND? -/
def allEnded (s : State) (k : Nat) : Bool :=
  (s.coresHeld k).all fun c => (List.range 4).all fun t => !(s.thread c t).running

/-- The executing thread ends (R91, R22, R161): its bits clear in every channel, and the member and the instance may
begin to end. An instance that is being stopped is saved first (R302). -/
def endThread (s : State) : State :=
  let s := (s.channelsOf s.curCore).foldl leaveChannel s
  let s := s.setMe { s.me with running := false, convoy := none, inPhase := false, fetched := none }
  match s.myCore.inst with
  | none => s
  | some k =>
    let s := if s.allEnded k then
        match Map.find s.insts k with
        | some i => if i.st = .resident then s.setInst k { i with st := .ending } else s
        | none => s
      else s
    if (List.range 4).all fun t => !(s.thread s.curCore t).running then
      s.enqueue (.memberEnd k s.me.spanix.toNat)
    else s

end State

/-- TASKEND (R91): in service mode it traps with cause 10. -/
def execTaskend (s : State) : Out :=
  if s.inService then .next (s.takeTrap 10 taskendWord) else .next s.retire.endThread

/-- SIGNAL (R92): marks the issuing instance; successors may become EARLY (R302). -/
def execSignal (s : State) : Out :=
  let s := s.retire
  match s.myCore.inst with
  | none => .next s
  | some k =>
    match Map.find s.insts k with
    | none => .next s
    | some i => .next ((s.setInst k { i with signalled := true }).kick)

/-- WAITPRED (R93): blocks until every predecessor instance has ended. -/
def execWaitpred (s : State) : Out :=
  match s.instOf s.curCore with
  | none => .next s.retire
  | some i => if s.predsEnded i then .next s.retire else .next (s.block .waitpred)

/-! ### Convoys (R95 to R97) -/

/-- Convoy size of a size code. -/
def convoySize (n : BitVec 2) : Nat := 2 ^ n.toNat

namespace State

/-- The group of the executing thread by span index, if the row holds it (R95). -/
def convoyGroup (s : State) (n : BitVec 2) : Option (List Nat) :=
  let w := spanW s.me
  let k := s.me.spanix.toNat
  let size := convoySize n
  if w = 0 then none
  else
    let base := k % w / size * size
    if base + size ≤ w then some ((List.range size).map fun j => k / w * w + base + j) else none

/-- Does each member of a group run the executing thread's TID (R95)? -/
def groupRuns (s : State) : Bool :=
  match s.instOf s.curCore with
  | some i => match s.taskOf i with
    | some t => s.curTid.toNat < t.threads
    | none => false
  | none => false

/-- The cores of a group. -/
def groupCores (s : State) (grp : List Nat) : List Nat := grp.filterMap (s.memberCore s.curCore)

/-- Size code and strictness of a CONVOY in which a thread waits. -/
def convoyWait (t : Thread) : Option (BitVec 2 × Bool) :=
  match t.wait with
  | some (.convoy _ n) => some (n, false)
  | some (.convoyS _ n) => some (n, true)
  | _ => none

/-- The result register of a waiting CONVOY. -/
def convoyDest (t : Thread) : Reg :=
  match t.wait with
  | some (.convoy d _) => d
  | some (.convoyS d _) => d
  | _ => 0

/-- A waiting CONVOY retires with a result. -/
def convoyResult (s : State) (core tid : Nat) (x : Word) : State :=
  s.within core tid fun s => (s.setG (convoyDest s.me) x).retire

/-- Form the convoy of a group, the leader first: CONVN, CONVL, CVB, and 0 in every member (R95, R19). A follower fetches
nothing and executes the leader's words (R96): its pc is the leader's from here on, wherever its own CONVOY stood. -/
def formConvoy (s : State) (grp : List Nat) (strict : Bool) : State :=
  let cores := grp.filterMap (s.memberCore s.curCore)
  cores.foldl (fun s c =>
    let tid := s.curTid.toNat
    let s := s.convoyResult c tid 0
    let t := s.thread c tid
    s.setThread c tid { t with
      convoy := some ⟨strict, grp⟩, cvb := false, pc := (s.thread (cores.headD c) tid).pc
      fetched := if cores.head? = some c then t.fetched else none }) s

end State

/-- CONVOY with or without .S (R95): results other than 0 at once, in the order of the table; else the thread waits, and
the last of the group to arrive forms the convoy. Where the members of a group mix CONVOY and CONVOY.S, the leader's word
decides whether the convoy is strict (DESIGN CHOICE, log 36: R95 does not say). -/
def convoyBody (i : Instr) (d : Reg) (n : BitVec 2) (strict : Bool) (s : State) : State :=
  let done (x : Word) : State := (s.setG d x).retire
  let clear (s : State) : State := s.setMe { s.me with cvb := false }
  match s.convoyGroup n with
  | none => clear (done 1)
  | some grp =>
    if !s.groupRuns then clear (done 1)
    else
      let cores := s.groupCores grp
      let tid := s.curTid.toNat
      let others := cores.filter (· ≠ s.curCore)
      let clash := others.filter fun c => match State.convoyWait (s.thread c tid) with
        | some (m, _) => m ≠ n
        | none => false
      if !clash.isEmpty then clear (clash.foldl (fun s c => s.convoyResult c tid 2) (done 2))
      else if s.me.convoy.isSome then clear (done 3)
      else if s.myCore.paired then clear (done 4)
      else
        let s := clear (s.block i)
        if others.all fun c => (State.convoyWait (s.thread c tid)).isSome then
          let lead := match cores.head? with
            | some c => match State.convoyWait (s.thread c tid) with
              | some (_, st) => st
              | none => strict
            | none => strict
          s.formConvoy grp lead
        else s

/-- CONVOY (R95). -/
def execConvoy (d : Reg) (n : BitVec 2) (s : State) : Out := .next (convoyBody (.convoy d n) d n false s)

/-- CONVOY.S (R95). -/
def execConvoyS (d : Reg) (n : BitVec 2) (s : State) : Out := .next (convoyBody (.convoyS d n) d n true s)

/-- DISBAND (R96). In a convoy every member executes it, and each leaves with 0. -/
def execDisband (d : Reg) (s : State) : Out :=
  let t := s.me
  if t.convoy.isSome then
    let s := s.setMe { t with convoy := none }
    .next (s.setG d 0).retire
  else .next (s.setG d (if t.cvb then 1 else 2)).retire

/-! ### Lockstep pairs (R98) -/

/-- Does a word's effect leave the pair (R98)? Stores, commands to engines and to other units, SVC, SIGNAL, TASKEND,
atomics, acquire loads, and what changes mailboxes, rings and channels. -/
def leavesPair (w : BitVec 32) : Bool :=
  let major := (fld w 26 6).toNat
  let fn := (fld w 0 6).toNat
  let vfn := (fld w 0 5).toNat
  (0x13 ≤ major && major ≤ 0x18) || major = 0x24 || major = 0x27 || (0x33 ≤ major && major ≤ 0x38) ||
    (major = 0x21 && (fn = 0 || fn = 5 || fn = 6 || 12 ≤ fn)) || (major = 0x23 && (fld w 0 16).toNat = 0x107) ||
    (major = 0x2F && storesMemory vfn) || major = 0x32
where
  /-- Function codes of major 0x2F that write memory (R63). -/
  storesMemory (fn : Nat) : Bool := [1, 3, 5, 8, 9, 10].contains fn

namespace State

/-- The partner core of a paired member: the next column (R304). -/
def partner (core : Nat) : Nat := core + 1

/-- What a core holds, for a context area. -/
def snapshot (s : State) (core : Nat) : MemberCtx where
  threads := (List.range 4).map fun t => s.thread core t
  core := s.core core
  pad := (s.mem.filter fun c => padBase core ≤ c.1 && c.1 < padBase core + Config.padSize).map fun c =>
    (c.1 - padBase core, c.2)
  poison := (s.poison.filter fun u => padBase core ≤ u && u < padBase core + Config.padSize).map (· - padBase core)

/-- What a rollback of a thread of a paired core goes back to from now on (R98). -/
def checkpointThread (s : State) (core tid : Nat) : State :=
  let c := s.core core
  let x : PairPoint := ⟨s.thread core tid, c.vq.filter (·.tid.toNat = tid), c.mq.filter (·.tid.toNat = tid), [], [], [], [],
    none, none⟩
  { s with checkpoints := Map.insert s.checkpoints (threadKey core tid) x }

/-- The same for each thread of a core, and the end of it. -/
def checkpointPair (s : State) (core : Nat) : State := (List.range 4).foldl (fun s t => s.checkpointThread core t) s
def dropCheckpoints (s : State) (core : Nat) : State := { s with checkpoints := s.checkpoints.filter fun e => e.1 / 4 ≠ core }

/-- What a word of one thread has changed in the state that the threads of a core share: old values. -/
def sharedChanges (a b : Core) : PairPoint where
  thread := Thread.idle 0
  vq := []
  mq := []
  acc := changed a.acc0 b.acc0 0 ++ changed a.acc1 b.acc1 16384
  cb2 := changed a.cb2 b.cb2 0
  accPoison := a.accPoison.filter fun k => !b.accPoison.contains k
  cb2Poison := a.cb2Poison.filter fun k => !b.cb2Poison.contains k
  tvec := if a.tvec = b.tvec then none else some a.tvec
  ptbase := if a.ptbase = b.ptbase then none else some a.ptbase
where
  /-- Keys whose value differs, from a number on, with their old values. -/
  changed (x y : Map (BitVec 32)) (from_ : Nat) : Map (BitVec 32) :=
    if x = y then []
    else (((Map.keys x) ++ (Map.keys y).filter fun k => (Map.find x k).isNone).filter fun k => Map.get 0 x k ≠ Map.get 0 y k).map
      fun k => (from_ + k, Map.get 0 x k)

/-- A point learns what a word of its own thread has changed: the oldest value of each place is the one to go back to. -/
def pointNotes (x d : PairPoint) : PairPoint :=
  let first (m n : Map (BitVec 32)) : Map (BitVec 32) :=
    n.foldl (fun m e => if (Map.find m e.1).isSome then m else Map.insert m e.1 e.2) m
  { x with
    acc := first x.acc d.acc, cb2 := first x.cb2 d.cb2, accPoison := d.accPoison.foldl setInsert x.accPoison,
    cb2Poison := d.cb2Poison.foldl setInsert x.cb2Poison, tvec := x.tvec <|> d.tvec, ptbase := x.ptbase <|> d.ptbase }

/-- A point forgets what a word of another thread has written since: that stays as it is. -/
def pointForgets (x d : PairPoint) : PairPoint :=
  let without (m n : Map (BitVec 32)) : Map (BitVec 32) := m.filter fun e => (Map.find n e.1).isNone
  { x with
    acc := without x.acc d.acc, cb2 := without x.cb2 d.cb2
    accPoison := x.accPoison.filter fun k => (Map.find d.acc k).isNone && !d.accPoison.contains k
    cb2Poison := x.cb2Poison.filter fun k => (Map.find d.cb2 k).isNone && !d.cb2Poison.contains k
    tvec := if d.tvec.isSome then none else x.tvec
    ptbase := if d.ptbase.isSome then none else x.ptbase }

/-- The points of a paired core take in what a word of a thread has changed in the state that the threads share. -/
def noteUndo (s : State) (core tid : Nat) (before : Core) : State :=
  if !before.paired || !(s.core core).paired then s
  else
    let d := sharedChanges before (s.core core)
    { s with checkpoints := s.checkpoints.map fun e =>
      if e.1 = threadKey core tid then (e.1, pointNotes e.2 d)
      else if e.1 / 4 = core then (e.1, pointForgets e.2 d)
      else e }

/-- A thread of a paired core has matched, or not yet, as one bit for each. -/
def markThread (m : BitVec 4) (tid : Nat) (on : Bool) : BitVec 4 :=
  if on then m ||| (1#4 <<< tid) else m &&& ~~~(1#4 <<< tid)

/-- Close the interval of a thread of a paired core with agreement (R98); the intervals of its other threads go on.
ahead: the word in hand has been compared with it, and may now take effect beyond the pair. -/
def agreeInterval (s : State) (core tid : Nat) (ahead : Bool) : State :=
  let c := s.core core
  let s := s.setCore core { c with
    agreed := c.agreed + 1, interval := c.interval.set (tid % 4) 0 (Nat.mod_lt _ (by decide)),
    mismatched := markThread c.mismatched tid false, matched := markThread c.matched tid ahead }
  s.checkpointThread core tid

/-- After a word whose effect left the pair, the thread's interval is closed, so that no rollback repeats the word. -/
def afterLeaving (s : State) (core tid : Nat) : State :=
  if (s.core core).paired && !(s.core core).contained then s.agreeInterval core tid false else s

/-- Must work that the engine of a paired core does for a thread wait until the thread's interval has matched? -/
def pairHolds (s : State) (core tid : Nat) : Bool :=
  (s.core core).paired && !(s.core core).contained && !(s.core core).matched.getLsbD tid

/-- The interval of a thread ends first, then an event is looked at again. -/
def matchFirst (s : State) (core tid : Nat) (e : Instr) : State :=
  (s.enqueue (.pairIntervalEnd core tid true)).enqueue e

/-- Is the task of the executing core paired? -/
def taskPaired (s : State) : Bool :=
  match s.instOf s.curCore with
  | some i => match s.taskOf i with
    | some t => t.paired
    | none => false
  | none => false

end State

/-- PAIR (R98). -/
def execPair (d : Reg) (s : State) : Out :=
  let done (x : Word) : Out := .next (s.setG d x).retire
  if !s.taskPaired then done 1
  else if s.me.convoy.isSome then done 2
  else if s.myCore.paired then done 3
  else
    let s := (s.setG d 0).retire
    let both (s : State) (c : Nat) : State := s.setCore c { s.core c with
      paired := true, agreed := 0, interval := Vector.replicate 4 0, mismatched := 0, matched := 0 }
    let s := both (both s s.curCore) (State.partner s.curCore)
    .next (s.checkpointPair s.curCore)

/-- UNPAIR (R98): the open intervals of the core's threads close first; then the partner is released. -/
def execUnpair (d : Reg) (s : State) : Out :=
  if !s.myCore.paired then .next (s.setG d 1).retire
  else
    match s.myCore.interval.toList.findIdx? (· ≠ 0) with
    | some tid => .next (s.enqueue (.pairIntervalEnd s.curCore tid true))
    | none =>
      let free (s : State) (c : Nat) : State := s.setCore c { s.core c with paired := false, mismatched := 0, matched := 0 }
      let s := free (free s s.curCore) (State.partner s.curCore)
      .next ((s.dropCheckpoints s.curCore).setG d 0).retire

/-! ### ADMIT (R66, R69 to R71) -/

/-- The words that a prefix covers: count of CRIT, L of REPEAT (R66). -/
def coveredBy (w : BitVec 32) : Nat :=
  if fld w 26 6 = 0x26#6 || fld w 26 6 = 0x27#6 then (fld w 0 4).toNat + 1 else 0

/-- Does a prefix allow a covered word (R66)? -/
def prefixAdmits (pre w : BitVec 32) : Bool :=
  let major := (fld w 26 6).toNat
  if fld pre 26 6 = 0x26#6 then 1 ≤ major && major ≤ 0x16
  else 0x28 ≤ major && major ≤ 0x33 && !(major = 0x29 && 14 ≤ (fld w 0 5).toNat)

/-- The first word of a page that is not an instruction (R65, R66), by its position. -/
def firstRefused : List (BitVec 32) → Nat → Option Nat
  | [], _ => none
  | w :: r, k =>
    let n := coveredBy w
    if (wordRefusal w).isSome || r.length < n ||
        !((r.take n).all fun x => (wordRefusal x).isNone && prefixAdmits w x) then some k
    else firstRefused r (k + 1)

/-- Bytes as little-endian 32-bit words. -/
def wordsOf : List Byte → List (BitVec 32)
  | b0 :: b1 :: b2 :: b3 :: r => wordOfBytes b0 b1 b2 b3 :: wordsOf r
  | _ => []

namespace State

/-- The leaf that ADMIT checks, or its refusal (R69). -/
def admitCheck : WalkResult → Except Word Leaf
  | .leaf l =>
    if l.large || !Pte.r l.pte then .error 0x8000000000000001
    else if Pte.w l.pte then .error 0x8000000000000002
    else if Pte.tier l.pte || !Pte.pin l.pte then .error 0x8000000000000004
    else .ok l
  | _ => .error 0x8000000000000001

/-- The walk of ADMIT (R69): it counts as any walk does (R272) and takes no fault. It sets no A in the leaf, so that a
refusal leaves the entry unchanged (R70; log 36). -/
def admitLeaf (s : State) (va : Nat) : Except Word Leaf × State :=
  if !inDeviceMemory va then (.error 0x8000000000000001, s)
  else
    let (r, s) := s.beginWalk s.myDie s.myCore.ptbase va
    (admitCheck r, s)

/-- Scan a frame for admission (R69): the result, X set in the leaf by one update of the entry in memory when every word
is an instruction. A frame of a service block or of a remote endpoint, from which nothing is ever fetched (R257, R331),
scans as zero bytes, which is offset 0 (DESIGN CHOICE, log 36). -/
def admitScan (s : State) (l : Leaf) : Word × State :=
  let f := Pte.frame l.pte
  let words := wordsOf (s.physRead (f * 2 ^ 16) 0x10000 (Pte.key l.pte))
  match firstRefused words 0 with
  | some k => (BitVec.ofNat 64 (4 * k), { s with admitted := setErase s.admitted f })
  | none =>
    if !s.admitted.contains f then (0x8000000000000003, s)
    else
      let key := s.myCore.ptbase.key.toNat
      (allOnes64, s.physWrite l.at_ key (leBytes 8 (ofLe (s.physRead l.at_ 8 key) ||| 0x10)))

end State

/-- ADMIT (R69): the admission bit is set, then the page is scanned; the result is delivered at once, or by
ADMIT_COMPLETE when engine work is deferred. -/
def admitBody (d a : Reg) (s : State) : State :=
  let va := (s.g a).toNat
  match s.admitLeaf va with
  | (.error x, s) => (s.setG d x).retire
  | (.ok l, s) =>
    let s := { s with admitted := setInsert s.admitted (Pte.frame l.pte) }
    if s.defer then
      let s := s.block (.admitPage d a)
      s.setMe { s.me with op := some (.admitComplete s.curCore s.curTid.toNat), admitting := some l }
    else
      let (x, s) := s.admitScan l
      (s.setG d x).retire

/-- ADMIT (R69, R11). -/
def execAdmitPage (d a : Reg) (s : State) : Out :=
  privileged (State.privTval (.admitPage d a)) (fun s => .next (admitBody d a s)) s

/-- ADMIT_COMPLETE (R69): the scan of a waiting ADMIT finishes, of the frame that its walk has found. -/
def execAdmitComplete (core tid : Nat) (s : State) : Out :=
  let t := s.thread core tid
  match t.wait, t.op, t.admitting with
  | some (.admitPage d _), some (.admitComplete _ _), some l =>
    .next (s.within core tid fun s =>
      let (x, s) := s.admitScan l
      ((s.setMe { s.me with admitting := none }).setG d x).retire)
  | _, _, _ => .next s

/-! ### System registers (R14 to R20, R100, R111, R153, R199, R266) -/

/-- A flag as a number. -/
def bit (b : Bool) : Nat := if b then 1 else 0

/-- DOMAIN as a word (R16). -/
def domainWord (d : Domain) : Nat :=
  d.spanch.toNat * 2 ^ 16 + bit d.pkgv * 2 ^ 15 + bit d.diev * 2 ^ 14 + d.pkgch.toNat * 2 ^ 12 + d.diech.toNat * 2 ^ 8 +
    d.level.toNat

/-- VCTL as a word (R18). -/
def vctlWord (v : VCtl) : Nat := v.qfmt.toNat * 16 + bit v.sat * 8 + v.rnd.toNat

/-- CONVN of a convoy (R19). -/
def convn (c : Option Convoy) : Nat :=
  match c with
  | none => 0
  | some c => log2 c.members.length

/-- Does a thread lead its convoy (R95)? -/
def convl (t : Thread) : Bool :=
  match t.convoy with
  | none => false
  | some c => c.members.head? = some t.spanix.toNat

/-- STATUS as a word (R19). -/
def statusWord (s : State) : Nat :=
  let t := s.me
  bit s.myCore.paired * 2 ^ 9 + convn t.convoy * 2 ^ 7 + bit (convl t) * 2 ^ 6 + bit t.cvb * 2 ^ 5 + bit t.aie * 4 +
    bit (t.pmode = .service) * 2 + bit (t.mode = .service)

/-- VSEQ as a word (R111). -/
def vseqWord (v : VSeq) : Nat :=
  bit v.capf * 2 ^ 37 + bit v.act * 2 ^ 36 + v.word.toNat * 2 ^ 32 + v.kmod.toNat * 2 ^ 27 + v.remain.toNat

/-- VSRES as a word (R153). -/
def vsresWord (v : VsRes) : Nat :=
  bit v.valid * 2 ^ 63 + v.lane.toNat * 2 ^ 58 + bit v.cap * 2 ^ 57 + v.widx.toNat * 2 ^ 53 + v.loc.toNat

/-- CERR as a word (R199). -/
def cerrWord (c : CErr) : Nat := bit c.valid * 2 ^ 63 + c.code.toNat * 2 ^ 56 + c.addr.toNat

/-- PTBASE as a word (R20). -/
def ptbaseWord (p : PtBase) : Nat := p.root.toNat * 2 ^ 16 + p.key.toNat

/-- PTBASE from a word; reserved bits are ignored (R6, R20). -/
def ptbaseOf (x : Word) : PtBase := ⟨x.extractLsb' 16 36, x.extractLsb' 0 11⟩

namespace State

/-- The value of a system register (R14). -/
def sysRead (s : State) (n : Nat) : Word :=
  let t := s.me
  let w (x : Nat) : Word := BitVec.ofNat 64 x
  match n with
  | 0x000 => t.tid.setWidth 64
  | 0x001 => if isTaskCore s.curCore then w (cidOf s.curCore) else Config.serviceCid (s.curCore - Config.taskCores)
  | 0x002 => w (dieOf s.curCore)
  | 0x003 => t.spanix.setWidth 64
  | 0x004 => t.spansz.setWidth 64
  | 0x005 => t.taskid.setWidth 64
  | 0x006 => t.launch
  | 0x008 => w (domainWord t.domain)
  | 0x010 => t.vstat.setWidth 64
  | 0x011 => w (vctlWord t.vctl)
  | 0x012 => t.fstat.setWidth 64
  | 0x013 => t.frnd.setWidth 64
  | 0x020 => t.shape
  | 0x028 => t.bb.ptr.setWidth 64
  | 0x029 => t.bb.lim.setWidth 64
  | 0x02A => w (bit t.bb.dir * 256 + t.bb.cnt.toNat)
  | 0x02B => t.bb.buf.setWidth 64
  | 0x02C => t.bb.buf.extractLsb' 64 64
  | 0x030 => t.rngkey
  | 0x031 => t.rngstream.setWidth 64
  | 0x032 => t.rngpos
  | 0x033 => t.rngdraw.setWidth 64
  | 0x038 => t.wdog.setWidth 64
  | 0x040 => s.cycleOf s.curCore
  | 0x041 => t.instret
  | 0x044 => w (vseqWord t.vseq)
  | 0x045 => w (vsresWord t.vsres)
  | 0x046 => w (cerrWord s.myCore.cerr)
  | 0x100 => w (statusWord s)
  | 0x101 => t.epc
  | 0x102 => w (bit t.causeAsync * 2 ^ 63 + t.causeCode.toNat)
  | 0x103 => t.tval
  | 0x104 => s.myCore.tvec
  | 0x105 => w (ptbaseWord s.myCore.ptbase)
  | 0x106 => w (t.invroot.toNat * 2 ^ 16)
  | _ => 0

/-- Write a system register that is not INVVA (R14 to R20, R100). -/
def sysWrite (s : State) (n : Nat) (x : Word) : State :=
  let t := s.me
  match n with
  | 0x008 =>
    if s.inService then
      s.setMe { t with domain := ⟨x.extractLsb' 16 11, x.getLsbD 15, x.getLsbD 14, x.extractLsb' 12 2, x.extractLsb' 8 4,
        x.extractLsb' 0 2⟩ }
    else s.setMe { t with domain := { t.domain with level := x.extractLsb' 0 2 } }
  | 0x010 => s.setMe { t with vstat := x.extractLsb' 0 6 }
  | 0x011 => s.setMe { t with vctl := ⟨qfmtField (x.extractLsb' 4 5), x.getLsbD 3, rndField (x.extractLsb' 0 3)⟩ }
  | 0x012 => s.setMe { t with fstat := x.extractLsb' 0 5 }
  | 0x013 => s.setMe { t with frnd := rndField (x.extractLsb' 0 3) }
  | 0x028 => s.setMe { t with bb := { t.bb with ptr := x.extractLsb' 0 18 } }
  | 0x029 => s.setMe { t with bb := { t.bb with lim := x.extractLsb' 0 18 } }
  | 0x02A => s.setMe { t with bb := { t.bb with cnt := BitVec.ofNat 8 (min (x.toNat % 256) 128), dir := x.getLsbD 8 } }
  | 0x02B => s.setMe { t with bb := { t.bb with buf := t.bb.buf.extractLsb' 64 64 ++ x } }
  | 0x02C => s.setMe { t with bb := { t.bb with buf := x ++ t.bb.buf.extractLsb' 0 64 } }
  | 0x030 => s.setMe { t with rngkey := x }
  | 0x031 => s.setMe { t with rngstream := x.extractLsb' 0 32 }
  | 0x032 => s.setMe { t with rngpos := x }
  | 0x033 => s.setMe { t with rngdraw := x.extractLsb' 0 32 }
  | 0x038 => s.setMe { t with wdog := x.extractLsb' 0 48, wdogDue := false }
  | 0x041 => s.setMe { t with instret := x }
  | 0x044 =>
    s.setMe { t with
      vseq := ⟨x.getLsbD 37, x.getLsbD 36, x.extractLsb' 32 4, x.extractLsb' 27 5, x.extractLsb' 0 24⟩
      capture := if x.getLsbD 36 then t.capture else t.capture.filter fun c => !c.suspended }
  | 0x045 =>
    s.setMe { t with vsres := ⟨x.getLsbD 63, x.extractLsb' 58 5, x.getLsbD 57, x.extractLsb' 53 4, x.extractLsb' 0 53⟩ }
  | 0x046 =>
    if x.getLsbD 63 then s.setMyCore { s.myCore with cerr := { s.myCore.cerr with valid := false } } else s
  | 0x100 =>
    s.setMe { t with cvb := x.getLsbD 5, aie := x.getLsbD 2, pmode := if x.getLsbD 1 then .service else .task }
  | 0x101 => s.setMe { t with epc := x, keptCover := 0 }
  | 0x102 => s.setMe { t with causeAsync := x.getLsbD 63, causeCode := x.extractLsb' 0 8 }
  | 0x103 => s.setMe { t with tval := x }
  | 0x104 => s.setMyCore { s.myCore with tvec := x &&& ~~~3#64 }
  | 0x105 => s.setMyCore { s.myCore with ptbase := ptbaseOf x }
  | 0x106 => s.setMe { t with invroot := x.extractLsb' 16 36 }
  | _ => s

/-! ### INVVA (R266, R267) -/

/-- Drop every cached leaf that satisfies a condition, in every TLB of the package. -/
def dropCached (s : State) (f : TlbEntry → Bool) : State :=
  { s with
    cores := s.cores.map fun e => (e.1, { e.2 with l1 := e.2.l1.filter fun x => !f x })
    clusters := s.clusters.map fun e => (e.1, { e.2 with l2 := e.2.l2.filter fun x => !f x }) }

/-- Drop every cached entry that is not a leaf and satisfies a condition, in the walkers of every die (R265, R266). -/
def dropTables (s : State) (f : WalkEntry → Bool) : State :=
  { s with dies := s.dies.map fun e => (e.1, { e.2 with walkers := e.2.walkers.filter fun x => !f x }) }

/-- KIND 0: every entry, of any root and level, whose range holds the address. -/
def dropPage (s : State) (v : Word) : State :=
  let va := wbits v 16 39 * 2 ^ 16
  (s.dropCached fun e => tlbCovers e e.root va).dropTables fun e => e.index = va / 2 ^ (if e.low then 29 else 42)

/-- KIND 1: every entry tagged with INVROOT.ROOT of the writing thread. -/
def dropRoot (s : State) : State :=
  (s.dropCached fun e => e.root = s.me.invroot).dropTables fun e => e.root = s.me.invroot

/-- KIND 2 and 3: every entry. -/
def dropAll (s : State) : State := (s.dropCached fun _ => true).dropTables fun _ => true

end State

/-- The event of a write of INVVA (R266). -/
def invvaEvent (core tid : Nat) (v : Word) : Instr :=
  match wbits v 0 2 with
  | 0 => .invvaPage core tid v
  | 1 => .invvaRoot core tid v
  | _ => .invvaAll core tid v

/-- The effect of a write of INVVA by the executing thread (R267). -/
def invvaEffect (v : Word) (s : State) : State :=
  match wbits v 0 2 with
  | 0 => s.dropPage v
  | 1 => s.dropRoot
  | _ => s.dropAll

/-- The address that a thread has translated for an access that its event is to perform: a service register of a scalar
load or store, or the page of an ADMIT. -/
def deferredVa (t : Thread) : Option Nat :=
  let g (r : Reg) : Word := if r = 0#5 then 0 else t.g[r.toNat]
  match t.op, t.wait with
  | some (.cxlReadTimeout _ _), _ => none
  | some _, some (.ld _ a i) => some (g a + sext16 i).toNat
  | some _, some (.sd _ a i) => some (g a + sext16 i).toNat
  | some _, some (.ldad _ a _) => some (g a).toNat
  | some _, some (.stld a _ _) => some (g a).toNat
  | some _, some (.admitPage _ a) => some (g a).toNat
  | _, _ => none

/-- Has an access that used an entry dropped by a write of INVVA still to be performed (R267): a write on its way, a queued
vector word that has been checked, an access that an event is to perform? A page counts with the 2^42 bytes that the highest
of its dropped entries spans; a root is the one whose tables translated the access. -/
def invvaHeld (v : Word) (s : State) : Bool :=
  let meets (root : BitVec 36) (va : Nat) : Bool :=
    match wbits v 0 2 with
    | 0 => va / 2 ^ 42 = wbits v 16 39 * 2 ^ 16 / 2 ^ 42
    | 1 => root = s.me.invroot
    | _ => true
  (s.flights.any fun f => !f.performed && meets f.root f.va) ||
    (s.cores.any fun c => c.2.vq.any fun e => e.leaves.any fun l => meets l.root (l.page * 2 ^ 16)) ||
    s.threads.any fun e => (deferredVa e.2).any (meets (s.core (e.1 / 4)).ptbase.root)

/-- A blocked write of INVVA looks again: it drops the entries, and retires once the accesses that used them have been
performed. -/
def retireInvva (v : Word) (s : State) : State := if invvaHeld v s then s else s.retire

/-- Is a thread blocked until this event completes its word? -/
def State.awaits (s : State) (core tid : Nat) (e : Instr) : Bool := (s.thread core tid).op = some e

/-- INVVA_PAGE (R267): a blocked write of INVVA with KIND 0 completes. -/
def execInvvaPage (core tid : Nat) (v : Word) (s : State) : Out :=
  if s.awaits core tid (.invvaPage core tid v) then .next (s.within core tid fun s => retireInvva v (s.dropPage v)) else .next s

/-- INVVA_ROOT (R267). -/
def execInvvaRoot (core tid : Nat) (v : Word) (s : State) : Out :=
  if s.awaits core tid (.invvaRoot core tid v) then .next (s.within core tid fun s => retireInvva v s.dropRoot) else .next s

/-- INVVA_ALL (R267). -/
def execInvvaAll (core tid : Nat) (v : Word) (s : State) : Out :=
  if s.awaits core tid (.invvaAll core tid v) then .next (s.within core tid fun s => retireInvva v s.dropAll) else .next s

/-- Numbers whose moves wait for the thread's earlier engine work (R100). -/
def sysWaits (n : Nat) : Bool := n = 0x010 || n = 0x011 || n = 0x020 || (0x028 ≤ n && n ≤ 0x02C) || (0x030 ≤ n && n ≤ 0x033)

/-- SYSR (R100): numbers 0x101 to 0x1FF are privileged (R11). -/
def execSysr (d : Reg) (r : BitVec 12) (s : State) : Out :=
  let n := r.toNat
  if 0x101 ≤ n && !s.inService then .next (s.takeTrap 10 (State.privTval (.sysr d r)))
  else if sysWaits n && s.engineBusy then .next s
  else .next (s.setG d (s.sysRead n)).retire

/-- Registers that are RO in task mode and RW in service mode (R11). -/
def taskReadOnly (n : Nat) : Bool := n = 0x041 || n = 0x044 || n = 0x045

/-- SYSW (R100, R11). A write of INSTRET is itself counted after it, so that the register holds the written value plus 1
(log 36). -/
def execSysw (a : Reg) (r : BitVec 12) (s : State) : Out :=
  let n := r.toNat
  let x := s.g a
  if (0x100 ≤ n || taskReadOnly n) && !s.inService then .next (s.takeTrap 10 (State.privTval (.sysw a r)))
  else if sysWaits n && s.engineBusy then .next s
  else if n = 0x107 then
    if s.defer || invvaHeld x s then
      let s := (invvaEffect x s).block (.sysw a r)
      .next (s.setMe { s.me with op := some (invvaEvent s.curCore s.curTid.toNat x) })
    else .next (invvaEffect x s).retire
  else .next (s.sysWrite n x).retire

/-! ### Events of the SYS group -/

/-- WFI_WAKE (R90): a wake event, a pending trap or 65,536 cycles end a WFI. -/
def execWfiWake (core tid : Nat) (s : State) : Out :=
  let t := s.thread core tid
  if t.wait = some .wfi &&
      (t.wake || t.pending.isSome || t.wdogDue || t.stopTrap || 65536 ≤ (s.cycle - t.wfiAt).toNat) then
    .next (s.within core tid fun s => (s.setMe { s.me with wake := false }).retire)
  else .next s

/-- WAITPRED_RELEASE (R93): the last predecessor has ended. -/
def execWaitpredRelease (core tid : Nat) (s : State) : Out :=
  if (s.thread core tid).wait = some .waitpred then
    match s.instOf core with
    | some i => if s.predsEnded i then .next (s.within core tid State.retire) else .next s
    | none => .next s
  else .next s

/-- CONVOY_FORM (R95): every thread of the group waits in CONVOY with one n, and the convoy forms. -/
def execConvoyForm (core tid : Nat) (s : State) : Out :=
  match (s.thread core tid).wait with
  | some (.convoy d n) => .next (s.within core tid (convoyBody (.convoy d n) d n false))
  | some (.convoyS d n) => .next (s.within core tid (convoyBody (.convoyS d n) d n true))
  | _ => .next s

end Sys2Proof.Machine
end

