-- ==== Sys2Proof/Machine/LogPath.lean ====
section
/-! DEFINITION. The log form of FP32 values (R50, R51) and the special functions built on it (R123, R124). The
irrational constants are cut below so many binary places that no rounding to an integer or to FP32 depends on what
was cut off. -/

namespace Sys2Proof.Machine

/-- 2^(2^−i) × 2^128 for i = 1 to 23, cut to integers. -/
def rootsOfTwo : List Nat := [
  0x16A09E667F3BCC908B2FB1366EA957D3E,
  0x1306FE0A31B7152DE8D5A46305C85EDEC,
  0x1172B83C7D517ADCDF7C8C50EB14A7920,
  0x10B5586CF9890F6298B92B71842A98364,
  0x1059B0D31585743AE7C548EB68CA417FE,
  0x102C9A3E778060EE6F7CACA4F7A29BDE9,
  0x10163DA9FB33356D84A66AE336DCDFA40,
  0x100B1AFA5ABCBED6129AB13EC11DC9544,
  0x10058C86DA1C09EA1FF19D294CF2F679C,
  0x1002C605E2E8CEC506D21BFC89A23A010,
  0x100162F3904051FA128BCA9C55C31E5E0,
  0x1000B175EFFDC76BA38E31671CA939726,
  0x100058BA01FB9F96D6CACD4B180917C3E,
  0x10002C5CC37DA9491D0985C348C68E7B3,
  0x1000162E525EE054754457D5995292026,
  0x10000B17255775C040618BF4A4ADE83FC,
  0x1000058B91B5BC9AE2EED81E9B7D4CFAC,
  0x100002C5C89D5EC6CA4D7C8ACC017B7C9,
  0x10000162E43F4F831060E02D839A9D16D,
  0x100000B1721BCFC99D9F890EA06911763,
  0x10000058B90CF1E6D97F9CA14DBCC1628,
  0x1000002C5C863B73F016468F6BAC5CA2C,
  0x100000162E430E5A18F6119E3C02282A5]

/-- log2(e) × 2^320, cut to an integer. -/
def log2eScaled : Nat :=
  0x171547652B82FE1777D0FFDA0D23A7D11D6AEF551BAD2B4B1164A2CD9A342648FBC3887EEAA2ED9AC

/-- ln(2) × 2^320, cut to an integer. -/
def ln2Scaled : Nat :=
  0xB17217F7D1CF79ABC9E3B39803F2F6AF40F343267298B62D8A0D175B8BAAFA2BE7B876206DEBAC98

/-- n binary places of log2(y / 2^192) for y / 2^192 in [1, 2), as an integer after the places already found. -/
def logBits : Nat → Nat → Nat → Nat
  | 0, _, acc => acc
  | n + 1, y, acc =>
    let z := y * y / 2 ^ 192
    if 2 ^ 193 ≤ z then logBits n (z / 2) (2 * acc + 1) else logBits n z (2 * acc)

/-- lg of a positive value m × 2^e: log2 × 2^23 rounded to nearest (R50). Twenty-four places decide: no value is a tie,
for a logarithm that is no integer is irrational. -/
def lgOf (m : Nat) (e : Int) : Int :=
  let k := log2 m
  let b := logBits 24 (m * 2 ^ 192 / 2 ^ k) 0
  (e + k) * 2 ^ 23 + ((b + 1) / 2 : Nat)

/-- The product of the roots of two that the bits of f select, from bit 22 down, × 2^128. -/
def rootProduct : List Nat → Nat → Nat → Nat
  | [], _, acc => acc
  | c :: r, f, acc => rootProduct r (f * 2) (if f / 2 ^ 22 % 2 = 1 then acc * c / 2 ^ 128 else acc)

/-- ex(l): 2^(l / 2^23) rounded once to FP32 (R51, R124). -/
def exOf (mode : Nat) (sat : Bool) (l : Int) : Nat × Flags :=
  let n := l / 2 ^ 23
  let f := (l % 2 ^ 23).toNat
  if n < -1000 then roundFinite 0 mode sat false 1 (-1000) true
  else if f = 0 then roundFinite 0 mode sat false 1 n false
  else roundFinite 0 mode sat false (rootProduct rootsOfTwo f (2 ^ 128)) (n - 128) true

/-- ee(y) := round_rne(y × log2(e) × 2^23) of a finite value (R124). -/
def eeOf (neg : Bool) (m : Nat) (e : Int) : Int :=
  let s := 297 - e
  let k :=
    if m = 0 then 0
    else if 2000 ≤ s then 0
    else (roundShift 0 false (m * log2eScaled) s.toNat true).1
  if neg then -(k : Int) else k

/-- VTOLOG of a code (R50, R123): the S32 log form. -/
def toLog (x : Nat) : Int × Flags :=
  match fpDecode 0 x with
  | .nan => (0x7FFFFFFF, Flags.inv)
  | .inf _ => (0x7FFFFFFF, {})
  | .fin _ m e => if m = 0 then (-0x80000000, {}) else (lgOf m e, {})

/-- VFROMLOG of a log form (R51, R123). -/
def fromLog (mode : Nat) (sat : Bool) (l : Int) : Nat × Flags :=
  if l = -0x80000000 then (0, {})
  else if l = 0x7FFFFFFF then (0x7F800000, {})
  else exOf mode sat l

/-- A special function in the making: the controls are VCTL.RND and VCTL.SAT, the result is a value of FP32. -/
structure LogCtl where
  mode : Nat
  sat : Bool
  deriving DecidableEq, Repr

/-- fl(y): an exact value rounded to FP32 (R124). -/
def LogCtl.fl (c : LogCtl) (y : Fp × Flags) : Fp × Flags :=
  let (k, f) := fpRound 0 c.mode c.sat y.1
  (fpDecode 0 k, y.2.or f)

/-- ex(l) as a value. -/
def LogCtl.ex (c : LogCtl) (l : Int) : Fp × Flags :=
  let (k, f) := exOf c.mode c.sat l
  (fpDecode 0 k, f)

/-- The value with the sign that is given. -/
def Fp.withSign (neg : Bool) : Fp → Fp
  | .nan => .nan
  | .inf _ => .inf neg
  | .fin _ m e => .fin neg m e

/-- 1.0 -/
def fpOne : Fp := .fin false 1 0

/-- rcp(y) of a positive value (R124). -/
def LogCtl.rcp (c : LogCtl) : Fp × Flags → Fp × Flags
  | (.fin _ m e, f) => let (v, f') := c.ex (-(lgOf m e)); (v, f.or f')
  | (_, f) => (.fin false 0 0, f)

/-- sigma(y) (R124). -/
def LogCtl.sigma (c : LogCtl) : Fp → Fp × Flags
  | .nan => (.nan, {})
  | .inf neg => (if neg then .fin false 0 0 else fpOne, {})
  | .fin neg m e =>
    let (x, f) := c.ex (eeOf (!neg) m e)
    let (y, f') := c.fl (fpAdd c.mode fpOne x)
    c.rcp (y, f.or f')

/-- x × sigma(y), rounded to FP32, with the flags of y. -/
def LogCtl.gate (c : LogCtl) (x : Fp) (y : Fp × Flags) : Fp × Flags :=
  let (z, f) := c.sigma y.1
  c.fl ((fpMul x z).1, y.2.or f)

/-- The forms of R124. -/
inductive LogFn where
  | rcp | sqrt | rsqrt | exp | log | tanh | sigm | silu | gelu
  deriving DecidableEq, Repr

/-- The result for an element, before out() (R124). -/
def LogCtl.apply (c : LogCtl) (fn : LogFn) (x : Fp) : Fp × Flags :=
  match x with
  | .nan => (.nan, {})
  | .inf neg =>
    match fn with
    | .rcp => (.fin neg 0 0, {})
    | .sqrt => if neg then (.nan, Flags.inv) else (.inf false, {})
    | .rsqrt => if neg then (.nan, Flags.inv) else (.fin false 0 0, {})
    | .exp => if neg then (.fin false 0 0, {}) else (.inf false, {})
    | .log => if neg then (.nan, Flags.inv) else (.inf false, {})
    | .tanh => (.fin neg 1 0, {})
    | .sigm => if neg then (.fin false 0 0, {}) else (fpOne, {})
    | .silu => if neg then (.fin true 0 0, {}) else (.inf false, {})
    | .gelu => if neg then (.fin true 0 0, {}) else (.inf false, {})
  | .fin neg m e =>
    if m = 0 then
      match fn with
      | .rcp => (.inf neg, {})
      | .sqrt => (x, {})
      | .rsqrt => (.inf neg, {})
      | .exp => (fpOne, {})
      | .log => (.inf true, {})
      | .tanh => (x, {})
      | .sigm => (.fin false 1 (-1), {})
      | .silu => (x, {})
      | .gelu => (x, {})
    else
      match fn with
      | .rcp => let (v, f) := c.ex (-(lgOf m e)); (v.withSign neg, f)
      | .sqrt => if neg then (.nan, Flags.inv) else c.ex (lgOf m e / 2)
      | .rsqrt => if neg then (.nan, Flags.inv) else c.ex (-(lgOf m e) / 2)
      | .exp => c.ex (eeOf neg m e)
      | .log =>
        if neg then (.nan, Flags.inv)
        else
          let l := lgOf m e
          if l = 0 then (.fin false 0 0, {})
          else
            let (k, f) := roundFinite 0 c.mode c.sat (decide (l < 0)) (l.natAbs * ln2Scaled) (-343) true
            (fpDecode 0 k, f)
      | .tanh =>
        let (y, f) := c.ex (eeOf true m (e + 1))
        let (q, f') := c.fl (fpAdd c.mode fpOne y.neg)
        let (r, f'') := c.fl (fpAdd c.mode fpOne y)
        let fs := (f.or f').or f''
        match q, r with
        | .fin _ qm qe, .fin _ rm re =>
          if qm = 0 then (.fin neg 0 0, fs)
          else
            let (v, g) := c.ex (lgOf qm qe - lgOf rm re)
            (v.withSign neg, fs.or g)
        | _, _ => (.nan, fs)
      | .sigm => c.sigma x
      | .silu => c.gate x (x, {})
      | .gelu => c.gate x (c.fl (fpMul (fpDecode 0 0x3FD9DB23) x))

/-- VDIV of two elements, before out() (R124). -/
def LogCtl.div (c : LogCtl) : Fp → Fp → Fp × Flags
  | .nan, _ => (.nan, {})
  | _, .nan => (.nan, {})
  | .inf s, .inf t => (.nan, let _ := (s, t); Flags.inv)
  | .inf s, .fin t _ _ => (.inf (s != t), {})
  | .fin s _ _, .inf t => (.fin (s != t) 0 0, {})
  | .fin s m e, .fin t n f =>
    if n = 0 then (if m = 0 then (.nan, Flags.inv) else (.inf (s != t), {}))
    else if m = 0 then (.fin (s != t) 0 0, {})
    else
      let (v, g) := c.ex (lgOf m e - lgOf n f)
      (v.withSign (s != t), g)

/-- out(y): the result rounded to type t, as a code (R124). -/
def LogCtl.out (c : LogCtl) (t : Nat) (y : Fp × Flags) : Nat × Flags :=
  let (k, f) := fpRound t c.mode c.sat y.1
  (k, y.2.or f)

end Sys2Proof.Machine
end

