-- ==== Sys2Proof/Machine/VecOps.lean ====
section
/-! DEFINITION. What the vector forms share: lanes under a predicate (R101 to R103), element operations, MX blocks and
CB2 weights (R44 to R49), the canonical tree (R55), and the issue of a vector word (R104, R105). -/

namespace Sys2Proof.Machine

namespace State

/-- VCTL.RND of the executing thread. -/
def vmode (s : State) : Nat := s.me.vctl.rnd.toNat

/-- VCTL.SAT of the executing thread. -/
def vsat (s : State) : Bool := s.me.vctl.sat

/-- Write lanes of width w of vd, from lane 0 up, where the predicate is active, and set flags from active lanes
(R101). -/
def putLanes (s : State) (d : Reg) (m : BitVec 3) (w : Nat) (f : Nat → Nat × Flags) : State :=
  let z := s.v d
  let p := s.p m
  let r := (List.range (1024 / w)).map fun i => if activeLane p w i then f i else (lane z w i, {})
  (s.raiseV (r.foldl (fun a x => a.or x.2) {})).setV d (packLanes w (r.map (·.1)))

/-- An element form of the sources va and vb and of the old vd, at the width of a type. -/
def mapLanes (s : State) (d a b : Reg) (m t : BitVec 3) (f : Nat → Nat → Nat → Nat × Flags) : State :=
  let w := typeWidth t
  let x := s.v a
  let y := s.v b
  let z := s.v d
  s.putLanes d m w fun i => f (lane x w i) (lane y w i) (lane z w i)

end State

/-! ### Integer and floating element operations (R102, R103, R113) -/

/-- Types F: FP32, BF16, FP16. -/
def isF (t : BitVec 3) : Bool := t.toNat ≤ 2

/-- The value of an integer element: S types signed, N32 unsigned. -/
def elemInt (t : BitVec 3) (x : Nat) : Int := if t = 7#3 then (x : Int) else signed (typeWidth t) x

/-- An integer result wraps modulo 2^w. -/
def wrapInt (t : BitVec 3) (x : Int) : Nat × Flags := (pattern (typeWidth t) x, {})

/-- Least and greatest value of an integer type. -/
def typeLo (t : BitVec 3) : Int := if t = 7#3 then 0 else -(2 ^ (typeWidth t - 1) : Nat)
def typeHi (t : BitVec 3) : Int := if t = 7#3 then (2 ^ 32 : Nat) - 1 else (2 ^ (typeWidth t - 1) : Nat) - 1

/-- A saturating integer result: overflow whenever it saturates (R103). -/
def satInt (t : BitVec 3) (x : Int) : Nat × Flags :=
  let y := max (typeLo t) (min (typeHi t) x)
  (pattern (typeWidth t) y, { overflow := decide (y ≠ x) })

/-- An exact floating value with its flags, rounded to type t by VCTL (R103). -/
def roundElem (c : LogCtl) (t : BitVec 3) (x : Fp × Flags) : Nat × Flags := c.out t.toNat x

/-- The value of a floating element. -/
def elemFp (t : BitVec 3) (x : Nat) : Fp := fpDecode t.toNat x

/-- The controls of the executing thread. -/
def State.ctl (s : State) : LogCtl := ⟨s.vmode, s.vsat⟩

/-- A form that is a rounded floating operation on F types and a wrapping integer operation on I types. -/
def arith (c : LogCtl) (t : BitVec 3) (f : Fp → Fp → Fp → Fp × Flags) (g : Int → Int → Int → Int) (x y z : Nat) :
    Nat × Flags :=
  if isF t then roundElem c t (f (elemFp t x) (elemFp t y) (elemFp t z))
  else wrapInt t (g (elemInt t x) (elemInt t y) (elemInt t z))

/-- VMIN and VMAX on elements (R113). -/
def elemMinMax (t : BitVec 3) (wantMax : Bool) (x y : Nat) : Nat :=
  if isF t then fpMinMax t.toNat wantMax x y
  else if decide (elemInt t x < elemInt t y) = wantMax then y else x

/-! ### MX blocks (R44 to R47) -/

/-- emax of an element format (R45). -/
def mxEmax (fmt : Nat) : Int :=
  match fmt with
  | 11 => 8
  | 12 => 15
  | 14 => 4
  | _ => 2

/-- A value times 2^k. -/
def Fp.scaleBy (k : Int) : Fp → Fp
  | .fin s m e => .fin s m (e + k)
  | x => x

/-- Is a value finite? -/
def Fp.isFin : Fp → Bool
  | .fin _ _ _ => true
  | _ => false

/-- floor(log2) of the largest magnitude over the finite non-zero values of a block. -/
def mxTop (v : List (Option Fp)) : Option Int :=
  v.foldl (fun a x =>
    match x with
    | some (.fin _ m e) =>
      if m = 0 then a
      else
        let k : Int := (log2 m : Int) + e
        some (match a with
          | some b => max b k
          | none => k)
    | _ => a) none

/-- Quantisation of a block (R45, R46): scale, codes, flags; padding is none. satInf: VCTL.SAT for an E4M3 infinity, or
1 (R43). -/
def mxQuantise (fmt : Nat) (satInf : Bool) (v : List (Option Fp)) : Nat × List Nat × Flags :=
  if 13 ≤ fmt && v.any (fun x => match x with | some y => !y.isFin | none => false) then
    (0xFF, v.map fun _ => 0, { nonfinite := true })
  else
    let top := mxTop v
    let x : Int := match top with
      | some k => min (max (k - mxEmax fmt) (-127)) 127
      | none => 0
    let r : List (Nat × Flags) := v.map fun y =>
      match y with
      | none => (0, {})
      | some (.fin s m e) => if top.isNone then (0, {}) else fpRound fmt 0 true (.fin s m (e - x))
      | some .nan => nanCode fmt
      | some (.inf s) => infCode fmt (fmt ≠ 11 || satInf) s
    (if top.isNone then 0 else (x + 127).toNat, r.map (·.1), r.foldl (fun a y => a.or y.2) {})

/-- The value of an MX element under a scale code (R47). -/
def mxValue (fmt scale code : Nat) : Fp :=
  if scale % 256 = 255 then .nan else (fpDecode fmt code).scaleBy ((scale % 256 : Nat) - 127)

/-! ### CB2 weights (R48, R49) -/

/-- The sign of weight j of an index. -/
def cb2Sign (index j : Nat) : Bool :=
  if j < 7 then bits index (8 + j) 1 = 1
  else ((List.range 7).map fun k => bits index (8 + k) 1).sum % 2 = 1

/-- Weight j of an index under a scale and a magnitude table. -/
def cb2Weight (table : Map (BitVec 32)) (scale index j : Nat) : Fp :=
  if scale % 256 = 255 then .nan
  else
    let mag := bits (Map.get 0 table (index % 256)).toNat (4 * j) 4
    let m := 2 * mag + bits index 15 1
    .fin (cb2Sign index j && m ≠ 0) m ((scale % 256 : Nat) - 128)

/-! ### The canonical tree (R55) -/

/-- The tree over 2^k entries. -/
def canonicalTree {α : Type} (combine : α → α → α) : Nat → List (Option α) → Option α
  | 0, l => (l.head?).join
  | k + 1, l =>
    match canonicalTree combine k (l.take (2 ^ k)), canonicalTree combine k (l.drop (2 ^ k)) with
    | some a, some b => some (combine a b)
    | some a, none => some a
    | none, b => b

/-- The depth of the tree over n entries. -/
def treeDepth (n : Nat) : Nat := if n ≤ 1 then 0 else log2 (n - 1) + 1

/-- The tree over a list of entries, with the flags that its combines raise. -/
def combineTree (f : Nat → Nat → Nat × Flags) (l : List (Option Nat)) : Option Nat × Flags :=
  let r := canonicalTree (fun (x y : Nat × Flags) => let (v, g) := f x.1 y.1; (v, (x.2.or y.2).or g)) (treeDepth l.length)
    (l.map fun x => x.map fun v => (v, ({} : Flags)))
  match r with
  | some (v, g) => (some v, g)
  | none => (none, {})

/-! ### Issue of a vector word (R104, R105) -/

/-- Entries of the sequencer in use on the executing core: queued words, and the L words of each capture whose last pass
has not retired, a suspended one too (R106). -/
def State.seqEntries (s : State) : Nat :=
  s.myCore.vq.length + ((List.range 4).map fun t =>
    match (s.thread s.curCore t).capture with
    | some c => if c.pass < c.passes then c.words.length else 0
    | none => 0).sum

/-- Does a queued matrix word write v registers (R144)? -/
def writesVecs : Instr → Bool
  | .mslice _ _ => true
  | .mquant _ _ _ => true
  | _ => false

/-- Does a word load the magnitude table (R49)? -/
def loadsCb2 : Instr → Bool
  | .vcbload _ => true
  | _ => false

/-- Has the executing thread a queued matrix word that writes v registers? Its vector words follow it. -/
def State.matrixWritesV (s : State) : Bool := s.myCore.mq.any fun e => e.tid = s.curTid && writesVecs e.instr

/-- Must a vector word of a thread wait for a matrix word queued before a place in the order of issue: one of its thread
that writes v registers (R104), or, where it loads the magnitude table, one that reads it (R12)? -/
def matrixBefore (c : Core) (tid : BitVec 2) (i : Instr) (stamp : Nat) : Bool :=
  c.mq.any fun m => decide (m.stamp < stamp) &&
    ((m.tid = tid && writesVecs m.instr) || (loadsCb2 i && usesCb2 m.instr))

/-- Has another thread of a core a capture that stands before a place in the order of issue and whose first pass has not
begun? The sequencer takes its words first (R12, R104). -/
def State.captureBefore (s : State) (core tid stamp : Nat) : Bool :=
  (List.range 4).any fun t => t ≠ tid && (match (s.thread core t).capture with
    | some c => !c.suspended && !c.begun && c.pass = 0 && c.stamp < stamp
    | none => false)

/-- May the sequencer execute a word of the executing thread as it is issued: is no word before it left to execute? -/
def State.firstInLine (s : State) (i : Instr) : Bool :=
  let c := s.myCore
  c.vq.isEmpty && !matrixBefore c s.curTid i c.queued && !s.captureBefore s.curCore s.curTid.toNat c.queued

/-- A vector word enters the sequencer with its g operands, and with the leaves and blocks of its accesses; its thread goes
on (R104). -/
def State.enterSequencer (s : State) (i : Instr) (ra rb : Reg) (leaves : List TlbEntry) (blocks : List Nat) : State :=
  let c := s.myCore
  let e : VecEntry := ⟨s.curTid, i, s.g ra, s.g rb, c.queued, s.me.pc, s.me.lane, leaves, blocks, none, none⟩
  (s.setMyCore { c with vq := c.vq ++ [e], queued := c.queued + 1 }).retire.enqueue (.vectorWordExecute s.curCore)

/-- Issue a vector word with its g operands (R104): it waits only while no entry is free. It executes at once when no
word before it is left to execute, or enters the sequencer. -/
def issueVector (i : Instr) (ra rb : Reg) (run : Word → Word → Acc Unit) (s : State) : Out :=
  if 16 ≤ s.seqEntries then .next s
  else if s.defer || !s.firstInLine i then .next (s.enterSequencer i ra rb [] [])
  else finish i 6 (run (s.g ra) (s.g rb)) s

/-- A form that takes no trap once it is issued. -/
def pureForm (f : State → State) : Word → Word → Acc Unit := fun _ _ => modify f

end Sys2Proof.Machine
end

