-- ==== Sys2Proof/Machine/Matrix.lean ====
section
/-! DEFINITION. The matrix engine: operands (R132, R133), k-steps (R52, R53), MMA, MMD, MMS, the MCTL forms, the queue
(R127 to R145). -/

namespace Sys2Proof.Machine

/-! ### Operands in the own scratchpad (R132, R133) -/

/-- What a matrix word reads: the scratchpad as captured, and the magnitude table. -/
structure MatSrc where
  pad : Memory
  cb2 : Map (BitVec 32)
  deriving DecidableEq, Repr

/-- The byte at an address. A position past 2^64 wraps (DESIGN CHOICE, log 36: R132 and R136 do not say). -/
def MatSrc.byte (m : MatSrc) (k : Nat) : Nat := (Map.get (0 : Byte) m.pad (k % 2 ^ 64)).toNat

/-- The code of width eb at an element position from a byte address (R38). -/
def MatSrc.code (m : MatSrc) (base eb pos : Nat) : Nat :=
  if eb = 4 then m.byte (base + pos / 2) / 16 ^ (pos % 2) % 16
  else if eb = 16 then m.byte (base + 2 * pos) + 256 * m.byte (base + 2 * pos + 1)
  else m.byte (base + pos)

/-- Base addresses of the scale planes (R133). -/
def scaleA (gc : Word) : Nat := bits gc.toNat 32 14 * 16
def scaleB (gc : Word) : Nat := bits gc.toNat 46 14 * 16

/-- An operand laid out in a scratchpad: where element (r, k) lies for logical row or column r and inner index k. -/
structure MatOperand where
  src : MatSrc
  fmt : Nat
  mx : Bool
  cb2 : Bool
  base : Nat
  /-- Row pitch in bytes. -/
  pitch : Nat
  /-- The pitch runs along k rather than along r. -/
  inner : Bool
  /-- Base of the scale plane, and scales of a row. -/
  sbase : Nat
  spitch : Nat
  /-- The row gathered for r (x = 1). -/
  rows : Option (BitVec 2048)

namespace MatOperand

/-- Row of the arrays for logical row r. -/
def row (o : MatOperand) (r : Nat) : Nat :=
  match o.rows with
  | some idx => lane idx 16 r
  | none => r

/-- Code of element (r, k). -/
def code (o : MatOperand) (r k : Nat) : Nat :=
  let eb := formatWidth o.fmt
  if o.inner then o.src.code (o.base + k * o.pitch) eb r else o.src.code (o.base + o.row r * o.pitch) eb k

/-- Value of element (r, k), with its MX or CB2 scale (R47, R49). -/
def value (o : MatOperand) (r k : Nat) : Fp :=
  if o.cb2 then
    cb2Weight o.src.cb2 (o.src.byte (o.sbase + o.row r * o.spitch + k / 256))
      (o.src.code (o.base + o.row r * o.pitch) 16 (k / 8)) (k % 8)
  else if o.mx then mxValue o.fmt (o.src.byte (o.sbase + o.row r * o.spitch + k / 32)) (o.code r k)
  else fpDecode o.fmt (o.code r k)

/-- Does some index of n rows of length len name a poisoned entry of the magnitude table (R350)? -/
def tablePoisoned (o : MatOperand) (n len : Nat) (poison : List Nat) : Bool :=
  o.cb2 && !poison.isEmpty && (List.range n).any fun r => (List.range (ceilDiv len 8)).any fun k =>
    poison.contains (o.src.code (o.base + o.row r * o.pitch) 16 k % 256)

/-- Value of an integer element. -/
def int (o : MatOperand) (r k : Nat) : Int := signed (formatWidth o.fmt) (o.code r k)

/-- The runs that n rows of length len take: elements, and scales (R136). -/
def runs (o : MatOperand) (n len : Nat) : List (Nat × Nat) :=
  let eb := formatWidth o.fmt
  let body :=
    if o.cb2 then (List.range n).map fun r => (o.base + o.row r * o.pitch, ceilDiv len 8 * 2)
    else if o.inner then (List.range len).map fun k => (o.base + k * o.pitch, ceilDiv (n * eb) 8)
    else (List.range n).map fun r => (o.base + o.row r * o.pitch, ceilDiv (len * eb) 8)
  body ++ if o.mx || o.cb2 then (List.range n).map fun r => (o.sbase + o.row r * o.spitch, o.spitch) else []

end MatOperand

/-- The A operand of a captured word (R132). -/
def operandA (src : MatSrc) (sh ga gc : Word) (p : MatPair) (x tr : Bool) (idx : BitVec 2048) : MatOperand :=
  ⟨src, p.a, p.mx, p.cb2, ga.toNat, shALD sh * 16, tr, scaleA gc, ceilDiv (shK sh) (if p.cb2 then 256 else 32),
    if x then some idx else none⟩

/-- The B operand of a captured word. -/
def operandB (src : MatSrc) (sh gb gc : Word) (p : MatPair) (tr : Bool) : MatOperand :=
  ⟨src, p.b, p.mx, false, gb.toNat, shBLD sh * 16, !tr, scaleB gc, ceilDiv (shK sh) 32, none⟩

/-! ### k-steps (R52, R53) -/

/-- The exact sum of products: −0 only when every product is −0. -/
def exactSum (ps : List Fp) : Fp := ps.foldl (fun q x => (fpAdd 0 q x).1) (.fin true 0 0)

/-- acc + s × p in one rounding to nearest-even; a NaN is the canonical NaN. -/
def kstepFp (acc : Nat) (s p : Fp) : Nat :=
  (fpRound 0 0 false (fpAdd 0 (fpDecode 0 acc) (fpMul s p).1).1).1

/-- The exact integer sum added and saturated to S32. -/
def kstepInt (acc : Nat) (p : Int) : Nat := pattern 32 (max (-2 ^ 31) (min (2 ^ 31 - 1) (signed 32 acc + p)))

/-- The k-step of element (i, j) over n inner indices from k0. -/
def kstep (p : MatPair) (a b : MatOperand) (s : Fp) (acc i j k0 n : Nat) : Nat :=
  let ks := (List.range n).map (k0 + ·)
  if p.int then kstepInt acc (ks.map fun k => a.int i k * b.int j k).sum
  else kstepFp acc s (exactSum (ks.map fun k => (fpMul (a.value i k) (b.value j k)).1))

/-- The k-steps of inner indices from k0 up to k1, for an element, in ascending order. -/
def ksteps (p : MatPair) (a b : MatOperand) (s : Fp) (i j k0 k1 acc : Nat) : Nat :=
  (List.range (ceilDiv (k1 - k0) p.kstep)).foldl (fun acc q =>
    kstep p a b s acc i j (k0 + q * p.kstep) (min p.kstep (k1 - k0 - q * p.kstep))) acc

/-! ### The accumulator store -/

/-- Elements of a tile, by row × 128 + column. -/
def Core.tile (c : Core) (t : Nat) : Map (BitVec 32) := if t = 0 then c.acc0 else c.acc1

/-- Replace a tile. -/
def Core.setTile (c : Core) (t : Nat) (m : Map (BitVec 32)) : Core := if t = 0 then { c with acc0 := m } else { c with acc1 := m }

/-- Element (i, j) of a tile. -/
def Core.elem (c : Core) (t i j : Nat) : Nat := (Map.get 0 (c.tile t) (128 * i + j)).toNat

/-- Rewrite rows 0 to m − 1 and columns 0 to n − 1 of a tile. -/
def mapTile (m n : Nat) (f : Nat → Nat → Nat → Nat) (tile : Map (BitVec 32)) : Map (BitVec 32) :=
  (List.range m).foldl (fun t i => (List.range n).foldl (fun t j =>
    Map.put 0 t (128 * i + j) (BitVec.ofNat 32 (f i j (Map.get 0 t (128 * i + j)).toNat))) t) tile

/-- The poison of the elements in a region of a tile is cleared by writing them (R350). -/
def Core.cleanTile (c : Core) (t m n : Nat) : Core :=
  { c with accPoison := c.accPoison.filter fun k =>
      !(k / 16384 = t && k % 16384 / 128 < m && k % 128 < n) }

/-- Elements of the accumulator store: m rows from row i on, n columns from column j on, of a tile. -/
structure AccRegion where
  tile : Nat
  i : Nat
  m : Nat
  j : Nat
  n : Nat
  deriving DecidableEq, Repr

/-- Is an element of a region poisoned? -/
def Core.tilePoisoned (c : Core) (r : AccRegion) : Bool :=
  c.accPoison.any fun k =>
    let (i, j) := (k % 16384 / 128, k % 128)
    k / 16384 = r.tile && r.i ≤ i && i < r.i + r.m && r.j ≤ j && j < r.j + r.n

/-- Rewrite a region of a tile of the executing core. -/
def State.mapAcc (s : State) (t m n : Nat) (f : Nat → Nat → Nat → Nat) : State :=
  let c := s.myCore
  s.setMyCore ((c.setTile t (mapTile m n f (c.tile t))).cleanTile t m n)

/-- The tile that an acc bit names. -/
def tileOf (n : BitVec 1) : Nat := n.toNat

/-! ### Checks at issue (R136) -/

/-- The own-scratchpad bytes of a core. -/
def State.padCopy (s : State) (core : Nat) : Memory :=
  (s.mem.filter fun c => padBase core ≤ c.1 && c.1 < padBase core + Config.padSize).map fun c => (c.1 - padBase core, c.2)

/-- A g register operand 16-byte aligned (R136). -/
def checkSixteen (x : Word) (n : Nat) : Acc Unit := if x.toNat % n = 0 then pure () else stopTrap 1 x.toNat

/-- The lowest address of a list of runs that lies outside the own-scratchpad region: TVAL of cause 2, which R136 gives
for MMA and the model takes for MLOAD and MSTORE too (R143 gives none, log 36). -/
def outsidePad (rs : List (Nat × Nat)) : Option Nat :=
  rs.foldl (fun a r =>
    let x := r.1 % 2 ^ 64
    let bad := if Config.padSize ≤ x then some x else if Config.padSize < x + r.2 then some Config.padSize else none
    match a, bad with
    | some u, some v => some (min u v)
    | some u, none => some u
    | none, b => b) none

/-- The first poisoned byte of a run of a core's scratchpad that no queued matrix word is to write. -/
def State.poisonedRun (s : State) (core off n : Nat) : Option Nat :=
  if s.poison.isEmpty then none
  else (List.range n).find? fun i => s.isPoisoned (padBase core + off + i) && !s.matrixHazard core (off + i) 1

/-- Must a run of a matrix word wait at issue: for streams accepted before it (R195), for queued vector words and the thread's
own exchange blocks before it (R128, R236), and, where it reads, for a queued matrix word of its own thread that is to write
in a 4 KiB block of it (R238)? -/
def State.runWaits (s : State) (ag : Agent) (write : Bool) (off n : Nat) : Bool :=
  s.streamHazard ag.core (s.core ag.core).copySeq write off n ||
    (if write then s.queuedIn ag.core none (padBase ag.core + off) n || s.sentTo ag.core ag.tid ag.core off n
    else s.blockHazard ag.core off n)

/-- Bytes lie in the own scratchpad, nothing before the word still has to write or read them, and none is poisoned. What a
queued matrix word of another thread has still to write comes to the word when it is written (R127, R128). -/
def checkRuns (ag : Agent) (write : Bool) (rs : List (Nat × Nat)) : Acc Unit := do
  match outsidePad rs with
  | some x => stopTrap 2 x
  | none => (rs.map fun r => (r.1 % 2 ^ 64, r.2)).forM fun r => do
    let s ← get
    if s.runWaits ag write r.1 r.2 then throw .stall
    else if write then pure ()
    else
      match s.poisonedRun ag.core r.1 r.2 with
      | some i => throw (.poison (BitVec.ofNat 64 (r.1 + i)))
      | none => pure ()

/-- What a word captures at issue (R127). -/
def State.matEntry (s : State) (i : Instr) (ra rb rc : Reg) : MatEntry :=
  ⟨s.curTid, i, s.me.shape, s.me.idx, s.g ra, s.g rb, s.g rc, s.padCopy s.curCore, [], 0, [], [], s.myCore.queued,
    false⟩

/-- The scratchpad and table of a captured word. -/
def State.srcOf (s : State) (e : MatEntry) : MatSrc := ⟨e.pad, s.myCore.cb2⟩

/-- The tensor scale: bits 31:0 of g(c), or 1.0 when c is 0 (R135). -/
def tensorScale (c : Reg) (gc : Word) : Fp := if c = 0#5 then fpOne else fpDecode 0 (gc.toNat % 2 ^ 32)

/-- Which transposes an MMA or MMS has: bit 22 and bit 21. -/
def trA (t : BitVec 2) : Bool := t.getLsbD 1
def trB (t : BitVec 2) : Bool := t.getLsbD 0

/-! ### MMA (R134 to R136) -/

/-- The check of an MMA. -/
def mmaCheck (x : BitVec 1) (t : BitVec 2) (f : BitVec 6) (e : MatEntry) : Acc (List PathTerm) := do
  checkSixteen e.ga 16
  checkSixteen e.gb 16
  let s ← get
  let p := matPair f
  let a := operandA (s.srcOf e) e.shape e.ga e.gc p (x = 1#1) (trA t) e.idx
  let b := operandB (s.srcOf e) e.shape e.gb e.gc p (trB t)
  checkRuns (s.agent 7) false (a.runs (shM e.shape) (shK e.shape) ++ b.runs (shN e.shape) (shK e.shape))
  pure []

/-- MMA performed (R135). -/
def mmaRun (n z x : BitVec 1) (t : BitVec 2) (c : Reg) (f : BitVec 6) (e : MatEntry) (s : State) : State :=
  let p := matPair f
  let a := operandA (s.srcOf e) e.shape e.ga e.gc p (x = 1#1) (trA t) e.idx
  let b := operandB (s.srcOf e) e.shape e.gb e.gc p (trB t)
  s.mapAcc (tileOf n) (shM e.shape) (shN e.shape) fun i j old =>
    ksteps p a b (tensorScale c e.gc) i j 0 (shK e.shape) (if z = 1#1 then 0 else old)

/-! ### MMD (R140, R141) -/

/-- The nodes from d up to a, a not included, the topmost first; none if a is neither d nor an ancestor of d. -/
def State.pathTo (s : State) : Nat → Nat → Nat → List Nat → Option (List Nat)
  | 0, _, _, _ => none
  | fuel + 1, k, a, acc =>
    if k = a then some acc
    else
      match s.node k with
      | none => none
      | some n =>
        match n.source with
        | none => none
        | some p => pathTo s fuel p a (k :: acc)

/-- The codes of a block as bytes resolve them. -/
def blockCodes (data : Memory) (w size : Nat) : Map (BitVec 32) :=
  (List.range size).filterMap fun i =>
    let c := blockCode data w i
    if c = 0 then none else some (i, BitVec.ofNat 32 c)

/-- The contributions of a path to block q (R141): deltas, replaced contents and the contents that they replace. -/
def State.pathTerms (s : State) (w size q row col top : Nat) (path : List Nat) : List PathTerm :=
  let resolved (k : Nat) : Map (BitVec 32) := blockCodes (s.resolve k false q) w size
  (path.foldl (fun (acc : List PathTerm × Nat) k =>
    match s.node k with
    | none => acc
    | some n =>
      match Map.find n.elems q with
      | none => acc
      | some b =>
        let replaced := (acc.1 ++ [⟨row, col, false, resolved k⟩, ⟨row, col, true, resolved acc.2⟩], k)
        if !s.keyFits n b then replaced
        else
          match b with
          | .add delta _ _ => (acc.1 ++ [⟨row, col, false, delta⟩], k)
          | .replace _ _ _ => replaced) ([], top)).1

/-- The window's blocks of a plane: block index, block row, block column, in ascending order (R140). -/
def windowBlocks (pl : Plane) (k0 kn j0 jn : Nat) : List (Nat × Nat × Nat) :=
  (List.range pl.t1).flatMap fun r => (List.range pl.t0).filterMap fun c =>
    if k0 < (r + 1) * pl.tr && r * pl.tr < k0 + kn && j0 < (c + 1) * pl.tc && c * pl.tc < j0 + jn
    then some (r * pl.t0 + c, r, c) else none

/-- Is a unit poisoned that the resolution of a block reads? -/
def State.blockPoisoned (s : State) (k q : Nat) : Bool :=
  if s.nodesClean then false
  else (List.range 64).any (s.unitPoisoned k false q)

/-- The home of a node (R277). -/
def State.homeOfNode (s : State) (k : Nat) : Nat :=
  match s.node k with
  | some n => n.home
  | none => dieOf s.curCore

/-- The check of an MMD (R140), which reads the path (R141) at the homes of its nodes (R277). -/
def mmdCheck (x t : BitVec 1) (f : BitVec 6) (e : MatEntry) : Acc (List PathTerm) := do
  let p := matPair f
  let pl : Plane := ⟨formatWidth p.b, 1, 1, 1, 1⟩
  let k0 := e.gc.toNat % 2 ^ 32
  let j0 := e.gc.toNat / 2 ^ 32
  if k0 % pl.tr ≠ 0 || j0 % pl.tc ≠ 0 then stopTrap 1 e.gc.toNat
  else
    checkSixteen e.ga 16
    let s ← get
    let a := operandA (s.srcOf e) e.shape e.ga e.gc p (x = 1#1) (t = 1#1) e.idx
    checkRuns (s.agent 7) false (a.runs (shM e.shape) (shK e.shape))
    let hd := e.gb.toNat % 2 ^ 32
    let ha := e.gb.toNat / 2 ^ 32
    match s.nodeOf hd, s.nodeOf ha with
    | none, _ => stopTrap 7 hd
    | _, none => stopTrap 7 ha
    | some (d, dn), some (top, _) =>
      match s.pathTo 20 d top [] with
      | none => stopTrap 7 ha
      | some path =>
        if dn.shape.fmt.toNat ≠ p.b then stopTrap 7 hd
        else
          let plane := dn.shape.elemPlane
          let blocks := windowBlocks plane k0 (shK e.shape) j0 (shN e.shape)
          if !path.isEmpty && (top :: path).any (fun k => !s.hasPath (dieOf s.curCore) (s.homeOfNode k)) then throw .stall
          else if !path.isEmpty && blocks.any fun b => (top :: path).any fun k => s.blockPoisoned k b.1 then throw (.poison 0)
          else pure (blocks.flatMap fun b => s.pathTerms plane.w plane.tileSize b.1 b.2.1 b.2.2 top path)

/-- addprod or subprod of one term, for an element (R141). -/
def termStep (p : MatPair) (a : MatOperand) (pl : Plane) (k0 j0 kn i j old : Nat) (t : PathTerm) : Nat :=
  if (j0 + j) / pl.tc ≠ t.col then old
  else
    let ks := (List.range kn).filter fun k => (k0 + k) / pl.tr = t.row
    let code (k : Nat) : Nat :=
      (Map.get (0 : BitVec 32) t.codes ((k0 + k) % pl.tr * pl.tc + (j0 + j) % pl.tc)).toNat
    if p.int then
      let sum := (ks.map fun k => a.int i k * signed 8 (code k)).sum
      kstepInt old (if t.negated then -sum else sum)
    else
      let sum := exactSum (ks.map fun k => (fpMul (a.value i k) (fpDecode p.b (code k))).1)
      kstepFp old fpOne (if t.negated then sum.neg else sum)

/-- MMD performed: the terms in order (R141). -/
def mmdRun (n z x t : BitVec 1) (f : BitVec 6) (e : MatEntry) (s : State) : State :=
  let p := matPair f
  let pl : Plane := ⟨formatWidth p.b, 1, 1, 1, 1⟩
  let a := operandA (s.srcOf e) e.shape e.ga e.gc p (x = 1#1) (t = 1#1) e.idx
  let k0 := e.gc.toNat % 2 ^ 32
  let j0 := e.gc.toNat / 2 ^ 32
  s.mapAcc (tileOf n) (shM e.shape) (shN e.shape) fun i j old =>
    e.path.foldl (termStep p a pl k0 j0 (shK e.shape) i j) (if z = 1#1 then 0 else old)

end Sys2Proof.Machine
end

