-- ==== Sys2Proof/Machine/MatQueue.lean ====
section
/-! DEFINITION. MMS over a matrix group (R137 to R139), the MCTL forms (R142 to R145) and the matrix queue (R127). -/

namespace Sys2Proof.Machine

/-! ### MCTL words that enter the queue -/

/-- The tile of a d field that names an accumulator. -/
def tileReg (d : Reg) : Nat := d.toNat % 2

/-- MZERO performed (R143). -/
def mzeroRun (d : Reg) (s : State) : State :=
  let c := s.myCore
  s.setMyCore ((c.setTile (tileReg d) []).cleanTile (tileReg d) 128 128)

/-- The checks of MLOAD and MSTORE (R143). -/
def moveCheck (write : Bool) (size : Nat) (e : MatEntry) : Acc (List PathTerm) := do
  if e.ga.toNat % size ≠ 0 || e.gb.toNat % size ≠ 0 then stopTrap 1 e.ga.toNat
  else
    checkRuns ((← get).agent 7) write (moveRuns e.shape e.ga e.gb size)
    pure []

/-- MLOAD performed (R143): patterns of the scratchpad as captured. -/
def mloadRun (d : Reg) (e : MatEntry) (s : State) : State :=
  let rows := moveRuns e.shape e.ga e.gb 4
  s.mapAcc (tileReg d) (shM e.shape) (shN e.shape) fun i j _ =>
    let a := (rows.getD i (0, 0)).1 + 4 * j
    ofLe ((List.range 4).map fun k => Map.get (0 : Byte) e.pad (a + k))

/-- An element as MSTORE stores it, with its flags (R143). -/
def storeElement (f : Reg) (sat : Bool) (x : Nat) : Nat × Flags :=
  if f = 1#5 || f = 2#5 then fpConvert 0 f.toNat 0 sat x else (x, {})

/-- MSTORE performed (R143): rows in ascending order, so that the later of two rows that overlap stays (log 36). -/
def mstoreRun (d : Reg) (f : Reg) (e : MatEntry) (s : State) : State :=
  let size := storeSize f
  let rows := moveRuns e.shape e.ga e.gb size
  (List.range (shM e.shape)).foldl (fun s i =>
    let xs := (List.range (shN e.shape)).map fun j => storeElement f s.vsat (s.myCore.elem (tileReg d) i j)
    let s := s.raiseV (xs.foldl (fun a x => a.or x.2) {})
    s.padWrite s.curCore (rows.getD i (0, 0)).1 (xs.flatMap fun x => leBytes size x.1)) s

/-- Tile, row and first column of a slice selector (R144). -/
def sliceTile (x : Word) : Nat := bits x.toNat 9 1
def sliceRow (x : Word) : Nat := bits x.toNat 0 7
def sliceCol (x : Word) : Nat := 32 * bits x.toNat 7 2

/-- The 32 patterns of a slice. -/
def State.slice (s : State) (x : Word) : List Nat :=
  (List.range 32).map fun k => s.myCore.elem (sliceTile x) (sliceRow x) (sliceCol x + k)

/-- MSLICE performed (R144). -/
def msliceRun (d : Reg) (e : MatEntry) (s : State) : State := s.setV d (packLanes 32 (s.slice e.ga))

/-- MQUANT performed (R144). Where a capture has advanced d to the register of b, the codes are written first and the old
vb with its new scale byte over them (DESIGN CHOICE, log 36: R66 checks the fields only as written). -/
def mquantRun (d b : Reg) (e : MatEntry) (s : State) : State :=
  let fmt := s.me.vctl.qfmt.toNat
  let (scale, codes, fl) := mxQuantise fmt s.vsat ((s.slice e.ga).map fun x => some (fpDecode 0 x))
  let c := sliceCol e.ga
  let w := formatWidth fmt
  let z := s.v d
  let zb := s.v b
  let s := s.raiseV fl
  let s := s.setV d (packLanes w ((List.range (1024 / w)).map fun i =>
    if c ≤ i && i < c + 32 then codes.getD (i - c) 0 else lane z w i))
  s.setV b (setLane zb 8 (c / 32) scale)

/-! ### The queue (R127) -/

/-- A word that takes only the first matrix check: nothing to check. -/
def noCheck (_ : MatEntry) : Acc (List PathTerm) := pure []

/-- The elements of the accumulator store that a word reads: its M × N product region, or a slice of 32 (R144). -/
def matReads (e : MatEntry) : Option AccRegion :=
  let product (t : Nat) : AccRegion := ⟨t, 0, shM e.shape, 0, shN e.shape⟩
  let slice : AccRegion := ⟨sliceTile e.ga, sliceRow e.ga, 1, sliceCol e.ga, 32⟩
  match e.instr with
  | .mma n z _ _ _ _ _ _ => if z = 1#1 then none else some (product (tileOf n))
  | .mmd n z _ _ _ _ _ _ => if z = 1#1 then none else some (product (tileOf n))
  | .mms n z _ _ _ _ _ => if z = 1#1 then none else some (product (tileOf n))
  | .mstore d _ _ _ => some (product (tileReg d))
  | .mslice _ _ => some slice
  | .mquant _ _ _ => some slice
  | _ => none

/-- Does a word read a poisoned element of the accumulator store (R350)? -/
def State.readsPoisonedAcc (s : State) (e : MatEntry) : Bool :=
  match matReads e with
  | some r => s.myCore.tilePoisoned r
  | none => false

/-- Does an MMA read a poisoned entry of the magnitude table (R350)? -/
def State.readsPoisonedTable (s : State) (e : MatEntry) : Bool :=
  match e.instr with
  | .mma _ _ x t _ _ _ f =>
    (operandA (s.srcOf e) e.shape e.ga e.gc (matPair f) (x = 1#1) (trA t) e.idx).tablePoisoned (shM e.shape) (shK e.shape)
      s.myCore.cb2Poison
  | _ => false

/-- The effect of a queued word other than MMS, for the thread that issued it. -/
def matEffect (e : MatEntry) (s : State) : State :=
  match e.instr with
  | .mma n z x t _ _ c f => mmaRun n z x t c f e s
  | .mmd n z x t _ _ _ f => mmdRun n z x t f e s
  | .mzero d => mzeroRun d s
  | .mload d _ _ => mloadRun d e s
  | .mstore d _ _ f => mstoreRun d f e s
  | .mslice d _ => msliceRun d e s
  | .mquant d _ b => mquantRun d b e s
  | _ => s

/-- The words that wait in a core's queue see what a word before them has written in runs of the scratchpad, as though
they read it at their issue points (R128). -/
def State.showWritten (s : State) (core : Nat) (rs : List (Nat × Nat)) : State :=
  let c := s.core core
  if c.mq.isEmpty then s
  else
    let fresh (pad : Memory) : Memory := rs.foldl (fun p r => (List.range r.2).foldl (fun p i =>
      Map.put 0 p (r.1 + i) (s.memByte (padBase core + r.1 + i))) p) pad
    s.setCore core { c with mq := c.mq.map fun e => { e with pad := fresh e.pad } }

/-- Perform a word of a core. -/
def State.runMatrix (s : State) (core : Nat) (e : MatEntry) : State :=
  let rs := s.matWrites core e
  (s.within core e.tid.toNat fun s =>
    if s.readsPoisonedAcc e || s.readsPoisonedTable e then s.consume 7 0 else matEffect e s).showWritten core rs

/-- Does a queued word store to the scratchpad? -/
def storesPad : Instr → Bool
  | .mstore _ _ _ _ => true
  | _ => false

/-- Has a thread an MSTORE that a pre-emption stop has saved in the queue? Accesses of its words from then on follow it
(R251). -/
def State.carriedStores (s : State) (core tid : Nat) : Bool :=
  (s.core core).mq.any fun e => e.tid.toNat = tid && e.carried && storesPad e.instr

/-- Is a word an MMS? -/
def isMms : Instr → Bool
  | .mms _ _ _ _ _ _ _ => true
  | _ => false

/-- The members of a matrix group's row, or column, that a member belongs to. -/
def State.groupLine (t : Thread) (sh : Word) (row : Bool) : List Nat :=
  let m := t.spanix.toNat
  let w := State.spanW t
  if row then (List.range (shGW sh)).map fun c => m - groupCol t sh + c
  else (List.range (shGH sh)).map fun r => m - groupRow t sh * w + r * w

/-- All members of the matrix group of a member. -/
def State.groupAll (t : Thread) (sh : Word) : List Nat :=
  let w := State.spanW t
  let base := t.spanix.toNat - groupRow t sh * w - groupCol t sh
  (List.range (shGH sh)).flatMap fun r => (List.range (shGW sh)).map fun c => base + r * w + c

namespace State

/-- Let every member of a word's group look at its panels again. -/
def kickGroup (s : State) (core : Nat) (e : MatEntry) : State :=
  (groupAll (s.thread core e.tid.toNat) e.shape).foldl (fun s m =>
    match s.memberCore core m with
    | some c => s.enqueue (.mmsPanel c)
    | none => s) s

/-- Must a matrix word of a core wait for a vector word that entered the sequencer before it: one of its thread, where it
writes v registers (R104), or one that loads the magnitude table that it reads (R12)? -/
def vectorBefore (c : Core) (e : MatEntry) : Bool :=
  c.vq.any fun v => decide (v.stamp < e.stamp) &&
    ((v.tid = e.tid && writesVecs e.instr) || (loadsCb2 v.instr && usesCb2 e.instr))

/-- The head of the queue may go on; MWAITs, vector words and captures that wait for it look again. -/
def kickMatrix (s : State) (core : Nat) : State :=
  let s := if (s.core core).vq.isEmpty then s else s.enqueue (.vectorWordExecute core)
  let s := match (s.core core).mq with
    | [] => s
    | e :: _ => if isMms e.instr then s.kickGroup core e else s.enqueue (.matrixWordExecute core)
  let s := (List.range 4).foldl (fun s t =>
    if (s.thread core t).capture.isSome then s.enqueue (.repeatPass core t) else s) s
  s.notifyCore core

/-- A word enters the queue; it is performed at once when the queue is empty, no vector word before it must execute
first, and engine work is not deferred. An MMS always waits for its panels. -/
def enterMatrix (s : State) (e : MatEntry) : State :=
  let c := s.myCore
  if c.mq.isEmpty && !s.defer && !isMms e.instr && !vectorBefore c e then s.runMatrix s.curCore e
  else
    let s := s.setMyCore { c with mq := c.mq ++ [e], queued := c.queued + 1 }
    if c.mq.isEmpty then s.kickMatrix s.curCore else s

/-- Is the matrix queue full? Only then a word waits at issue (R127). -/
def matrixFull (s : State) : Bool := 2 ≤ s.myCore.mq.length

/-- Does a word act whatever the shape (R130)? -/
def actsAlways : Instr → Bool
  | .mzero _ => true
  | _ => false

end State

/-- Issue of a matrix word (R127): checked and captured, then queued. With M = 0 it retires without any effect
(R130). -/
def issueMatrix (i : Instr) (ra rb rc : Reg) (check : MatEntry → Acc (List PathTerm)) (s : State) : Out :=
  if s.matrixFull then .next s
  else
    let e := s.matEntry i ra rb rc
    if shM e.shape = 0 && !State.actsAlways i then .next s.retire
    else
      match check e s with
      | (.ok path, s') => .next (s'.retire.enterMatrix { e with path := path })
      | (.error x, s') => .next (State.stopped s s' i 7 x)

/-- MMA (R134 to R136). -/
def execMma (n z x : BitVec 1) (t : BitVec 2) (a b c : Reg) (f : BitVec 6) (s : State) : Out :=
  issueMatrix (.mma n z x t a b c f) a b c (mmaCheck x t f) s

/-- MMD (R140, R141). -/
def execMmd (n z x t : BitVec 1) (a b c : Reg) (f : BitVec 6) (s : State) : Out :=
  issueMatrix (.mmd n z x t a b c f) a b c (mmdCheck x t f) s

/-- MZERO (R143). -/
def execMzero (d : Reg) (s : State) : Out := issueMatrix (.mzero d) 0 0 0 noCheck s

/-- MLOAD (R143). -/
def execMload (d a b : Reg) (s : State) : Out := issueMatrix (.mload d a b) a b 0 (moveCheck false 4) s

/-- MSTORE (R143). -/
def execMstore (d a b : Reg) (f : Reg) (s : State) : Out :=
  issueMatrix (.mstore d a b f) a b 0 (moveCheck true (storeSize f)) s

/-- MSLICE (R144). -/
def execMslice (d a : Reg) (s : State) : Out := issueMatrix (.mslice d a) a 0 0 noCheck s

/-- MQUANT (R144). -/
def execMquant (d a b : Reg) (s : State) : Out := issueMatrix (.mquant d a b) a 0 0 noCheck s

/-! ### MCTL words of the scalar pipeline -/

/-- MSHAPE performed (R130). -/
def mshapeRun (d : Reg) (x : Word) (s : State) : State :=
  let c := shapeCode x
  let s := if c = 0 then s.setMe { s.me with shape := x } else s
  s.setG d (BitVec.ofNat 64 c)

/-- MSHAPE (R130). -/
def execMshape (d a : Reg) (s : State) : Out := .next (mshapeRun d (s.g a) s).retire

/-- MIDX performed (R131): entries from v(a) and the next register. -/
def midxRun (a : Reg) (s : State) : State :=
  s.setMe { s.me with idx := s.v (a ||| 1#5) ++ s.v (a &&& ~~~1#5) }

/-- MIDX (R131): after the engine words of the thread that write v registers. -/
def execMidx (a : Reg) (s : State) : Out :=
  if s.matrixWritesV || s.myCore.vq.any fun e => e.tid = s.curTid then .next s else .next (midxRun a s).retire

/-- Queued matrix words of a thread that have not completed. -/
def State.pendingMatrix (s : State) (core tid : Nat) : Nat := (s.core core).mq.countP fun e => e.tid.toNat = tid

/-- MWAIT (R145). -/
def execMwait (d a : Reg) (s : State) : Out :=
  let n := s.pendingMatrix s.curCore s.curTid.toNat
  if n ≤ (s.g a).toNat then .next (s.setG d (BitVec.ofNat 64 n)).retire else .next (s.block (.mwait d a))

/-- MWAIT_RELEASE (R145): a waiting MWAIT looks again. -/
def execMwaitRelease (core tid : Nat) (s : State) : Out :=
  match (s.thread core tid).wait with
  | some (.mwait d a) =>
    if s.pendingMatrix core tid ≤ ((s.asThread core tid).g a).toNat then
      .next (s.within core tid fun s => (s.setG d (BitVec.ofNat 64 (s.pendingMatrix core tid))).retire)
    else .next s
  | _ => .next s

/-- MATRIX_WORD_EXECUTE (R127): the engine performs the word at the head of the queue. On a paired core an MSTORE is
performed once the interval of its thread has matched, and no rollback repeats it (R98, R233). -/
def execMatrixWordExecute (core : Nat) (s : State) : Out :=
  match (s.core core).mq with
  | [] => .next s
  | e :: r =>
    let tid := e.tid.toNat
    if isMms e.instr || State.vectorBefore (s.core core) e then .next s
    else if storesPad e.instr && s.pairHolds core tid then .next (s.matchFirst core tid (.matrixWordExecute core))
    else
      let c := s.core core
      let s := (((s.setCore core { c with mq := r }).runMatrix core e).noteUndo core tid c).kickMatrix core
      .next (if storesPad e.instr then s.afterLeaving core tid else s)

/-! ### MMS (R137 to R139) -/

/-- The check of an MMS: a holder's source, or a staging area of its own (R137, R138). A group outside the span, with
TVAL 0, is found before an operand outside the scratchpad (log 36). -/
def mmsCheck (t : BitVec 2) (f : BitVec 6) (e : MatEntry) : Acc (List PathTerm) := do
  let s ← get
  let me := s.me
  let gr := groupRow me e.shape
  let gc := groupCol me e.shape
  let w := State.spanW me
  let m := me.spanix.toNat
  checkSixteen e.ga (if gc = 0 then 16 else 128)
  checkSixteen e.gb (if gr = 0 then 16 else 128)
  if w = 0 || w < m % w - gc + shGW e.shape || State.spanH me < m / w - gr + shGH e.shape then stopTrap 2 0
  else
    let p := matPair f
    let a := operandA (s.srcOf e) e.shape e.ga e.gc p false (trA t) e.idx
    let b := operandB (s.srcOf e) e.shape e.gb e.gc p (trB t)
    let reads := (if gc = 0 then a.runs (shM e.shape) (shK e.shape) else []) ++
      (if gr = 0 then b.runs (shN e.shape) (shK e.shape) else [])
    let writes := (if gc = 0 then [] else [(e.ga.toNat, 2 * stageSlot)]) ++
      (if gr = 0 then [] else [(e.gb.toNat, 2 * stageSlot)])
    match outsidePad (reads ++ writes) with
    | some x => stopTrap 2 x
    | none =>
      checkRuns (s.agent 7) false reads
      checkRuns (s.agent 7) true writes
      pure []

/-- MMS (R137 to R139): checked and queued; its panels follow as MMS_PANEL events. -/
def execMms (n z : BitVec 1) (t : BitVec 2) (a b c : Reg) (f : BitVec 6) (s : State) : Out :=
  issueMatrix (.mms n z t a b c f) a b c (mmsCheck t f) s

/-- Fields of an MMS: z, tile, transposes, scale register, pair. -/
structure MmsFields where
  z : Bool
  tile : Nat
  t : BitVec 2
  c : Reg
  f : BitVec 6
  deriving DecidableEq, Repr

/-- The fields of a queued MMS. -/
def mmsFields (i : Instr) : Option MmsFields :=
  match i with
  | .mms n z t _ _ c f => some ⟨z = 1#1, tileOf n, t, c, f⟩
  | _ => none

/-- The MMS at the head of a core's queue. A member's MMS pairs with whichever MMS heads the queue of a peer, of whichever
thread of the peer it is (DESIGN CHOICE, log 36: R139 names no thread). -/
def State.headMms (s : State) (core : Nat) : Option MatEntry :=
  match (s.core core).mq with
  | e :: _ => if isMms e.instr then some e else none
  | [] => none

/-- Bytes of panel [k0, k1) of an operand of n rows as a staging slot holds them (R138). -/
def panelBytes (o : MatOperand) (n k0 k1 : Nat) : List Byte :=
  let eb := formatWidth o.fmt
  (List.range stageSlot).map fun x =>
    let v : Nat :=
      if x < 0x4000 then
        let r := x / 128
        let b := x % 128
        if n ≤ r then 0
        else if o.cb2 then
          if k0 + b / 2 * 8 < k1 then o.src.byte (o.base + o.row r * o.pitch + k0 / 8 * 2 + b) else 0
        else if eb = 16 then (if k0 + b / 2 < k1 then o.code r (k0 + b / 2) / 256 ^ (b % 2) else 0)
        else if eb = 8 then
          -- a 6-bit element is written with bits 7:6 zero (R38)
          (if k0 + b < k1 then o.code r (k0 + b) % (if o.fmt = 13 || o.fmt = 14 then 64 else 256) else 0)
        else
          (if k0 + 2 * b < k1 then o.code r (k0 + 2 * b) else 0) +
            16 * (if k0 + 2 * b + 1 < k1 then o.code r (k0 + 2 * b + 1) else 0)
      else
        let r := (x - 0x4000) / 8
        let unit := if o.cb2 then 256 else 32
        let kb := k0 / unit + x % 8
        if r < n && (o.mx || o.cb2) && kb * unit < k1 then o.src.byte (o.sbase + o.row r * o.spitch + kb) else 0
    BitVec.ofNat 8 v

/-- Write the staged panels of an MMS into its staging areas, when it retires (R138, R246). -/
def State.writeStaged (s : State) (core : Nat) (e : MatEntry) : State :=
  let at_ (x : Nat) : Nat := (if x < 2 then e.ga.toNat else e.gb.toNat) + x % 2 * stageSlot
  (e.staged.foldl (fun s x => s.padWrite core (at_ x.1) x.2) s).showWritten core
    (e.staged.map fun x => (at_ x.1, x.2.length))

/-- The MMS at the head of a core's queue ends; what waits in its group looks again. -/
def State.endMms (s : State) (core : Nat) (e : MatEntry) : State :=
  let s := (s.setCore core { s.core core with mq := (s.core core).mq.drop 1 }).writeStaged core e
  (s.kickMatrix core).kickGroup core e

/-- A trap that the thread of an MMS takes at its next instruction boundary. -/
def State.pendMms (s : State) (core : Nat) (e : MatEntry) (cause : BitVec 8) (tval : Word) : State :=
  s.pendTrap core e.tid.toNat ⟨cause, tval, false⟩

/-- Window base of a member (R22). -/
def windowBase (m : Nat) : Word := BitVec.ofNat 64 (0x1000000 + m * Config.padSize)

/-- Has a member of a holder's line released panel p, having taken the last panel or summed a later one? -/
def State.released (s : State) (core : Nat) (h : MatEntry) (m p : Nat) : Bool :=
  h.served.contains m ||
    match s.memberCore core m with
    | none => false
    | some c => match s.headMms c with
      | some e => p < e.panel
      | none => false

/-- A contained member among some. -/
def State.containedAmong (s : State) (core : Nat) (ms : List Nat) : Option Nat :=
  ms.find? fun m => match s.memberCore core m with
    | some c => (s.core c).contained
    | none => false

/-- Note at a holder that a member has taken its last panel. -/
def State.serve (s : State) (core holder m : Nat) : State :=
  match s.memberCore core holder with
  | none => s
  | some c =>
    match (s.core c).mq with
    | e :: r => s.setCore c { s.core c with mq := { e with served := setInsert e.served m } :: r }
    | [] => s

/-- A member takes and sums panel p of its two holders (R139). -/
def State.sumPanel (s : State) (core : Nat) (e ea eb : MatEntry) (x : MmsFields) (ta tb : BitVec 2) : State :=
  let p := matPair x.f
  let k0 := e.panel * p.kp
  let k1 := min (shK e.shape) (k0 + p.kp)
  let src (h : MatEntry) : MatSrc := ⟨h.pad, (s.core core).cb2⟩
  let a := operandA (src ea) ea.shape ea.ga ea.gc p false (trA ta) ea.idx
  let b := operandB (src eb) eb.shape eb.gb eb.gc p (trB tb)
  let t := s.thread core e.tid.toNat
  let s := s.within core e.tid.toNat fun s =>
    s.mapAcc x.tile (shM e.shape) (shN e.shape) fun i j old =>
      ksteps p a b (tensorScale x.c e.gc) i j k0 k1 (if x.z && e.panel = 0 then 0 else old)
  let staged := if groupCol t e.shape = 0 then e.staged
    else Map.insert e.staged (e.panel % 2) (panelBytes a (shM e.shape) k0 k1)
  let staged := if groupRow t e.shape = 0 then staged
    else Map.insert staged (2 + e.panel % 2) (panelBytes b (shN e.shape) k0 k1)
  match (s.core core).mq with
  | h :: r => s.setCore core { s.core core with mq := { h with panel := h.panel + 1, staged := staged } :: r }
  | [] => s

/-- What MMS_PANEL does (R139): the member takes its next panel if both holders have sent it, or its MMS ends. Where the rule is
silent (log 36): a receiver whose holders both mismatch reports the A holder's mismatch, and after a mismatch the holder
that mismatched no longer waits for this receiver, while what else the receiver would have released or fed goes on
waiting. -/
def mmsPanelBody (core : Nat) (s : State) : Out :=
  match s.headMms core with
  | none => .next s
  | some e =>
    match mmsFields e.instr with
    | none => .next s
    | some x =>
      let t := s.thread core e.tid.toNat
      let me := t.spanix.toNat
      let row := State.groupLine t e.shape true
      let col := State.groupLine t e.shape false
      let ha := row.headD me
      let hb := col.headD me
      let total := ceilDiv (shK e.shape) (matPair x.f).kp
      let others (l : List Nat) : List Nat := l.filter (· ≠ me)
      -- members whose release this member waits for as a holder
      let mine := (if ha = me then others row else []) ++ (if hb = me then others col else [])
      if e.panel = total then
        if mine.all e.served.contains then .next (s.endMms core e)
        else
          match s.containedAmong core (mine.filter fun m => !e.served.contains m) with
          | some m => .next ((s.endMms core e).pendMms core e 13 (windowBase m))
          | none => .next s
      else
        match s.containedAmong core ([ha, hb] ++ mine.filter fun m => !e.served.contains m) with
        | some m => .next ((s.endMms core e).pendMms core e 13 (windowBase m))
        | none =>
          let entry (h : Nat) : Option MatEntry :=
            if h = me then some e
            else match s.memberCore core h with
              | some c => match s.headMms c with
                | some y => if y.served.contains me then none else some y
                | none => none
              | none => none
          match entry ha, entry hb with
          | some ea, some eb =>
            match mmsFields ea.instr, mmsFields eb.instr with
            | some xa, some xb =>
              let bad (h y : MatEntry) (f : BitVec 6) (dim : Word → Nat) : Bool :=
                e.panel = 0 && (f ≠ x.f || shK h.shape ≠ shK y.shape || dim h.shape ≠ dim y.shape)
              if bad ea e xa.f shM then
                .next (((s.serve core ha me).endMms core e).pendMms core e 2 e.ga)
              else if bad eb e xb.f shN then
                .next (((s.serve core hb me).endMms core e).pendMms core e 2 e.gb)
              else
                let free (h : MatEntry) (line : List Nat) : Bool :=
                  e.panel < 2 || line.all fun m => s.released core h m (e.panel - 2)
                if free ea row && free eb col then
                  let table := operandA ⟨ea.pad, (s.core core).cb2⟩ ea.shape ea.ga ea.gc (matPair x.f) false (trA xa.t) ea.idx
                  let k0 := e.panel * (matPair x.f).kp
                  let bad := (s.asThread core e.tid.toNat).readsPoisonedAcc e ||
                    { table with base := table.base + k0 / 8 * 2 }.tablePoisoned (shM e.shape)
                      (min (matPair x.f).kp (shK e.shape - k0)) (s.core core).cb2Poison
                  let s := if bad then
                      s.within core e.tid.toNat fun s => s.consume 7 0
                    else s.sumPanel core e ea eb x xa.t xb.t
                  let s := if e.panel + 1 = total then
                      let s := if ha = me then s else s.serve core ha me
                      if hb = me then s else s.serve core hb me
                    else s
                  .next (s.kickGroup core e)
                else .next s
            | _, _ => .next s
          | _, _ => .next s

/-- MMS_PANEL (R139). On a paired core a panel is taken, or the MMS ends, once the interval of its thread has matched, and no
rollback repeats it (R98). -/
def execMmsPanel (core : Nat) (s : State) : Out :=
  match s.headMms core, mmsPanelBody core s with
  | some e, .next s' =>
    let tid := e.tid.toNat
    let s' := s'.noteUndo core tid (s.core core)
    if !(s.core core).paired || (s'.core core).mq = (s.core core).mq then .next s'
    else if s.pairHolds core tid then .next (s.matchFirst core tid (.mmsPanel core))
    else .next (s'.afterLeaving core tid)
  | _, o => o

end Sys2Proof.Machine
end

