-- ==== Sys2Proof/Machine/VMem.lean ====
section
/-! DEFINITION. Vector memory words (R149 to R154). -/

namespace Sys2Proof.Machine

/-! ### Lanes in ascending order, and where a word stops (R149) -/

/-- TVAL of a fault at a lane: address in bits 54:0, lane in bits 63:56. -/
def laneTval (va : Word) (i : Nat) : Word := (va &&& (2 ^ 55 - 1 : Nat)) ||| BitVec.ofNat 64 (i % 256 * 2 ^ 56)

/-- A stop at a lane. -/
def Stop.atLane (i : Nat) : Stop → Stop
  | .trap c v => .trap c (laneTval v i)
  | .poison v => .poison (laneTval v i)
  | .park v w p => .park (laneTval v i) w p
  | .space v => .space (laneTval v i)
  | .cxl v w => .cxl (laneTval v i) w
  | .stall => .stall
  | .path d => .path d

/-- Perform a lane; if it stops, the word goes on there when it is issued again (R269). -/
def atLane {α : Type} (i : Nat) (m : Acc α) : Acc α := fun s =>
  match m s with
  | (.ok x, s') => (.ok x, s')
  | (.error e, s') => (.error (e.atLane i), s'.setMe { s'.me with lane := i })

/-- Perform lanes one after the other, collecting what they write. -/
def eachLane (f : Nat → Acc Written) : List Nat → Written → Acc Written
  | [], ws => pure ws
  | i :: r, ws => do
    let w ← atLane i (f i)
    eachLane f r (w ++ ws)

/-- The active lanes of a word from the lane at which it goes on. -/
def State.lanesFrom (s : State) (m : BitVec 3) (w start : Nat) : List Nat :=
  let p := s.p m
  (List.range (1024 / w)).filter fun i => start ≤ i && activeLane p w i

/-- Byte address of element position e from a base, modulo 2^64 (R149). -/
def elemAddr (base : Word) (w : Nat) (e : Int) : Nat :=
  pattern 64 (base.toNat + (if w = 4 then e / 2 else e * (w / 8 : Nat)))

/-- The alignment check of g(a), before any element (R149). -/
def checkBase (base : Word) (w : Nat) : Acc Unit :=
  if base.toNat % max 1 (w / 8) = 0 then pure () else stopTrap 1 base.toNat

/-- Read the element at a position. -/
def loadElem (ag : Agent) (base : Word) (w : Nat) (e : Int) : Acc Nat :=
  let va := elemAddr base w e
  if w = 4 then loadNibble ag va (e % 2 = 1) else loadNat ag va (w / 8)

/-- Write bytes at an address: what has been written at once. -/
def storeAt (ag : Agent) (va : Nat) (bs : List Byte) : Acc Written := do
  checkAligned va bs.length
  let loc ← resolve ag .store va bs.length
  let s ← get
  writeLoc ag loc va bs
  pure (if s.travels ag loc then [] else [(loc, bs.length)])

/-- Write the element at a position; a 4-bit element writes its nibble alone (R154). -/
def storeElem (ag : Agent) (base : Word) (w : Nat) (e : Int) (x : Nat) : Acc Written :=
  let va := elemAddr base w e
  if w = 4 then do
    storeNibble ag va (e % 2 = 1) x
    pure []
  else storeAt ag va (leBytes (w / 8) x)

/-- A load form with positions e(i): each lane of vd is written as it is performed. -/
def loadForm (d : Reg) (m t : BitVec 3) (base : Word) (e : Nat → Int) : Acc Unit := do
  let w := typeWidth t
  checkBase base w
  let s ← get
  let _ ← eachLane (fun i => do
    let x ← loadElem (s.agent 6) base w (e i)
    modify fun s => s.setV d (setLane (s.v d) w i x)
    pure []) (s.lanesFrom m w s.me.lane) []

/-- A store form with positions e(i). -/
def storeForm (d : Reg) (m t : BitVec 3) (base : Word) (e : Nat → Int) : Acc Unit := do
  let w := typeWidth t
  checkBase base w
  let s ← get
  let ws ← eachLane (fun i => storeElem (s.agent 6) base w (e i) (lane (s.v d) w i)) (s.lanesFrom m w s.me.lane) []
  modify fun s' => (s'.coverWritten ws).coverTravelling s.flights.length ws

/-! ### The forms of R150 -/

/-- Position of lane i as idx(i) gives it: unsigned, at width w. -/
def indexOf (y : VReg) (w i : Nat) : Int := (lane y w i : Nat)

/-- Word position of lane i in row r, or in column r (R151). -/
def rowPos (r : Nat) (i : Nat) : Int := (32 * r + i : Nat)
def colPos (r : Nat) (i : Nat) : Int := (32 * i + r : Nat)

/-! ### The check at issue (R105) -/

/-- What a word of major 0x2F accesses: how, predicate and type, whether its base is a tile frame, the position of a lane,
the register that holds its indices. -/
structure VmemForm where
  kind : Kind
  m : BitVec 3
  t : BitVec 3
  frame : Bool
  pos : Nat → Int
  index : Option Reg

/-- The accesses of a word with its second g operand (R150 to R152). -/
def vmemForm (s : State) (i : Instr) (y : Word) : Option VmemForm :=
  let strided (i : Nat) : Int := i * y.toInt
  let indexed (b : Reg) (w : Nat) : Nat → Int := indexOf (s.v b) w
  match i with
  | .vld _ _ m t => some ⟨.load, m, t, false, fun i => i, none⟩
  | .vst _ _ m t => some ⟨.store, m, t, false, fun i => i, none⟩
  | .vlds _ _ _ m t => some ⟨.load, m, t, false, strided, none⟩
  | .vsts _ _ _ m t => some ⟨.store, m, t, false, strided, none⟩
  | .vldx _ _ b m t => some ⟨.load, m, t, false, indexed b (typeWidth t), some b⟩
  | .vstx _ _ b m t => some ⟨.store, m, t, false, indexed b (typeWidth t), some b⟩
  | .vldb _ _ m t => some ⟨.load, m, t, false, fun _ => 0, none⟩
  | .vldrow _ _ _ m t => some ⟨.load, m, t, true, rowPos (y.toNat % 32), none⟩
  | .vldcol _ _ _ m t => some ⟨.load, m, t, true, colPos (y.toNat % 32), none⟩
  | .vstrow _ _ _ m t => some ⟨.store, m, t, true, rowPos (y.toNat % 32), none⟩
  | .vstcol _ _ _ m t => some ⟨.store, m, t, true, colPos (y.toNat % 32), none⟩
  | .vscatadd _ _ b m t => some ⟨.both, m, t, false, indexed b 32, some b⟩
  | _ => none

/-- The predicate register that a vector word writes. -/
def destP : Instr → Option (BitVec 3)
  | .vcmpeq d _ _ _ _ => some (d.setWidth 3)
  | .vcmpne d _ _ _ _ => some (d.setWidth 3)
  | .vcmplt d _ _ _ _ => some (d.setWidth 3)
  | .vcmple d _ _ _ _ => some (d.setWidth 3)
  | .vcmpltn d _ _ _ _ => some (d.setWidth 3)
  | .pand d _ _ => some (d.setWidth 3)
  | .por d _ _ => some (d.setWidth 3)
  | .pxor d _ _ => some (d.setWidth 3)
  | .pnot d _ => some (d.setWidth 3)
  | .pset d _ _ => some (d.setWidth 3)
  | _ => none

/-- Does a queued word write a vector register? Its d field names it; MQUANT writes vb as well. -/
def destV (i : Instr) (r : Reg) : Bool :=
  match i with
  | .vst _ _ _ _ => false
  | .vsts _ _ _ _ _ => false
  | .vstx _ _ _ _ _ => false
  | .vstrow _ _ _ _ _ => false
  | .vstcol _ _ _ _ _ => false
  | .vscatadd _ _ _ _ _ => false
  | .vcbload _ => false
  | .mquant d _ b => r = d || r = b
  | i => (destP i).isNone && (encode i).extractLsb' 21 5 = r

/-- Is a queued word of the executing thread still to write what the addresses of an access are made of: its index register
or its predicate (R104)? -/
def State.operandsQueued (s : State) (f : VmemForm) : Bool :=
  let own := ((s.myCore.vq.filter fun e => e.tid = s.curTid).map (·.instr)) ++
    (s.myCore.mq.filter fun e => e.tid = s.curTid && writesVecs e.instr).map (·.instr)
  own.any fun i => (f.m ≠ 0 && destP i = some f.m) || f.index.any (destV i)

/-- Check an access of n bytes: the leaf that translates it, and its 4 KiB block. A store has its lineage block (R285). -/
def checkLane (a : Agent) (k : Kind) (va n : Nat) : Acc (Option TlbEntry × Nat) := do
  checkAligned va n
  if inDeviceMemory va then
    let l ← leafOf a k va
    if barredFrame a k va l then stopTrap 2 va
    else pure (some ⟨a.pt.root, va / 2 ^ 16, l.large, Pte.touched l.pte k.writes⟩, l.phys va / 4096)
  else
    let loc ← resolve a k va n
    match loc with
    | .node slot scale q _ =>
      let s ← get
      match (if k.writes then (s.node slot).bind fun x => s.ownBlock slot x scale q else some s) with
      | some s => set s
      | none => throw .stall
    | _ => pure ()
    pure (none, loc.key / 4096)

/-- Check every active lane: the leaves and the blocks of the word's accesses. -/
def checkLanes (a : Agent) (f : VmemForm) (base : Word) : List Nat → List TlbEntry → List Nat → Acc (List TlbEntry × List Nat)
  | [], ls, bs => pure (ls, bs)
  | i :: r, ls, bs => do
    let w := typeWidth f.t
    let (l, b) ← checkLane a f.kind (elemAddr base w (f.pos i)) (max 1 (w / 8))
    checkLanes a f base r (match l with
      | some l => if ls.contains l then ls else l :: ls
      | none => ls) (setInsert bs b)

/-! ### Rows and columns of a tile frame (R151, R26) -/

/-- The check of g(a): cause 1 or 2 at lane 0. -/
def checkFrame (base : Word) : Acc Unit :=
  atLane 0 (if base.toNat % 4096 ≠ 0 then stopTrap 1 base.toNat
    else if Config.padSize ≤ base.toNat then stopTrap 2 base.toNat else pure ())

/-- Translate and check a word that is to wait in the sequencer (R105). -/
def vmemCheck (f : VmemForm) (base : Word) : Acc (List TlbEntry × List Nat) := do
  if f.frame then checkFrame base
  checkBase base (typeWidth f.t)
  let s ← get
  checkLanes (s.agent 6) f base (s.lanesFrom f.m (typeWidth f.t) s.me.lane) [] []

/-- Issue of a word of major 0x2F with its g operands (R104, R105): it is translated and checked, and its thread issues
nothing more until the check has passed. Where no word is left before it, it is performed at once. Behind others it enters
the sequencer, with the leaves that the check has found; its check waits for the words of its own thread that are to write
its index register or its predicate. A word that the check refuses stands at issue until it is the first, and takes its
trap or parks with the lanes below performed (R149); so does any such word on a paired core (DESIGN CHOICE, log 7). -/
def issueVmem (i : Instr) (ra rb : Reg) (run : Word → Word → Acc Unit) (s : State) : Out :=
  if 16 ≤ s.seqEntries then .next s
  else if s.firstInLine i then finish i 6 (run (s.g ra) (s.g rb)) s
  else
    match vmemForm s i (s.g rb) with
    | none => .next s
    | some f =>
      if s.myCore.paired || s.operandsQueued f then .next s
      else
        match vmemCheck f (s.g ra) s with
        | (.ok (ls, bs), s') => .next (s'.enterSequencer i ra rb ls bs)
        | (.error _, _) => .next s

/-- VLD (R150). -/
def vldRun (d : Reg) (m t : BitVec 3) (base : Word) : Acc Unit := loadForm d m t base fun i => i

/-- VLD (R150), issued. -/
def execVld (d a : Reg) (m t : BitVec 3) (s : State) : Out := issueVmem (.vld d a m t) a 0 (fun x _ => vldRun d m t x) s

/-- VST (R150): 4-bit elements are stored as the bytes that hold them, two to a predicate bit (R101, R154). -/
def vstRun (d : Reg) (m t : BitVec 3) (base : Word) : Acc Unit := do
  if typeWidth t = 4 then
    let s ← get
    let x := s.v d
    let ws ← eachLane (fun i => storeAt (s.agent 6) (elemAddr base 4 i) [BitVec.ofNat 8 (lane x 8 (i / 2))])
      ((s.lanesFrom m 4 s.me.lane).filter fun i => i % 2 = 0) []
    modify fun s' => (s'.coverWritten ws).coverTravelling s.flights.length ws
  else storeForm d m t base fun i => i

/-- VST (R150), issued. -/
def execVst (d a : Reg) (m t : BitVec 3) (s : State) : Out := issueVmem (.vst d a m t) a 0 (fun x _ => vstRun d m t x) s

/-- VLDS (R150). -/
def vldsRun (d : Reg) (m t : BitVec 3) (base stride : Word) : Acc Unit :=
  loadForm d m t base fun i => i * stride.toInt

/-- VLDS (R150), issued. -/
def execVlds (d a b : Reg) (m t : BitVec 3) (s : State) : Out :=
  issueVmem (.vlds d a b m t) a b (vldsRun d m t) s

/-- VSTS (R150, R154). -/
def vstsRun (d : Reg) (m t : BitVec 3) (base stride : Word) : Acc Unit :=
  storeForm d m t base fun i => i * stride.toInt

/-- VSTS (R150), issued. -/
def execVsts (d a b : Reg) (m t : BitVec 3) (s : State) : Out :=
  issueVmem (.vsts d a b m t) a b (vstsRun d m t) s

/-- VLDX (R150): the indices are read before any lane is written (R101). -/
def vldxRun (d b : Reg) (m t : BitVec 3) (base : Word) : Acc Unit := do
  let y := (← get).v b
  loadForm d m t base (indexOf y (typeWidth t))

/-- VLDX (R150), issued. -/
def execVldx (d a b : Reg) (m t : BitVec 3) (s : State) : Out := issueVmem (.vldx d a b m t) a 0 (fun x _ => vldxRun d b m t x) s

/-- VSTX (R150). -/
def vstxRun (d b : Reg) (m t : BitVec 3) (base : Word) : Acc Unit := do
  let y := (← get).v b
  storeForm d m t base (indexOf y (typeWidth t))

/-- VSTX (R150), issued. -/
def execVstx (d a b : Reg) (m t : BitVec 3) (s : State) : Out := issueVmem (.vstx d a b m t) a 0 (fun x _ => vstxRun d b m t x) s

/-- VLDB (R150): the one element is read once, for the lowest active lane, and goes to every active lane. -/
def vldbRun (d : Reg) (m t : BitVec 3) (base : Word) : Acc Unit := do
  let w := typeWidth t
  checkBase base w
  let s ← get
  match (s.lanesFrom m w 0).head? with
  | none => pure ()
  | some i =>
    let x ← atLane i (loadElem (s.agent 6) base w 0)
    modify fun s => s.putLanes d m w fun _ => (x, {})

/-- VLDB (R150), issued. -/
def execVldb (d a : Reg) (m t : BitVec 3) (s : State) : Out := issueVmem (.vldb d a m t) a 0 (fun x _ => vldbRun d m t x) s

/-! ### Rows and columns of a tile frame (R151) -/

/-- VLDROW (R151). -/
def vldrowRun (d : Reg) (m t : BitVec 3) (base r : Word) : Acc Unit := do
  checkFrame base
  loadForm d m t base (rowPos (r.toNat % 32))

/-- VLDROW (R151), issued. -/
def execVldrow (d a b : Reg) (m t : BitVec 3) (s : State) : Out :=
  issueVmem (.vldrow d a b m t) a b (vldrowRun d m t) s

/-- VLDCOL (R151). -/
def vldcolRun (d : Reg) (m t : BitVec 3) (base r : Word) : Acc Unit := do
  checkFrame base
  loadForm d m t base (colPos (r.toNat % 32))

/-- VLDCOL (R151), issued. -/
def execVldcol (d a b : Reg) (m t : BitVec 3) (s : State) : Out :=
  issueVmem (.vldcol d a b m t) a b (vldcolRun d m t) s

/-- VSTROW (R151). -/
def vstrowRun (d : Reg) (m t : BitVec 3) (base r : Word) : Acc Unit := do
  checkFrame base
  storeForm d m t base (rowPos (r.toNat % 32))

/-- VSTROW (R151), issued. -/
def execVstrow (d a b : Reg) (m t : BitVec 3) (s : State) : Out :=
  issueVmem (.vstrow d a b m t) a b (vstrowRun d m t) s

/-- VSTCOL (R151). -/
def vstcolRun (d : Reg) (m t : BitVec 3) (base r : Word) : Acc Unit := do
  checkFrame base
  storeForm d m t base (colPos (r.toNat % 32))

/-- VSTCOL (R151), issued. -/
def execVstcol (d a b : Reg) (m t : BitVec 3) (s : State) : Out :=
  issueVmem (.vstcol d a b m t) a b (vstcolRun d m t) s

/-! ### VSCATADD (R152, R153) -/

/-- The location of a VSCATADD word as VSRES names it: CAP, WIDX, LOC. cap: REPEAT prefix and index of a captured word. -/
def scatLocation (t : Thread) (cap : Option (Word × Nat)) : Bool × BitVec 4 × BitVec 53 :=
  match cap with
  | some (a, k) => (true, BitVec.ofNat 4 k, a.extractLsb' 2 53)
  | none => (false, 0, t.pc.extractLsb' 2 53)

/-- The lane at which a VSCATADD starts: LANE when VALID and the location match, else 0 (R152). -/
def scatStart (t : Thread) (cap : Option (Word × Nat)) : Nat :=
  let (c, k, l) := scatLocation t cap
  if t.vsres.valid && t.vsres.cap = c && t.vsres.widx = k && t.vsres.loc = l then t.vsres.lane.toNat else 0

/-- A sum of VSCATADD: FP32 to nearest-even without a flag, or modulo 2^32. -/
def scatSum (t : BitVec 3) (x y : Nat) : Nat := if isF t then fpAddRne 0 x y else (x + y) % 2 ^ 32

/-- The lanes of a VSCATADD; a stop at a lane is recorded in VSRES. -/
def scatLanes (cap : Option (Word × Nat)) (d b : Reg) (m t : BitVec 3) (base : Word) : Acc Unit := fun s0 =>
  let (c, k, l) := scatLocation s0.me cap
  let start := scatStart s0.me cap
  let s := s0.setMe { s0.me with vsres := { s0.me.vsres with valid := false } }
  let x := s.v d
  let y := s.v b
  let add (i : Nat) : Acc Written := do
    let _ ← atomicNat (s.agent 6) true (elemAddr base 32 (indexOf y 32 i)) 4 fun old => some (scatSum t old (lane x 32 i))
    pure []
  match eachLane add (s.lanesFrom m 32 start) [] s with
  | (.ok _, s') => (.ok (), s')
  | (.error e, s') =>
    (.error e, s'.setMe { s'.me with vsres := ⟨true, BitVec.ofNat 5 s'.me.lane, c, k, l⟩ })

/-- VSCATADD (R152). -/
def vscataddRun (cap : Option (Word × Nat)) (d b : Reg) (m t : BitVec 3) (base : Word) : Acc Unit := do
  checkBase base 32
  scatLanes cap d b m t base

/-- VSCATADD (R152), issued. -/
def execVscatadd (d a b : Reg) (m t : BitVec 3) (s : State) : Out :=
  issueVmem (.vscatadd d a b m t) a 0 (fun x _ => vscataddRun none d b m t x) s

end Sys2Proof.Machine
end

