-- ==== Sys2Proof/Machine/VecConv.lean ====
section
/-! DEFINITION. VCONV, VRED, the special functions and VRAND (R119 to R125). -/

namespace Sys2Proof.Machine

/-! ### VCVT and VCVTS (R119) -/

/-- Value of an integer code of a format. -/
def codeInt (fmt x : Nat) : Int := if isSignedFormat fmt then signed (formatWidth fmt) x else (x : Int)

/-- Range of an integer format. -/
def formatLo (fmt : Nat) : Int := if isSignedFormat fmt then -(2 ^ (formatWidth fmt - 1) : Nat) else 0
def formatHi (fmt : Nat) : Int :=
  if isSignedFormat fmt then (2 ^ (formatWidth fmt - 1) : Nat) - 1 else (2 ^ formatWidth fmt : Nat) - 1

/-- Convert one code (R119): clamp is VCVTS, which saturates and sets overflow whenever it clamps. -/
def convertCode (c : LogCtl) (clamp : Bool) (src dst x : Nat) : Nat × Flags :=
  let sat := clamp || c.sat
  if isFloatFormat src then
    if isFloatFormat dst then fpConvert src dst c.mode sat x
    else
      let (k, f) := fpToInt c.mode (formatLo dst) (formatHi dst) (fpDecode src x)
      let f := if clamp && f.invalid && !(fpDecode src x).isNan then { f with overflow := true } else f
      (pattern (formatWidth dst) k, f)
  else if isFloatFormat dst then fpRound dst c.mode sat (fpOfInt (codeInt src x))
  else
    let v := codeInt src x
    let k := if clamp then max (formatLo dst) (min (formatHi dst) v) else v
    (pattern (formatWidth dst) k, { overflow := clamp && decide (k ≠ v) })

/-- Convert the lanes that both formats fill (R119); lanes above are unchanged. -/
def State.convertLanes (s : State) (d a : Reg) (m : BitVec 3) (clamp : Bool) (src dst : Nat) : State :=
  let ws := formatWidth src
  let wd := formatWidth dst
  let n := 1024 / max ws wd
  let x := s.v a
  let z := s.v d
  s.putLanes d m wd fun i => if i < n then convertCode s.ctl clamp src dst (lane x ws i) else (lane z wd i, {})

/-- VCVT (R119): from format f to type t. -/
def vcvtRun (d a f : Reg) (m t : BitVec 3) : Word → Word → Acc Unit :=
  pureForm fun s => s.convertLanes d a m false f.toNat t.toNat

/-- VCVT (R119), issued. -/
def execVcvt (d a f : Reg) (m t : BitVec 3) (s : State) : Out :=
  issueVector (.vcvt d a f m t) 0 0 (vcvtRun d a f m t) s

/-- VCVTS (R119): from type t to format f, saturating. -/
def vcvtsRun (d a f : Reg) (m t : BitVec 3) : Word → Word → Acc Unit :=
  pureForm fun s => s.convertLanes d a m true t.toNat f.toNat

/-- VCVTS (R119), issued. -/
def execVcvts (d a f : Reg) (m t : BitVec 3) (s : State) : Out :=
  issueVector (.vcvts d a f m t) 0 0 (vcvtsRun d a f m t) s

/-! ### MX blocks and CB2 weights (R120, R121) -/

/-- VQUANT (R120): MX quantisation. Legality is checked on the word as written; where REPEAT advances d onto b, the codes are
written first and then the scales: DESIGN CHOICE, the spec gives no order (log 36). -/
def vquantRun (d a b : Reg) (m t : BitVec 3) : Word → Word → Acc Unit :=
  pureForm fun s =>
    let w := typeWidth t
    let n := 1024 / w
    let x := s.v a
    let p := s.p m
    let fmt := s.me.vctl.qfmt.toNat
    let blocks := (List.range (n / 32)).map fun k =>
      mxQuantise fmt s.vsat ((List.range 32).map fun i =>
        if activeLane p w (32 * k + i) then some (elemFp t (lane x w (32 * k + i))) else none)
    let codes := blocks.flatMap fun q => q.2.1
    let wq := formatWidth fmt
    let zd := s.v d
    let zb := s.v b
    let s := s.raiseV (blocks.foldl (fun a q => a.or q.2.2) {})
    let s := s.setV d (packLanes wq ((List.range (1024 / wq)).map fun i => if i < n then codes.getD i 0 else lane zd wq i))
    s.setV b (packLanes 8 ((List.range 128).map fun i =>
      match blocks[i]? with
      | some q => q.1
      | none => lane zb 8 i))

/-- VQUANT (R120), issued. -/
def execVquant (d a b : Reg) (m t : BitVec 3) (s : State) : Out :=
  issueVector (.vquant d a b m t) 0 0 (vquantRun d a b m t) s

/-- VDEQUANT (R120): MX decoding. -/
def vdequantRun (d a b : Reg) (m t : BitVec 3) : Word → Word → Acc Unit :=
  pureForm fun s =>
    let w := typeWidth t
    let fmt := s.me.vctl.qfmt.toNat
    let x := s.v a
    let y := s.v b
    s.putLanes d m w fun i =>
      s.ctl.out t.toNat (mxValue fmt (lane y 8 (i / 32)) (lane x (formatWidth fmt) i), {})

/-- VDEQUANT (R120), issued. -/
def execVdequant (d a b : Reg) (m t : BitVec 3) (s : State) : Out :=
  issueVector (.vdequant d a b m t) 0 0 (vdequantRun d a b m t) s

/-- VCBDEC (R121): CB2 weights; a poisoned entry of the magnitude table is consumed (R350), and TVAL of cause 17 is then 0:
DESIGN CHOICE, the entry has no address (log 36). -/
def vcbdecRun (d a b : Reg) (m t : BitVec 3) : Word → Word → Acc Unit := fun _ _ => do
  let s ← get
  let w := typeWidth t
  let x := s.v a
  let y := s.v b
  let p := s.p m
  let entries := (List.range (1024 / w)).filterMap fun i =>
    if activeLane p w i then some (lane x 16 (i / 8) % 256) else none
  if entries.any fun k => s.myCore.cb2Poison.contains k then throw (.poison 0)
  else
    set (s.putLanes d m w fun i =>
      s.ctl.out t.toNat (cb2Weight s.myCore.cb2 (lane y 8 0) (lane x 16 (i / 8)) (i % 8), {}))

/-- VCBDEC (R121), issued. -/
def execVcbdec (d a b : Reg) (m t : BitVec 3) (s : State) : Out :=
  issueVector (.vcbdec d a b m t) 0 0 (vcbdecRun d a b m t) s

/-- VCBLOAD (R121): 256 entries from v(a) to v(a + 7). -/
def vcbloadRun (a : Reg) : Word → Word → Acc Unit :=
  pureForm fun s =>
    let table := (List.range 256).foldl (fun (m : Map (BitVec 32)) k =>
      Map.put 0 m k (BitVec.ofNat 32 (lane (s.v (a + BitVec.ofNat 5 (k / 32))) 32 (k % 32)))) []
    s.setMyCore { s.myCore with cb2 := table, cb2Poison := [] }

/-- VCBLOAD (R121), issued: it follows the queued matrix words that use the table as it stood. -/
def execVcbload (a : Reg) (s : State) : Out := issueVector (.vcbload a) 0 0 (vcbloadRun a) s

/-! ### Reductions and scans (R55, R122) -/

/-- The active elements of va, as codes through f; an inactive one is absent. -/
def State.activeCodes (s : State) (a : Reg) (m t : BitVec 3) (f : Nat → Nat) : List (Option Nat) :=
  let w := typeWidth t
  let x := s.v a
  let p := s.p m
  (List.range (1024 / w)).map fun i => if activeLane p w i then some (f (lane x w i)) else none

/-- Write lane 0 of width w of vd with the value of a tree, or with what stands for no value. -/
def State.putResult (s : State) (d : Reg) (w : Nat) (r : Option Nat × Flags) (none_ : Nat) : State :=
  (s.raiseV r.2).setV d (setLane (s.v d) w 0 (r.1.getD none_))

/-- The tree sum in FP32, or modulo 2^32 (R122). -/
def sumCombine (c : LogCtl) (t : BitVec 3) (x y : Nat) : Nat × Flags :=
  if isF t then fpAddCode 0 c.mode c.sat x y else ((x + y) % 2 ^ 32, {})

/-- An element as VREDSUM takes it: widened to FP32 exactly, or to 32 bits. A NaN becomes the canonical one, so VREDSUM of a
lone active NaN delivers that, where the tree of one entry returns its leaf (R55): DESIGN CHOICE, log 36, since R122 widens
each leaf and R37 gives a converted NaN the canonical code. -/
def sumLeaf (t : BitVec 3) (x : Nat) : Nat := if isF t then (fpConvert t.toNat 0 0 false x).1 else pattern 32 (elemInt t x)

/-- A result that is NaN is the canonical NaN (R122). -/
def canonical (t : BitVec 3) (x : Nat) : Nat :=
  if isF t && (elemFp t x).isNan then (nanCode t.toNat).1 else x

/-- Code of an infinity of type t. -/
def infElem (t : BitVec 3) (neg : Bool) : Nat := (infCode t.toNat false neg).1

/-- A reduction by the lesser or the greater (R122). -/
def State.reduceMinMax (s : State) (d a : Reg) (m t : BitVec 3) (wantMax : Bool) (f : Nat → Nat) (none_ : Nat) : State :=
  let r := combineTree (fun x y => (elemMinMax t wantMax x y, {})) (s.activeCodes a m t f)
  s.putResult d (typeWidth t) (r.1.map (canonical t), r.2) none_

/-- VREDSUM (R122): the tree sum in bits 31:0. -/
def vredsumRun (d a : Reg) (m t : BitVec 3) : Word → Word → Acc Unit :=
  pureForm fun s => s.putResult d 32 (combineTree (sumCombine s.ctl t) (s.activeCodes a m t (sumLeaf t))) 0

/-- VREDSUM (R122), issued. -/
def execVredsum (d a : Reg) (m t : BitVec 3) (s : State) : Out :=
  issueVector (.vredsum d a m t) 0 0 (vredsumRun d a m t) s

/-- VREDMAX (R122): the greatest. -/
def vredmaxRun (d a : Reg) (m t : BitVec 3) : Word → Word → Acc Unit :=
  pureForm fun s => s.reduceMinMax d a m t true id (if isF t then infElem t true else pattern (typeWidth t) (typeLo t))

/-- VREDMAX (R122), issued. -/
def execVredmax (d a : Reg) (m t : BitVec 3) (s : State) : Out :=
  issueVector (.vredmax d a m t) 0 0 (vredmaxRun d a m t) s

/-- VREDMIN (R122): the least. -/
def vredminRun (d a : Reg) (m t : BitVec 3) : Word → Word → Acc Unit :=
  pureForm fun s => s.reduceMinMax d a m t false id (if isF t then infElem t false else pattern (typeWidth t) (typeHi t))

/-- VREDMIN (R122), issued. -/
def execVredmin (d a : Reg) (m t : BitVec 3) (s : State) : Out :=
  issueVector (.vredmin d a m t) 0 0 (vredminRun d a m t) s

/-- VREDAMAX (R122): the greatest magnitude. -/
def vredamaxRun (d a : Reg) (m t : BitVec 3) : Word → Word → Acc Unit :=
  pureForm fun s => s.reduceMinMax d a m t true (· % 2 ^ (typeWidth t - 1)) 0

/-- VREDAMAX (R122), issued. -/
def execVredamax (d a : Reg) (m t : BitVec 3) (s : State) : Out :=
  issueVector (.vredamax d a m t) 0 0 (vredamaxRun d a m t) s

/-- VREDAMIN (R122): the least magnitude. -/
def vredaminRun (d a : Reg) (m t : BitVec 3) : Word → Word → Acc Unit :=
  pureForm fun s => s.reduceMinMax d a m t false (· % 2 ^ (typeWidth t - 1)) (infElem t false)

/-- VREDAMIN (R122), issued. -/
def execVredamin (d a : Reg) (m t : BitVec 3) (s : State) : Out :=
  issueVector (.vredamin d a m t) 0 0 (vredaminRun d a m t) s

/-- VSCAN (R122): each element the tree over the active elements up to it. A lone active NaN keeps its code, as the tree of
one entry gives it: DESIGN CHOICE, the spec does not say whether its payload goes (log 36). -/
def vscanRun (d a : Reg) (m t : BitVec 3) : Word → Word → Acc Unit :=
  pureForm fun s =>
    let w := typeWidth t
    let l := s.activeCodes a m t id
    let f (x y : Nat) : Nat × Flags := if isF t then fpAddCode t.toNat s.vmode s.vsat x y else ((x + y) % 2 ^ w, {})
    s.putLanes d m w fun i =>
      let r := combineTree f ((List.range l.length).map fun j => if j ≤ i then (l.getD j none) else none)
      (r.1.getD 0, r.2)

/-- VSCAN (R122), issued. -/
def execVscan (d a : Reg) (m t : BitVec 3) (s : State) : Out :=
  issueVector (.vscan d a m t) 0 0 (vscanRun d a m t) s

/-! ### The log path (R123, R124) -/

/-- VTOLOG (R123): the log form as S32. -/
def vtologRun (d a : Reg) (m : BitVec 3) : Word → Word → Acc Unit :=
  pureForm fun s => s.mapLanes d a a m 0 fun x _ _ =>
    let (k, f) := toLog x
    (pattern 32 k, f)

/-- VTOLOG (R123), issued. -/
def execVtolog (d a : Reg) (m : BitVec 3) (s : State) : Out :=
  issueVector (.vtolog d a m) 0 0 (vtologRun d a m) s

/-- VFROMLOG (R123): the value of a log form. -/
def vfromlogRun (d a : Reg) (m : BitVec 3) : Word → Word → Acc Unit :=
  pureForm fun s => s.mapLanes d a a m 0 fun x _ _ => fromLog s.vmode s.vsat (signed 32 x)

/-- VFROMLOG (R123), issued. -/
def execVfromlog (d a : Reg) (m : BitVec 3) (s : State) : Out :=
  issueVector (.vfromlog d a m) 0 0 (vfromlogRun d a m) s

/-- VEXP (R124). -/
def vexpRun (d a : Reg) (m t : BitVec 3) : Word → Word → Acc Unit :=
  pureForm fun s => s.mapLanes d a a m t fun x _ _ => s.ctl.out t.toNat (s.ctl.apply .exp (elemFp t x))

/-- VEXP (R124), issued. -/
def execVexp (d a : Reg) (m t : BitVec 3) (s : State) : Out :=
  issueVector (.vexp d a m t) 0 0 (vexpRun d a m t) s

/-- VLOG (R124). -/
def vlogRun (d a : Reg) (m t : BitVec 3) : Word → Word → Acc Unit :=
  pureForm fun s => s.mapLanes d a a m t fun x _ _ => s.ctl.out t.toNat (s.ctl.apply .log (elemFp t x))

/-- VLOG (R124), issued. -/
def execVlog (d a : Reg) (m t : BitVec 3) (s : State) : Out :=
  issueVector (.vlog d a m t) 0 0 (vlogRun d a m t) s

/-- VTANH (R124). -/
def vtanhRun (d a : Reg) (m t : BitVec 3) : Word → Word → Acc Unit :=
  pureForm fun s => s.mapLanes d a a m t fun x _ _ => s.ctl.out t.toNat (s.ctl.apply .tanh (elemFp t x))

/-- VTANH (R124), issued. -/
def execVtanh (d a : Reg) (m t : BitVec 3) (s : State) : Out :=
  issueVector (.vtanh d a m t) 0 0 (vtanhRun d a m t) s

/-- VSIGM (R124). -/
def vsigmRun (d a : Reg) (m t : BitVec 3) : Word → Word → Acc Unit :=
  pureForm fun s => s.mapLanes d a a m t fun x _ _ => s.ctl.out t.toNat (s.ctl.apply .sigm (elemFp t x))

/-- VSIGM (R124), issued. -/
def execVsigm (d a : Reg) (m t : BitVec 3) (s : State) : Out :=
  issueVector (.vsigm d a m t) 0 0 (vsigmRun d a m t) s

/-- VSILU (R124). -/
def vsiluRun (d a : Reg) (m t : BitVec 3) : Word → Word → Acc Unit :=
  pureForm fun s => s.mapLanes d a a m t fun x _ _ => s.ctl.out t.toNat (s.ctl.apply .silu (elemFp t x))

/-- VSILU (R124), issued. -/
def execVsilu (d a : Reg) (m t : BitVec 3) (s : State) : Out :=
  issueVector (.vsilu d a m t) 0 0 (vsiluRun d a m t) s

/-- VGELU (R124). -/
def vgeluRun (d a : Reg) (m t : BitVec 3) : Word → Word → Acc Unit :=
  pureForm fun s => s.mapLanes d a a m t fun x _ _ => s.ctl.out t.toNat (s.ctl.apply .gelu (elemFp t x))

/-- VGELU (R124), issued. -/
def execVgelu (d a : Reg) (m t : BitVec 3) (s : State) : Out :=
  issueVector (.vgelu d a m t) 0 0 (vgeluRun d a m t) s

/-! ### VRAND (R125) -/

/-- One Philox round on a counter of four words under two key words. -/
def philoxRound (c : List Nat) (k0 k1 : Nat) : List Nat :=
  let p0 := 0xD2511F53 * c.getD 0 0
  let p1 := 0xCD9E8D57 * c.getD 2 0
  [p1 / 2 ^ 32 ^^^ c.getD 1 0 ^^^ k0, p1 % 2 ^ 32, p0 / 2 ^ 32 ^^^ c.getD 3 0 ^^^ k1, p0 % 2 ^ 32]

/-- n rounds, the key advancing after each. -/
def philoxRounds : Nat → List Nat → Nat → Nat → List Nat
  | 0, c, _, _ => c
  | n + 1, c, k0, k1 =>
    philoxRounds n (philoxRound c k0 k1) ((k0 + 0x9E3779B9) % 2 ^ 32) ((k1 + 0xBB67AE85) % 2 ^ 32)

/-- The four words of the block at draw q. -/
def philoxBlock (key stream q : Nat) : List Nat :=
  philoxRounds 10 [bits q 0 32, bits q 32 32, bits q 64 32, stream] (bits key 0 32) (bits key 32 32)

/-- The draw at which a thread's stream stands: position × 2^32 + draw. -/
def rngAt (t : Thread) : Nat := t.rngpos.toNat * 2 ^ 32 + t.rngdraw.toNat

/-- The 32 words that eight blocks give. -/
def drawWords (t : Thread) : List Nat :=
  (List.range 8).flatMap fun b => philoxBlock t.rngkey.toNat t.rngstream.toNat (rngAt t + b)

/-- The stream advanced by eight blocks; past the last position it wraps and RNGWRAP is set. -/
def advanceRng (t : Thread) : Thread :=
  let q := rngAt t + 8
  { t with
    rngdraw := BitVec.ofNat 32 q, rngpos := BitVec.ofNat 64 (q / 2 ^ 32),
    vstat := if 2 ^ 96 ≤ q then t.vstat ||| rngWrapBit else t.vstat }

/-- VRAND (R125): words of the Philox4x32-10 stream. -/
def vrandRun (d : Reg) (m t : BitVec 3) : Word → Word → Acc Unit :=
  pureForm fun s =>
    let ws := drawWords s.me
    let s := s.setMe (advanceRng s.me)
    s.putLanes d m 32 fun i =>
      let x := ws.getD i 0
      (if t = 0#3 then (fpRound 0 0 false (.fin false (x / 2 ^ 8) (-24))).1 else x, {})

/-- VRAND (R125), issued. -/
def execVrand (d : Reg) (m t : BitVec 3) (s : State) : Out :=
  issueVector (.vrand d m t) 0 0 (vrandRun d m t) s

end Sys2Proof.Machine
end

