-- ==== Sys2Proof/Machine/Vector.lean ====
section
/-! DEFINITION. VARITH, VLOGIC, the predicate forms, VPERM and VIMM (R113 to R118, R126). -/

namespace Sys2Proof.Machine

/-! ### VARITH (R113, R124) -/

/-- VADD (R113): x + y. -/
def vaddRun (d a b : Reg) (m t : BitVec 3) : Word → Word → Acc Unit :=
  pureForm fun s => s.mapLanes d a b m t (arith s.ctl t (fun x y _ => fpAdd s.vmode x y) (fun x y _ => x + y))

/-- VADD (R113), issued. -/
def execVadd (d a b : Reg) (m t : BitVec 3) (s : State) : Out :=
  issueVector (.vadd d a b m t) 0 0 (vaddRun d a b m t) s

/-- VSUB (R113): x − y. -/
def vsubRun (d a b : Reg) (m t : BitVec 3) : Word → Word → Acc Unit :=
  pureForm fun s => s.mapLanes d a b m t (arith s.ctl t (fun x y _ => fpAdd s.vmode x y.neg) (fun x y _ => x - y))

/-- VSUB (R113), issued. -/
def execVsub (d a b : Reg) (m t : BitVec 3) (s : State) : Out :=
  issueVector (.vsub d a b m t) 0 0 (vsubRun d a b m t) s

/-- VMUL (R113): x × y. -/
def vmulRun (d a b : Reg) (m t : BitVec 3) : Word → Word → Acc Unit :=
  pureForm fun s => s.mapLanes d a b m t (arith s.ctl t (fun x y _ => fpMul x y) (fun x y _ => x * y))

/-- VMUL (R113), issued. -/
def execVmul (d a b : Reg) (m t : BitVec 3) (s : State) : Out :=
  issueVector (.vmul d a b m t) 0 0 (vmulRun d a b m t) s

/-- VFMA (R113): x × y + z, one rounding. -/
def vfmaRun (d a b : Reg) (m t : BitVec 3) : Word → Word → Acc Unit :=
  pureForm fun s => s.mapLanes d a b m t (arith s.ctl t (fun x y z => fpFma s.vmode x y z) (fun x y z => x * y + z))

/-- VFMA (R113), issued. -/
def execVfma (d a b : Reg) (m t : BitVec 3) (s : State) : Out :=
  issueVector (.vfma d a b m t) 0 0 (vfmaRun d a b m t) s

/-- VFMS (R113): z − x × y, one rounding. -/
def vfmsRun (d a b : Reg) (m t : BitVec 3) : Word → Word → Acc Unit :=
  pureForm fun s => s.mapLanes d a b m t (arith s.ctl t (fun x y z => fpFma s.vmode x.neg y z) (fun x y z => z - x * y))

/-- VFMS (R113), issued. -/
def execVfms (d a b : Reg) (m t : BitVec 3) (s : State) : Out :=
  issueVector (.vfms d a b m t) 0 0 (vfmsRun d a b m t) s

/-- VMIN (R113): the lesser. -/
def vminRun (d a b : Reg) (m t : BitVec 3) : Word → Word → Acc Unit :=
  pureForm fun s => s.mapLanes d a b m t fun x y _ => (elemMinMax t false x y, {})

/-- VMIN (R113), issued. -/
def execVmin (d a b : Reg) (m t : BitVec 3) (s : State) : Out :=
  issueVector (.vmin d a b m t) 0 0 (vminRun d a b m t) s

/-- VMAX (R113): the greater. -/
def vmaxRun (d a b : Reg) (m t : BitVec 3) : Word → Word → Acc Unit :=
  pureForm fun s => s.mapLanes d a b m t fun x y _ => (elemMinMax t true x y, {})

/-- VMAX (R113), issued. -/
def execVmax (d a b : Reg) (m t : BitVec 3) (s : State) : Out :=
  issueVector (.vmax d a b m t) 0 0 (vmaxRun d a b m t) s

/-- VABS (R113): sign bit cleared, or |x| modulo 2^w. -/
def vabsRun (d a : Reg) (m t : BitVec 3) : Word → Word → Acc Unit :=
  pureForm fun s => s.mapLanes d a a m t fun x _ _ =>
    if isF t then (x % 2 ^ (typeWidth t - 1), {}) else wrapInt t (elemInt t x).natAbs

/-- VABS (R113), issued. -/
def execVabs (d a : Reg) (m t : BitVec 3) (s : State) : Out :=
  issueVector (.vabs d a m t) 0 0 (vabsRun d a m t) s

/-- VNEG (R113): sign bit inverted, or −x modulo 2^w. -/
def vnegRun (d a : Reg) (m t : BitVec 3) : Word → Word → Acc Unit :=
  pureForm fun s => s.mapLanes d a a m t fun x _ _ =>
    if isF t then (x ^^^ 2 ^ (typeWidth t - 1), {}) else wrapInt t (-(elemInt t x))

/-- VNEG (R113), issued. -/
def execVneg (d a : Reg) (m t : BitVec 3) (s : State) : Out :=
  issueVector (.vneg d a m t) 0 0 (vnegRun d a m t) s

/-- VDIV (R113, R124): on the log path. -/
def vdivRun (d a b : Reg) (m t : BitVec 3) : Word → Word → Acc Unit :=
  pureForm fun s => s.mapLanes d a b m t fun x y _ => s.ctl.out t.toNat (s.ctl.div (elemFp t x) (elemFp t y))

/-- VDIV (R113, R124), issued. -/
def execVdiv (d a b : Reg) (m t : BitVec 3) (s : State) : Out :=
  issueVector (.vdiv d a b m t) 0 0 (vdivRun d a b m t) s

/-- VSQRT (R113, R124): on the log path. -/
def vsqrtRun (d a : Reg) (m t : BitVec 3) : Word → Word → Acc Unit :=
  pureForm fun s => s.mapLanes d a a m t fun x _ _ => s.ctl.out t.toNat (s.ctl.apply .sqrt (elemFp t x))

/-- VSQRT (R113, R124), issued. -/
def execVsqrt (d a : Reg) (m t : BitVec 3) (s : State) : Out :=
  issueVector (.vsqrt d a m t) 0 0 (vsqrtRun d a m t) s

/-- VRCP (R113, R124): on the log path. -/
def vrcpRun (d a : Reg) (m t : BitVec 3) : Word → Word → Acc Unit :=
  pureForm fun s => s.mapLanes d a a m t fun x _ _ => s.ctl.out t.toNat (s.ctl.apply .rcp (elemFp t x))

/-- VRCP (R113, R124), issued. -/
def execVrcp (d a : Reg) (m t : BitVec 3) (s : State) : Out :=
  issueVector (.vrcp d a m t) 0 0 (vrcpRun d a m t) s

/-- VRSQRT (R113, R124): on the log path. -/
def vrsqrtRun (d a : Reg) (m t : BitVec 3) : Word → Word → Acc Unit :=
  pureForm fun s => s.mapLanes d a a m t fun x _ _ => s.ctl.out t.toNat (s.ctl.apply .rsqrt (elemFp t x))

/-- VRSQRT (R113, R124), issued. -/
def execVrsqrt (d a : Reg) (m t : BitVec 3) (s : State) : Out :=
  issueVector (.vrsqrt d a m t) 0 0 (vrsqrtRun d a m t) s

/-- VADDS (R113): saturated sum. -/
def vaddsRun (d a b : Reg) (m t : BitVec 3) : Word → Word → Acc Unit :=
  pureForm fun s => s.mapLanes d a b m t fun x y _ => satInt t (elemInt t x + elemInt t y)

/-- VADDS (R113), issued. -/
def execVadds (d a b : Reg) (m t : BitVec 3) (s : State) : Out :=
  issueVector (.vadds d a b m t) 0 0 (vaddsRun d a b m t) s

/-- VSUBS (R113): saturated difference. -/
def vsubsRun (d a b : Reg) (m t : BitVec 3) : Word → Word → Acc Unit :=
  pureForm fun s => s.mapLanes d a b m t fun x y _ => satInt t (elemInt t x - elemInt t y)

/-- VSUBS (R113), issued. -/
def execVsubs (d a b : Reg) (m t : BitVec 3) (s : State) : Out :=
  issueVector (.vsubs d a b m t) 0 0 (vsubsRun d a b m t) s

/-- VMULH (R113): high w bits of the product. -/
def vmulhRun (d a b : Reg) (m t : BitVec 3) : Word → Word → Acc Unit :=
  pureForm fun s => s.mapLanes d a b m t fun x y _ => wrapInt t (elemInt t x * elemInt t y / 2 ^ typeWidth t)

/-- VMULH (R113), issued. -/
def execVmulh (d a b : Reg) (m t : BitVec 3) (s : State) : Out :=
  issueVector (.vmulh d a b m t) 0 0 (vmulhRun d a b m t) s

/-! ### VLOGIC (R114 to R117) -/

/-- VAND (R114): x AND y. -/
def vandRun (d a b : Reg) (m t : BitVec 3) : Word → Word → Acc Unit :=
  pureForm fun s => s.mapLanes d a b m t fun x y _ => (x &&& y, {})

/-- VAND (R114), issued. -/
def execVand (d a b : Reg) (m t : BitVec 3) (s : State) : Out :=
  issueVector (.vand d a b m t) 0 0 (vandRun d a b m t) s

/-- VOR (R114): x OR y. -/
def vorRun (d a b : Reg) (m t : BitVec 3) : Word → Word → Acc Unit :=
  pureForm fun s => s.mapLanes d a b m t fun x y _ => (x ||| y, {})

/-- VOR (R114), issued. -/
def execVor (d a b : Reg) (m t : BitVec 3) (s : State) : Out :=
  issueVector (.vor d a b m t) 0 0 (vorRun d a b m t) s

/-- VXOR (R114): x XOR y. -/
def vxorRun (d a b : Reg) (m t : BitVec 3) : Word → Word → Acc Unit :=
  pureForm fun s => s.mapLanes d a b m t fun x y _ => (x ^^^ y, {})

/-- VXOR (R114), issued. -/
def execVxor (d a b : Reg) (m t : BitVec 3) (s : State) : Out :=
  issueVector (.vxor d a b m t) 0 0 (vxorRun d a b m t) s

/-- VANDN (R114): x AND NOT y. -/
def vandnRun (d a b : Reg) (m t : BitVec 3) : Word → Word → Acc Unit :=
  pureForm fun s => s.mapLanes d a b m t fun x y _ => (x ^^^ (x &&& y), {})

/-- VANDN (R114), issued. -/
def execVandn (d a b : Reg) (m t : BitVec 3) (s : State) : Out :=
  issueVector (.vandn d a b m t) 0 0 (vandnRun d a b m t) s

/-- VNOT (R114): NOT x. -/
def vnotRun (d a : Reg) (m t : BitVec 3) : Word → Word → Acc Unit :=
  pureForm fun s => s.mapLanes d a a m t fun x _ _ => (2 ^ typeWidth t - 1 - x, {})

/-- VNOT (R114), issued. -/
def execVnot (d a : Reg) (m t : BitVec 3) (s : State) : Out :=
  issueVector (.vnot d a m t) 0 0 (vnotRun d a m t) s

/-- VSHL (R114): left by the low log2(w) bits of y. -/
def vshlRun (d a b : Reg) (m t : BitVec 3) : Word → Word → Acc Unit :=
  pureForm fun s => s.mapLanes d a b m t fun x y _ => (x * 2 ^ (y % typeWidth t) % 2 ^ typeWidth t, {})

/-- VSHL (R114), issued. -/
def execVshl (d a b : Reg) (m t : BitVec 3) (s : State) : Out :=
  issueVector (.vshl d a b m t) 0 0 (vshlRun d a b m t) s

/-- VSHR (R114): right, zeros in. -/
def vshrRun (d a b : Reg) (m t : BitVec 3) : Word → Word → Acc Unit :=
  pureForm fun s => s.mapLanes d a b m t fun x y _ => (x / 2 ^ (y % typeWidth t), {})

/-- VSHR (R114), issued. -/
def execVshr (d a b : Reg) (m t : BitVec 3) (s : State) : Out :=
  issueVector (.vshr d a b m t) 0 0 (vshrRun d a b m t) s

/-- VSRA (R114): right, copies of the top bit in. -/
def vsraRun (d a b : Reg) (m t : BitVec 3) : Word → Word → Acc Unit :=
  pureForm fun s => s.mapLanes d a b m t fun x y _ => wrapInt t (signed (typeWidth t) x / 2 ^ (y % typeWidth t))

/-- VSRA (R114), issued. -/
def execVsra (d a b : Reg) (m t : BitVec 3) (s : State) : Out :=
  issueVector (.vsra d a b m t) 0 0 (vsraRun d a b m t) s

/-- The predicate that a 5-bit field names. -/
def predReg (r : Reg) : BitVec 3 := r.setWidth 3

/-- A predicate that holds, in every bit of the bytes of element i, f(i); a byte of 4-bit elements takes its even
element (R115, R117). -/
def predOf (w : Nat) (f : Nat → Bool) : Pred :=
  BitVec.ofNat 128 (((List.range 128).map fun k => if f (8 * k / w) then 2 ^ k else 0).sum)

/-- A comparison of elements into a predicate, with its flags from active elements (R115). -/
def State.compareLanes (s : State) (d a b : Reg) (m t : BitVec 3) (f : Nat → Nat → Bool × Flags) : State :=
  let w := typeWidth t
  let x := s.v a
  let y := s.v b
  let p := s.p m
  let r := (List.range (1024 / w)).map fun i =>
    if activeLane p w i then f (lane x w i) (lane y w i) else (false, {})
  (s.raiseV (r.foldl (fun a x => a.or x.2) {})).setP (predReg d) (predOf w fun i => (r.getD i (false, {})).1)

/-- A relation on elements: F under IEEE order, a NaN giving nan and, where ordered, invalid; I on values (R115). -/
def elemRel (t : BitVec 3) (ordered nan : Bool) (f : Fp → Fp → Bool) (g : Int → Int → Bool) (x y : Nat) : Bool × Flags :=
  if isF t then
    let a := elemFp t x
    let b := elemFp t y
    if a.isNan || b.isNan then (nan, if ordered then Flags.inv else {}) else (f a b, {})
  else (g (elemInt t x) (elemInt t y), {})

/-- VCMPEQ (R115): x = y. -/
def vcmpeqRun (d a b : Reg) (m t : BitVec 3) : Word → Word → Acc Unit :=
  pureForm fun s => s.compareLanes d a b m t (elemRel t false false fpEq (fun x y => x == y))

/-- VCMPEQ (R115), issued. -/
def execVcmpeq (d a b : Reg) (m t : BitVec 3) (s : State) : Out :=
  issueVector (.vcmpeq d a b m t) 0 0 (vcmpeqRun d a b m t) s

/-- VCMPNE (R115): x ≠ y. -/
def vcmpneRun (d a b : Reg) (m t : BitVec 3) : Word → Word → Acc Unit :=
  pureForm fun s => s.compareLanes d a b m t (elemRel t false true (fun x y => !fpEq x y) (fun x y => x != y))

/-- VCMPNE (R115), issued. -/
def execVcmpne (d a b : Reg) (m t : BitVec 3) (s : State) : Out :=
  issueVector (.vcmpne d a b m t) 0 0 (vcmpneRun d a b m t) s

/-- VCMPLT (R115): x < y. -/
def vcmpltRun (d a b : Reg) (m t : BitVec 3) : Word → Word → Acc Unit :=
  pureForm fun s => s.compareLanes d a b m t (elemRel t true false fpLt (fun x y => decide (x < y)))

/-- VCMPLT (R115), issued. -/
def execVcmplt (d a b : Reg) (m t : BitVec 3) (s : State) : Out :=
  issueVector (.vcmplt d a b m t) 0 0 (vcmpltRun d a b m t) s

/-- VCMPLE (R115): x ≤ y. -/
def vcmpleRun (d a b : Reg) (m t : BitVec 3) : Word → Word → Acc Unit :=
  pureForm fun s => s.compareLanes d a b m t (elemRel t true false (fun x y => !fpLt y x) (fun x y => decide (x ≤ y)))

/-- VCMPLE (R115), issued. -/
def execVcmple (d a b : Reg) (m t : BitVec 3) (s : State) : Out :=
  issueVector (.vcmple d a b m t) 0 0 (vcmpleRun d a b m t) s

/-- VCMPLTN (R115): x < y as unsigned. -/
def vcmpltnRun (d a b : Reg) (m t : BitVec 3) : Word → Word → Acc Unit :=
  pureForm fun s => s.compareLanes d a b m t fun x y => (decide (x < y), {})

/-- VCMPLTN (R115), issued. -/
def execVcmpltn (d a b : Reg) (m t : BitVec 3) (s : State) : Out :=
  issueVector (.vcmpltn d a b m t) 0 0 (vcmpltnRun d a b m t) s

/-- VSEL (R116): x where the bit in pm is 1, y elsewhere. -/
def vselRun (d a b : Reg) (m t : BitVec 3) : Word → Word → Acc Unit :=
  pureForm fun s => 
    let w := typeWidth t
    let x := s.v a
    let y := s.v b
    let p := s.p m
    s.setV d (packLanes w ((List.range (1024 / w)).map fun i => if activeLane p w i then lane x w i else lane y w i))

/-- VSEL (R116), issued. -/
def execVsel (d a b : Reg) (m t : BitVec 3) (s : State) : Out :=
  issueVector (.vsel d a b m t) 0 0 (vselRun d a b m t) s

/-- PAND (R117): AND on all 128 bits. -/
def pandRun (d a b : Reg) : Word → Word → Acc Unit :=
  pureForm fun s => s.setP (predReg d) (s.p (predReg a) &&& s.p (predReg b))

/-- PAND (R117), issued. -/
def execPand (d a b : Reg) (s : State) : Out :=
  issueVector (.pand d a b) 0 0 (pandRun d a b) s

/-- POR (R117): OR on all 128 bits. -/
def porRun (d a b : Reg) : Word → Word → Acc Unit :=
  pureForm fun s => s.setP (predReg d) (s.p (predReg a) ||| s.p (predReg b))

/-- POR (R117), issued. -/
def execPor (d a b : Reg) (s : State) : Out :=
  issueVector (.por d a b) 0 0 (porRun d a b) s

/-- PXOR (R117): XOR on all 128 bits. -/
def pxorRun (d a b : Reg) : Word → Word → Acc Unit :=
  pureForm fun s => s.setP (predReg d) (s.p (predReg a) ^^^ s.p (predReg b))

/-- PXOR (R117), issued. -/
def execPxor (d a b : Reg) (s : State) : Out :=
  issueVector (.pxor d a b) 0 0 (pxorRun d a b) s

/-- PNOT (R117): NOT. -/
def pnotRun (d a : Reg) : Word → Word → Acc Unit :=
  pureForm fun s => s.setP (predReg d) (~~~s.p (predReg a))

/-- PNOT (R117), issued. -/
def execPnot (d a : Reg) (s : State) : Out :=
  issueVector (.pnot d a) 0 0 (pnotRun d a) s

/-- PCNT (R117): number of active elements. -/
def pcntRun (d a : Reg) (t : BitVec 3) : Word → Word → Acc Unit :=
  pureForm fun s => 
    let w := typeWidth t
    s.setG d (BitVec.ofNat 64 ((List.range (1024 / w)).countP fun i => activeLane (s.p (predReg a)) w i))

/-- PCNT (R117), issued. -/
def execPcnt (d a : Reg) (t : BitVec 3) (s : State) : Out :=
  issueVector (.pcnt d a t) 0 0 (pcntRun d a t) s

/-- PFIRST (R117): index of the lowest active element, or all ones. -/
def pfirstRun (d a : Reg) (t : BitVec 3) : Word → Word → Acc Unit :=
  pureForm fun s => 
    let w := typeWidth t
    match (List.range (1024 / w)).find? fun i => activeLane (s.p (predReg a)) w i with
    | some i => s.setG d (BitVec.ofNat 64 i)
    | none => s.setG d allOnes64

/-- PFIRST (R117), issued. -/
def execPfirst (d a : Reg) (t : BitVec 3) (s : State) : Out :=
  issueVector (.pfirst d a t) 0 0 (pfirstRun d a t) s

/-- PSET (R117): the first g(a) elements active. -/
def psetRun (d : Reg) (t : BitVec 3) : Word → Word → Acc Unit :=
  fun x _ => modify fun s => s.setP (predReg d) (predOf (typeWidth t) fun i => decide (i < x.toNat))

/-- PSET (R117), issued. -/
def execPset (d a : Reg) (t : BitVec 3) (s : State) : Out :=
  issueVector (.pset d a t) a 0 (psetRun d t) s

/-! ### VPERM (R118) -/

/-- VPERMB (R118): bytes of va by index, 0x00 where bit 7 of the index is set. -/
def vpermbRun (d a b : Reg) (m : BitVec 3) : Word → Word → Acc Unit :=
  pureForm fun s => 
    let x := s.v a
    let y := s.v b
    s.putLanes d m 8 fun i =>
      let k := lane y 8 i
      (if k < 128 then lane x 8 k else 0, {})

/-- VPERMB (R118), issued. -/
def execVpermb (d a b : Reg) (m : BitVec 3) (s : State) : Out :=
  issueVector (.vpermb d a b m) 0 0 (vpermbRun d a b m) s

/-- VPERM (R118): va[y], or 0 past the last element. -/
def vpermRun (d a b : Reg) (m t : BitVec 3) : Word → Word → Acc Unit :=
  pureForm fun s => 
    let w := typeWidth t
    let x := s.v a
    let y := s.v b
    s.putLanes d m w fun i =>
      let k := lane y w i
      (if k < 1024 / w then lane x w k else 0, {})

/-- VPERM (R118), issued. -/
def execVperm (d a b : Reg) (m t : BitVec 3) (s : State) : Out :=
  issueVector (.vperm d a b m t) 0 0 (vpermRun d a b m t) s

/-- VSLIDEUP (R118): va[i − s], or 0 below. -/
def vslideupRun (d a : Reg) (m t : BitVec 3) : Word → Word → Acc Unit :=
  fun _ n => modify fun s =>
    let w := typeWidth t
    let x := s.v a
    s.putLanes d m w fun i => (if n.toNat ≤ i then lane x w (i - n.toNat) else 0, {})

/-- VSLIDEUP (R118), issued. -/
def execVslideup (d a b : Reg) (m t : BitVec 3) (s : State) : Out :=
  issueVector (.vslideup d a b m t) 0 b (vslideupRun d a m t) s

/-- VSLIDEDN (R118): va[i + s], or 0 above. -/
def vslidednRun (d a : Reg) (m t : BitVec 3) : Word → Word → Acc Unit :=
  fun _ n => modify fun s =>
    let w := typeWidth t
    let x := s.v a
    s.putLanes d m w fun i => (if i + n.toNat < 1024 / w then lane x w (i + n.toNat) else 0, {})

/-- VSLIDEDN (R118), issued. -/
def execVslidedn (d a b : Reg) (m t : BitVec 3) (s : State) : Out :=
  issueVector (.vslidedn d a b m t) 0 b (vslidednRun d a m t) s

/-- VBCAST (R118): bits w − 1:0 of g(a) in every element. -/
def vbcastRun (d : Reg) (m t : BitVec 3) : Word → Word → Acc Unit :=
  fun x _ => modify fun s =>
    s.putLanes d m (typeWidth t) fun _ => (x.toNat % 2 ^ typeWidth t, {})

/-- VBCAST (R118), issued. -/
def execVbcast (d a : Reg) (m t : BitVec 3) (s : State) : Out :=
  issueVector (.vbcast d a m t) a 0 (vbcastRun d m t) s

/-- VEXTR (R118): element g(b) mod n to g(d). -/
def vextrRun (d a : Reg) (t : BitVec 3) : Word → Word → Acc Unit :=
  fun _ n => modify fun s =>
    let w := typeWidth t
    let x := lane (s.v a) w (n.toNat % (1024 / w))
    s.setG d (if 3 ≤ t.toNat && t.toNat ≤ 6 then word (signed w x) else BitVec.ofNat 64 x)

/-- VEXTR (R118), issued. -/
def execVextr (d a b : Reg) (t : BitVec 3) (s : State) : Out :=
  issueVector (.vextr d a b t) 0 b (vextrRun d a t) s

/-- VINS (R118): g(a) into element g(b) mod n. -/
def vinsRun (d : Reg) (t : BitVec 3) : Word → Word → Acc Unit :=
  fun x n => modify fun s =>
    let w := typeWidth t
    s.setV d (setLane (s.v d) w (n.toNat % (1024 / w)) (x.toNat % 2 ^ w))

/-- VINS (R118), issued. -/
def execVins (d a b : Reg) (t : BitVec 3) (s : State) : Out :=
  issueVector (.vins d a b t) a b (vinsRun d t) s

/-- VIOTA (R118): i modulo 2^w. -/
def viotaRun (d : Reg) (m t : BitVec 3) : Word → Word → Acc Unit :=
  pureForm fun s => s.putLanes d m (typeWidth t) fun i => wrapInt t i

/-- VIOTA (R118), issued. -/
def execViota (d : Reg) (m t : BitVec 3) (s : State) : Out :=
  issueVector (.viota d m t) 0 0 (viotaRun d m t) s

/-- VZIPL (R118): the low halves interleaved. -/
def vziplRun (d a b : Reg) (m t : BitVec 3) : Word → Word → Acc Unit :=
  pureForm fun s => 
    let w := typeWidth t
    let x := s.v a
    let y := s.v b
    s.putLanes d m w fun i => (lane (if i % 2 = 0 then x else y) w (i / 2), {})

/-- VZIPL (R118), issued. -/
def execVzipl (d a b : Reg) (m t : BitVec 3) (s : State) : Out :=
  issueVector (.vzipl d a b m t) 0 0 (vziplRun d a b m t) s

/-- VZIPH (R118): the high halves interleaved. -/
def vziphRun (d a b : Reg) (m t : BitVec 3) : Word → Word → Acc Unit :=
  pureForm fun s => 
    let w := typeWidth t
    let x := s.v a
    let y := s.v b
    s.putLanes d m w fun i => (lane (if i % 2 = 0 then x else y) w (512 / w + i / 2), {})

/-- VZIPH (R118), issued. -/
def execVziph (d a b : Reg) (m t : BitVec 3) (s : State) : Out :=
  issueVector (.vziph d a b m t) 0 0 (vziphRun d a b m t) s

/-- VMOV (R118): va[i]. -/
def vmovRun (d a : Reg) (m t : BitVec 3) : Word → Word → Acc Unit :=
  pureForm fun s => s.mapLanes d a a m t fun x _ _ => (x, {})

/-- VMOV (R118), issued. -/
def execVmov (d a : Reg) (m t : BitVec 3) (s : State) : Out :=
  issueVector (.vmov d a m t) 0 0 (vmovRun d a m t) s

/-! ### VIMM (R61, R126) -/

/-- Format code and lane width of an immediate type (R61). -/
def immFormat (t : BitVec 2) : Nat :=
  match t.toNat with
  | 0 => 1
  | 1 => 2
  | 2 => 11
  | _ => 4

/-- Lane i of a VI immediate (R61). -/
def immLane (t : BitVec 2) (i : BitVec 16) (k : Nat) : Nat :=
  if t = 2#2 then bits i.toNat (8 * (k % 2)) 8 else i.toNat

/-- A VIMM form on every lane: f on codes. -/
def State.mapImm (s : State) (d : Reg) (t : BitVec 2) (i : BitVec 16) (f : Nat → Nat → Nat × Flags) : State :=
  let w := formatWidth (immFormat t)
  let z := s.v d
  s.putLanes d 0 w fun k => f (lane z w k) (immLane t i k)

/-- Arithmetic of a VIMM form: one rounding under VCTL in a floating type, wrapping S16 (R126). -/
def immArith (c : LogCtl) (t : BitVec 2) (f : Fp → Fp → Fp × Flags) (g : Int → Int → Int) (z y : Nat) : Nat × Flags :=
  let fmt := immFormat t
  if t = 3#2 then (pattern 16 (g (signed 16 z) (signed 16 y)), {})
  else c.out fmt (f (fpDecode fmt z) (fpDecode fmt y))

/-- Lesser or greater of a lane and its immediate (R126). -/
def immMinMax (t : BitVec 2) (wantMax : Bool) (z y : Nat) : Nat × Flags :=
  if t = 3#2 then ((if decide (signed 16 z < signed 16 y) = wantMax then y else z), {})
  else (fpMinMax (immFormat t) wantMax z y, {})

/-- VMOVI (R126): y. -/
def vmoviRun (d : Reg) (t : BitVec 2) (i : BitVec 16) : Word → Word → Acc Unit :=
  pureForm fun s => s.mapImm d t i fun _ y => (y, {})

/-- VMOVI (R126), issued. -/
def execVmovi (d : Reg) (t : BitVec 2) (i : BitVec 16) (s : State) : Out :=
  issueVector (.vmovi d t i) 0 0 (vmoviRun d t i) s

/-- VADDI (R126): z + y. -/
def vaddiRun (d : Reg) (t : BitVec 2) (i : BitVec 16) : Word → Word → Acc Unit :=
  pureForm fun s => s.mapImm d t i (immArith s.ctl t (fpAdd s.vmode) (fun z y => z + y))

/-- VADDI (R126), issued. -/
def execVaddi (d : Reg) (t : BitVec 2) (i : BitVec 16) (s : State) : Out :=
  issueVector (.vaddi d t i) 0 0 (vaddiRun d t i) s

/-- VMULI (R126): z × y. -/
def vmuliRun (d : Reg) (t : BitVec 2) (i : BitVec 16) : Word → Word → Acc Unit :=
  pureForm fun s => s.mapImm d t i (immArith s.ctl t fpMul (fun z y => z * y))

/-- VMULI (R126), issued. -/
def execVmuli (d : Reg) (t : BitVec 2) (i : BitVec 16) (s : State) : Out :=
  issueVector (.vmuli d t i) 0 0 (vmuliRun d t i) s

/-- VMINI (R126): the lesser. -/
def vminiRun (d : Reg) (t : BitVec 2) (i : BitVec 16) : Word → Word → Acc Unit :=
  pureForm fun s => s.mapImm d t i (immMinMax t false)

/-- VMINI (R126), issued. -/
def execVmini (d : Reg) (t : BitVec 2) (i : BitVec 16) (s : State) : Out :=
  issueVector (.vmini d t i) 0 0 (vminiRun d t i) s

/-- VMAXI (R126): the greater. -/
def vmaxiRun (d : Reg) (t : BitVec 2) (i : BitVec 16) : Word → Word → Acc Unit :=
  pureForm fun s => s.mapImm d t i (immMinMax t true)

/-- VMAXI (R126), issued. -/
def execVmaxi (d : Reg) (t : BitVec 2) (i : BitVec 16) (s : State) : Out :=
  issueVector (.vmaxi d t i) 0 0 (vmaxiRun d t i) s

/-- VRSUBI (R126): y − z. -/
def vrsubiRun (d : Reg) (t : BitVec 2) (i : BitVec 16) : Word → Word → Acc Unit :=
  pureForm fun s => s.mapImm d t i (immArith s.ctl t (fun z y => fpAdd s.vmode y z.neg) (fun z y => y - z))

/-- VRSUBI (R126), issued. -/
def execVrsubi (d : Reg) (t : BitVec 2) (i : BitVec 16) (s : State) : Out :=
  issueVector (.vrsubi d t i) 0 0 (vrsubiRun d t i) s

/-- VANDI (R126): z AND y on the code bits. -/
def vandiRun (d : Reg) (t : BitVec 2) (i : BitVec 16) : Word → Word → Acc Unit :=
  pureForm fun s => s.mapImm d t i fun z y => (z &&& y, {})

/-- VANDI (R126), issued. -/
def execVandi (d : Reg) (t : BitVec 2) (i : BitVec 16) (s : State) : Out :=
  issueVector (.vandi d t i) 0 0 (vandiRun d t i) s

/-- VORI (R126): z OR y on the code bits. -/
def voriRun (d : Reg) (t : BitVec 2) (i : BitVec 16) : Word → Word → Acc Unit :=
  pureForm fun s => s.mapImm d t i fun z y => (z ||| y, {})

/-- VORI (R126), issued. -/
def execVori (d : Reg) (t : BitVec 2) (i : BitVec 16) (s : State) : Out :=
  issueVector (.vori d t i) 0 0 (voriRun d t i) s

end Sys2Proof.Machine
end

