-- ==== Sys2Proof/Machine/Sequencer.lean ====
section
/-! DEFINITION. The vector sequencer: queued words (R104), REPEAT and its passes (R106 to R112). -/

namespace Sys2Proof.Machine

/-! ### What a vector word does, by instruction -/

/-- The g operands of a vector word and its effect; captured: REPEAT prefix and index of a captured word. -/
def vectorWord (captured : Option (Word × Nat)) (i : Instr) : Option (Reg × Reg × (Word → Word → Acc Unit)) :=
  match i with
  | .vadd d a b m t => some (0, 0, vaddRun d a b m t)
  | .vsub d a b m t => some (0, 0, vsubRun d a b m t)
  | .vmul d a b m t => some (0, 0, vmulRun d a b m t)
  | .vfma d a b m t => some (0, 0, vfmaRun d a b m t)
  | .vfms d a b m t => some (0, 0, vfmsRun d a b m t)
  | .vmin d a b m t => some (0, 0, vminRun d a b m t)
  | .vmax d a b m t => some (0, 0, vmaxRun d a b m t)
  | .vabs d a m t => some (0, 0, vabsRun d a m t)
  | .vneg d a m t => some (0, 0, vnegRun d a m t)
  | .vdiv d a b m t => some (0, 0, vdivRun d a b m t)
  | .vsqrt d a m t => some (0, 0, vsqrtRun d a m t)
  | .vrcp d a m t => some (0, 0, vrcpRun d a m t)
  | .vrsqrt d a m t => some (0, 0, vrsqrtRun d a m t)
  | .vadds d a b m t => some (0, 0, vaddsRun d a b m t)
  | .vsubs d a b m t => some (0, 0, vsubsRun d a b m t)
  | .vmulh d a b m t => some (0, 0, vmulhRun d a b m t)
  | .vand d a b m t => some (0, 0, vandRun d a b m t)
  | .vor d a b m t => some (0, 0, vorRun d a b m t)
  | .vxor d a b m t => some (0, 0, vxorRun d a b m t)
  | .vandn d a b m t => some (0, 0, vandnRun d a b m t)
  | .vnot d a m t => some (0, 0, vnotRun d a m t)
  | .vshl d a b m t => some (0, 0, vshlRun d a b m t)
  | .vshr d a b m t => some (0, 0, vshrRun d a b m t)
  | .vsra d a b m t => some (0, 0, vsraRun d a b m t)
  | .vcmpeq d a b m t => some (0, 0, vcmpeqRun d a b m t)
  | .vcmpne d a b m t => some (0, 0, vcmpneRun d a b m t)
  | .vcmplt d a b m t => some (0, 0, vcmpltRun d a b m t)
  | .vcmple d a b m t => some (0, 0, vcmpleRun d a b m t)
  | .vcmpltn d a b m t => some (0, 0, vcmpltnRun d a b m t)
  | .vsel d a b m t => some (0, 0, vselRun d a b m t)
  | .pand d a b => some (0, 0, pandRun d a b)
  | .por d a b => some (0, 0, porRun d a b)
  | .pxor d a b => some (0, 0, pxorRun d a b)
  | .pnot d a => some (0, 0, pnotRun d a)
  | .pcnt d a t => some (0, 0, pcntRun d a t)
  | .pfirst d a t => some (0, 0, pfirstRun d a t)
  | .pset d a t => some (a, 0, psetRun d t)
  | .vpermb d a b m => some (0, 0, vpermbRun d a b m)
  | .vperm d a b m t => some (0, 0, vpermRun d a b m t)
  | .vslideup d a b m t => some (0, b, vslideupRun d a m t)
  | .vslidedn d a b m t => some (0, b, vslidednRun d a m t)
  | .vbcast d a m t => some (a, 0, vbcastRun d m t)
  | .vextr d a b t => some (0, b, vextrRun d a t)
  | .vins d a b t => some (a, b, vinsRun d t)
  | .viota d m t => some (0, 0, viotaRun d m t)
  | .vzipl d a b m t => some (0, 0, vziplRun d a b m t)
  | .vziph d a b m t => some (0, 0, vziphRun d a b m t)
  | .vmov d a m t => some (0, 0, vmovRun d a m t)
  | .vcvt d a f m t => some (0, 0, vcvtRun d a f m t)
  | .vcvts d a f m t => some (0, 0, vcvtsRun d a f m t)
  | .vquant d a b m t => some (0, 0, vquantRun d a b m t)
  | .vdequant d a b m t => some (0, 0, vdequantRun d a b m t)
  | .vcbdec d a b m t => some (0, 0, vcbdecRun d a b m t)
  | .vcbload a => some (0, 0, vcbloadRun a)
  | .vredsum d a m t => some (0, 0, vredsumRun d a m t)
  | .vredmax d a m t => some (0, 0, vredmaxRun d a m t)
  | .vredmin d a m t => some (0, 0, vredminRun d a m t)
  | .vredamax d a m t => some (0, 0, vredamaxRun d a m t)
  | .vredamin d a m t => some (0, 0, vredaminRun d a m t)
  | .vscan d a m t => some (0, 0, vscanRun d a m t)
  | .vtolog d a m => some (0, 0, vtologRun d a m)
  | .vfromlog d a m => some (0, 0, vfromlogRun d a m)
  | .vexp d a m t => some (0, 0, vexpRun d a m t)
  | .vlog d a m t => some (0, 0, vlogRun d a m t)
  | .vtanh d a m t => some (0, 0, vtanhRun d a m t)
  | .vsigm d a m t => some (0, 0, vsigmRun d a m t)
  | .vsilu d a m t => some (0, 0, vsiluRun d a m t)
  | .vgelu d a m t => some (0, 0, vgeluRun d a m t)
  | .vrand d m t => some (0, 0, vrandRun d m t)
  | .vmovi d t i => some (0, 0, vmoviRun d t i)
  | .vaddi d t i => some (0, 0, vaddiRun d t i)
  | .vmuli d t i => some (0, 0, vmuliRun d t i)
  | .vmini d t i => some (0, 0, vminiRun d t i)
  | .vmaxi d t i => some (0, 0, vmaxiRun d t i)
  | .vrsubi d t i => some (0, 0, vrsubiRun d t i)
  | .vandi d t i => some (0, 0, vandiRun d t i)
  | .vori d t i => some (0, 0, voriRun d t i)
  | .vld d a m t => some (a, 0, fun x _ => vldRun d m t x)
  | .vst d a m t => some (a, 0, fun x _ => vstRun d m t x)
  | .vlds d a b m t => some (a, b, vldsRun d m t)
  | .vsts d a b m t => some (a, b, vstsRun d m t)
  | .vldx d a b m t => some (a, 0, fun x _ => vldxRun d b m t x)
  | .vstx d a b m t => some (a, 0, fun x _ => vstxRun d b m t x)
  | .vldrow d a b m t => some (a, b, vldrowRun d m t)
  | .vldcol d a b m t => some (a, b, vldcolRun d m t)
  | .vstrow d a b m t => some (a, b, vstrowRun d m t)
  | .vstcol d a b m t => some (a, b, vstcolRun d m t)
  | .vscatadd d a b m t => some (a, 0, fun x _ => vscataddRun captured d b m t x)
  | .vldb d a m t => some (a, 0, fun x _ => vldbRun d m t x)
  | _ => none

/-- The check and the g operands of a matrix word that enters the queue. -/
def matrixWord (i : Instr) : Option (Reg × Reg × Reg × (MatEntry → Acc (List PathTerm))) :=
  match i with
  | .mma _ _ x t a b c f => some (a, b, c, mmaCheck x t f)
  | .mmd _ _ x t a b c f => some (a, b, c, mmdCheck x t f)
  | .mms _ _ t a b c f => some (a, b, c, mmsCheck t f)
  | .mzero _ => some (0, 0, 0, noCheck)
  | .mload _ a b => some (a, b, 0, moveCheck false 4)
  | .mstore _ a b f => some (a, b, 0, moveCheck true (storeSize f))
  | .mslice _ a => some (a, 0, 0, noCheck)
  | .mquant _ a _ => some (a, 0, 0, noCheck)
  | _ => none

/-! ### Advanced fields (R107) -/

/-- A predicate register advanced modulo 8. -/
def advancePred (r k : Reg) : Reg := (r + k) &&& 7#5

/-- A captured word with its register fields advanced by kd, ka and kb (R107). -/
def advanceWord (kd ka kb : Reg) (i : Instr) : Instr :=
  match i with
  | .vadd d a b m t => .vadd (d + kd) (a + ka) (b + kb) m t
  | .vsub d a b m t => .vsub (d + kd) (a + ka) (b + kb) m t
  | .vmul d a b m t => .vmul (d + kd) (a + ka) (b + kb) m t
  | .vfma d a b m t => .vfma (d + kd) (a + ka) (b + kb) m t
  | .vfms d a b m t => .vfms (d + kd) (a + ka) (b + kb) m t
  | .vmin d a b m t => .vmin (d + kd) (a + ka) (b + kb) m t
  | .vmax d a b m t => .vmax (d + kd) (a + ka) (b + kb) m t
  | .vabs d a m t => .vabs (d + kd) (a + ka) m t
  | .vneg d a m t => .vneg (d + kd) (a + ka) m t
  | .vdiv d a b m t => .vdiv (d + kd) (a + ka) (b + kb) m t
  | .vsqrt d a m t => .vsqrt (d + kd) (a + ka) m t
  | .vrcp d a m t => .vrcp (d + kd) (a + ka) m t
  | .vrsqrt d a m t => .vrsqrt (d + kd) (a + ka) m t
  | .vadds d a b m t => .vadds (d + kd) (a + ka) (b + kb) m t
  | .vsubs d a b m t => .vsubs (d + kd) (a + ka) (b + kb) m t
  | .vmulh d a b m t => .vmulh (d + kd) (a + ka) (b + kb) m t
  | .vand d a b m t => .vand (d + kd) (a + ka) (b + kb) m t
  | .vor d a b m t => .vor (d + kd) (a + ka) (b + kb) m t
  | .vxor d a b m t => .vxor (d + kd) (a + ka) (b + kb) m t
  | .vandn d a b m t => .vandn (d + kd) (a + ka) (b + kb) m t
  | .vnot d a m t => .vnot (d + kd) (a + ka) m t
  | .vshl d a b m t => .vshl (d + kd) (a + ka) (b + kb) m t
  | .vshr d a b m t => .vshr (d + kd) (a + ka) (b + kb) m t
  | .vsra d a b m t => .vsra (d + kd) (a + ka) (b + kb) m t
  | .vcmpeq d a b m t => .vcmpeq (advancePred d kd) (a + ka) (b + kb) m t
  | .vcmpne d a b m t => .vcmpne (advancePred d kd) (a + ka) (b + kb) m t
  | .vcmplt d a b m t => .vcmplt (advancePred d kd) (a + ka) (b + kb) m t
  | .vcmple d a b m t => .vcmple (advancePred d kd) (a + ka) (b + kb) m t
  | .vcmpltn d a b m t => .vcmpltn (advancePred d kd) (a + ka) (b + kb) m t
  | .vsel d a b m t => .vsel (d + kd) (a + ka) (b + kb) m t
  | .vpermb d a b m => .vpermb (d + kd) (a + ka) (b + kb) m
  | .vperm d a b m t => .vperm (d + kd) (a + ka) (b + kb) m t
  | .vslideup d a b m t => .vslideup (d + kd) (a + ka) (b + kb) m t
  | .vslidedn d a b m t => .vslidedn (d + kd) (a + ka) (b + kb) m t
  | .vbcast d a m t => .vbcast (d + kd) (a + ka) m t
  | .vextr d a b t => .vextr (d + kd) (a + ka) (b + kb) t
  | .vins d a b t => .vins (d + kd) (a + ka) (b + kb) t
  | .viota d m t => .viota (d + kd) m t
  | .vzipl d a b m t => .vzipl (d + kd) (a + ka) (b + kb) m t
  | .vziph d a b m t => .vziph (d + kd) (a + ka) (b + kb) m t
  | .vmov d a m t => .vmov (d + kd) (a + ka) m t
  | .vcvt d a f m t => .vcvt (d + kd) (a + ka) f m t
  | .vcvts d a f m t => .vcvts (d + kd) (a + ka) f m t
  | .vquant d a b m t => .vquant (d + kd) (a + ka) (b + kb) m t
  | .vdequant d a b m t => .vdequant (d + kd) (a + ka) (b + kb) m t
  | .vcbdec d a b m t => .vcbdec (d + kd) (a + ka) (b + kb) m t
  | .vcbload a => .vcbload ((a + ka) &&& ~~~7#5)
  | .vredsum d a m t => .vredsum (d + kd) (a + ka) m t
  | .vredmax d a m t => .vredmax (d + kd) (a + ka) m t
  | .vredmin d a m t => .vredmin (d + kd) (a + ka) m t
  | .vredamax d a m t => .vredamax (d + kd) (a + ka) m t
  | .vredamin d a m t => .vredamin (d + kd) (a + ka) m t
  | .vscan d a m t => .vscan (d + kd) (a + ka) m t
  | .vtolog d a m => .vtolog (d + kd) (a + ka) m
  | .vfromlog d a m => .vfromlog (d + kd) (a + ka) m
  | .vexp d a m t => .vexp (d + kd) (a + ka) m t
  | .vlog d a m t => .vlog (d + kd) (a + ka) m t
  | .vtanh d a m t => .vtanh (d + kd) (a + ka) m t
  | .vsigm d a m t => .vsigm (d + kd) (a + ka) m t
  | .vsilu d a m t => .vsilu (d + kd) (a + ka) m t
  | .vgelu d a m t => .vgelu (d + kd) (a + ka) m t
  | .vrand d m t => .vrand (d + kd) m t
  | .vmovi d t i => .vmovi (d + kd) t i
  | .vaddi d t i => .vaddi (d + kd) t i
  | .vmuli d t i => .vmuli (d + kd) t i
  | .vmini d t i => .vmini (d + kd) t i
  | .vmaxi d t i => .vmaxi (d + kd) t i
  | .vrsubi d t i => .vrsubi (d + kd) t i
  | .vandi d t i => .vandi (d + kd) t i
  | .vori d t i => .vori (d + kd) t i
  | .vld d a m t => .vld (d + kd) (a + ka) m t
  | .vst d a m t => .vst (d + kd) (a + ka) m t
  | .vlds d a b m t => .vlds (d + kd) (a + ka) (b + kb) m t
  | .vsts d a b m t => .vsts (d + kd) (a + ka) (b + kb) m t
  | .vldx d a b m t => .vldx (d + kd) (a + ka) (b + kb) m t
  | .vstx d a b m t => .vstx (d + kd) (a + ka) (b + kb) m t
  | .vldrow d a b m t => .vldrow (d + kd) (a + ka) (b + kb) m t
  | .vldcol d a b m t => .vldcol (d + kd) (a + ka) (b + kb) m t
  | .vstrow d a b m t => .vstrow (d + kd) (a + ka) (b + kb) m t
  | .vstcol d a b m t => .vstcol (d + kd) (a + ka) (b + kb) m t
  | .vscatadd d a b m t => .vscatadd (d + kd) (a + ka) (b + kb) m t
  | .vldb d a m t => .vldb (d + kd) (a + ka) m t
  | .mma n z x t a b c f => .mma n z x t (a + ka) (b + kb) c f
  | .mmd n z x t a b c f => .mmd n z x t (a + ka) (b + kb) c f
  | .mms n z t a b c f => .mms n z t (a + ka) (b + kb) c f
  | .mshape d a => .mshape (d + kd) (a + ka)
  | .mzero d => .mzero d
  | .mload d a b => .mload d (a + ka) (b + kb)
  | .mstore d a b f => .mstore d (a + ka) (b + kb) f
  | .mslice d a => .mslice (d + kd) (a + ka)
  | .mwait d a => .mwait (d + kd) (a + ka)
  | .mquant d a b => .mquant (d + kd) (a + ka) (b + kb)
  | .midx a => .midx ((a + ka) &&& ~~~1#5)
  | _ => i
/-! ### Queued words (R104) -/

namespace State

/-- Count a captured word that has retired (R15, R98): its lane progress ends. -/
def countCaptured (s : State) : State := (s.setMe { s.me with instret := s.me.instret + 1, lane := 0 }).countInterval

/-- The sequencer runs the word at the head of its queue for the thread that issued it: at the lane at which it goes on, with
the address of the word (R152), through the leaves that its check at issue has found (R105); the TLBs keep what they hold.
What it comes to, the lane that it has reached, and the state with the rest of the queue. -/
def runEntry (s : State) (e : VecEntry) (rest : List VecEntry) : Except Stop Unit × Nat × State :=
  let t := s.me
  let c := s.myCore
  let run : Acc Unit := match vectorWord none e.instr with
    | some (_, _, run) => run e.ga e.gb
    | none => pure ()
  let l2 := (s.cluster (clusterOf s.curCore)).l2
  let (r, s') := run ((s.setMyCore { c with vq := [], l1 := e.leaves ++ c.l1 }).setMe { t with pc := e.pc, lane := e.lane })
  let lane := s'.me.lane
  let s' := (s'.setMe { s'.me with pc := t.pc, lane := t.lane }).setMyCore { s'.myCore with vq := rest, l1 := c.l1 }
  (r, lane, if e.leaves.isEmpty then s' else
    s'.setCluster (clusterOf s.curCore) { s'.cluster (clusterOf s.curCore) with l2 := l2 })

/-- A queued word reads poison: its thread takes trap 17 at its next boundary in service mode; in task mode the core is
contained, and the word has no effect (R350, R351). s0: before the word, which has left the queue. -/
def consumeQueued (s0 s : State) (va : Word) : State :=
  if s.inService then s.pendTrap s.curCore s.curTid.toNat ⟨17, va, false⟩ else (s0.keepReached s).consume 6 va

/-- The executing thread's word at the head of the queue runs (R104). An access that waits for a CXL link keeps the word there
with the lanes below performed, and a read that has waited too long returns poison (R335); one that waits at its place, or
for a path to a die, is tried again. What R105 leaves to no queued word, a trap, its thread takes at its next boundary
(DESIGN CHOICE, log 7: a member whose window the check has found open may have been contained since). -/
def stepEntry (s : State) (e : VecEntry) (rest : List VecEntry) : State :=
  let me := s.curTid.toNat
  let kept (e : VecEntry) (s : State) : State := s.setMyCore { s.myCore with vq := e :: rest }
  match s.runEntry e rest with
  | (.ok _, _, s') => s'
  | (.error .stall, _, _) => s
  | (.error (.path d), _, _) =>
    kept { e with pathSince := s.pathWait e.pathSince (dieOf s.curCore) d } s
  | (.error (.cxl va write), lane, s') =>
    if !write && e.linkAt.any fun c => 1250000 ≤ (s.cycle - c).toNat then
      let s0 := (s.setMyCore { s.myCore with vq := rest }).lateRead (s.portOf s.curCore (va.toNat % 2 ^ 55))
      s0.consumeQueued s0 va
    else kept { e with lane := lane, linkAt := some (e.linkAt.getD s.cycle) } s'
  | (.error (.poison va), _, s') => (s.setMyCore { s.myCore with vq := rest }).consumeQueued s' va
  | (.error (.trap c va), _, s') => s'.pendTrap s.curCore me ⟨c, va, false⟩
  | (.error (.space va), _, s') => s'.pendTrap s.curCore me ⟨4, va, false⟩
  | (.error (.park va write _), _, s') => s'.pendTrap s.curCore me ⟨if write then 4 else 3, va, false⟩

end State

/-- VECTOR_WORD_EXECUTE (R104): the sequencer executes the word at the head of its queue, after the matrix words that it
follows and after the first pass of a capture that entered before it. -/
def execVectorWordExecute (core : Nat) (s : State) : Out :=
  match (s.core core).vq with
  | [] => .next s
  | e :: r =>
    let c := s.core core
    if matrixBefore c e.tid e.instr e.stamp || s.captureBefore core e.tid.toNat e.stamp then .next s
    else
      let s := (s.within core e.tid.toNat fun s => s.stepEntry e r).noteUndo core e.tid.toNat c
      if (s.core core).vq.length = c.vq.length then .next s
      else
        let s := if (s.core core).mq.isEmpty then s else s.enqueue (.matrixWordExecute core)
        let s := s.kickCaptures core
        .next (if r.isEmpty then s else s.enqueue (.vectorWordExecute core))

/-! ### REPEAT (R106) -/

/-- The pass count of a REPEAT: unsigned, at most 16,777,215. -/
def passCount (x : Word) : Nat := min x.toNat 16777215

/-- REPEAT (R106): captures the L words that follow; the thread goes on after them. Once executed it discards a suspended
capture and clears ACT (R110). It waits for L free entries of the sequencer. -/
def execRepeat (a : Reg) (sb sa sd l : BitVec 4) (s : State) : Out :=
  let n := l.toNat + 1
  if 16 < (s.setMe { s.me with capture := none }).seqEntries + n then .next s
  else
    match s.fetchWords n (s.me.pc + 4) [] with
    | (none, s') => .next s'
    | (some ws, s') =>
      let p := passCount (s.g a)
      let after := s.me.pc + 4 + BitVec.ofNat 64 (4 * n)
      let core := s'.myCore
      let c : Option Capture :=
        if p = 0 then none else some ⟨ws, sd, sa, sb, s.me.pc, p, 0, 0, false, false, core.queued⟩
      let s' := s'.setMyCore { core with queued := core.queued + 1 }
      let s := ((s'.setMe { s'.me with capture := c, vseq := { s'.me.vseq with act := false } }).setPc after).countRetired
      .next (if p = 0 then s else s.enqueue (.repeatPass s.curCore s.curTid.toNat))

namespace State

/-- What a captured word comes to: done, or the capture stands at it. -/
inductive WordEnd where
  | done
  | stays
  deriving DecidableEq, Repr

/-- A captured word stops (R110): a trap or a consumption of poison suspends the capture at the word; a parked or
waiting access keeps it there. -/
def stopCaptured (s0 s : State) (i : Instr) (unit : Nat) : Stop → State
  | .trap c v => s.takeTrapFrom true c v
  | .poison v => if s.inService then s.takeTrapFrom true 17 v else (s0.keepReached s).consume unit v
  | .park v w perm => s.parkMe i unit v w perm none
  | .space v => s.takeTrapFrom true 4 v
  | .cxl v w => s.waitCxl i v w
  | .stall => s0
  | .path d => s0.waitsPath d

/-- Is a word one of major 0x2F: does it access memory lane by lane? -/
def isVmem (i : Instr) : Bool := (encode i).extractLsb' 26 6 = 0x2F#6

/-- Execute a captured word with advanced fields, its g operands read now (R107, R109). A word that accesses memory waits
until the thread's earlier stores have been performed, those of the matrix queue that a stop has saved among them: the
accesses of one thread to one location, or one block, keep their order (R236, R238, R251). -/
def runCaptured (s : State) (prefix_ : Word) (k : Nat) (i : Instr) : State × WordEnd :=
  match i with
  | .mshape d a => ((mshapeRun d (s.g a) s).countCaptured, .done)
  | .midx a => if s.matrixWritesV then (s, .stays) else ((midxRun a s).countCaptured, .done)
  | .mwait d a =>
    let n := s.pendingMatrix s.curCore s.curTid.toNat
    if n ≤ (s.g a).toNat then ((s.setG d (BitVec.ofNat 64 n)).countCaptured, .done) else (s, .stays)
  | _ =>
    match vectorWord (some (prefix_, k)) i with
    | some (ra, rb, run) =>
      if s.matrixWritesV || matrixBefore s.myCore s.curTid i s.myCore.queued ||
          (isVmem i && (s.flightsOut s.curCore s.curTid.toNat false || s.carriedStores s.curCore s.curTid.toNat)) then
        (s, .stays)
      else
        match run (s.g ra) (s.g rb) s with
        | (.ok _, s') => (s'.countCaptured, .done)
        | (.error x, s') => (stopCaptured s s' i 6 x, .stays)
    | none =>
      match matrixWord i with
      | none => (s, .done)
      | some (ra, rb, rc, check) =>
        if s.matrixFull then (s, .stays)
        else
          let e := s.matEntry i ra rb rc
          if shM e.shape = 0 && !actsAlways i then (s.countCaptured, .done)
          else
            match check e s with
            | (.ok path, s') => (s'.countCaptured.enterMatrix { e with path := path }, .done)
            | (.error x, s') => (stopCaptured s s' i 7 x, .stays)

/-- Put the capture of the executing thread at a word. -/
def atWord (s : State) (k : Nat) : State :=
  s.setMe { s.me with capture := s.me.capture.map fun c => { c with word := k } }

/-- Has the interval of the executing thread of a paired core 256 words (R98)? -/
def intervalFull (s : State) : Bool := s.myCore.paired && 256 ≤ s.myCore.interval[s.curTid.toNat]'s.curTid.isLt

/-- Execute the captured words from word k on; true when the pass is complete. An interval that is full closes first
(R98). -/
def runPass (c : Capture) : List (BitVec 32) → Nat → State → State × Bool
  | [], _, s => (s, true)
  | w :: r, k, s =>
    let by_ (st : BitVec 4) : Reg := BitVec.ofNat 5 (c.pass * st.toNat)
    match decodeCaptured w with
    | none => runPass c r (k + 1) s
    | some i =>
      if s.intervalFull then ((s.atWord k).enqueue (.pairIntervalEnd s.curCore s.curTid.toNat true), false)
      else
      match (s.atWord k).runCaptured c.addr k (advanceWord (by_ c.sd) (by_ c.sa) (by_ c.sb) i) with
      | (s', .done) => runPass c r (k + 1) s'
      | (s', .stays) => (s', false)

end State

/-- Is a word of a capture under way: does it wait for an access of its own that has parked (R269), or for a CXL link? -/
def State.waitsCaptured (t : Thread) : Bool :=
  (match t.capture with
  | some c => !c.suspended && c.pass < c.passes
  | none => false) &&
  (match t.wait with
  | some i => (vectorWord none i).isSome || (matrixWord i).isSome
  | none => false)

/-- Have the words of a capture of a paired core effects that leave the pair (R98, R233)? -/
def passLeaves (x : Core) (c : Capture) : Bool := x.paired && c.words.any leavesPair

/-- Must a pass of a thread's capture wait for words that entered the sequencer before it (R104, R108)? A pass that is to
begin waits for those of its own thread and, the first one, for what entered before the REPEAT, a later one for all that
stands there. One that goes on waits for those of its own thread. -/
def State.passWaits (s : State) (core tid : Nat) (c : Capture) : Bool :=
  let vq := (s.core core).vq
  vq.any (fun e => e.tid.toNat = tid) ||
    (!c.begun && (if c.pass = 0 then vq.any (fun e => e.stamp < c.stamp) || s.captureBefore core tid c.stamp
      else !vq.isEmpty || s.captureBefore core tid (s.core core).queued))

/-- One pass of a capture of the executing thread, or what is left of it. -/
def State.stepPass (s : State) (c : Capture) : State :=
  let s := s.setMe { s.me with capture := some { c with begun := true } }
  match State.runPass c (c.words.drop c.word) c.word s with
  | (s', true) =>
    if c.pass + 1 = c.passes then s'.setMe { s'.me with capture := none }
    else
      (s'.setMe { s'.me with capture := some { c with pass := c.pass + 1, word := 0, begun := false } }).enqueue
        (.repeatPass s.curCore s.curTid.toNat)
  | (s', false) => s'

/-- REPEAT_PASS (R106): the sequencer executes one pass of a capture, or what is left of it, in its order among the words
that it holds (R104, R108). On a paired core the interval closes before and after a pass whose effects leave the pair
(R98, R233). -/
def execRepeatPass (core tid : Nat) (s : State) : Out :=
  let t := s.thread core tid
  match t.capture with
  | none => .next s
  | some c =>
    if c.suspended || c.passes ≤ c.pass || t.parked.isSome || (s.core core).contained || s.passWaits core tid c then .next s
    else if passLeaves (s.core core) c && s.pairHolds core tid then .next (s.matchFirst core tid (.repeatPass core tid))
    else
      let s' := (s.within core tid fun s => s.stepPass c).noteUndo core tid (s.core core)
      let s' := if passLeaves (s.core core) c then s'.afterLeaving core tid else s'
      .next (if (s'.core core).vq.isEmpty then s' else s'.enqueue (.vectorWordExecute core))

end Sys2Proof.Machine
end

