-- ==== Sys2Proof/Machine/Streams.lean ====
section
/-! DEFINITION. Copy streams: how a stream reads, converts and writes its elements, parks, fails and completes (R189 to
R198, R201, R202, R350). -/

namespace Sys2Proof.Machine

namespace CopyRequest

/-- The units of a request from an element on, in order. -/
def units (r : CopyRequest) (cursor : Nat) : List CopyUnit :=
  let all := (List.range r.extRows).flatMap fun i =>
    (List.range (ceilDiv r.extCols r.step)).map fun k => ⟨i, k * r.step, min r.step (r.extCols - k * r.step)⟩
  all.filter fun u => cursor ≤ u.i * r.extCols + u.j

/-- Element number of the first element of a unit. -/
def elemOf (r : CopyRequest) (u : CopyUnit) : Nat := u.i * r.extCols + u.j

/-- Receivers of a multicast whose sender has a span index, in a span of a width (R202). -/
def receivers (r : CopyRequest) (w sender : Nat) : List Nat :=
  ((List.range r.mcH).flatMap fun i => (List.range r.mcW).map fun j => r.origin + i * w + j).filter (· ≠ sender)

/-- Width of a fill code. -/
def fillWidth (r : CopyRequest) : Nat := if r.dfmt = 13 || r.dfmt = 14 then 6 else formatWidth r.dfmt

end CopyRequest

/-- How a run of a stream ends. -/
inductive StreamEnd where
  /-- Every element is performed or on its way. -/
  | moved
  /-- It waits for an access of its core, a ring slot, a path. -/
  | waits
  /-- It waits at an address for a CXL link that is down. -/
  | link (va : Word) (write : Bool)
  /-- A write of it waits for a path to a die. -/
  | path (die : Nat)
  | park (va : Word) (write perm : Bool)
  | space (va : Word)
  | fail (cause : BitVec 8) (addr : Nat)
  deriving DecidableEq, Repr

/-- The end that a stop of an access gives. -/
def StreamEnd.of : Stop → StreamEnd
  | .trap c v => .fail c v.toNat
  | .poison v => .fail 2 v.toNat
  | .park v w p => .park v w p
  | .space v => .space v
  | .cxl v w => .link v w
  | .stall => .waits
  | .path d => .path d

namespace State

/-- Who performs the accesses of a stream (R233). -/
def streamAgent (s : State) (core : Nat) (r : CopyRequest) : Agent where
  core := core
  tid := 0
  service := r.mode = .service
  pt := (s.core core).ptbase
  task := if isTaskCore core then some (r.taskid.setWidth 32) else none
  stream := true
  regs := false
  unit := 8

/-- A stream in its context slot. -/
def stream (s : State) (core slot : Nat) : Option Stream := Map.find (s.core core).streams slot

/-- Replace a stream. -/
def setStream (s : State) (core slot : Nat) (x : Stream) : State :=
  s.setCore core { s.core core with streams := Map.insert (s.core core).streams slot x }

/-- Is a byte of a place poisoned? -/
def poisonedLoc (s : State) (loc : Loc) (n : Nat) : Bool :=
  match loc with
  | .pad c off => (s.poisonIn (padBase c + off) n).isSome
  | .phys pa _ => (s.poisonIn pa n).isSome
  | .node slot scale q off =>
    !s.nodesClean && (List.range n).any fun i => s.resolvePoison 10 slot scale q (off + i)
  | _ => false

/-- Poison every unit that holds one of n bytes at a place (R350). -/
def poisonLoc (s : State) (loc : Loc) (n : Nat) : State :=
  match loc with
  | .pad c off => (List.range n).foldl (fun s i => s.setPoison (padBase c + off + i)) s
  | .phys pa _ => (List.range n).foldl (fun s i => s.setPoison (pa + i)) s
  | .node slot scale q off => s.poisonOwn slot scale q off n
  | _ => s

end State

/-- A later stream waits in its slot for accesses of its core before it (R195). -/
def waitStream (a : Agent) (seq : Nat) (write : Bool) (loc : Loc) (n : Nat) : Acc Unit := do
  match loc with
  | .pad c off =>
    let s ← get
    if c = a.core && (s.streamHazard c seq write off n || s.matrixHazard c off n) then throw .stall else pure ()
  | _ => pure ()

/-- The bytes that a stream reads at an address, and whether one is poisoned. A late read of a tier whose link is down
returns poisoned data (R335). -/
def streamRead (a : Agent) (seq : Nat) (late : Bool) (va n : Nat) : Acc (List Byte × Bool) := fun s0 =>
  let m : Acc (List Byte × Bool) := do
    checkAligned va n
    let loc ← resolve a .load va n
    match loc with
    | .clusterReg _ _ => stopTrap 2 va
    | .dieReg _ _ => stopTrap 2 va
    | .remote _ _ => stopTrap 2 va
    | _ =>
      waitStream a seq false loc n
      waitPath a false loc
      let s ← get
      pure (peekLoc s loc n, s.poisonedLoc loc n)
  match m s0 with
  | (.error (.cxl v w), s) =>
    if late then (.ok ((List.range n).map fun i => Config.unrelatedByte s.free (va + i), true), s) else (.error (.cxl v w), s)
  | x => x

/-- Read bytes of a stream's source as elements of a unit. -/
def readUnit (a : Agent) (r : CopyRequest) (late : Bool) (u : CopyUnit) : Acc UnitLoad := do
  if r.kind = 7 then
    pure ⟨u, List.replicate u.n (r.src.toNat % 2 ^ r.fillWidth), 0, false⟩
  else
    let mut codes : List Nat := []
    let mut bad := false
    if formatWidth r.sfmt = 4 then
      for k in List.range (u.n / 2) do
        let (bs, p) ← streamRead a r.seq late (r.srcAddr u.i (u.j + 2 * k)) 1
        codes := codes ++ [ofLe bs % 16, ofLe bs / 16]
        bad := bad || p
    else
      for k in List.range u.n do
        let (bs, p) ← streamRead a r.seq late (r.srcAddr u.i (u.j + k)) (CopyRequest.elemBytes r.sfmt)
        codes := codes ++ [if r.sfmt = 13 || r.sfmt = 14 then ofLe bs % 64 else ofLe bs]
        bad := bad || p
    if r.quantises then
      let q := mxQuantise r.dfmt true (codes.map fun x => some (fpDecode r.sfmt x))
      pure ⟨u, q.2.1, q.1, bad⟩
    else if r.decodesMx then
      let mut out : List Nat := []
      for k in List.range u.n do
        let (bs, p) ← streamRead a r.seq late (r.scaleAddr u.i ((u.j + k) / 32)) 1
        out := out ++ [(fpRound r.dfmt 0 true (mxValue r.sfmt (ofLe bs) (codes.getD k 0))).1]
        bad := bad || p
      pure ⟨u, out, 0, bad⟩
    else if r.kind = 8 then
      pure ⟨u, codes.map fun x => (convertCode ⟨0, true⟩ true r.sfmt r.dfmt x).1, 0, bad⟩
    else pure ⟨u, codes, 0, bad⟩

/-- A packet or bridge write of a stream leaves; the stream waits for its acknowledgement (R333, R194). Its delivery context
and its source have at most 65,536 of them unacknowledged (R333, R324). -/
def sendStream (a : Agent) (slot : Nat) (kind : FlightKind) (home pa key va : Nat) (bs : List Byte) (poisoned : Bool) :
    Acc Unit := do
  let s ← get
  let full : Bool := match s.stream a.core slot with
    | some x => 65536 ≤ x.unacked
    | none => false
  if full || s.sourceFull (dieOf a.core) then throw .stall
  else
    let s := s.sendWrite a.core a.tid (some slot) kind home pa key va bs poisoned
    match s.stream a.core slot with
    | some x => set (s.setStream a.core slot { x with unacked := x.unacked + 1 })
    | none => set s

/-- Write bytes of a stream's destination. -/
def streamWrite (a : Agent) (seq slot : Nat) (va : Nat) (bs : List Byte) (poisoned : Bool) : Acc (List (Loc × Nat × Bool)) := do
  checkAligned va bs.length
  let loc ← resolve a .store va bs.length
  waitStream a seq true loc bs.length
  match loc with
  | .remote e off => sendStream a slot .bytes (Config.dies + e) off 0 va bs poisoned; pure []
  | .phys pa key =>
    if (← get).travels a loc then
      sendStream a slot .bytes (homeOfPhys pa) pa key va bs poisoned
      pure []
    else
      pokeHome a loc va bs
      pure [(loc, bs.length, poisoned)]
  | _ =>
    waitPath a true loc
    pokeHome a loc va bs
    pure [(loc, bs.length, poisoned)]

/-- The sum of a REDUCE element (R190). -/
def reduceSum (fmt x y : Nat) : Nat := if fmt ≤ 2 then fpAddRne fmt x y else (x + y) % 2 ^ 32

/-- Add one element into the destination, as an atomic (R190, R157). -/
def streamReduce (a : Agent) (r : CopyRequest) (slot va code : Nat) (poisoned : Bool) : Acc (List (Loc × Nat × Bool)) := do
  let n := CopyRequest.elemBytes r.dfmt
  checkAligned va n
  let loc ← resolve a .both va n
  waitStream a r.seq true loc n
  match loc with
  | .remote e off => sendStream a slot (.reduce (BitVec.ofNat 5 r.dfmt)) (Config.dies + e) off 0 va (leBytes n code) poisoned; pure []
  | .clusterReg _ _ => stopTrap 2 va
  | .dieReg _ _ => stopTrap 2 va
  | _ =>
    waitPath a true loc
    let s ← get
    match loc with
    | .phys pa _ => set (s.countAtomic (homeOfPhys pa))
    | _ => pure ()
    pokeHome a loc va (leBytes n (reduceSum r.dfmt (ofLe (peekLoc s loc n)) code))
    pure [(loc, n, poisoned || s.poisonedLoc loc n)]

/-- The writes of a unit in order, of a request whose destination starts at a base. -/
def unitWrites (a : Agent) (r : CopyRequest) (slot : Nat) (base : Word) (x : UnitLoad) :
    List (Acc (List (Loc × Nat × Bool))) :=
  if formatWidth r.dfmt = 4 then
    (List.range (x.u.n / 2)).map fun k =>
      let b := x.codes.getD (2 * k) 0 % 16 + 16 * (x.codes.getD (2 * k + 1) 0 % 16)
      streamWrite a r.seq slot (r.dstAddr base x.u.i (x.u.j + 2 * k)) (leBytes 1 b) x.poisoned
  else
    (List.range x.u.n).map fun k =>
      let va := r.dstAddr base x.u.i (x.u.j + k)
      let code := x.codes.getD k 0
      if r.kind = 6 then streamReduce a r slot va code x.poisoned
      else streamWrite a r.seq slot va (leBytes (CopyRequest.elemBytes r.dfmt) code) x.poisoned

/-- Write the elements of a unit. -/
def writeUnit (a : Agent) (r : CopyRequest) (slot : Nat) (base : Word) (x : UnitLoad) : Acc (List (Loc × Nat × Bool)) := do
  return (← (unitWrites a r slot base x).mapM id).flatten

/-- Write the scale of a quantised block (R190). -/
def writeScale (a : Agent) (r : CopyRequest) (slot : Nat) (x : UnitLoad) : Acc (List (Loc × Nat × Bool)) :=
  streamWrite a r.seq slot (r.scaleAddr x.u.i (x.u.j / 32)) (leBytes 1 x.scale) x.poisoned

/-- Do something for each of a list until one stops: what was made, the element that stopped with its stop, the state. -/
def eachUntil {α β : Type} (f : α → Acc β) : List α → List β → State → List β × Option (α × Stop) × State
  | [], acc, s => (acc, none, s)
  | x :: r, acc, s =>
    match f x s with
    | (.ok y, s) => eachUntil f r (acc ++ [y]) s
    | (.error e, s) => (acc, some (x, e), s)

namespace State

/-- Poison that whole writes clear, and poison that comes with the data (R350). -/
def settlePoison (s : State) (ws : List (Loc × Nat × Bool)) : State :=
  let s := s.coverWritten (ws.map fun e => (e.1, e.2.1))
  ws.foldl (fun s e => if e.2.2 then s.poisonLoc e.1 e.2.1 else s) s

/-- Move the cursor of a stream, and keep what it has read and not yet written. -/
def setCursor (s : State) (core slot cursor : Nat) (held : List UnitLoad) : State :=
  match s.stream core slot with
  | some x => s.setStream core slot { x with cursor := cursor, held := held, late := x.late && cursor = x.cursor }
  | none => s

/-- The core whose mailbox or ring completes a request (R187). -/
def completionCore (s : State) (core : Nat) (r : CopyRequest) : Option Nat :=
  if r.remote then s.memberCore core r.member else some core

/-- The destination bytes of a request, from its base to its last byte (R192). -/
def destBytes (r : CopyRequest) : Nat :=
  let n := CopyRequest.elemBytes r.dfmt
  let ends := (List.range r.extRows).flatMap fun i => (List.range r.extCols).map fun j =>
    signed 64 (r.dstAddr 0 i j) + (n : Int)
  (ends.foldl max 0).toNat

/-- The scratchpad in which an address lies, by span index: the own region, or the window of a member (R21, R22). -/
def padOfAddr (spanix va : Nat) : Option Nat :=
  if va < Config.padSize then some spanix
  else if 0x1000000 ≤ va && va < 0x2000000 then some ((va - 0x1000000) / Config.padSize)
  else none

/-- Do source and destination of a stream fall in one scratchpad (R196)? -/
def onePad (s : State) (core : Nat) (r : CopyRequest) (base : Word) : Bool :=
  let ix := (s.thread core 0).spanix.toNat
  match padOfAddr ix r.src.toNat, padOfAddr ix base.toNat with
  | some x, some y => r.kind ≠ 7 && x = y
  | _, _ => false

/-- What a stream whose context is poisoned reads counts as poisoned (R198; log 28); so does the element at the cursor once a
read of its destination has waited too long (R335). -/
def tainted (x : Stream) (l : UnitLoad) : UnitLoad :=
  { l with poisoned := l.poisoned || x.poisoned || (x.late && x.req.elemOf l.u = x.cursor) }

/-- Is the instance of a core being stopped? -/
def stopsOn (s : State) (core : Nat) : Bool := (s.instOf core).any (·.st = .stopping)

/-- Where a stream stands still for a pre-emption stop (R197): the element at the next 4 KiB boundary of its destination
progress. -/
def stopElem (s : State) (core : Nat) (x : Stream) : Option Nat :=
  if !s.stopsOn core then none
  else if x.req.atBoundary x.cursor then some x.cursor
  else some ((x.cursor / x.req.perPage + 1) * x.req.perPage)

/-- Do the accesses of a moving stream from its cursor on, up to the element at which it stands still for a stop. It reads
the source first; where source and destination fall in
one scratchpad, it writes nothing before it has read the whole source (R196), and where it then stops midway it keeps what it
has read for its next run, since its writes may have changed the source. -/
def moveStream (s : State) (core slot : Nat) (late : Bool) (x : Stream) : StreamEnd × State :=
  let r := x.req
  let a := s.streamAgent core r
  let base := streamBase r x.ringAddr
  let one := s.onePad core r base
  let lim := s.stopElem core x
  let within (u : CopyUnit) : Bool := lim.all fun k => r.elemOf u < k
  let units := (r.units x.cursor).filter fun u => one || within u
  let (loads, stop1, s1) := if x.held.isEmpty then eachUntil (readUnit a r late) units [] s else (x.held, none, s)
  let loads := if stop1.isSome && one then [] else loads.map (tainted x)
  let now := loads.filter fun l => within l.u
  let rest (n : Nat) : List UnitLoad := if one then loads.filter fun l => n ≤ r.elemOf l.u else []
  let (ws0, stop0, s2) := if r.quantises then eachUntil (writeScale a r slot) now [] s1 else ([], none, s1)
  let settle (ws : List (Loc × Nat × Bool)) (s : State) : State :=
    (s.settlePoison ws).coverTravelling s1.flights.length (ws.map fun e => (e.1, e.2.1))
  match stop0 with
  | some (_, e) => (StreamEnd.of e, (settle ws0.flatten s2).setCursor core slot x.cursor (rest 0))
  | none =>
    let todo := now.flatMap fun l => (unitWrites a r slot base l).map fun w => (l.u, w)
    let (ws, stop2, s3) := eachUntil (fun p => p.2) todo [] s2
    let s4 := settle (ws0.flatten ++ ws.flatten) s3
    match stop2, stop1 with
    | some (p, e), _ => (StreamEnd.of e, s4.setCursor core slot (r.elemOf p.1) (rest (r.elemOf p.1)))
    | none, some (u, e) =>
      (StreamEnd.of e, if one then s4 else s4.setCursor core slot (r.elemOf u) [])
    | none, none =>
      match (r.units x.cursor).find? fun u => !within u with
      | some u => (.waits, s4.setCursor core slot (r.elemOf u) (rest (r.elemOf u)))
      | none => (.moved, s4.setCursor core slot r.count [])

/-- Receivers of a multicast that have not been served. -/
def unserved (s : State) (core : Nat) (x : Stream) : List Nat :=
  let t := s.thread core 0
  (x.req.receivers (spanW t) t.spanix.toNat).filter fun m => !x.served.contains m

/-- Copy a multicast to one receiver (R202): its source must lie in the own scratchpad and its destination in the
receivers' (log 16). -/
def multicastOne (s : State) (core slot : Nat) (x : Stream) (m : Nat) : StreamEnd × State :=
  let r := x.req
  let a := s.streamAgent core r
  let n := CopyRequest.colOff r.sfmt r.extCols
  let act : Acc (List (Loc × Nat × Bool)) := do
    if Config.padSize < r.src.toNat + n then stopTrap 2 r.src.toNat
    else if Config.padSize < r.dst.toNat + n then stopTrap 2 r.dst.toNat
    else
      let loads := (← (r.units 0).mapM (readUnit a r false)).map (tainted x)
      let base := 0x1000000 + BitVec.ofNat 64 (m * Config.padSize) + r.dst
      let ws ← loads.mapM (writeUnit a r slot base)
      pure ws.flatten
  match act s with
  | (.ok ws, s') =>
    let s' := s'.settlePoison ws
    let s' := s'.setStream core slot { x with served := setInsert x.served m }
    if r.cmode = 1 then
      match s'.memberCore core m with
      | some c => (.moved, s'.incMailbox c (BitVec.ofNat 4 r.num))
      | none => (.moved, s')
    else (.moved, s')
  | (.error e, s') => (StreamEnd.of e, s')

/-- Run a stream: as far as it comes, with how it ends. -/
def runStream (s : State) (core slot : Nat) (late : Bool) (x : Stream) : StreamEnd × State :=
  let r := x.req
  if r.kind = 5 then
    match s.unserved core x with
    | [] => (.moved, s)
    | m :: _ =>
      match s.multicastOne core slot x m with
      | (.fail c v, s') => (.fail c v, s')
      | _ => (.waits, s)
  else if r.cmode = 2 && x.ringAddr.isNone then
    match s.completionCore core r with
    | none => (.fail 14 r.num, s)
    | some c =>
      let ring := (s.core c).rings[r.num % 8]'(Nat.mod_lt _ (by decide))
      if (s.core c).ringPoison.getLsbD (r.num % 8) then (.waits, s)
      else if ring.slots = 0 || ring.slotSize.toNat < destBytes r then (.fail 14 r.num, s) else (.waits, s)
  else s.moveStream core slot late x

/-! ### Rings (R201) -/

/-- A ring of a core. -/
def ring (s : State) (core n : Nat) : Ring := (s.core core).rings[n % 8]'(Nat.mod_lt _ (by decide))

/-- Is a word of a ring's header poisoned (R348)? -/
def ringPoisoned (s : State) (core n : Nat) : Bool := (s.core core).ringPoison.getLsbD (n % 8)

/-- Replace a ring of a core. -/
def setRing (s : State) (core n : Nat) (x : Ring) : State :=
  s.setCore core { s.core core with rings := (s.core core).rings.set (n % 8) x (Nat.mod_lt _ (by decide)) }

/-- A stream with CMODE 2 claims the slot at write, if one is free and the ring suits it. It waits while a word of the header
is poisoned, until RINGINIT writes the header (log 28). -/
def claimRing (s : State) (core slot : Nat) (x : Stream) : State :=
  let r := x.req
  if r.cmode ≠ 2 || x.ringAddr.isSome || x.stopped then s
  else
    match s.completionCore core r with
    | none => s
    | some c =>
      let g := s.ring c r.num
      if g.slots = 0 || g.slotSize.toNat < destBytes r || g.free = 0 || s.ringPoisoned c r.num then s
      else
        let at_ := g.base + BitVec.ofNat 64 (g.write.toNat * g.slotSize.toNat)
        let at_ := if r.remote && at_.toNat < Config.padSize then at_ + 0x1000000 + BitVec.ofNat 64 (r.member * Config.padSize) else at_
        let s := s.setRing c r.num { g with
          free := g.free - 1, write := BitVec.ofNat 16 ((g.write.toNat + 1) % g.slots.toNat),
          claims := g.claims ++ [⟨(s.thread core 0).spanix.toNat, r.seq, false⟩] }
        match s.stream core slot with
        | some x => s.setStream core slot { x with ringAddr := some at_ }
        | none => s

/-- The streams of the package that wait for a slot of a ring of a core claim in the order in which they were accepted
by their core. -/
def serveRing (s : State) (ringCore n : Nat) : State :=
  s.cores.foldl (fun s e =>
    let ws := e.2.streams.filter fun x =>
      x.2.req.cmode = 2 && x.2.ringAddr.isNone && x.2.req.num = n && s.completionCore e.1 x.2.req = some ringCore
    let order := ws.foldl (fun l x => insertBySeq x l) []
    order.foldl (fun s x => (s.claimRing e.1 x.1 x.2).enqueue (.streamComplete e.1 x.1)) s) s
where
  /-- Insert a stream by the order of acceptance. -/
  insertBySeq (x : Nat × Stream) : List (Nat × Stream) → List (Nat × Stream)
    | [] => [x]
    | y :: r => if x.2.req.seq < y.2.req.seq then x :: y :: r else y :: insertBySeq x r

/-- Claims that are done at the head of the claim order become filled slots. -/
def fillClaims : List Claim → Nat → List Claim × Nat
  | [], n => ([], n)
  | c :: r, n => if c.done then fillClaims r (n + 1) else (c :: r, n)

/-- The claim of a core's stream is done: slots fill in claim order, and a filled slot wakes what waits (R90). -/
def fillRing (s : State) (ringCore n core seq : Nat) : State :=
  let g := s.ring ringCore n
  let m := (s.thread core 0).spanix.toNat
  let claims := g.claims.map fun c => if c.member = m && c.seq = seq && !c.done then { c with done := true } else c
  let (rest, k) := fillClaims claims 0
  let s := s.setRing ringCore n { g with claims := rest, filled := g.filled + BitVec.ofNat 16 k }
  if k = 0 then s else (s.wakeCore ringCore).notifyCore ringCore

/-! ### The end of a stream -/

/-- What may go on when a stream of a core has ended. -/
def afterStream (s : State) (core : Nat) : State :=
  let s := s.enqueue (.streamStart core)
  let s := (s.core core).streams.foldl (fun s e => s.enqueue (.streamComplete core e.1)) s
  let s := (s.kickCaptures core).notifyCore core
  match (s.core core).inst with
  | some k =>
    if (List.range 4).all fun t => !(s.thread core t).running then
      s.enqueue (.memberEnd k (s.thread core 0).spanix.toNat)
    else s
  | none => s

/-- Remove a stream. -/
def dropStream (s : State) (core slot : Nat) : State :=
  s.setCore core { s.core core with streams := Map.erase (s.core core).streams slot }

/-- The packets of a stream that ends before they are acknowledged go on without it. -/
def orphanFlights (s : State) (core slot : Nat) : State :=
  if s.flights.isEmpty then s
  else { s with flights := s.flights.map fun f => if f.core = core && f.stream = some slot then { f with gone := true } else f }

/-- A stream fails (R198, R199): it stops, and CERR records it if CERR.VALID is 0. -/
def failStream (s : State) (core slot : Nat) (cause : BitVec 8) (addr : Nat) : State :=
  let s := (s.orphanFlights core slot).dropStream core slot
  let c := s.core core
  let s := if c.cerr.valid then s
    else s.setCore core { c with cerr := ⟨true, cause.setWidth 5, BitVec.ofNat 55 addr⟩ }
  s.afterStream core

/-- A stream completes (R194): the mailbox increment or the filled slot. A contained completion core fails it; CERR.ADDR is
0, as there is no address (DESIGN CHOICE, log 36). -/
def finishStream (s : State) (core slot : Nat) (x : Stream) : State :=
  let r := x.req
  if r.kind = 5 || r.cmode = 0 then (s.dropStream core slot).afterStream core
  else
    match s.completionCore core r with
    | none => s.failStream core slot 13 0
    | some c =>
      if (s.core c).contained then s.failStream core slot 13 0
      else
        let s := s.dropStream core slot
        let s := if r.cmode = 1 then s.incMailbox c (BitVec.ofNat 4 r.num) else s.fillRing c r.num core r.seq
        s.afterStream core

/-- A stream parks at an address (R197): in the fault buffer, or for lineage space with no entry (R286). One of a service
core, which has no cluster, waits for space in its context slot alone (log 36). -/
def parkStream (s : State) (core slot : Nat) (x : Stream) (e : StreamEnd) : State :=
  let park (s : State) (p : Parked) : State :=
    match s.stream core slot with
    | some x => (s.setStream core slot { x with parked := some p, linkAt := none, pathSince := none }).notifyCore core
    | none => s
  match e with
  | .park va write perm =>
    let (k, s) := s.parkAccess (s.streamAgent core x.req) va.toNat write perm
    park s ⟨va, write, none, k⟩
  | .space va => park (if isTaskCore core then s.parkForSpace core else s) ⟨va, true, none, none⟩
  | _ => s

/-- Does a stream run: is it neither parked nor stopped? -/
def streamRuns (x : Stream) : Bool := x.parked.isNone && !x.stopped

/-- A stream whose elements are all performed and acknowledged completes. -/
def concludeStream (s : State) (core slot : Nat) : State :=
  match s.stream core slot with
  | some x => if x.unacked = 0 then s.finishStream core slot x else s
  | none => s

/-- A stream waits: what it has done stands, and its waiting for a link (R335), or of a write for a path (R324), is timed from
its beginning. -/
def waitStreamEnd (s : State) (core slot : Nat) (e : StreamEnd) : State :=
  match s.stream core slot with
  | none => s
  | some x =>
    match e with
    | .link _ false =>
      s.setStream core slot { x with linkAt := if x.late then none else some (x.linkAt.getD s.cycle), pathSince := none }
    | .path d =>
      s.setStream core slot { x with
        linkAt := none, pathSince := s.pathWait x.pathSince (dieOf core) d }
    | _ => s.setStream core slot { x with linkAt := none, pathSince := none }

/-- A read of a stream's destination has waited too long for a link: its element is poisoned, and the write waits (R335). -/
def lateStream (s : State) (core slot : Nat) : State :=
  match s.stream core slot with
  | none => s
  | some x => s.setStream core slot { x with late := true }

/-- Let a stream run to whichever end it comes. -/
def settleStream (s : State) (core slot : Nat) : State :=
  match s.stream core slot with
  | none => s
  | some x =>
    if !streamRuns x then s
    else
      match s.runStream core slot false x with
      | (.moved, s') => s'.concludeStream core slot
      | (.fail c v, s') => s'.failStream core slot c v
      | (.park va w p, s') => s'.parkStream core slot x (.park va w p)
      | (.space va, s') => s'.parkStream core slot x (.space va)
      | (e, s') => s'.waitStreamEnd core slot e

/-- Serve the receivers of a multicast one after the other, as far as they come. -/
def serveReceivers (s : State) (core slot : Nat) : List Nat → State
  | [] => s
  | m :: r =>
    match s.stream core slot with
    | none => s
    | some x =>
      match s.multicastOne core slot x m with
      | (.moved, s') => serveReceivers s' core slot r
      | _ => s

/-- A request leaves the FIFO into the lowest free context slot and starts (R194): it may claim a ring slot. -/
def startStream (s : State) (core : Nat) : State :=
  let c := s.core core
  match c.fifo with
  | [] => s
  | r :: rest =>
    let slot := firstGap (Map.keys c.streams) 0
    if 16 ≤ slot || c.contained then s
    else
      let x : Stream := ⟨r, 0, none, none, [], 0, false, none, false, none, [], false⟩
      let s := s.setCore core { c with fifo := rest, streams := Map.insert c.streams slot x }
      let s := s.claimRing core slot x
      let s := if r.kind = 5 then
          (s.unserved core x).foldl (fun s m => s.enqueue (.mcastReceiverComplete core slot m)) s
        else s
      (s.enqueue (.streamComplete core slot)).enqueue (.streamStart core)

/-- Start and run the streams of a core as far as they come, at once. -/
def pumpStreams (s : State) (core : Nat) : Nat → State
  | 0 => s
  | fuel + 1 =>
    let s := s.startStream core
    let s := (Map.keys (s.core core).streams).foldl (fun s slot =>
      let s := match s.stream core slot with
        | some x => if x.req.kind = 5 && streamRuns x then s.serveReceivers core slot (s.unserved core x) else s
        | none => s
      s.settleStream core slot) s
    if (s.core core).fifo.isEmpty then s else pumpStreams s core fuel

end State

/-! ### Events -/

/-- STREAM_START (R194). -/
def execStreamStart (core : Nat) (s : State) : Out := .next (s.startStream core)

/-- STREAM_COMPLETE (R194): the stream's writes are performed, and its completion releases. A stream that parks or fails
does so by its own event. -/
def execStreamComplete (core slot : Nat) (s : State) : Out :=
  match s.stream core slot with
  | none => .next s
  | some x =>
    if !State.streamRuns x then .next s
    else
      match s.runStream core slot false x with
      | (.moved, s') => .next (s'.concludeStream core slot)
      | (.fail _ _, _) => .next (s.enqueue (.streamFail core slot))
      | (.park _ _ _, _) => .next (s.enqueue (.streamPark core slot))
      | (.space _, _) => .next (s.enqueue (.streamPark core slot))
      | (e, s') => .next (s'.waitStreamEnd core slot e)

/-- STREAM_PARK (R197, R286). -/
def execStreamPark (core slot : Nat) (s : State) : Out :=
  match s.stream core slot with
  | none => .next s
  | some x =>
    if !State.streamRuns x then .next s
    else
      match s.runStream core slot false x with
      | (.park va w p, s') => .next (s'.parkStream core slot x (.park va w p))
      | (.space va, s') => .next (s'.parkStream core slot x (.space va))
      | _ => .next s

/-- STREAM_FAIL (R198, R199). -/
def execStreamFail (core slot : Nat) (s : State) : Out :=
  match s.stream core slot with
  | none => .next s
  | some x =>
    if !State.streamRuns x then .next s
    else
      match s.runStream core slot false x with
      | (.fail c v, s') => .next (s'.failStream core slot c v)
      | _ => .next s

/-- MCAST_RECEIVER_COMPLETE (R202). -/
def execMcastReceiverComplete (core slot member : Nat) (s : State) : Out :=
  match s.stream core slot with
  | none => .next s
  | some x =>
    if !State.streamRuns x || x.req.kind ≠ 5 || !(s.unserved core x).contains member then .next s
    else
      match s.multicastOne core slot x member with
      | (.moved, s') => .next (s'.enqueue (.streamComplete core slot))
      | (.fail _ _, _) => .next (s.enqueue (.streamFail core slot))
      | _ => .next s

end Sys2Proof.Machine
end

