-- ==== Sys2Proof/Machine/Copy.lean ====
section
/-! DEFINITION. COPY and COPYT, rings, CDRAIN and BFREE (R187, R188, R192, R193, R199 to R203). -/

namespace Sys2Proof.Machine

/-! ### The checks of a request (R192) -/

/-- A refusal code of R192. -/
def copyRefusal (k : Nat) : Word := BitVec.ofNat 64 (2 ^ 63 + k)

namespace CopyRequest

/-- REQUEST: an unknown kind, a reserved bit, DIR or MX for a kind that does not use it. -/
def badRequest (r : CopyRequest) : Bool :=
  9 < r.kind || wbits r.word0 19 3 ≠ 0 || wbits r.word0 14 3 ≠ 0 || wbits r.word3 32 32 ≠ 0 || wbits r.word3 7 4 ≠ 0 ||
    wbits r.word3 2 1 ≠ 0 || (r.dir && r.kind ≠ 9) || (r.mx && r.kind ≠ 8)

/-- Does either format have 4-bit elements? -/
def nibbles (r : CopyRequest) : Bool := formatWidth r.sfmt = 4 || formatWidth r.dfmt = 4

/-- Formats that a kind accepts (R189, R190). -/
def formatsOk (r : CopyRequest) : Bool :=
  r.sfmt < 18 && r.dfmt < 18 &&
    (match r.kind with
    | 2 => r.sfmt = r.dfmt && formatWidth r.sfmt ≠ 4
    | 3 => r.sfmt = 9 && r.dfmt = 9
    | 4 => r.sfmt = 9 && r.dfmt = 9
    | 6 => r.sfmt = r.dfmt && (r.sfmt ≤ 3 || r.sfmt = 7)
    | 8 =>
      if r.mx then (r.sfmt ≤ 2 && 11 ≤ r.dfmt && r.dfmt ≤ 15) || (11 ≤ r.sfmt && r.sfmt ≤ 15 && r.dfmt ≤ 2)
      else r.sfmt ≤ 15 && r.dfmt ≤ 15
    | 9 => r.sfmt = r.dfmt && r.sfmt ≠ 17
    | _ => r.sfmt = r.dfmt)

/-- Does the request need a descriptor (R189)? -/
def needsDesc (r : CopyRequest) : Bool :=
  r.is2d || r.kind = 3 || r.kind = 4 || r.kind = 5 || (r.kind = 8 && r.mx)

/-- SHAPE, as far as words 0 and 3 tell: LEN against the kind, the place of the descriptor. -/
def badPlace (r : CopyRequest) : Bool :=
  (if r.is2d then r.len ≠ 0 else r.len = 0) ||
    (r.needsDesc && (r.shp = 0 || Config.padSize < r.shp * 16 + 64))

/-- SHAPE, as the descriptor tells: fields in range, the index list in the own scratchpad, no half byte. -/
def badShape (r : CopyRequest) : Bool :=
  let dim (x : Nat) : Bool := 1 ≤ x && x ≤ 2 ^ 24
  (r.is2d && !(dim r.rows && dim r.cols)) ||
    ((r.kind = 3 || r.kind = 4) &&
      (r.rb = 0 || 65536 < r.rb || r.idxAddr % 16 ≠ 0 || Config.padSize < r.idxAddr + 4 * r.len)) ||
    (r.kind = 5 &&
      (r.mcW = 0 || 64 < r.mcW || r.mcH = 0 || 32 < r.mcH || bits (r.descNat 56 8) 7 1 ≠ 0 || bits (r.descNat 56 8) 14 2 ≠ 0 ||
        bits (r.descNat 56 8) 22 2 ≠ 0 || bits (r.descNat 56 8) 28 36 ≠ 0)) ||
    (r.nibbles && r.extCols % 2 ≠ 0)

/-- Does the kind use SSTRIDE or DSTRIDE? -/
def usesSstride (r : CopyRequest) : Bool :=
  r.kind = 1 || r.kind = 2 || r.kind = 3 || r.kind = 4 || (r.kind = 8 && r.len = 0) || (r.kind = 9 && r.dir)
def usesDstride (r : CopyRequest) : Bool :=
  r.kind = 1 || r.kind = 2 || r.kind = 3 || r.kind = 4 || (r.kind = 8 && r.len = 0) || (r.kind = 9 && !r.dir)

/-- ALIGN. With CMODE 2 the stream ignores DST (R201). -/
def badAlign (r : CopyRequest) : Bool :=
  let ss := elemBytes r.sfmt
  let ds := elemBytes r.dfmt
  (r.kind ≠ 7 && r.src.toNat % ss ≠ 0) || (r.cmode ≠ 2 && r.dst.toNat % ds ≠ 0) ||
    (r.usesSstride && r.sstride % (ss : Int) ≠ 0) || (r.usesDstride && r.dstride % (ds : Int) ≠ 0) ||
    (r.kind = 9 && (if r.dir then r.cmode ≠ 2 && r.dst.toNat % 128 ≠ 0 else r.src.toNat % 128 ≠ 0))

end CopyRequest

namespace State

/-- Is the multicast rectangle inside the span, and the one that its FREEMB has fixed (R202)? -/
def rectOk (s : State) (r : CopyRequest) : Bool :=
  let w := spanW s.me
  let h := spanH s.me
  w ≠ 0 && r.origin % w + r.mcW ≤ w && r.origin / w + r.mcH ≤ h &&
    (match (Map.get ⟨none, [], 0⟩ s.myCore.freeMbs r.freeMb).rect with
    | some x => x = (r.mcW, r.mcH, r.origin)
    | none => true)

/-- COMPLETION. MCAST ignores REMOTE (R202). -/
def badCompletion (s : State) (r : CopyRequest) : Bool :=
  let span := bits s.me.spansz.toNat 0 16
  r.cmode = 3 || (r.cmode = 2 && (7 < r.num || r.kind = 5)) || (r.kind ≠ 5 && r.remote && span ≤ r.member) ||
    (r.cmode = 2 && !r.remote &&
      ((s.ring s.curCore r.num).slots = 0 || (s.ring s.curCore r.num).slotSize.toNat < destBytes r)) ||
    (r.kind = 5 && !s.rectOk r)

/-- The quad of a COPY as a request, before its descriptor is read. -/
def quad (s : State) (a : Reg) : CopyRequest where
  word0 := s.g a
  src := s.g (a + 1)
  dst := s.g (a + 2)
  word3 := s.g (a + 3)
  desc := []
  idx := []
  mode := s.me.mode
  taskid := s.me.taskid
  seq := s.myCore.copySeq

end State

/-- The request that a quad describes, its descriptor read once (R188), or its refusal (R192). The index list of GATHER and
SCATTER is read here too, at acceptance, as an access of the issuing thread (DESIGN CHOICE, log 36: R188 and R189 fix that
moment for the descriptor alone). A request that completes at a
ring of the core reads its header, and consumes the poison of it (log 28). -/
def parseCopy (a : Reg) : Acc (Except Word CopyRequest) := do
  let s ← get
  let r := s.quad a
  if r.badRequest then pure (.error (copyRefusal 1))
  else if !r.formatsOk then pure (.error (copyRefusal 2))
  else if r.badPlace then pure (.error (copyRefusal 3))
  else
    let r ← (do
      if r.needsDesc then
        let bs ← loadOwn (s.agent 8) (r.shp * 16) 64
        pure { r with desc := bs }
      else pure r)
    if r.badShape then pure (.error (copyRefusal 3))
    else
      let r ← (do
        if r.kind = 3 || r.kind = 4 then
          let bs ← loadOwn (s.agent 8) r.idxAddr (4 * r.len)
          pure { r with idx := (List.range r.len).map fun k => BitVec.ofNat 32 (ofLe ((bs.drop (4 * k)).take 4)) }
        else pure r)
      if r.cmode = 2 && !r.remote && s.ringPoisoned s.curCore r.num then throw (.poison 0)
      else if s.badCompletion r then pure (.error (copyRefusal 4))
      else if r.badAlign then pure (.error (copyRefusal 5))
      else pure (.ok r)

/-! ### Combined buffer release (R203) -/

namespace State

/-- Combine the releases that every receiver of a sender's rectangle has executed since the last increment. -/
def combineReleases (s : State) (sender fm : Nat) : State :=
  let f : FreeMb := Map.get ⟨none, [], 0⟩ (s.core sender).freeMbs fm
  match f.rect with
  | none => s
  | some (w, h, origin) =>
    let t := s.thread sender 0
    let rs := ((List.range h).flatMap fun i => (List.range w).map fun j => origin + i * spanW t + j).filter
      (· ≠ t.spanix.toNat)
    match rs.map fun m => Map.get 0 f.counts m with
    | [] => s
    | c :: cs =>
      let n := cs.foldl min c
      if n ≤ f.combined then s
      else
        let s := s.setCore sender { s.core sender with
          freeMbs := Map.insert (s.core sender).freeMbs fm { f with combined := n } }
        (List.range (n - f.combined)).foldl (fun s _ => s.incMailbox sender (BitVec.ofNat 4 fm)) s

/-- The first MCAST that names a FREEMB fixes its rectangle (R202). -/
def fixRect (s : State) (r : CopyRequest) : State :=
  if r.kind ≠ 5 then s
  else
    let c := s.myCore
    let f : FreeMb := Map.get ⟨none, [], 0⟩ c.freeMbs r.freeMb
    let s := s.setMyCore { c with freeMbs := Map.insert c.freeMbs r.freeMb { f with rect := some (r.mcW, r.mcH, r.origin) } }
    s.combineReleases s.curCore r.freeMb

/-- Accept a request into the FIFO (R192, R193); unless engine work is deferred, the streams of the core run. -/
def acceptCopy (s : State) (r : CopyRequest) : State :=
  let c := s.myCore
  let s := s.setMyCore { c with fifo := c.fifo ++ [r], copySeq := c.copySeq + 1 }
  let s := (s.fixRect r).enqueue (.streamStart s.curCore)
  if s.defer then s
  else s.pumpStreams s.curCore (s.myCore.fifo.length + s.myCore.streams.length + 1)

end State

/-- Entries of the copy FIFO. -/
def fifoSize : Nat := 8

/-- COPY (R192): it stalls while the FIFO is full. -/
def execCopy (d a : Reg) (s : State) : Out :=
  if fifoSize ≤ s.myCore.fifo.length then .next s
  else
    match parseCopy a s with
    | (.ok (.error x), s') => .next (s'.setG d x).retire
    | (.ok (.ok r), s') => .next ((s'.acceptCopy r).setG d 0).retire
    | (.error e, s') => .next (State.stoppedOwn s s' 8 e)

/-- COPYT (R192): a full FIFO gives 1, or 2 if every context slot holds a parked stream. -/
def execCopyt (d a : Reg) (s : State) : Out :=
  match parseCopy a s with
  | (.ok (.error x), s') => .next (s'.setG d x).retire
  | (.ok (.ok r), s') =>
    let c := s'.myCore
    if fifoSize ≤ c.fifo.length then
      let stuck := 16 ≤ c.streams.length && c.streams.all fun e => e.2.parked.isSome
      .next (s'.setG d (if stuck then 2 else 1)).retire
    else .next ((s'.acceptCopy r).setG d 0).retire
  | (.error e, s') => .next (State.stoppedOwn s s' 8 e)

/-! ### Rings (R201) -/

/-- Is a run of bytes wholly in the own region or wholly in device memory (R21)? -/
def slotsPlaced (base n : Nat) : Bool :=
  base + n ≤ Config.padSize || (0x4000000000 ≤ base && base + n ≤ 2 ^ 54)

/-- The header that a ring image gives, if it keeps R13 and R201. -/
def ringImage (bs : List Byte) : Option Ring :=
  let base := ofLe (bs.take 8)
  let size := ofLe ((bs.drop 8).take 2)
  let count := ofLe ((bs.drop 10).take 2)
  if count = 0 then some Ring.unset
  else if size % 128 ≠ 0 || size = 0 || 32768 < size || base % 128 ≠ 0 || !slotsPlaced base (size * count) then none
  else some ⟨BitVec.ofNat 64 base, BitVec.ofNat 16 size, BitVec.ofNat 16 count, 0, 0, BitVec.ofNat 16 count, 0, 0, []⟩

/-- RINGINIT (R201). -/
def execRinginit (d a c : Reg) (s : State) : Out :=
  let at_ := (s.g a).toNat
  let done (s : State) (x : Word) : Out := .next (s.setG d x).retire
  if at_ % 16 ≠ 0 || Config.padSize < at_ + 16 then done s 1
  else
    match loadOwn (s.agent 5) at_ 16 s with
    | (.error e, s') => .next (State.stoppedOwn s s' 5 e)
    | (.ok bs, s') =>
      match ringImage bs with
      | none => done s' 1
      | some r =>
        if (s'.ring s'.curCore c.toNat).claims.any fun x => !x.done then done s' 2
        else
          let s' := s'.setRing s'.curCore c.toNat r
          let s' := s'.setMyCore { s'.myCore with ringPoison := s'.myCore.ringPoison &&& ~~~(1#8 <<< (c.toNat % 8)) }
          done ((s'.serveRing s'.curCore c.toNat).notifyCore s'.curCore) 0

/-- A ring form on a ring that is not set traps with cause 14 (R201); one on a poisoned header consumes it (log 28). -/
def onRing (c : Reg) (f : Ring → State → State) (s : State) : State :=
  if s.ringPoisoned s.curCore c.toNat then s.consume 5 0
  else
    let r := s.ring s.curCore c.toNat
    if r.slots = 0 then s.takeTrap 14 (c.setWidth 64) else f r s

/-- The other threads of the executing core that wait in AWAIT for a ring, with their places in the order of issue. -/
def State.awaiting (s : State) (c : Reg) : List Nat :=
  (List.range 4).filterMap fun t =>
    match (s.thread s.curCore t).wait with
    | some (.await _ c') =>
      if t ≠ s.curTid.toNat && c' = c then some (s.thread s.curCore t).awaitSeq else none
    | _ => none

/-- Does another AWAIT for the ring stand before the executing thread's in the order of issue (R201, R12)? -/
def State.awaitedBefore (s : State) (c : Reg) : Bool :=
  (s.awaiting c).any fun k => s.me.wait.isNone || decide (k < s.me.awaitSeq)

/-- The thread waits in AWAIT at its place in the order of issue. -/
def State.blockAwait (s : State) (d c : Reg) : State :=
  if s.me.wait.isSome then s
  else
    let k := s.myCore.queued
    let s := s.setMyCore { s.myCore with queued := k + 1 }
    (s.setMe { s.me with awaitSeq := k }).block (.await d c)

/-- AWAIT (R201): the oldest filled slot that is not awaited, or the thread blocks. AWAITs take slots in the order in which
they were issued; the next one looks again when one has taken its slot. -/
def awaitBody (d c : Reg) (s : State) : State :=
  onRing c (fun r s =>
    if r.awaited < r.filled && !s.awaitedBefore c then
      let others := s.awaiting c
      let s := s.setRing s.curCore c.toNat { r with
        read := BitVec.ofNat 16 ((r.read.toNat + 1) % r.slots.toNat), awaited := r.awaited + 1 }
      let s := (s.setG d (r.base + BitVec.ofNat 64 (r.read.toNat * r.slotSize.toNat))).retire
      if others.isEmpty then s else s.notifyCore s.curCore
    else s.blockAwait d c) s

/-- AWAIT (R201), issued. -/
def execAwait (d c : Reg) (s : State) : Out := .next (awaitBody d c s)

/-- AWAIT_RELEASE (R201). -/
def execAwaitRelease (core tid : Nat) (s : State) : Out :=
  match (s.thread core tid).wait with
  | some (.await d c) => .next (s.within core tid (awaitBody d c))
  | _ => .next s

/-- RELSLOT (R201): the oldest awaited slot becomes free. -/
def execRelslot (c : Reg) (s : State) : Out :=
  .next (onRing c (fun r s =>
    if r.awaited = 0 then s.takeTrap 14 (c.setWidth 64)
    else
      let s := s.setRing s.curCore c.toNat { r with filled := r.filled - 1, free := r.free + 1, awaited := r.awaited - 1 }
      let s := s.retire.serveRing s.curCore c.toNat
      if s.defer then s else s.pumpStreams s.curCore (s.myCore.streams.length + 1)) s)

/-- The value of RINGQ (R201). -/
def ringqValue (q : Nat) (r : Ring) : Word :=
  match q with
  | 0 => BitVec.ofNat 64 (r.read.toNat + r.write.toNat * 2 ^ 16 + r.free.toNat * 2 ^ 32 + r.filled.toNat * 2 ^ 48)
  | 1 => r.base
  | _ => BitVec.ofNat 64 (r.slotSize.toNat + r.slots.toNat * 2 ^ 16)

/-- RINGQ (R201). -/
def execRingq (d q c : Reg) (s : State) : Out :=
  .next (onRing c (fun r s => (s.setG d (ringqValue q.toNat r)).retire) s)

/-- BFREE (R203): one more release of the issuing core for a mailbox of a sender; from outside the fixed rectangle, or
for no sender of the span, it is discarded. -/
def execBfree (a : Reg) (s : State) : Out :=
  let x := (s.g a).toNat
  let k := bits x 0 6
  let fm := bits x 8 4
  let me := s.me.spanix.toNat
  let w := State.spanW s.me
  let s := s.retire
  if bits s.me.spansz.toNat 0 16 ≤ k then .next s
  else
    match s.memberCore s.curCore k with
    | none => .next s
    | some sender =>
      let c := s.core sender
      let f : FreeMb := Map.get ⟨none, [], 0⟩ c.freeMbs fm
      let inside : Bool := match f.rect with
        | none => true
        | some (rw, rh, origin) =>
          me ≠ k && ((List.range rh).any fun i => (List.range rw).any fun j => origin + i * w + j = me)
      if !inside then .next s
      else
        let f := { f with counts := Map.insert f.counts me (Map.get 0 f.counts me + 1) }
        let s := s.setCore sender { c with freeMbs := Map.insert c.freeMbs fm f }
        .next (s.combineReleases sender fm)

/-! ### CDRAIN (R200) -/

namespace State

/-- Have all requests that the core accepted before a number completed, failed or parked? -/
def drained (s : State) (before : Nat) : Bool :=
  s.myCore.fifo.all (fun r => before ≤ r.seq) &&
    s.myCore.streams.all fun e => before ≤ e.2.req.seq || e.2.parked.isSome || e.2.stopped

/-- The result of CDRAIN: parked streams among those, and CERR.VALID. -/
def drainResult (s : State) (before : Nat) : Word :=
  let n := s.myCore.streams.countP fun e => e.2.req.seq < before && e.2.parked.isSome
  BitVec.ofNat 64 (n % 32 + if s.myCore.cerr.valid then 256 else 0)

end State

/-- CDRAIN (R200): wait for the streams accepted before its issue. -/
def cdrainBody (d : Reg) (s : State) : State :=
  if s.drained s.me.drainSeq then (s.setG d (s.drainResult s.me.drainSeq)).retire else s.block (.cdrain d)

/-- CDRAIN (R200), issued. -/
def execCdrain (d : Reg) (s : State) : Out :=
  .next (cdrainBody d (s.setMe { s.me with drainSeq := s.myCore.copySeq }))

/-- CDRAIN_RELEASE (R200). -/
def execCdrainRelease (core tid : Nat) (s : State) : Out :=
  match (s.thread core tid).wait with
  | some (.cdrain d) => .next (s.within core tid (cdrainBody d))
  | _ => .next s

end Sys2Proof.Machine
end

