-- ==== Sys2Proof/Machine/Lineage.lean ====
section
/-! DEFINITION. The lineage instructions and the background flatten (R166 to R187, R277 to R288). -/

namespace Sys2Proof.Machine

/-- A lineage result code of R168. -/
def linCode (k : Nat) : Word := BitVec.ofNat 64 (2 ^ 63 + k)

/-- A handle operand: bits 31:0 of a register (R168). -/
def State.handleOperand (s : State) (a : Reg) : Nat := (s.g a).toNat % 2 ^ 32

/-- Deliver a result and retire. -/
def State.deliver (s : State) (d : Reg) (x : Word) : State := (s.setG d x).retire

/-- A form on a node: a handle that R27 rejects traps with cause 7. -/
def onNode (a : Reg) (f : Nat → Node → State → State) (s : State) : State :=
  match s.nodeOf (s.handleOperand a) with
  | none => s.takeTrap 7 (BitVec.ofNat 64 (s.handleOperand a))
  | some (k, n) => f k n s

/-! ### TNEW (R171) -/

/-- The shape that the operands of TNEW give, if it is allowed. -/
def newShape (x y z : Word) : Option TensorShape :=
  let n0 := wbits x 0 32
  let n1 := wbits x 32 32
  let n2 := wbits y 0 32
  let n3 := wbits y 32 32
  let fmt := wbits z 0 5
  let sp := z.getLsbD 8
  let dim (n : Nat) : Bool := 1 ≤ n && n ≤ 16777216
  let scaled := (11 ≤ fmt && fmt ≤ 15) || fmt = 17
  let t : TensorShape := ⟨BitVec.ofNat 5 fmt, n0, n1, n2, n3, sp⟩
  if dim n0 && dim n1 && dim n2 && dim n3 && fmt ≤ 17 && fmt ≠ 16 && (!sp || scaled) && (sp || fmt ≠ 17) &&
      z &&& ~~~0x11F#64 = 0 && t.elemPlane.blocks ≤ 2 ^ 26 then some t
  else none

/-- TNEW (R171): a root homed at the issuing core's die, under the key slot of its PTBASE. -/
def execTnew (d a b c : Reg) (s : State) : Out :=
  match newShape (s.g a) (s.g b) (s.g c) with
  | none => .next (s.deliver d (linCode 3))
  | some t =>
    match s.freeSlot with
    | none => .next (s.deliver d (linCode 1))
    | some k =>
      let s := s.newRoot k s.myDie t s.myCore.ptbase.key
      .next (s.deliver d (BitVec.ofNat 64 (s.handleOf k)))

/-! ### FORK and TSEAL (R173 to R175, R179) -/

/-- FORK: one of a bound root waits for its flatten. -/
def forkBody (d a : Reg) (s : State) : State :=
  onNode a (fun k n s =>
    if n.bound then s.block (.fork d a)
    else
      match s.freeSlot with
      | none => s.deliver d (linCode 1)
      | some c =>
        let s := (s.sealNode k).makeChild k c s.myDie
        s.deliver d (BitVec.ofNat 64 (s.handleOf c))) s

/-- FORK (R173), issued. -/
def execFork (d a : Reg) (s : State) : Out := .next (forkBody d a s)

/-- Check the entries of a TSEAL list one by one, each as a load and as a store (R175): their handles and places. The
trial stores reach a copy of the state; one that finds no block counts (R286). -/
def tsealEntries (a : Agent) (base : Nat) : Nat → Nat → State → Acc (List (Nat × Loc))
  | 0, _, _ => pure []
  | n + 1, k, trial => do
    let va := base + 8 * k
    let loc ← resolve a .load va 8
    let bytes ← readLoc a loc va 8
    let loc ← resolve a .store va 8
    match writeLoc a loc va bytes trial with
    | (.error (.space v), _) =>
      modify fun s => match s.homeOfLoc loc with
        | some d => s.refuseSpace d
        | none => s
      throw (.space v)
    | (.error e, _) => throw e
    | (.ok _, trial) =>
      let rest ← tsealEntries a base n (k + 1) trial
      pure ((ofLe (bytes.take 4), loc) :: rest)

/-- TSEAL after the checks on its list: the result, or none while it waits for a flatten. The entries are written without a
second check: a list that lies in a lineage window of a node that it seals is written into the sealed node (DESIGN CHOICE,
log 36: R175 lets no entry write fault, R248 gives a store after the seal cause 6, and neither rule names such a list). -/
def tsealRun (a : Agent) (base count : Nat) : Acc (Option Word) := do
  let s ← get
  let es ← tsealEntries a base count 0 s
  let s ← get
  match es.find? fun e => (s.nodeOf e.1).isNone with
  | some e => stopTrap 7 e.1
  | none =>
    let ks := es.filterMap fun e => s.nodeOf e.1
    if !decide (es.map (·.1)).Nodup then pure (some (linCode 3))
    else if ks.any fun e => e.2.bound then pure none
    else if s.freeSlots < count then pure (some (linCode 1))
    else
      let s := ks.foldl (fun s e => s.sealNode e.1) s
      let (s, hs) := ks.foldl (fun (acc : State × List Nat) e =>
        match acc.1.freeSlot with
        | none => acc
        | some c =>
          let s := acc.1.makeChild e.1 c (dieOf a.core)
          (s, acc.2 ++ [s.handleOf c])) (s, [])
      set s
      for k in List.range count do
        match es[k]? with
        | some (h, loc) => writeLoc a loc (base + 8 * k) (leBytes 4 h ++ leBytes 4 (hs.getD k 0))
        | none => pure ()
      pure (some 0)

/-- TSEAL: alignment, the count, then the list (R175). -/
def tsealBody (d a b : Reg) (s : State) : State :=
  let at_ := s.g a
  let n := s.g b
  if at_.toNat % 8 ≠ 0 then s.takeTrap 1 at_
  else if n = 0 || 256 < n.toNat then s.deliver d (linCode 3)
  else
    match tsealRun (s.agent 5) at_.toNat n.toNat s with
    | (.ok (some x), s') => s'.deliver d x
    | (.ok none, s') => s'.block (.tseal d a b)
    | (.error e, s') => State.stopped s s' (.tseal d a b) 5 e

/-- TSEAL (R175), issued. -/
def execTseal (d a b : Reg) (s : State) : Out := .next (tsealBody d a b s)

/-- A waiting TSEAL looks again: it is issued again if its list cannot be reached now. -/
def tsealAgain (d a b : Reg) (s : State) : State :=
  match tsealRun (s.agent 5) (s.g a).toNat (s.g b).toNat s with
  | (.error .stall, _) => s.setMe { s.me with wait := none }
  | (.error (.path _), _) => s.setMe { s.me with wait := none }
  | _ => tsealBody d a b s

/-! ### TWAIT (R180) -/

/-- TWAIT (R180): a FLATTENING node is waited for. -/
def execTwait (d a : Reg) (s : State) : Out :=
  .next (onNode a (fun _ n s => if n.st = .flattening then s.block (.twait d a) else s.deliver d 1) s)

/-- A waiting TWAIT looks again: 0 after a completion, 2 if the node has been freed. -/
def twaitAgain (d a : Reg) (s : State) : State :=
  match s.nodeOf (s.handleOperand a) with
  | none => s.deliver d 2
  | some (_, n) => if n.st = .flattening then s else s.deliver d 0

namespace State

/-- The forms that wait for a flatten look again. -/
def wakeLineage (s : State) : State :=
  s.threads.foldl (fun s e =>
    match (s.threadAt e.1).wait with
    | some (.twait d a) => s.within (e.1 / 4) (e.1 % 4) (twaitAgain d a)
    | some (.fork d a) => s.within (e.1 / 4) (e.1 % 4) (forkBody d a)
    | some (.tseal d a b) => s.within (e.1 / 4) (e.1 % 4) (tsealAgain d a b)
    | _ => s) s

end State

/-! ### REBASE, FLATTEN, TDEL -/

namespace State

/-- The nodes strictly between an ancestor and a node, nearest the node first; none if it is no strict ancestor. -/
def between (s : State) : Nat → Nat → Nat → List Nat → Option (List Nat)
  | 0, _, _, _ => none
  | fuel + 1, anc, k, acc =>
    match s.node k with
    | none => none
    | some n =>
      match n.parent with
      | none => none
      | some p => if p = anc then some acc else between s fuel anc p (acc ++ [p])

/-- The blocks of a plane of n that a REBASE makes REPLACE (R181). -/
def rebaseBlocks (s : State) (n : Node) (scale : Bool) (skipped : List Nat) : List Nat :=
  let held := skipped.flatMap fun k => match s.node k with
    | some m => Map.keys (m.blocks scale)
    | none => []
  (held.foldl setInsert []).filter fun q => !isReplace n scale q

/-- Make a block of a node REPLACE with its resolved value; none without space. -/
def convertBlock (s : State) (slot : Nat) (scale : Bool) (q : Nat) : Option State :=
  match s.node slot with
  | none => none
  | some n =>
    match s.takeBlock n.home with
    | none => none
    | some (pool, s') => some (s'.installReplace slot n scale q pool (s.resolve slot scale q) (s.resolvedPoison slot scale q))

/-- A NOSPACE result (R286). -/
def noSpace (s : State) (d : Reg) (home : Nat) : State := (s.refuseSpace home).deliver d (linCode 2)

/-- Blocks of a node that are not REPLACE, over both planes. -/
def unmaterialised (n : Node) : Nat :=
  let reps (m : Map Block) : Nat := m.countP fun e => match e.2 with
    | .replace _ _ _ => true
    | _ => false
  n.shape.allBlocks - (reps n.elems + reps n.scales)

end State

/-- REBASE once both nodes are known (R181). -/
def rebaseRun (d : Reg) (k : Nat) (n : Node) (b : Nat) (s : State) : State :=
  if s.hasChild k || n.st = .flattening then s.deliver d (linCode 4)
  else
    match s.between 20 b k [] with
    | none => s.deliver d (linCode 5)
    | some [] => s.deliver d 1
    | some skipped =>
      let qs := (s.rebaseBlocks n false skipped).map (fun q => (false, q)) ++
        (s.rebaseBlocks n true skipped).map fun q => (true, q)
      if s.freeBlocks < qs.length then s.noSpace d n.home
      else
        match qs.foldlM (fun s e => s.convertBlock k e.1 e.2) s with
        | none => s.noSpace d n.home
        | some s' =>
          match s'.node k, s'.node b with
          | some n', some bn =>
            let s' := s'.setNode k { n' with parent := some b, depth := bn.depth + 1 }
            let s' := s'.sealNode b
            let s' := match n.parent with
              | some p => s'.loseChild 20 p
              | none => s'
            (s'.deliver d 0).wakeLineage
          | _, _ => s

/-- REBASE (R181). -/
def execRebase (d a b : Reg) (s : State) : Out :=
  .next (onNode a (fun k n s => onNode b (fun m _ s => rebaseRun d k n m s) s) s)

/-- FLATTEN (R178). -/
def execFlatten (d a : Reg) (s : State) : Out :=
  .next (onNode a (fun k n s =>
    if n.st = .flattening then s.deliver d 2
    else if n.parent.isNone then s.deliver d 1
    else if s.freeBlocks < State.unmaterialised n then s.noSpace d n.home
    else (s.startFlatten k).deliver d 0) s)

/-- TDEL (R177). -/
def execTdel (d a : Reg) (s : State) : Out :=
  .next (onNode a (fun k n s =>
    let cs := s.children k
    let flattening := cs.any fun c => match s.node c with
      | some m => m.st = .flattening
      | none => false
    if flattening || (n.st = .flattening && !cs.isEmpty) then s.deliver d (linCode 4)
    else
      match cs with
      | [] => ((s.freeNode k).deliver d 0).wakeLineage
      | [c] => ((s.splice k c).deliver d 1).wakeLineage
      | _ => ((s.killMappings k).setNode k { n with st := .retired }).deliver d 2) s)

/-! ### TADD (R182) -/

namespace State

/-- The codes of a tile that are not +0, of the elements within the shape. -/
def deltaCodes (pl : Plane) (q : Nat) (bytes : List Byte) : List (Nat × Nat) :=
  let data : Memory := (List.range bytes.length).map fun i => (i, bytes.getD i 0)
  ((List.range pl.tileSize).map fun e => (e, blockCode data pl.w e)).filter fun x => x.2 ≠ 0 && pl.inShape q x.1

/-- The delta of an ADD block; another key makes it unrelated codes. -/
def deltaOf (s : State) (slot : Nat) (n : Node) (q : Nat) : Map (BitVec 32) :=
  match Map.find n.elems q with
  | some (.add delta pool key) =>
    if s.keyFits n (.add delta pool key) then delta
    else
      let pl := n.shape.elemPlane
      let data := s.unrelatedBlock slot q
      (List.range pl.tileSize).foldl (fun m e => Map.put 0 m e (BitVec.ofNat 32 (blockCode data pl.w e))) []
  | _ => []

/-- Add codes into the REPLACE block q of a node. -/
def addReplace (s : State) (slot q : Nat) (codes : List (Nat × Nat)) : State :=
  match s.node slot with
  | none => s
  | some n =>
    match Map.find n.elems q with
    | some (.replace _ pool _) =>
      let w := n.shape.elemPlane.w
      let fmt := n.shape.fmt.toNat
      let data := codes.foldl (fun d e => putBlockCode d w e.1 (lineageAdd fmt (blockCode d w e.1) e.2)) (s.resolve slot false q)
      (s.setNode slot { n with elems := Map.insert n.elems q (.replace data pool (s.keyOf pool n.key.toNat)) }).blurLp pool
    | _ => s

/-- Add codes into the delta of block q of a node, which a pool holds: an empty delta frees the block. -/
def addDelta (s : State) (slot q pool : Nat) (codes : List (Nat × Nat)) : State :=
  match s.node slot with
  | none => s
  | some n =>
    let fmt := n.shape.fmt.toNat
    let delta := codes.foldl (fun (m : Map (BitVec 32)) e =>
      let x := match Map.find m e.1 with
        | some y => lineageAdd fmt y.toNat e.2
        | none => e.2
      Map.insert m e.1 (BitVec.ofNat 32 x)) (s.deltaOf slot n q)
    let delta := delta.filter fun e => e.2 ≠ 0
    if delta.isEmpty then (s.setNode slot { n with elems := Map.erase n.elems q }).freeBlock pool
    else (s.setNode slot { n with
      elems := Map.insert n.elems q (.add delta pool (s.keyOf pool n.key.toNat))
      badEntries := if (Map.find n.elems q).isSome then n.badEntries else n.badEntries.filter (· ≠ some (false, q)) }).blurLp
        pool

end State

/-- The effect of TADD on block q (R182): none without space. -/
def taddEffect (k : Nat) (n : Node) (q : Nat) (codes : List (Nat × Nat)) (s : State) : Option State :=
  if State.isReplace n false q then some (s.addReplace k q codes)
  else if n.st = .flattening || n.parent.isNone then
    match s.ownBlock k n false q with
    | none => none
    | some s' => some (s'.addReplace k q codes)
  else
    match Map.find n.elems q with
    | some b => some (s.addDelta k q b.pool codes)
    | none =>
      match s.takeBlock n.home with
      | none => none
      | some (pool, s') => some (s'.addDelta k q pool codes)

/-- TADD (R182). The lineage unit of the node's home performs it (R277): it waits for a path there, which is timed (R324), and
its delta crosses as a numbered write. -/
def taddBody (d b c : Reg) (k : Nat) (n : Node) (s : State) : State :=
  let at_ := s.g b
  let q := (s.g c).toNat
  if at_.toNat % 128 ≠ 0 then s.takeTrap 1 at_
  else if Config.padSize < at_.toNat + 4096 then s.takeTrap 2 at_
  else if 5 < n.shape.fmt.toNat then s.deliver d (linCode 6)
  else if n.shape.elemPlane.blocks ≤ q then s.deliver d (linCode 7)
  else if !s.storable k n then s.deliver d (linCode 4)
  else if !s.hasPath s.myDie n.home then s.waitsPath n.home
  else
    match loadOwn (s.agent 5) at_.toNat 4096 s with
    | (.error e, s') => State.stoppedOwn s s' 5 e
    | (.ok bytes, s') =>
      match taddEffect k n q (State.deltaCodes n.shape.elemPlane q bytes) s' with
      | none => s'.noSpace d n.home
      | some s'' => (s''.numberAtOnce s.curCore n.home).deliver d 0

/-- TADD (R182), issued. -/
def execTadd (d a b c : Reg) (s : State) : Out := .next (onNode a (fun k n s => taddBody d b c k n s) s)

/-! ### TMAP, TUNMAP, TINFO -/

namespace State

/-- The owner of the executing thread's mappings (R33). -/
def mapOwner (s : State) : Option (BitVec 32) := (s.agent 5).task

/-- Mappings of an owner. -/
def mappingsOf (s : State) (o : Option (BitVec 32)) : List Mapping := s.mappings.filter fun m => m.owner = o

/-- Does a range meet no mapping of a list? -/
def rangeFree (ms : List Mapping) (base len : Nat) : Bool := ms.all fun m => !runsMeet m.base m.len base len

/-- The base of a new range: the lowest 64 KiB multiple of the lineage windows that leaves the range free (log 18); it
begins the windows or follows a mapping. -/
def newBase (ms : List Mapping) (len : Nat) : Nat :=
  let ends := (2 ^ 54) :: ms.map fun m => m.base + m.len
  let fits := ends.filter fun b => rangeFree ms b len
  match fits with
  | [] => 2 ^ 54
  | b :: r => r.foldl min b

end State

/-- TMAP (R183). -/
def execTmap (d a b : Reg) (s : State) : Out :=
  .next (onNode a (fun k n s =>
    let o := s.g b
    let ms := s.mappingsOf s.mapOwner
    if o &&& ~~~3#64 ≠ 0 then s.deliver d (linCode 3)
    else if o.getLsbD 0 && !n.shape.sp then s.deliver d (linCode 6)
    else if 4096 ≤ ms.length then s.deliver d (linCode 8)
    else
      let len := ceilDiv ((n.shape.plane (o.getLsbD 0)).blocks * 4096) 0x10000 * 0x10000
      let base := State.newBase ms len
      let m : Mapping := ⟨s.mapOwner, base, len, k, n.gen, o.getLsbD 0, o.getLsbD 1⟩
      let s := { s with mappings := s.mappings ++ [m] }
      s.deliver d (BitVec.ofNat 64 base)) s)

/-- TUNMAP (R185). -/
def execTunmap (d a : Reg) (s : State) : Out :=
  match s.mappingAt s.mapOwner (s.g a).toNat with
  | none => .next (s.deliver d 1)
  | some m => .next ({ s with mappings := s.mappings.filter fun x => x ≠ m }.deliver d 0)

/-- Number of a node's state in TINFO. -/
def stateNumber : NodeState → Nat
  | .live => 0
  | .sealed => 1
  | _ => 2

/-- A flag as a bit. -/
def flagAt (b : Bool) (i : Nat) : Nat := if b then 2 ^ i else 0

/-- The value of a TINFO selector about a node (R186). -/
def tinfoNode (s : State) (k : Nat) (n : Node) (q : Nat) : Nat :=
  match q with
  | 0 => stateNumber n.st + n.depth % 8 * 16 + flagAt n.bound 8 + flagAt n.parent.isNone 9 +
      min (s.children k).length 65535 * 2 ^ 16
  | 1 =>
    match n.source with
    | none => 0
    | some p => match s.node p with
      | some m => if m.st = .retired then 0 else s.handleOf p
      | none => 0
  | 2 => n.shape.fmt.toNat + flagAt n.shape.sp 8 + n.key.toNat * 2 ^ 16
  | 3 => n.shape.n0 + n.shape.n1 * 2 ^ 32
  | 4 => n.shape.n2 + n.shape.n3 * 2 ^ 32
  | 5 =>
    let all := n.elems ++ n.scales
    let reps := all.countP fun e => match e.2 with
      | .replace _ _ _ => true
      | _ => false
    reps + (all.length - reps) * 2 ^ 32
  | _ => if n.st = .flattening then State.unmaterialised n else 0

/-- TINFO (R186). -/
def execTinfo (d a q : Reg) (s : State) : Out :=
  match q.toNat with
  | 7 => .next (s.deliver d (BitVec.ofNat 64 s.freeSlots))
  | 8 => .next (s.deliver d (BitVec.ofNat 64 s.freeBlocks))
  | q => .next (onNode a (fun k n s => s.deliver d (BitVec.ofNat 64 (tinfoNode s k n q))) s)

/-! ### Background flattens (R178, R287) -/

/-- FLATTEN_MATERIALISE (R287): a running flatten materialises its next block, and goes to the end of the round. -/
def execFlattenMaterialise (node : Nat) (s : State) : Out :=
  match s.node node with
  | none => .next s
  | some n =>
    if n.st ≠ .flattening || !((s.die n.home).flattens.take State.runningFlattens).contains node then .next s
    else if State.flattenDone n then .next (s.enqueue (.flattenComplete node))
    else
      let s' := s.flattenStep node
      match s'.node node with
      | some n' =>
        if n'.flatWaits then .next s'
        else if State.flattenDone n' then .next (s'.enqueue (.flattenComplete node))
        else .next (s'.enqueue (.flattenMaterialise node))
      | none => .next s'

/-- FLATTEN_COMPLETE (R178, R287): the node becomes a root, and the next queued flatten runs. -/
def execFlattenComplete (node : Nat) (s : State) : Out :=
  match s.node node with
  | none => .next s
  | some n =>
    if !State.flattenDone n then .next s
    else
      let s := (s.completeFlatten node).wakeLineage
      .next (s.runNextFlatten n.home)

end Sys2Proof.Machine
end

