-- ==== Sys2Proof/Machine/Equiv.lean ====
section
/-! DEFINITION. Equivalence forests and the EQV forms (R206 to R221, R326). -/

namespace Sys2Proof.Machine

/-- A result code of R209. -/
def eqCode (k : Nat) : Word := BitVec.ofNat 64 (2 ^ 63 + k)

namespace State

/-- The graph that a thread's forests and slots belong to: none in service mode (R207). -/
def myGraph (s : State) : Option Nat :=
  if s.inService then none
  else match s.instOf s.curCore with
    | some i => some i.graph
    | none => none

/-- May the executing thread name an object of an owner (R207)? -/
def ownsObject (s : State) (owner : Option Nat) : Bool := s.inService || (owner.isSome && owner = s.myGraph)

/-- Bytes that a die's engine can hold: its SRAM and its overflow region (R326). -/
def engineSpace (s : State) (die : Nat) : Nat := 15 * 2 ^ 20 + (s.die die).seosize.toNat * 2 ^ 16

/-- Reserve bytes of a die's engine; none if they do not fit. -/
def reserve (s : State) (die n : Nat) : Option State :=
  let d := s.die die
  if d.seresv.toNat + n ≤ s.engineSpace die then some (s.setDie die { d with seresv := d.seresv + BitVec.ofNat 64 n })
  else none

/-- Return a reservation. -/
def unreserve (s : State) (die n : Nat) : State :=
  s.setDie die { s.die die with seresv := (s.die die).seresv - BitVec.ofNat 64 n }

/-- The forest that a handle names for the executing thread: die, slot, forest. -/
def forestOf (s : State) (h : Nat) : Option (Nat × Nat × Forest) :=
  let slot := bits h 0 6
  let die := bits h 6 2
  match Map.find (s.die die).forests slot with
  | some f => if f.gen.toNat = bits h 8 24 && s.ownsObject f.owner then some (die, slot, f) else none
  | none => none

/-- Replace a forest; the engine may keep it in the overflow region (R326). -/
def setForest (s : State) (die slot : Nat) (f : Forest) : State :=
  (s.setDie die { s.die die with forests := Map.insert (s.die die).forests slot f }).blurSeo die

/-- Bytes that a forest reserves (R326). -/
def forestBytes (n : Nat) : Nat := 8 * n + 524288

/-- Free a forest. -/
def dropForest (s : State) (die slot : Nat) (f : Forest) : State :=
  ((s.setDie die { s.die die with forests := Map.erase (s.die die).forests slot }).blurSeo die).unreserve die (forestBytes f.n)

end State

/-! ### The forest itself (R212 to R218) -/

namespace Forest

/-- Parent of an element. -/
def up (f : Forest) (e : Nat) : Nat := Map.get e f.parent e

/-- Size register of an element. -/
def sizeOf' (f : Forest) (e : Nat) : Nat := Map.get 1 f.size e

/-- Is an element a root? -/
def isRoot (f : Forest) (e : Nat) : Bool := f.up e = e

/-- The root that at most n steps reach. -/
def rootIn (f : Forest) : Nat → Nat → Nat
  | 0, e => e
  | n + 1, e => if f.isRoot e then e else rootIn f n (f.up e)

/-- The root of an element, without compression. -/
def rootOf (f : Forest) (e : Nat) : Nat := f.rootIn (f.parent.length + 1) e

/-- Set a parent; a root has no entry. -/
def setUp (f : Forest) (e p : Nat) : Forest :=
  { f with parent := if p = e then Map.erase f.parent e else Map.insert f.parent e p }

/-- Set a size register. -/
def setSize (f : Forest) (e n : Nat) : Forest := { f with size := Map.put 1 f.size e n }

/-- Entries of the undo log. -/
def logSize : Nat := 65536

/-- Lose the oldest milestones until an entry fits (R218). -/
def makeRoom : Nat → Forest → Forest
  | 0, f => f
  | fuel + 1, f =>
    if f.log.length < logSize then f
    else
      match f.milestones with
      | [] => f
      | (m, _) :: [] => { f with milestones := [], log := [], lostMax := BitVec.ofNat 32 m }
      | (m, _) :: (k, p) :: r =>
        makeRoom fuel { f with
          lostMax := BitVec.ofNat 32 m, log := f.log.drop p,
          milestones := ((k, p) :: r).map fun x => (x.1, x.2 - p) }

/-- Append an entry to the log while a milestone is active (R215). -/
def note (f : Forest) (e old : Nat) : Forest :=
  if f.milestones.isEmpty then f
  else
    let f := makeRoom 17 f
    if f.milestones.isEmpty then f else { f with log := f.log ++ [(e, old)] }

/-- Compress the path of an element to its root, in path order (R212). -/
def compress : Nat → Nat → Nat → Forest → Forest
  | 0, _, _, f => f
  | fuel + 1, e, r, f =>
    let p := f.up e
    if p = r then f else compress fuel p r ((f.note e p).setUp e r)

/-- root() of R212: the root, with the path compressed. -/
def root (f : Forest) (e : Nat) : Nat × Forest :=
  let r := f.rootOf e
  (r, if e = r then f else compress (f.parent.length + 1) e r f)

/-- UNITE (R212): the root, and whether two classes merged. -/
def unite (f : Forest) (x y : Nat) : Nat × Bool × Forest :=
  let (rx, f) := f.root x
  let (ry, f) := f.root y
  if rx = ry then (rx, false, f)
  else
    let r := min rx ry
    let o := max rx ry
    let f := (f.note o o).setUp o r
    (r, true, f.setSize r (f.sizeOf' r + f.sizeOf' o))

/-- Undo log entries, newest first (R217). -/
def restore : List (Nat × Nat) → Forest → Forest
  | [], f => f
  | (e, old) :: r, f =>
    let f := if old = e then f.setSize (f.up e) (f.sizeOf' (f.up e) - f.sizeOf' e) else f
    restore r (f.setUp e old)

/-- Classes of the forest. -/
def classes (f : Forest) : Nat := f.n - f.parent.length

/-- The size of the largest class. -/
def largest (f : Forest) : Nat := ((f.size.filter fun e => f.isRoot e.1).map (·.2)).foldl max 1

end Forest

/-! ### Forms on a forest -/

/-- A form on a forest: HANDLE if it is not valid; a poisoned one is consumed (R350). -/
def onForest (d a : Reg) (f : Nat → Nat → Forest → State → State) (s : State) : State :=
  match s.forestOf (s.handleOperand a) with
  | none => s.deliver d (eqCode 4)
  | some (die, slot, x) => if x.poisoned then s.consume 5 0 else f die slot x s

/-- EQNEW (R211): a forest on the issuing core's die, in its lowest free slot (log 18). -/
def execEqnew (d a : Reg) (s : State) : Out :=
  let n := s.handleOperand a
  let die := s.myDie
  let slot := State.firstGap (Map.keys (s.die die).forests) 0
  if n = 0 || 2 ^ 30 < n then .next (s.deliver d (eqCode 3))
  else if 64 ≤ slot then .next (s.deliver d (eqCode 1))
  else
    match s.reserve die (State.forestBytes n) with
    | none => .next (s.deliver d (eqCode 2))
    | some s' =>
      let g := Map.get (0 : BitVec 24) (s'.die die).forestGen slot
      let g := if g = BitVec.allOnes 24 then 1 else g + 1
      let f : Forest := ⟨g, s'.myGraph, n, [], [], [], 1, 0, [], false⟩
      let s' := s'.setDie die { s'.die die with forestGen := Map.insert (s'.die die).forestGen slot g }
      .next ((s'.setForest die slot f).deliver d (BitVec.ofNat 64 (g.toNat * 256 + die * 64 + slot)))

/-- EQFREE (R211). -/
def execEqfree (d a : Reg) (s : State) : Out :=
  .next (onForest d a (fun die slot f s => (s.dropForest die slot f).deliver d 0) s)

/-- UNITE (R212). -/
def execUnite (d a b c : Reg) (s : State) : Out :=
  .next (onForest d a (fun die slot f s =>
    let x := s.handleOperand b
    let y := s.handleOperand c
    if f.n ≤ x || f.n ≤ y then s.deliver d (eqCode 3)
    else
      let (r, merged, f) := f.unite x y
      (s.setForest die slot f).deliver d (BitVec.ofNat 64 (r + flagAt merged 32))) s)

/-- FIND (R212). -/
def execFind (d a b : Reg) (s : State) : Out :=
  .next (onForest d a (fun die slot f s =>
    let x := s.handleOperand b
    if f.n ≤ x then s.deliver d (eqCode 3)
    else
      let (r, f) := f.root x
      (s.setForest die slot f).deliver d (BitVec.ofNat 64 r)) s)

/-- EQSIZE (R214). -/
def execEqsize (d a b : Reg) (s : State) : Out :=
  .next (onForest d a (fun die slot f s =>
    let x := s.handleOperand b
    if f.n ≤ x then s.deliver d (eqCode 3)
    else
      let (r, f) := f.root x
      (s.setForest die slot f).deliver d (BitVec.ofNat 64 (f.sizeOf' r))) s)

/-- The value of EQSTAT (R214). -/
def eqstatValue (q : Nat) (f : Forest) : Nat :=
  match q with
  | 0 => f.classes
  | 1 => f.n
  | 2 => f.milestones.length + f.log.length * 2 ^ 32
  | _ => f.largest

/-- EQSTAT (R214). -/
def execEqstat (d a q : Reg) (s : State) : Out :=
  .next (onForest d a (fun _ _ f s => s.deliver d (BitVec.ofNat 64 (eqstatValue q.toNat f))) s)

/-- MILESTONE (R216). -/
def execMilestone (d a : Reg) (s : State) : Out :=
  .next (onForest d a (fun die slot f s =>
    if 16 ≤ f.milestones.length then s.deliver d (eqCode 6)
    else
      let m := f.nextMile
      let f := { f with
        milestones := f.milestones ++ [(m.toNat, f.log.length)]
        nextMile := if m + 1 = 0 then 1 else m + 1 }
      (s.setForest die slot f).deliver d (m.setWidth 64)) s)

/-- A form on an active milestone: LOGLOST or NOMILE if it is not active (R217). lostmax is 0 until a milestone is lost
(log 33). -/
def onMilestone (d a b : Reg) (f : Nat → Nat → Forest → Nat → State → State) (s : State) : State :=
  onForest d a (fun die slot x s =>
    let m := s.handleOperand b
    match x.milestones.find? fun e => e.1 = m with
    | none => s.deliver d (if m ≤ x.lostMax.toNat then eqCode 5 else eqCode 7)
    | some (_, p) => f die slot x p s) s

/-- The milestones before the first that has a number, and the log that stays: none once no milestone is active, whichever of
UNDO and UNDO.KEEP removed the last (DESIGN CHOICE, log 36: R217 says it of UNDO alone). -/
def cutMilestones (f : Forest) (m keep : Nat) : Forest :=
  let ms := f.milestones.takeWhile fun e => e.1 ≠ m
  { f with milestones := ms, log := if ms.isEmpty then [] else f.log.take keep }

/-- UNDO (R217): the logged changes made since the milestone are restored. -/
def execUndo (d a b : Reg) (s : State) : Out :=
  .next (onMilestone d a b (fun die slot f p s =>
    let es := f.log.drop p
    let f := cutMilestones (Forest.restore es.reverse f) (s.handleOperand b) p
    (s.setForest die slot f).deliver d (BitVec.ofNat 64 es.length)) s)

/-- UNDO.KEEP (R217): milestones go, nothing is restored. -/
def execUndoKeep (d a b : Reg) (s : State) : Out :=
  .next (onMilestone d a b (fun die slot f _ s =>
    (s.setForest die slot (cutMilestones f (s.handleOperand b) f.log.length)).deliver d 0) s)

/-! ### RELABEL (R219, R220) -/

/-- A RELABEL address: aligned, in the own scratchpad, a member window or device memory. -/
def checkRelabel (va : Nat) : Acc Unit := do
  checkAligned va 4
  if 2 ^ 54 ≤ va then stopTrap 2 va else pure ()

/-- The combine step of RELABEL (R219). -/
def relabelCombine (op : Nat) (s32 : Bool) (x y : Nat) : Nat :=
  match op with
  | 0 => if s32 then (x + y) % 2 ^ 32 else fpAddRne 0 x y
  | 1 => if s32 then pattern 32 (max (signed 32 x) (signed 32 y)) else fpMinMax 0 true x y
  | 2 => if s32 then pattern 32 (min (signed 32 x) (signed 32 y)) else fpMinMax 0 false x y
  | _ => (x + y) % 2 ^ 32

/-- A store of RELABEL: performed before the word retires (R220), so that it crosses a bridge only by a path that is up. -/
def storeNow (a : Agent) (va n x : Nat) : Acc Unit := do
  checkAligned va n
  let loc ← resolve a .store va n
  waitOwn a true loc n
  waitPath a true loc
  pokeHome a loc va (leBytes n x)

/-- One element of RELABEL: its label is written, its value combined into its class. -/
def relabelElem (a : Agent) (f : Forest) (roots : List Nat) (labels values op : Nat) (s32 : Bool) (out : Map Nat) (e : Nat) :
    Acc (Map Nat) := do
  let r := f.rootOf e
  let j := roots.idxOf r
  if labels ≠ 0 then
    checkRelabel ((labels + 4 * e) % 2 ^ 64)
    storeNow a ((labels + 4 * e) % 2 ^ 64) 4 j
  let v ← (do
    if op = 3 then pure 1
    else
      checkRelabel ((values + 4 * e) % 2 ^ 64)
      loadNat a ((values + 4 * e) % 2 ^ 64) 4)
  pure (Map.insert out j (if r = e then v else relabelCombine op s32 (Map.get 0 out j) v))

/-- RELABEL after its descriptor has been read: the number of classes. -/
def relabelRun (a : Agent) (f : Forest) (labels values outAt op : Nat) (s32 : Bool) : Acc Nat := do
  let roots := (List.range f.n).filter f.isRoot
  let out ← (List.range f.n).foldlM (relabelElem a f roots labels values op s32) []
  if outAt ≠ 0 then
    for j in List.range roots.length do
      checkRelabel ((outAt + 4 * j) % 2 ^ 64)
      storeNow a ((outAt + 4 * j) % 2 ^ 64) 4 (Map.get 0 out j)
  pure roots.length

/-- RELABEL (R219). -/
def execRelabel (d a b : Reg) (s : State) : Out :=
  let at_ := s.g b
  if at_.toNat % 8 ≠ 0 then .next (s.takeTrap 1 at_)
  else if Config.padSize < at_.toNat + 32 then .next (s.takeTrap 2 at_)
  else
    .next (onForest d a (fun _ _ f s =>
      match loadOwn (s.agent 5) at_.toNat 32 s with
      | (.error e, s') => State.stoppedOwn s s' 5 e
      | (.ok bytes, s') =>
        let w (k : Nat) : Nat := ofLe ((bytes.drop (8 * k)).take 8)
        let ctl := w 3
        if 8 ≤ ctl || (w 1 = 0 && ctl % 4 ≠ 3) then s'.deliver d (eqCode 3)
        else
          match relabelRun (s'.agent 5) f (w 0) (w 1) (w 2) (ctl % 4) (ctl / 4 % 2 = 1) s' with
          | (.ok k, s'') => s''.deliver d (BitVec.ofNat 64 k)
          | (.error e, s'') => State.stopped s s'' (.relabel d a b) 5 e) s)

/-! ### Vector forms (R221) -/

/-- Does a vector form wait for vector words of the thread in the sequencer or for matrix words that write v
registers? -/
def State.vectorPending (s : State) : Bool :=
  s.matrixWritesV || s.myCore.vq.any (fun e => e.tid = s.curTid) ||
    (match s.me.capture with
    | some c => !c.suspended && c.pass < c.passes
    | none => false)

/-- One lane: skipped, out of range, or an operation on the forest. -/
def forestLane (f : Forest) (x y : Nat) (op : Forest → Nat × Forest) : Nat × Forest :=
  if 2 ^ 31 ≤ x || 2 ^ 31 ≤ y then (0xFFFFFFFF, f)
  else if f.n ≤ x || f.n ≤ y then (0xFFFFFFFE, f)
  else op f

/-- The lanes from lane 0 upward. -/
def forestLanes (op : Nat → Nat → Forest → Nat × Forest) : List (Nat × Nat) → Forest → List Nat → List Nat × Forest
  | [], f, acc => (acc, f)
  | (x, y) :: r, f, acc =>
    let (z, f) := forestLane f x y (op x y)
    forestLanes op r f (acc ++ [z])

/-- The operations of VUNITE and VFIND on one lane (R221). -/
def uniteLane (x y : Nat) (f : Forest) : Nat × Forest := let (r, _, f) := f.unite x y; (r, f)
def findLane (x _ : Nat) (f : Forest) : Nat × Forest := f.root x

/-- A vector form: every lane 0xFFFF_FFFD if the forest is not valid. While engine work is deferred the thread blocks, and the
lanes follow one at a time, other threads' operations between them (R221). -/
def vectorForest (u : Bool) (d a b c : Reg) (op : Nat → Nat → Forest → Nat × Forest) (s : State) : State :=
  if s.vectorPending then s
  else
    match s.forestOf (s.handleOperand a) with
    | none => (s.setV d (packLanes 32 (List.replicate 32 0xFFFFFFFD))).retire
    | some (die, slot, f) =>
      if f.poisoned then s.consume 5 0
      else if s.defer then
        s.setMe { s.me with forest := some ⟨u, d, a, b, c⟩, lane := 0 }
      else
        let (zs, f) := forestLanes op ((lanes (s.v b) 32).zip (lanes (s.v c) 32)) f []
        ((s.setForest die slot f).setV d (packLanes 32 zs)).retire

/-- The next lane of a vector form in which the executing thread is blocked. A lane reads its sources before vd is written
there, so vd may be a source. -/
def forestStep (d a b c : Reg) (op : Nat → Nat → Forest → Nat × Forest) (s : State) : State :=
  let i := s.me.lane
  let done (z : Nat) (s : State) : State :=
    let s := s.setV d (setLane (s.v d) 32 i z)
    if i = 31 then s.retire else s.setMe { s.me with lane := i + 1 }
  match s.forestOf (s.handleOperand a) with
  | none => done 0xFFFFFFFD s
  | some (die, slot, f) =>
    if f.poisoned then (s.setMe { s.me with forest := none, lane := 0 }).consume 5 0
    else
      let (z, f) := forestLane f (lane (s.v b) 32 i) (lane (s.v c) 32 i) (op (lane (s.v b) 32 i) (lane (s.v c) 32 i))
      done z (s.setForest die slot f)

/-- A blocked vector form of a thread takes its next lane. -/
def State.forestTick (s : State) (core tid : Nat) : State :=
  match (s.thread core tid).forest with
  | none => s
  | some x => s.within core tid (forestStep x.d x.a x.b x.c (if x.unite then uniteLane else findLane))

/-- VUNITE (R221). -/
def execVunite (d a b c : Reg) (s : State) : Out := .next (vectorForest true d a b c uniteLane s)

/-- VFIND (R221). -/
def execVfind (d a b : Reg) (s : State) : Out := .next (vectorForest false d a b b findLane s)

end Sys2Proof.Machine
end

