-- ==== Sys2Proof/Machine/Deadline.lean ====
section
/-! DEFINITION. Reduction slots and the DRED forms (R222 to R231, R326, R328). -/

namespace Sys2Proof.Machine

/-- Number of a slot's state in a status word (R227). -/
def slotStateNumber : SlotState → Nat
  | .armed => 0
  | .complete => 1
  | .partial_ => 2
  | .closed => 3

namespace DrSlot

/-- Contributions on time. -/
def onTime (x : DrSlot) : List Contribution := x.contribs.filter (·.onTime)

/-- Late contributions received before the slot closed. -/
def late (x : DrSlot) : List Contribution := x.contribs.filter fun c => !c.onTime

/-- Has a contributor sent to this arming? -/
def hasSent (x : DrSlot) (i : Nat) : Bool := x.contribs.any fun c => c.i = i

/-- The combine step of a slot's OP (R226). -/
def combine (op a b : Nat) : Nat :=
  match op with
  | 2 => fpMinMax 0 true a b
  | 3 => (a + b) % 2 ^ 32
  | _ => fpAddRne 0 a b

/-- The canonical tree over some contributions, element by element (R226): the others are absent. The tree over one entry is
that entry as it stands (R55), so a lone NaN of OP 0 or 2 keeps its code: DESIGN CHOICE, log 36, since R37 gives a NaN result
of arithmetic the canonical code and neither rule says which of the two holds of no combine step at all. -/
def reduce (x : DrSlot) (cs : List Contribution) : List (BitVec 32) :=
  (List.range x.e).map fun e =>
    let leaves := (List.range x.n).map fun i =>
      (cs.find? fun c => c.i = i).map fun c => (c.data.getD e 0).toNat
    match (combineTree (fun a b => (combine x.op.toNat a b, {})) leaves).1 with
    | some v => BitVec.ofNat 32 v
    | none => 0

/-- The status word (R227). -/
def status (x : DrSlot) : Word :=
  let held := if x.st = .closed then 0 else x.late.length
  BitVec.ofNat 64 (slotStateNumber x.st + x.onTime.length * 2 ^ 16 + held * 2 ^ 32)

/-- Bytes that a slot reserves (R326). -/
def bytes (x : DrSlot) : Nat := (x.n + 1) * 4 * x.e

end DrSlot

namespace State

/-- The slot that a handle names for the executing thread: die, slot. -/
def slotOf (s : State) (h : Nat) : Option (Nat × Nat × DrSlot) :=
  let slot := bits h 0 8
  let die := bits h 8 2
  match Map.find (s.die die).slots slot with
  | some x => if bits h 10 6 = 0 && x.gen.toNat = bits h 16 16 && s.ownsObject x.owner then some (die, slot, x) else none
  | none => none

/-- Replace a slot. -/
def setSlot (s : State) (die slot : Nat) (x : DrSlot) : State :=
  (s.setDie die { s.die die with slots := Map.insert (s.die die).slots slot x }).blurSeo die

/-- A slot becomes free: the last to be armed again, its reservation returned (R222, R326). -/
def freeSlotOf (s : State) (die slot : Nat) (x : DrSlot) : State :=
  (s.setDie die { s.die die with slotFree := (s.die die).slotFree ++ [slot] }).unreserve die x.bytes

/-- Poison n bytes of device memory, with their units (R350). -/
def poisonRun (s : State) (pa n : Nat) : State := (List.range n).foldl (fun s i => s.setPoison (pa + i)) s

/-- A part of DST is written where a leaf places it (R231): at once, with a number if it crosses a bridge, or as a write that
travels to its home, while engine work is deferred and it need not be performed now, while no path leads there, or while it
waits for a CXL link (R258, R324, R335). What a poisoned slot writes is poisoned (log 33). -/
def placePart (s : State) (die slot : Nat) (now poisoned : Bool) (pt : PtBase) (l : Leaf) (va : Nat) (bs : List Byte) :
    State :=
  let pa := l.phys va
  let key := Pte.key l.pte
  let home := homeOfPhys pa
  let away := s.sendSlotWrite die slot home pa key va pt (Pte.pin l.pte) bs poisoned
  if home ≠ die && (!s.hasPath die home || (s.defer && !now)) then away
  else
    match s.reachWrite pa (Pte.pin l.pte) with
    | none => away
    | some s =>
      let s := s.physWrite pa key bs
      (if poisoned then s.poisonRun pa bs.length else s).numberFrom die home

/-- Write bytes to a part of DST that lies in one 64 KiB page (R231): under the slot's PTBASE, if it is mapped with W. -/
def writePart (s : State) (die slot : Nat) (now poisoned : Bool) (pt : PtBase) (va : Nat) (bs : List Byte) : State :=
  match s.beginWalk die pt va with
  | (.leaf l, s) =>
    if !Pte.w l.pte then s
    else
      let s := s.touchLeaf pt l true
      match physRegion (l.phys va) with
      | .gddr _ => s.placePart die slot now poisoned pt l va bs
      | .tier2 _ => s.placePart die slot now poisoned pt l va bs
      | _ => s
  | (_, s) => s

/-- Write bytes from an address on, page by page. -/
def writePages (s : State) (die slot : Nat) (now poisoned : Bool) (pt : PtBase) : Nat → Nat → List Byte → State
  | 0, _, _ => s
  | fuel + 1, va, bs =>
    let n := 0x10000 - va % 0x10000
    let s := s.writePart die slot now poisoned pt va (bs.take n)
    if bs.length ≤ n then s else writePages s die slot now poisoned pt fuel (va + n) (bs.drop n)

/-- Pages that DST can touch. -/
def dstFuel (x : DrSlot) : Nat := 4 * x.e / 0x10000 + 2

/-- The slot writes its results to DST (R231). -/
def writeDst (s : State) (die slot : Nat) (now : Bool) (x : DrSlot) (xs : List (BitVec 32)) : State :=
  s.writePages die slot now x.poisoned x.ptbase (dstFuel x) x.dst.toNat (xs.flatMap fun v => leBytes 4 v.toNat)

/-- Are writes of a slot to DST on their way: not yet performed? -/
def dstOut (s : State) (die slot : Nat) : Bool :=
  s.flights.any fun f => f.core = engineCore die && f.stream = some slot && !f.performed

/-- Could a slot's die write each page of DST now, by a path and a link that are up? -/
def dstReached (s : State) (die : Nat) (x : DrSlot) : Bool :=
  (List.range (dstFuel x)).all fun k =>
    let va := (x.dst.toNat / 0x10000 + k) * 0x10000
    if x.dst.toNat + 4 * x.e ≤ va then true
    else
      match s.walk die x.ptbase va with
      | .leaf l =>
        !Pte.w l.pte ||
          (match physRegion (l.phys va) with
          | .gddr _ => s.hasPath die (homeOfPhys (l.phys va))
          | .tier2 _ => s.hasPath die (homeOfPhys (l.phys va)) && (s.touchPiece (l.phys va) (Pte.pin l.pte) true).isSome
          | _ => true)
      | _ => true

/-- Must DRSCALE or DRFIX wait? It writes DST before it retires (R231). -/
def dstWaits (s : State) (die slot : Nat) (x : DrSlot) : Bool := s.dstOut die slot || !s.dstReached die x

/-- The home of a page of DST that a slot's die writes and no path leads to. -/
def dstPathless (s : State) (die : Nat) (x : DrSlot) : Option Nat :=
  (List.range (dstFuel x)).findSome? fun k =>
    let va := (x.dst.toNat / 0x10000 + k) * 0x10000
    match s.walk die x.ptbase va with
    | .leaf l =>
      let home := homeOfPhys (l.phys va)
      if x.dst.toNat + 4 * x.e ≤ va || !Pte.w l.pte || s.hasPath die home then none
      else
        match physRegion (l.phys va) with
        | .gddr _ => some home
        | .tier2 _ => some home
        | _ => none
    | _ => none

/-- The executing thread's DRSCALE or DRFIX waits for DST; its waiting for a path is timed (R324). -/
def waitsDst (s : State) (die : Nat) (x : DrSlot) : State :=
  match s.dstPathless die x with
  | some home => s.waitsPathFrom die home
  | none => s

/-- Threads that wait in DRWAIT or DRFIX look again. -/
def notifySlots (s : State) : State :=
  s.threads.foldl (fun s e =>
    match e.2.wait with
    | some (.drwait _ _) => s.enqueue (.drwaitRelease (e.1 / 4) (e.1 % 4))
    | some (.drfix _ _ _) => s.enqueue (.drfixRelease (e.1 / 4) (e.1 % 4))
    | _ => s) s

/-- Has the deadline of a slot passed (R226, R328)? -/
def deadlinePassed (s : State) (x : DrSlot) : Bool := x.deadline ≠ 0 && x.deadline ≤ (s.cycle - x.t0).toNat

/-- A slot's deadline expires (R226): the partial is kept, and written when a contributor was on time. -/
def expireSlot (s : State) (die slot : Nat) (x : DrSlot) : State :=
  let p := x.reduce x.onTime
  let x := { x with st := .partial_, part := p }
  let s := s.setSlot die slot x
  (if x.onTime.isEmpty then s else s.writeDst die slot false x p).notifySlots

/-- Count a contribution dropped by a closed slot. -/
def dropContributions (s : State) (die slot : Nat) (x : DrSlot) (n : Nat) : State :=
  let s := s.setSlot die slot { x with dropped := x.dropped + BitVec.ofNat 64 n }
  s.setDie die { s.die die with sedrop := (s.die die).sedrop + BitVec.ofNat 64 n }

/-- A contribution's last element arrives (R226, R328): its result code. -/
def arrive (s : State) (die slot i : Nat) (data : List (BitVec 32)) : Word × State :=
  match Map.find (s.die die).slots slot with
  | none => (eqCode 9, s)
  | some x =>
    let s := if x.st = .armed && s.deadlinePassed x then s.expireSlot die slot x else s
    match Map.find (s.die die).slots slot with
    | none => (eqCode 9, s)
    | some x =>
      match x.st with
      | .armed =>
        let x := { x with contribs := x.contribs ++ [⟨i, data, true⟩] }
        if x.onTime.length = x.n then
          let x := { x with st := .complete }
          let s := (s.setSlot die slot x).writeDst die slot false x (x.reduce x.onTime)
          (0, (s.freeSlotOf die slot x).notifySlots)
        else (0, s.setSlot die slot x)
      | .partial_ => (1, (s.setSlot die slot { x with contribs := x.contribs ++ [⟨i, data, false⟩] }).notifySlots)
      | _ => (eqCode 9, s.dropContributions die slot x 1)

end State

/-- A form on a slot: HANDLE if it is not valid; a poisoned one is consumed (R350). One whose deadline has come is PARTIAL
from that cycle on (R226, R328). -/
def onSlot (d a : Reg) (f : Nat → Nat → DrSlot → State → State) (s : State) : State :=
  match s.slotOf (s.handleOperand a) with
  | none => s.deliver d (eqCode 4)
  | some (die, slot, x) =>
    if x.poisoned then s.consume 5 0
    else if x.st = .armed && s.deadlinePassed x then
      f die slot { x with st := .partial_, part := x.reduce x.onTime } (s.expireSlot die slot x)
    else f die slot x s

/-! ### DRINIT (R224) -/

/-- The fields of a DRINIT descriptor. -/
structure DrDesc where
  dst : Nat
  e : Nat
  n : Nat
  op : Nat
  deadline : Nat
  /-- Reserved fields. -/
  rest : Nat
  deriving DecidableEq, Repr

/-- A descriptor from its 32 bytes. -/
def drDesc (bs : List Byte) : DrDesc :=
  let f (off n : Nat) : Nat := ofLe ((bs.drop off).take n)
  ⟨f 0 8, f 8 4, f 12 2, f 14 1, bits (f 16 8) 0 48, f 15 1 + bits (f 16 8) 48 16 + f 24 8⟩

/-- Are the fields within their limits? -/
def DrDesc.ok (x : DrDesc) : Bool :=
  1 ≤ x.e && x.e ≤ 262144 && 1 ≤ x.n && x.n ≤ 1024 && x.op ≤ 3 && x.rest = 0 && x.dst % 128 = 0 &&
    0x4000000000 ≤ x.dst && x.dst + 4 * x.e ≤ 2 ^ 54

/-- Is every one of some pages mapped with W = 1 and pin = 1 under the issuing core's PTBASE? The walks count. -/
def State.pagesPinned : List Nat → State → Bool × State
  | [], s => (true, s)
  | va :: r, s =>
    match s.beginWalk s.myDie s.myCore.ptbase va with
    | (.leaf l, s) => if Pte.w l.pte && Pte.pin l.pte then pagesPinned r s else (false, s)
    | (_, s) => (false, s)

/-- The pages of DST. -/
def DrDesc.pages (x : DrDesc) : List Nat :=
  let first := x.dst / 0x10000
  (List.range ((x.dst + 4 * x.e - 1) / 0x10000 + 1 - first)).map fun k => (first + k) * 0x10000

/-- Is every page of DST mapped with W = 1 and pin = 1? -/
def State.dstPinned (s : State) (x : DrDesc) : Bool × State := State.pagesPinned x.pages s

/-- Arm the slot that has been free longest. -/
def armSlot (d : Reg) (x : DrDesc) (s : State) : State :=
  let die := s.myDie
  match (s.die die).slotFree with
  | [] => s.deliver d (eqCode 1)
  | slot :: rest =>
    match s.reserve die ((x.n + 1) * 4 * x.e) with
    | none => s.deliver d (eqCode 2)
    | some s =>
      let g := Map.get (0 : BitVec 16) (s.die die).slotGen slot
      let g := if g = BitVec.allOnes 16 then 1 else g + 1
      let y : DrSlot := ⟨g, s.myGraph, .armed, BitVec.ofNat 64 x.dst, x.e, x.n, BitVec.ofNat 8 x.op, x.deadline, s.cycle,
        s.myCore.ptbase, [], [], 0, false⟩
      let s := s.setDie die { s.die die with slotFree := rest, slotGen := Map.insert (s.die die).slotGen slot g }
      ((s.setSlot die slot y).deliver d (BitVec.ofNat 64 (g.toNat * 2 ^ 16 + die * 256 + slot))).notifySlots

/-- DRINIT (R224). -/
def execDrinit (d a : Reg) (s : State) : Out :=
  let at_ := s.g a
  if at_.toNat % 8 ≠ 0 then .next (s.takeTrap 1 at_)
  else if Config.padSize < at_.toNat + 32 then .next (s.takeTrap 2 at_)
  else
    match loadOwn (s.agent 5) at_.toNat 32 s with
    | (.error e, s') => .next (State.stoppedOwn s s' 5 e)
    | (.ok bs, s') =>
      let x := drDesc bs
      if !x.ok then .next (s'.deliver d (eqCode 3))
      else
        match s'.dstPinned x with
        | (false, s') => .next (s'.deliver d (eqCode 11))
        | (true, s') => .next (armSlot d x s')

/-! ### DRSEND (R225) -/

/-- A BF16 leaf widened exactly; a NaN becomes the canonical NaN of FP32 (R226, R37). -/
def widenBf16 (x : Nat) : Nat := if fpDecode 1 x = .nan then 0x7FC00000 else x * 2 ^ 16

/-- One element of a contribution's source: in the own scratchpad or device memory. -/
def drElement (a : Agent) (op va : Nat) : Acc (BitVec 32) := do
  let n := if op = 1 then 2 else 4
  checkAligned va n
  if va + n ≤ Config.padSize || inDeviceMemory va then
    let x ← loadNat a va n
    pure (BitVec.ofNat 32 (if op = 1 then widenBf16 x else x))
  else stopTrap 2 va

/-- The whole source of a contribution. -/
def drSource (a : Agent) (x : DrSlot) (base : Word) : Acc (List (BitVec 32)) :=
  let op := x.op.toNat
  (List.range x.e).mapM fun k => drElement a op ((base.toNat + k * (if op = 1 then 2 else 4)) % 2 ^ 64)

/-- DRSEND (R225): the contribution arrives at once, or travels while engine work is deferred. The codes of the slot and of
the contributor are decided before the source is read (DESIGN CHOICE, log 36: R225 gives no order between them and causes
1, 2 and 3). -/
def execDrsend (d a b c : Reg) (s : State) : Out :=
  .next (onSlot d a (fun die slot x s =>
    let gc := (s.g c).toNat
    let i := gc % 1024
    if 1024 ≤ gc || x.n ≤ i then s.deliver d (eqCode 3)
    else if x.hasSent i || s.drFlights.any (fun f => f.die = die && f.slot = slot && f.gen = x.gen && f.i = i) then
      s.deliver d (eqCode 10)
    else if x.st = .closed then (s.dropContributions die slot x 1).deliver d (eqCode 9)
    else
      match drSource (s.agent 5) x (s.g b) s with
      | (.error e, s') => State.stopped s s' (.drsend d a b c) 5 e
      | (.ok data, s') =>
        if s'.defer || !s'.hasPath s'.myDie die then
          let f : DrFlight := ⟨s'.curCore, s'.curTid, die, slot, x.gen, i, data⟩
          let s' := { s' with drFlights := s'.drFlights ++ [f] }
          let s' := s'.block (.drsend d a b c)
          s'.setMe { s'.me with op := some (.contributionArrive die slot i) }
        else
          let (r, s') := s'.arrive die slot i data
          s'.deliver d r) s)

/-- The DRSEND of a contribution that has reached its slot returns; one that meets a poisoned slot consumes it (R350). -/
def State.returnDrsend (s : State) (f : DrFlight) (end_ : Reg → State → State) : State :=
  match (s.thread f.core f.tid.toNat).wait with
  | some (.drsend d _ _ _) => s.within f.core f.tid.toNat (end_ d)
  | _ => s

/-- CONTRIBUTION_ARRIVE (R226, R328): a contribution in flight reaches its slot, and its DRSEND returns. -/
def execContributionArrive (die slot i : Nat) (s : State) : Out :=
  match s.drFlights.find? fun f => f.die = die && f.slot = slot && f.i = i with
  | none => .next s
  | some f =>
    if !s.hasPath (dieOf f.core) die then .next s
    else
      let s := { s with drFlights := s.drFlights.filter fun g => g ≠ f }
      match (Map.find (s.die die).slots slot).filter fun x => x.gen = f.gen with
      | none => .next (s.returnDrsend f fun d s => s.deliver d (eqCode 9))
      | some x =>
        if x.poisoned then .next (s.returnDrsend f fun _ s => s.consume 5 0)
        else
          let (r, s) := s.arrive die slot i f.data
          .next (s.returnDrsend f fun d s => s.deliver d r)

/-- DEADLINE_EXPIRY (R226, R328). -/
def execDeadlineExpiry (die slot : Nat) (s : State) : Out :=
  match Map.find (s.die die).slots slot with
  | some x => if x.st = .armed && s.deadlinePassed x then .next (s.expireSlot die slot x) else .next s
  | none => .next s

/-! ### DRWAIT, DRSCALE, DRFIX, DRSTAT -/

/-- DRWAIT (R227): the status word, once the slot is not ARMED and has written DST (R231). -/
def drwaitBody (d a : Reg) (s : State) : State :=
  onSlot d a (fun die slot x s =>
    if x.st = .armed || (x.st ≠ .closed && s.dstOut die slot) then s.block (.drwait d a) else s.deliver d x.status) s

/-- DRWAIT (R227), issued. -/
def execDrwait (d a : Reg) (s : State) : Out := .next (drwaitBody d a s)

/-- DRWAIT_RELEASE (R227). -/
def execDrwaitRelease (core tid : Nat) (s : State) : Out :=
  match (s.thread core tid).wait with
  | some (.drwait d a) => .next (s.within core tid (drwaitBody d a))
  | _ => .next s

/-- A form that closes a PARTIAL slot: STATE for one that is ARMED or COMPLETE, CLOSED for a closed one. -/
def onPartial (d a : Reg) (f : Nat → Nat → DrSlot → State → State) (s : State) : State :=
  onSlot d a (fun die slot x s =>
    match x.st with
    | .partial_ => f die slot x s
    | .closed => s.deliver d (eqCode 9)
    | _ => s.deliver d (eqCode 8)) s

/-- Close a slot: late contributions not used are dropped and counted. -/
def closeSlot (die slot : Nat) (x : DrSlot) (unused : Nat) (s : State) : State :=
  ((s.dropContributions die slot { x with st := .closed } unused).freeSlotOf die slot x).notifySlots

/-- partial × N / p of an S32 sum: nearest, ties to even, saturated (R228). -/
def scaleInt (x : BitVec 32) (n p : Nat) : BitVec 32 :=
  let y : Int := x.toInt * n
  let q := y / (p : Int)
  let r := y % (p : Int)
  let q := if (p : Int) < 2 * r || (2 * r = p && q % 2 ≠ 0) then q + 1 else q
  BitVec.ofInt 32 (max (-2 ^ 31) (min (2 ^ 31 - 1) q))

/-- The results that DRSCALE writes (R228). -/
def scaled (x : DrSlot) : List (BitVec 32) :=
  let p := x.onTime.length
  match x.op.toNat with
  | 2 => x.part
  | 3 => x.part.map fun v => scaleInt v x.n p
  | _ =>
    let f := (fpDivRound 0 0 false (fpOfInt x.n) (fpOfInt p)).1
    x.part.map fun v => BitVec.ofNat 32 (fpMulCode 0 0 false v.toNat f).1

/-- DRSCALE (R228). It waits at issue while DST cannot be written, since the write is performed before it retires (R231). -/
def execDrscale (d a : Reg) (s : State) : Out :=
  .next (onPartial d a (fun die slot x s =>
    if x.onTime.isEmpty then s.deliver d 1
    else if s.dstWaits die slot x then s.waitsDst die x
    else (closeSlot die slot x x.late.length (s.writeDst die slot true x (scaled x))).deliver d 0) s)

/-- DRFIX waits with the mask that it has read (R229). -/
def drfixWaits (d a b : Reg) (mask : Nat) (s : State) : State :=
  (s.setMe { s.me with fixMask := some mask }).block (.drfix d a b)

/-- DRFIX with the contributors that its mask names (R229); it waits while DST cannot be written (R231). -/
def drfixNamed (d a b : Reg) (die slot : Nat) (x : DrSlot) (mask : Nat) (s : State) : State :=
  let named := (List.range 1024).filter fun i => mask.testBit i
  if named.any fun i => x.n ≤ i || x.onTime.any fun c => c.i = i then s.deliver d (eqCode 3)
  else if !(named.all fun i => x.late.any fun c => c.i = i) then drfixWaits d a b mask s
  else if named.isEmpty && x.onTime.isEmpty then s.deliver d 1
  else if s.dstWaits die slot x then drfixWaits d a b mask (s.waitsDst die x)
  else
    let l := x.reduce (x.late.filter fun c => named.contains c.i)
    let xs :=
      if named.isEmpty then x.part
      else if x.onTime.isEmpty then l
      else (x.part.zip l).map fun e => BitVec.ofNat 32 (DrSlot.combine x.op.toNat e.1.toNat e.2.toNat)
    (closeSlot die slot x (x.late.length - named.length) (s.writeDst die slot true x xs)).deliver d 0

/-- DRFIX (R229): it reads its mask once, and waits until every contributor that this names has arrived. HANDLE, STATE and
CLOSED are decided before the mask's address is looked at, and a mask outside the own scratchpad takes cause 2 (DESIGN
CHOICE, log 36: R229 says neither). -/
def drfixBody (d a b : Reg) (s : State) : State :=
  onPartial d a (fun die slot x s =>
    let at_ := s.g b
    match s.me.fixMask with
    | some mask => drfixNamed d a b die slot x mask s
    | none =>
    if at_.toNat % 8 ≠ 0 then s.takeTrap 1 at_
    else if Config.padSize < at_.toNat + 128 then s.takeTrap 2 at_
    else
      match loadOwn (s.agent 5) at_.toNat 128 s with
      | (.error e, s') => State.stoppedOwn s s' 5 e
      | (.ok bs, s') =>
        drfixNamed d a b die slot x (ofLe bs) s') s

/-- DRFIX (R229), issued. -/
def execDrfix (d a b : Reg) (s : State) : Out := .next (drfixBody d a b s)

/-- DRFIX_RELEASE (R229). -/
def execDrfixRelease (core tid : Nat) (s : State) : Out :=
  match (s.thread core tid).wait with
  | some (.drfix d a b) => .next (s.within core tid (drfixBody d a b))
  | _ => .next s

/-- A word of a bitmap of contributors. -/
def contributorWord (cs : List Contribution) (w : Nat) : Word :=
  BitVec.ofNat 64 ((cs.filter fun c => c.i / 64 = w).map fun c => 2 ^ (c.i % 64)).sum

/-- DRSTAT (R230). -/
def execDrstat (d a b k : Reg) (s : State) : Out :=
  .next (onSlot d a (fun _ _ x s =>
    let w := (s.g b).toNat
    match k.toNat with
    | 0 => s.deliver d (if 15 < w then eqCode 3 else contributorWord x.onTime w)
    | 1 => s.deliver d (if 15 < w then eqCode 3 else contributorWord x.late w)
    | 2 => s.deliver d x.status
    | _ => s.deliver d x.dropped) s)

end Sys2Proof.Machine
end

