-- ==== Sys2Proof/Machine/Scalar.lean ====
section
/-! DEFINITION. Integer register operations, immediate forms, SHI, LUI, ADDPC (R75 to R78). -/

namespace Sys2Proof.Machine

/-- An OP form of two sources (R76): the result goes to g(d) and the word retires. -/
def opResult (s : State) (d : Reg) (x : Word) : State := (s.setG d x).retire

/-- Signed quotient and remainder (R77). -/
def divSigned (x y : Word) : Word := if y = 0 then allOnes64 else BitVec.sdiv x y
def remSigned (x y : Word) : Word := if y = 0 then x else BitVec.srem x y

/-- Unsigned quotient and remainder (R77). -/
def divUnsigned (x y : Word) : Word := if y = 0 then allOnes64 else x / y
def remUnsigned (x y : Word) : Word := if y = 0 then x else x % y

/-- Bits 127:64 of a product of signed or of unsigned operands (R76). -/
def mulHighSigned (x y : Word) : Word := BitVec.ofInt 64 (x.toInt * y.toInt / 2 ^ 64)
def mulHighUnsigned (x y : Word) : Word := BitVec.ofNat 64 (x.toNat * y.toNat / 2 ^ 64)

/-- ADD (R76): the sum. -/
def execAdd (d a b : Reg) (s : State) : Out :=
  let x := s.g a
  let y := s.g b
  .next (opResult s d (x + y))

/-- SUB (R76): the difference. -/
def execSub (d a b : Reg) (s : State) : Out :=
  let x := s.g a
  let y := s.g b
  .next (opResult s d (x - y))

/-- AND (R76): AND. -/
def execAnd (d a b : Reg) (s : State) : Out :=
  let x := s.g a
  let y := s.g b
  .next (opResult s d (x &&& y))

/-- OR (R76): OR. -/
def execOr (d a b : Reg) (s : State) : Out :=
  let x := s.g a
  let y := s.g b
  .next (opResult s d (x ||| y))

/-- XOR (R76): XOR. -/
def execXor (d a b : Reg) (s : State) : Out :=
  let x := s.g a
  let y := s.g b
  .next (opResult s d (x ^^^ y))

/-- ANDN (R76): x AND NOT y. -/
def execAndn (d a b : Reg) (s : State) : Out :=
  let x := s.g a
  let y := s.g b
  .next (opResult s d (x &&& ~~~y))

/-- SLL (R76): left shift. -/
def execSll (d a b : Reg) (s : State) : Out :=
  let x := s.g a
  let y := s.g b
  .next (opResult s d (x <<< shiftAmount y))

/-- SRL (R76): right shift, zeros in. -/
def execSrl (d a b : Reg) (s : State) : Out :=
  let x := s.g a
  let y := s.g b
  .next (opResult s d (x >>> shiftAmount y))

/-- SRA (R76): right shift, sign in. -/
def execSra (d a b : Reg) (s : State) : Out :=
  let x := s.g a
  let y := s.g b
  .next (opResult s d (x.sshiftRight (shiftAmount y)))

/-- SLT (R76): signed less. -/
def execSlt (d a b : Reg) (s : State) : Out :=
  let x := s.g a
  let y := s.g b
  .next (opResult s d (Word.ofBool (x.slt y)))

/-- SLTN (R76): unsigned less. -/
def execSltn (d a b : Reg) (s : State) : Out :=
  let x := s.g a
  let y := s.g b
  .next (opResult s d (Word.ofBool (x.ult y)))

/-- MIN (R76): the lesser, signed. -/
def execMin (d a b : Reg) (s : State) : Out :=
  let x := s.g a
  let y := s.g b
  .next (opResult s d (if x.slt y then x else y))

/-- MAX (R76): the greater, signed. -/
def execMax (d a b : Reg) (s : State) : Out :=
  let x := s.g a
  let y := s.g b
  .next (opResult s d (if x.slt y then y else x))

/-- MINN (R76): the lesser, unsigned. -/
def execMinn (d a b : Reg) (s : State) : Out :=
  let x := s.g a
  let y := s.g b
  .next (opResult s d (if x.ult y then x else y))

/-- MAXN (R76): the greater, unsigned. -/
def execMaxn (d a b : Reg) (s : State) : Out :=
  let x := s.g a
  let y := s.g b
  .next (opResult s d (if x.ult y then y else x))

/-- MUL (R76): bits 63:0 of the product. -/
def execMul (d a b : Reg) (s : State) : Out :=
  let x := s.g a
  let y := s.g b
  .next (opResult s d (x * y))

/-- MULH (R76): bits 127:64, signed. -/
def execMulh (d a b : Reg) (s : State) : Out :=
  let x := s.g a
  let y := s.g b
  .next (opResult s d (mulHighSigned x y))

/-- MULHN (R76): bits 127:64, unsigned. -/
def execMulhn (d a b : Reg) (s : State) : Out :=
  let x := s.g a
  let y := s.g b
  .next (opResult s d (mulHighUnsigned x y))

/-- DIV (R77): signed quotient. -/
def execDiv (d a b : Reg) (s : State) : Out :=
  let x := s.g a
  let y := s.g b
  .next (opResult s d (divSigned x y))

/-- DIVN (R77): unsigned quotient. -/
def execDivn (d a b : Reg) (s : State) : Out :=
  let x := s.g a
  let y := s.g b
  .next (opResult s d (divUnsigned x y))

/-- REM (R77): signed remainder. -/
def execRem (d a b : Reg) (s : State) : Out :=
  let x := s.g a
  let y := s.g b
  .next (opResult s d (remSigned x y))

/-- REMN (R77): unsigned remainder. -/
def execRemn (d a b : Reg) (s : State) : Out :=
  let x := s.g a
  let y := s.g b
  .next (opResult s d (remUnsigned x y))

/-- CLZ (R76). -/
def execClz (d a : Reg) (s : State) : Out := .next (opResult s d (BitVec.ofNat 64 (leadingZeros (s.g a))))

/-- CTZ (R76). -/
def execCtz (d a : Reg) (s : State) : Out := .next (opResult s d (BitVec.ofNat 64 (trailingZeros (s.g a))))

/-- POPC (R76). -/
def execPopc (d a : Reg) (s : State) : Out := .next (opResult s d (BitVec.ofNat 64 (popCount (s.g a).toNat)))

/-- SEXT (R76): the low w bits, sign-extended. -/
def execSext (d a w : Reg) (s : State) : Out := .next (opResult s d (word (signed (extWidth w) (s.g a).toNat)))

/-- ZEXT (R76): the low w bits, zero-extended. -/
def execZext (d a w : Reg) (s : State) : Out :=
  .next (opResult s d (BitVec.ofNat 64 ((s.g a).toNat % 2 ^ extWidth w)))

/-- CMOV (R76): x if g(c) is not 0, else y. -/
def execCmov (d a b c : Reg) (s : State) : Out := .next (opResult s d (if s.g c ≠ 0 then s.g a else s.g b))

/-- ADDI (R78, R60). -/
def execAddi (d a : Reg) (i : BitVec 16) (s : State) : Out := .next (opResult s d (s.g a + sext16 i))

/-- ANDI (R78, R60). -/
def execAndi (d a : Reg) (i : BitVec 16) (s : State) : Out := .next (opResult s d (s.g a &&& logicImm i))

/-- ORI (R78, R60). -/
def execOri (d a : Reg) (i : BitVec 16) (s : State) : Out := .next (opResult s d (s.g a ||| logicImm i))

/-- XORI (R78, R60). -/
def execXori (d a : Reg) (i : BitVec 16) (s : State) : Out := .next (opResult s d (s.g a ^^^ logicImm i))

/-- SLTI (R78, R60). -/
def execSlti (d a : Reg) (i : BitVec 16) (s : State) : Out := .next (opResult s d (Word.ofBool ((s.g a).slt (sext16 i))))

/-- SLTIN (R78, R60). -/
def execSltin (d a : Reg) (i : BitVec 16) (s : State) : Out := .next (opResult s d (Word.ofBool ((s.g a).ult (sext16 i))))

/-- SLLI (R78). -/
def execSlli (d a : Reg) (n : BitVec 6) (s : State) : Out := .next (opResult s d (s.g a <<< n.toNat))

/-- SRLI (R78). -/
def execSrli (d a : Reg) (n : BitVec 6) (s : State) : Out := .next (opResult s d (s.g a >>> n.toNat))

/-- SRAI (R78). -/
def execSrai (d a : Reg) (n : BitVec 6) (s : State) : Out := .next (opResult s d ((s.g a).sshiftRight n.toNat))

/-- LUI (R78). -/
def execLui (d : Reg) (i : BitVec 16) (s : State) : Out := .next (opResult s d (upperImm i))

/-- ADDPC (R78): relative to the address of its own word. -/
def execAddpc (d : Reg) (i : BitVec 16) (s : State) : Out := .next (opResult s d (s.me.pc + upperImm i))

end Sys2Proof.Machine
end

