-- ==== Sys2Proof/Machine/Fp.lean ====
section
/-! DEFINITION. Scalar floating point (R79, R80): sources are the low bits of g registers, results are written
zero-extended, flags go to FSTAT. -/

namespace Sys2Proof.Machine

/-- Bits 31:0 of g(r) (R79). -/
def State.f32 (s : State) (r : Reg) : Nat := (s.g r).toNat % 2 ^ 32

/-- Write a code and set flags, then retire. -/
def fopResult (s : State) (d : Reg) (r : Nat × Flags) : State := opResult (s.raiseF r.2) d (BitVec.ofNat 64 r.1)

/-- A comparison of two FP32 values; the ordered ones are invalid on a NaN (R80). -/
def fopCompare (ordered : Bool) (rel : Fp → Fp → Bool) (x y : Nat) : Nat × Flags :=
  let a := fpDecode 0 x
  let b := fpDecode 0 y
  if a.isNan || b.isNan then (0, if ordered then Flags.inv else {}) else ((if rel a b then 1 else 0), {})

/-- FADD (R80). -/
def execFadd (d a b : Reg) (r : BitVec 3) (s : State) : Out :=
  let m := fopMode s r
  let x := s.f32 a
  let y := s.f32 b
  .next (fopResult s d (fpAddCode 0 m false x y))

/-- FSUB (R80). -/
def execFsub (d a b : Reg) (r : BitVec 3) (s : State) : Out :=
  let m := fopMode s r
  let x := s.f32 a
  let y := s.f32 b
  .next (fopResult s d (fpAddCode 0 m false x (y ^^^ 2 ^ 31)))

/-- FMUL (R80). -/
def execFmul (d a b : Reg) (r : BitVec 3) (s : State) : Out :=
  let m := fopMode s r
  let x := s.f32 a
  let y := s.f32 b
  .next (fopResult s d (fpMulCode 0 m false x y))

/-- FDIV (R80). -/
def execFdiv (d a b : Reg) (r : BitVec 3) (s : State) : Out :=
  let m := fopMode s r
  let x := s.f32 a
  let y := s.f32 b
  .next (fopResult s d (fpDivRound 0 m false (fpDecode 0 x) (fpDecode 0 y)))

/-- FSQRT (R80). -/
def execFsqrt (d a : Reg) (r : BitVec 3) (s : State) : Out :=
  .next (fopResult s d (fpSqrtRound 0 (fopMode s r) false (fpDecode 0 (s.f32 a))))

/-- FMADD (R79, R80): one rounding, by FCTL.RND. -/
def execFmadd (d a b c : Reg) (s : State) : Out :=
  let m := s.me.frnd.toNat
  let (v, fl) := fpFma m (fpDecode 0 (s.f32 a)) (fpDecode 0 (s.f32 b)) (fpDecode 0 (s.f32 c))
  let (k, fl') := fpRound 0 m false v
  .next (fopResult s d (k, fl.or fl'))

/-- FMIN (R80). -/
def execFmin (d a b : Reg) (s : State) : Out :=
  let x := s.f32 a
  let y := s.f32 b
  .next (fopResult s d ((fpMinMax 0 false x y, {})))

/-- FMAX (R80). -/
def execFmax (d a b : Reg) (s : State) : Out :=
  let x := s.f32 a
  let y := s.f32 b
  .next (fopResult s d ((fpMinMax 0 true x y, {})))

/-- FEQ (R80). -/
def execFeq (d a b : Reg) (s : State) : Out :=
  let x := s.f32 a
  let y := s.f32 b
  .next (fopResult s d (fopCompare false fpEq x y))

/-- FLT (R80). -/
def execFlt (d a b : Reg) (s : State) : Out :=
  let x := s.f32 a
  let y := s.f32 b
  .next (fopResult s d (fopCompare true fpLt x y))

/-- FLE (R80). -/
def execFle (d a b : Reg) (s : State) : Out :=
  let x := s.f32 a
  let y := s.f32 b
  .next (fopResult s d (fopCompare true (fun u w => !fpLt w u) x y))

/-- FCLASS (R80): one bit set. -/
def execFclass (d a : Reg) (s : State) : Out := .next (fopResult s d (2 ^ fpClass (s.f32 a), {}))

/-- FNEG (R80): bit 31 inverted. -/
def execFneg (d a : Reg) (s : State) : Out := .next (fopResult s d (s.f32 a ^^^ 2 ^ 31, {}))

/-- FABS (R80): bit 31 cleared. -/
def execFabs (d a : Reg) (s : State) : Out := .next (fopResult s d (s.f32 a % 2 ^ 31, {}))

/-- FTOI (R80, R42). -/
def execFtoi (d a : Reg) (r : BitVec 3) (s : State) : Out :=
  let (k, fl) := fpToInt (fopMode s r) (-2 ^ 63) (2 ^ 63 - 1) (fpDecode 0 (s.f32 a))
  .next (opResult (s.raiseF fl) d (word k))

/-- FTON (R80, R42). -/
def execFton (d a : Reg) (r : BitVec 3) (s : State) : Out :=
  let (k, fl) := fpToInt (fopMode s r) (0) (2 ^ 64 - 1) (fpDecode 0 (s.f32 a))
  .next (opResult (s.raiseF fl) d (word k))

/-- ITOF (R80, R42). -/
def execItof (d a : Reg) (r : BitVec 3) (s : State) : Out :=
  .next (fopResult s d (fpRound 0 (fopMode s r) false (fpOfInt (s.g a).toInt)))

/-- NTOF (R80, R42). -/
def execNtof (d a : Reg) (r : BitVec 3) (s : State) : Out :=
  .next (fopResult s d (fpRound 0 (fopMode s r) false (fpOfInt ((s.g a).toNat : Int))))

/-- FTOBF (R80). -/
def execFtobf (d a : Reg) (r : BitVec 3) (s : State) : Out :=
  .next (fopResult s d (fpConvert 0 1 (fopMode s r) false (s.f32 a)))

/-- FTOH (R80). -/
def execFtoh (d a : Reg) (r : BitVec 3) (s : State) : Out :=
  .next (fopResult s d (fpConvert 0 2 (fopMode s r) false (s.f32 a)))

/-- BFTOF (R79, R80): exact, from bits 15:0. -/
def execBftof (d a : Reg) (s : State) : Out := .next (fopResult s d (fpConvert 1 0 0 false ((s.g a).toNat % 2 ^ 16)))

/-- HTOF (R79, R80): exact, from bits 15:0. -/
def execHtof (d a : Reg) (s : State) : Out := .next (fopResult s d (fpConvert 2 0 0 false ((s.g a).toNat % 2 ^ 16)))

end Sys2Proof.Machine
end

