-- ==== Sys2Proof/Machine/Tasks.lean ====
section
/-! DEFINITION. The dispatchers (16): submission of graphs, placement, quanta and pre-emption, the end and the failure
of instances, DEVENT, restart (R294 to R312, R319, R352, R376, R378), and the watchdog (R15). -/

namespace Sys2Proof.Machine

/-! ### Submission (R294 to R298) -/

/-- A field of a descriptor or header. -/
def fieldOf (bs : List Byte) (off n : Nat) : Nat := ofLe ((bs.drop off).take n)

/-- Does a read by the device wait, rather than fail: for a CXL link, or for a path? -/
def Stop.waits : Stop → Bool
  | .cxl _ _ => true
  | .stall => true
  | .path _ => true
  | _ => false

/-- A die reaches a frame to read it: GDDR7 by a path, a page of the second tier as its access does (R258); nothing else can
be read. A page whose link is down is waited for, and a late read of it returns poisoned data (R335). -/
def reachFrame (late : Bool) (die va pa : Nat) (pin : Bool) : Acc Unit := do
  let s ← get
  if !s.hasPath die (homeOfPhys pa) then throw .stall
  else
    match physRegion pa with
    | .gddr _ => pure ()
    | .tier2 p =>
      match s.touchPiece pa pin false with
      | some s => set s
      | none =>
        if late then
          set (s.countPoisonRx p 1)
          throw (.poison (BitVec.ofNat 64 va))
        else throw (.cxl (BitVec.ofNat 64 va) false)
    | _ => stopTrap 2 va

/-- The bytes that a leaf gives, page by page, for a read by the device under a root. It fails where a page cannot be read or
holds poison (log 36); what it has walked counts all the same (R272). -/
def readVirtual (late : Bool) (die : Nat) (pt : PtBase) : Nat → Nat → Nat → Acc (List Byte)
  | 0, va, _ => stopTrap 2 va
  | fuel + 1, va, n =>
    if n = 0 then pure []
    else if !inDeviceMemory va then stopTrap 2 va
    else do
      let m := min n (0x10000 - va % 0x10000)
      let (w, s) := (← get).beginWalk die pt va
      set s
      match w with
      | .leaf l =>
        if !Pte.r l.pte then stopTrap 3 va
        else
          set (s.touchLeaf pt l false)
          reachFrame late die va (l.phys va) (Pte.pin l.pte)
          let s ← get
          if (s.poisonIn (l.phys va) m).isSome then throw (.poison (BitVec.ofNat 64 va))
          else
            let bs := s.physRead (l.phys va) m (Pte.key l.pte)
            return bs ++ (← readVirtual late die pt fuel (va + m) (n - m))
      | _ => stopTrap 2 va

/-- Does a descriptor break a limit of R294? -/
def badDescriptor (b : List Byte) : Bool :=
  let f := fieldOf b
  let w := f 0x08 1
  let h := f 0x09 1
  let flags := f 0x0C 2
  let paired := flags / 2 % 2 = 1
  f 0 8 % 4 ≠ 0 || w = 0 || (if paired then 32 else 64) < w || h = 0 || 32 < h || 64 < w * h || f 0x0A 1 = 0 ||
    4 < f 0x0A 1 || 15 < f 0x0B 1 || 16 ≤ flags || 15 < f 0x0E 1 || 3 < f 0x0F 1 || f 0x10 4 = 0 || 65536 < f 0x10 4 ||
    64 < f 0x14 2 || 64 < f 0x16 2 || 2 ^ 48 ≤ f 0x18 8 || 16 < f 0x38 8 || (b.drop 0xC0).any (· ≠ 0)

/-- The arguments of a descriptor (R294, R24). -/
def argsOf (b : List Byte) : List Word :=
  (List.range (min 16 (fieldOf b 0x38 8))).map fun k => BitVec.ofNat 64 (fieldOf b (0x40 + 8 * k) 8)

/-- A tensor entry: handle, READ, WRITE. -/
abbrev TensEntry := BitVec 32 × Bool × Bool

/-- The task of a descriptor at an address, with its explicit predecessors and tensor entries. -/
def taskOfDescriptor (va : Nat) (b : List Byte) (preds : List Nat) (tens : List TensEntry) : Task :=
  let f := fieldOf b
  let flag (i : Nat) : Bool := (f 0x0C 2).testBit i
  { desc := BitVec.ofNat 64 va, entry := BitVec.ofNat 64 (f 0 8), w := f 0x08 1, h := f 0x09 1, threads := f 0x0A 1,
    prio := f 0x0B 1, early := flag 0, paired := flag 1,
    diech := if flag 2 then some (BitVec.ofNat 4 (f 0x0E 1)) else none,
    pkgch := if flag 3 then some (BitVec.ofNat 2 (f 0x0F 1)) else none,
    instances := f 0x10 4, quantum := BitVec.ofNat 48 (f 0x18 8), preds := preds, tens := tens,
    wdexit := BitVec.ofNat 64 (f 0x30 8), args := argsOf b, failed := false }

/-- What the dispatchers have read of a graph: refusal reasons met, tasks. -/
structure GraphRead where
  reasons : List Nat
  tasks : List Task
  deriving DecidableEq, Repr

/-- The 8-byte words of a list. -/
def words8 : List Byte → List Nat
  | b0 :: b1 :: b2 :: b3 :: b4 :: b5 :: b6 :: b7 :: r => ofLe [b0, b1, b2, b3, b4, b5, b6, b7] :: words8 r
  | _ => []

/-- Read a list of n 8-byte entries. -/
def readList (late : Bool) (die : Nat) (pt : PtBase) (va n : Nat) : Acc (List Nat) := do
  return words8 (← readVirtual late die pt 40 va (8 * n))

/-- What a read gives, or none where it fails; a read that waits stops the whole. -/
def orNone {α : Type} (m : Acc α) : Acc (Option α) := fun s =>
  match m s with
  | (.ok x, s') => (.ok (some x), s')
  | (.error e, s') => if e.waits then (.error e, s') else (.ok none, s')

/-- Read a list that a descriptor names: reason 5 and no entry where it cannot be read. -/
def readListed (late : Bool) (die : Nat) (pt : PtBase) (va n : Nat) : Acc (List Nat × List Nat) := do
  match ← orNone (readList late die pt va n) with
  | some xs => pure ([], xs)
  | none => pure ([5], [])

/-- Read the descriptors of LIST in order, and every reason against them (R296 to R298). -/
def readTasks (late : Bool) (die : Nat) (pt : PtBase) (vas : List Nat) : List Nat → Nat → GraphRead → Acc GraphRead
  | [], _, acc => pure acc
  | va :: rest, k, acc => do
    let fail (r : Nat) : Acc GraphRead :=
      readTasks late die pt vas rest (k + 1) { acc with reasons := r :: acc.reasons }
    if va % 64 ≠ 0 then fail 1
    else
      match ← orNone (readVirtual late die pt 40 va 256) with
      | none => fail 5
      | some b =>
        if badDescriptor b then fail 1
        else
          let (r5, ps) ← readListed late die pt (fieldOf b 0x20 8) (fieldOf b 0x14 2)
          let (r5', ts) ← readListed late die pt (fieldOf b 0x28 8) (fieldOf b 0x16 2)
          let s ← get
          let earlier := vas.take k
          let r2 := if ps.all (earlier.contains ·) then [] else [2]
          let r1 := if ts.all (· < 2 ^ 34) then [] else [1]
          let r3 := if ts.all fun t => (s.nodeOf (t % 2 ^ 32)).isSome then [] else [3]
          let tens := ts.map fun t => (BitVec.ofNat 32 t, t.testBit 32, t.testBit 33)
          let task := taskOfDescriptor va b (ps.map fun p => earlier.findIdx (· = p)) tens
          readTasks late die pt vas rest (k + 1) ⟨r1 ++ r2 ++ r3 ++ r5 ++ r5' ++ acc.reasons, acc.tasks ++ [task]⟩

/-- Do two tasks name one handle, one of them with WRITE (R297)? -/
def sharesWrite (a b : Task) : Bool := a.tens.any fun x => b.tens.any fun y => x.1 = y.1 && (x.2.2 || y.2.2)

/-- Add the implicit predecessors of each task (R297). -/
def withImplicit (ts : List Task) : List Task :=
  (List.range ts.length).filterMap fun k =>
    ts[k]?.map fun t =>
      let implicit := (List.range k).filter fun j => match ts[j]? with
        | some u => sharesWrite u t
        | none => false
      { t with preds := implicit.foldl setInsert (t.preds.foldl setInsert []) }

/-- An instance before anything has happened to it. -/
def Inst.fresh (graph task num : Nat) : Inst where
  graph := graph
  task := task
  num := num
  st := .pending
  signalled := false
  entry := 0
  bypass := 0
  rect := none
  reserved := none
  quantum := 0
  placed := 0
  stuckAt := none
  ctx := none
  membersEnded := []
  chan := Channel.empty
  predsDone := false
  restart := none
  released := false

namespace State

/-- Is a graph live: has some task neither ended nor failed for good (R298)? -/
def graphLive (s : State) (n : Nat) (g : Graph) : Bool :=
  (List.range g.tasks.length).any fun k =>
    !s.taskEnded n k && (match g.tasks[k]? with
      | some t => !t.failed
      | none => false)

/-- Graphs that are live. -/
def liveGraphs (s : State) : List Nat := (s.graphs.filter fun e => s.graphLive e.1 e.2).map (·.1)

/-- The first graph number from one on that no live graph has. -/
def nextNumber (s : State) : Nat → Nat → Nat
  | 0, n => n
  | fuel + 1, n => if s.liveGraphs.contains n then nextNumber s fuel ((n + 1) % 2 ^ 20) else n

/-- Accept a graph (R298, R302). -/
def acceptGraph (s : State) (die : Nat) (ptbase : Word) (ts : List Task) : State :=
  let n := s.nextNumber 257 s.nextGraph.toNat
  let ts := withImplicit ts
  let insts := (List.range ts.length).flatMap fun k => match ts[k]? with
    | some t => (List.range t.instances).map fun i => (taskKey n k i, Inst.fresh n k i)
    | none => []
  let s := { s with
    graphs := Map.insert s.graphs n ⟨ptbase, ts⟩
    nextGraph := BitVec.ofNat 20 (n + 1)
    insts := insts.foldl (fun m (e : Nat × Inst) => Map.insert m e.1 e.2) (s.insts.filter fun e => e.2.graph ≠ n) }
  (s.setDie die { s.die die with glast := BitVec.ofNat 64 n }).kick

/-- Refuse a graph: GLAST keeps the number of the last accepted one. -/
def refuseGraph (s : State) (die reason : Nat) : State :=
  let d := s.die die
  s.setDie die { d with glast := BitVec.ofNat 64 (2 ^ 63 + reason * 2 ^ 56 + d.glast.toNat % 2 ^ 20) }

/-- Is no reserved bit of a PTBASE set? -/
def ptbaseOk (w : Word) : Bool := w &&& 0x000FFFFFFFFF07FF#64 = w

/-- The dispatcher reads the graph of a header: its PTBASE and tasks, or the lowest reason against it (R298). -/
def readGraph (late : Bool) (die : Nat) (v : Word) : Acc (Except Nat (Word × List Task)) := do
  let s ← get
  let pa := wbits v 5 47 * 32
  let full := if 256 ≤ s.liveGraphs.length then [4] else []
  if 2 ^ 39 ≤ pa then pure (.error (full.headD 5))
  else
    let hdr := s.rawRead pa 32
    let count := fieldOf hdr 0 8
    let ptw : Word := BitVec.ofNat 64 (fieldOf hdr 0x10 8)
    if count = 0 || 4096 < count || fieldOf hdr 0x18 8 ≠ 0 || !ptbaseOk ptw then pure (.error 1)
    else
      let pt := ptbaseOf ptw
      match ← orNone (readList late die pt (fieldOf hdr 8 8) count) with
      | none => pure (.error (full.headD 5))
      | some vas =>
        let r ← readTasks late die pt vas vas 0 ⟨full, []⟩
        match r.reasons with
        | [] => pure (.ok (ptw, r.tasks))
        | x :: xs => pure (.error (xs.foldl min x))

/-- A write of GSUBMIT (R298): the graph is accepted, or the lowest reason that holds refuses it; none while a read of it
waits for a CXL link or a path, with nothing done yet. -/
def submitGraph (s : State) (late : Bool) (die : Nat) (v : Word) : Option State :=
  match readGraph late die v s with
  | (.ok (.ok (ptw, ts)), s') => some (s'.acceptGraph die ptw ts)
  | (.ok (.error reason), s') => some (s'.refuseGraph die reason)
  | (.error _, _) => none

/-! ### The end of a graph (R207, R222, R298, R305) -/

/-- Free the forests and the slots of a graph on a die. -/
def dropObjects (s : State) (n die : Nat) : State :=
  let s := (s.die die).forests.foldl (fun s e => if e.2.owner = some n then s.dropForest die e.1 e.2 else s) s
  (s.die die).slots.foldl (fun s e =>
    if e.2.owner = some n then
      let s := s.setDie die { s.die die with slots := Map.erase (s.die die).slots e.1 }
      if e.2.st = .armed || e.2.st = .partial_ then s.freeSlotOf die e.1 e.2 else s
    else s) s

/-- A graph that has stopped being live gives back its channels, forests and slots. -/
def settleGraph (s : State) (n : Nat) : State :=
  match Map.find s.graphs n with
  | none => s
  | some g =>
    if s.graphLive n g then s
    else
      let s := (List.range Config.dies).foldl (fun s d =>
        let s := s.setDie d { s.die d with chanHolder := (s.die d).chanHolder.filter fun e => e.2 ≠ n }
        s.dropObjects n d) s
      { s with pkgHolder := s.pkgHolder.filter fun e => e.2 ≠ n }.notifySlots

/-! ### DEVENT (R300) -/

/-- Has a die's DEVENT queue room? -/
def eventRoom (s : State) (die : Nat) : Bool := (s.die die).devents.length < 4096

/-- Append an event and raise the notification. -/
def appendEvent (s : State) (die : Nat) (failed : Bool) (id : Nat) : State :=
  let s := s.setDie die { s.die die with devents := (s.die die).devents ++ [(failed, BitVec.ofNat 48 id)] }
  s.notify die (s.die die).dnote

/-- The device lets go of the cores of an instance. -/
def freeCores (s : State) (k : Nat) : State :=
  (s.coresHeld k).foldl (fun s c =>
    { s.dropCheckpoints c with
      cores := Map.erase s.cores c
      threads := (List.range 4).foldl (fun m t => Map.erase m (threadKey c t)) s.threads
      xblocks := s.xblocks.filter fun x => x.dst ≠ c
      drFlights := s.drFlights.filter fun x => x.core ≠ c }) s

/-! ### Placement (R303 to R307) -/

end State

/-- Columns of the rectangle of a task (R304). -/
def rectCols (t : Task) : Nat := if t.paired then 2 * t.w else t.w

/-- The cores of a rectangle, row by row. -/
def rectCores (t : Task) (r : Rect) : List Nat :=
  (List.range t.h).flatMap fun i => (List.range (rectCols t)).map fun j => coreAt r.die (r.x + j) (r.y + i)

/-- The rectangles of a die in the order of the CID at their top-left corner. -/
def rectsOf (t : Task) (die : Nat) : List Rect :=
  (List.range (33 - t.h)).flatMap fun y => (List.range (65 - rectCols t)).map fun x => ⟨die, x, y⟩

namespace State

/-- May a core be placed at all: is it not withdrawn, not reserved for another instance, not under test (R301, R94)? -/
def placeable (s : State) (k c : Nat) : Bool :=
  !(s.die (dieOf c)).wdrawn.getLsbD (cidOf c) && !(s.cluster (clusterOf c)).testing &&
    !(s.insts.any fun e => e.1 ≠ k && (match e.2.reserved, s.taskOf e.2 with
      | some r, some t => (rectCores t r).contains c
      | _, _ => false))

/-- Does a rectangle fit, counting some cores that are held now as idle? -/
def rectFits (s : State) (k : Nat) (t : Task) (r : Rect) (freed : Nat → Bool) : Bool :=
  (rectCores t r).all fun c => s.placeable k c && ((s.core c).inst.isNone || freed c)

/-- May an instance of a graph hold its named channels on a die (R305)? -/
def mayHold (s : State) (n : Nat) (t : Task) (die : Nat) : Bool :=
  (match t.diech with
  | some ch => (Map.find (s.die die).chanHolder ch.toNat).all (· = n)
  | none => true) &&
  (match t.pkgch with
  | some ch => (Map.find s.pkgHolder ch.toNat).all (· = n)
  | none => true)

/-- Tensor nodes of a task that a die homes (R277, R304). -/
def tensorsAt (s : State) (t : Task) (die : Nat) : Nat :=
  let slots := (t.tens.filterMap fun e => s.nodeOf e.1.toNat).filter fun e => e.2.home = die
  (slots.map (·.1)).dedup.length

/-- The dies in the order in which they are preferred for a task: more of its tensors, then the lower index (R304). -/
def dieOrder (s : State) (t : Task) : List Nat :=
  (List.range Config.dies).foldl (fun l d => insertDie d l) []
where
  /-- Insert a die after those that home as many tensors. -/
  insertDie (d : Nat) : List Nat → List Nat
    | [] => [d]
    | x :: r => if s.tensorsAt t x < s.tensorsAt t d then d :: x :: r else x :: insertDie d r

/-- The rectangle that an instance is placed on (R304). -/
def bestRect (s : State) (k : Nat) (i : Inst) (t : Task) (freed : Nat → Bool) : Option Rect :=
  ((s.dieOrder t).filter (s.mayHold i.graph t)).findSome? fun d => (rectsOf t d).find? fun r => s.rectFits k t r freed

/-- No core beyond the idle ones. -/
def noneFreed (_ : Nat) : Bool := false

/-- Clear a core's scratchpad (R256, R31). -/
def clearPad (s : State) (c : Nat) : State :=
  let inPad (x : Nat) : Bool := padBase c ≤ x && x < padBase c + Config.padSize
  { s with mem := s.mem.filter fun e => !inPad e.1, poison := s.poison.filter fun x => !inPad x }

/-- The launch block of a member (R24). -/
def launchBlock (t : Task) (args : List Word) : List Byte :=
  leBytes 8 1 ++ leBytes 8 (t.w * t.h) ++ leBytes 8 t.threads ++ leBytes 8 args.length ++
    (List.range 16).flatMap fun k => leBytes 8 (args.getD k 0).toNat

/-- DOMAIN of every thread context of a rectangle (R16, R304). -/
def placedDomain (t : Task) (r : Rect) : Domain :=
  ⟨BitVec.ofNat 11 (r.y * 64 + r.x), t.pkgch.isSome, t.diech.isSome, t.pkgch.getD 0, t.diech.getD 0, 1⟩

/-- A thread at task start (R31, R24, R25, R16). -/
def startThread (k : Nat) (t : Task) (args : List Word) (r : Rect) (member tid : Nat) : Thread :=
  let base := Thread.idle (BitVec.ofNat 2 tid)
  let g : Vector Word 32 := Vector.ofFn fun j =>
    if j.val = 2 then BitVec.ofNat 64 (0x3D000 + tid * 0x1000)
    else if 4 ≤ j.val && j.val ≤ 11 then args.getD (j.val - 4) 0
    else 0
  { base with
    running := tid < t.threads, g := g, pc := t.entry, spanix := BitVec.ofNat 6 member,
    spansz := BitVec.ofNat 32 (t.h * 2 ^ 24 + t.w * 2 ^ 16 + t.w * t.h), taskid := BitVec.ofNat 48 k, launch := t.desc,
    domain := placedDomain t r }

/-- The core state that every core of a rectangle receives at placement (R304, R378). -/
def placedCore (s : State) (k : Nat) (pt : PtBase) (r : Rect) : Core :=
  { Core.idle with inst := some k, ptbase := pt, tvec := (s.die r.die).dtvec.setWidth 64 <<< 2 }

/-- Zero-fill the core of a member and write its launch block (R31, R256, R378). -/
def zeroFill (s : State) (k : Nat) (t : Task) (pt : PtBase) (args : List Word) (r : Rect) (member c : Nat) : State :=
  let s := s.clearPad c
  let s := s.padWrite c 0 (launchBlock t args)
  let bits : BitVec 64 := BitVec.ofNat 64 (2 ^ t.threads - 1)
  let s := s.setCore c { s.placedCore k pt r with chan := ⟨[(0, bits)], [], 0⟩ }
  (List.range 4).foldl (fun s tid => s.setThread c tid (startThread k t args r member tid)) s

/-- The partner core of a paired member is held; it runs nothing of its own but receives what every core of the rectangle
receives (R304, R378). -/
def holdPartner (s : State) (k : Nat) (t : Task) (pt : PtBase) (r : Rect) (c : Nat) : State :=
  let s := (s.clearPad c).setCore c (s.placedCore k pt r)
  (List.range 4).foldl (fun s tid =>
    s.setThread c tid { Thread.idle (BitVec.ofNat 2 tid) with domain := placedDomain t r }) s

/-- Running threads of a saved core, as a bitmap. -/
def runningBits (ts : List Thread) : BitVec 64 :=
  (List.range 4).foldl (fun m t => match ts[t]? with
    | some x => if x.running then m ||| (1#64 <<< t) else m
    | none => m) 0

/-- Load the context of a core (R307, R309, R378, R158, R16). -/
def loadCore (s : State) (t : Task) (pt : PtBase) (r : Rect) (c : Nat) (x : MemberCtx) : State :=
  let s := s.clearPad c
  let s := { s with
    mem := x.pad.foldl (fun m (e : Host.Cell) => Map.put 0 m (padBase c + e.1) e.2) s.mem
    poison := x.poison.foldl (fun l u => setInsert l (padBase c + u)) s.poison }
  let bits := runningBits x.threads
  let s := s.setCore c { x.core with
    ptbase := pt, tvec := (s.die r.die).dtvec.setWidth 64 <<< 2, l1 := [],
    chan := { x.core.chan with members := if bits = 0 then [] else [(0, bits)] } }
  let s := (List.range 4).foldl (fun s tid => match x.threads[tid]? with
    | some th => s.setThread c tid { th with domain := { th.domain with
        spanch := BitVec.ofNat 11 (r.y * 64 + r.x), pkgv := t.pkgch.isSome, diev := t.diech.isSome,
        pkgch := t.pkgch.getD 0, diech := t.diech.getD 0 } }
    | none => s) s
  let s := if (s.core c).paired && ((s.thread c 0).spansz != 0) then s.checkpointPair c else s
  let s : State := (Map.keys x.core.streams).foldl (fun (s : State) k => s.enqueue (.streamComplete c k)) (s.enqueue (.streamStart c))
  let s := (s.kickCaptures c).enqueue (.matrixWordExecute c)
  s.enqueue (.mmsPanel c)

/-- Take the named channels that the graph does not hold yet: they begin empty (R305). -/
def takeChannels (s : State) (n die : Nat) (t : Task) : State :=
  let s := match t.diech with
    | some ch =>
      let d := s.die die
      if Map.find d.chanHolder ch.toNat = some n then s
      else s.setDie die { d with chanHolder := Map.insert d.chanHolder ch.toNat n, chans := Map.erase d.chans ch.toNat }
    | none => s
  match t.pkgch with
  | some ch =>
    if Map.find s.pkgHolder ch.toNat = some n then s
    else { s with pkgHolder := Map.insert s.pkgHolder ch.toNat n, pkgChans := Map.erase s.pkgChans ch.toNat }
  | none => s

/-- The membership of a span channel: every thread of the instance (R158). -/
def spanMembers (t : Task) : Map (BitVec 64) :=
  ((List.range (t.w * t.h)).flatMap fun m => (List.range t.threads).map fun tid => (m, tid)).foldl
    (fun b e => bitmapSet b (e.1 / 16) (4 * (e.1 % 16) + e.2)) []

/-- The quantum of an instance on a die (R308). -/
def quantumOf (s : State) (t : Task) (die : Nat) : Nat := if t.quantum = 0 then (s.die die).dquant.toNat else t.quantum.toNat

/-- The tables of the graph of an instance. -/
def ptOf (s : State) (i : Inst) : PtBase :=
  match Map.find s.graphs i.graph with
  | some g => ptbaseOf g.ptbase
  | none => ⟨0, 0⟩

/-- The arguments of a placement: a restarted instance reads them afresh from the descriptor (R352), the ones that it had
before where that read fails (log 20); none while the read waits for a CXL link or a path. -/
def placementArgs (s : State) (k : Nat) (i : Inst) (t : Task) (die : Nat) : Option (List Word × State) :=
  if i.predsDone && i.ctx.isNone then
    match orNone (readVirtual (s.linkLate (.placeInstance k)) die (s.ptOf i) 40 t.desc.toNat 256) s with
    | (.ok (some b), s') => some (argsOf b, s')
    | (.ok none, s') => some (t.args, s')
    | (.error _, _) => none
  else some (t.args, s)

/-- Has a saved member a thread that has not executed TASKEND? An instance that was stopped after its last TASKEND ends as
soon as it is resident again (R302). -/
def savedRuns (x : MemberCtx) : Bool := x.threads.any (·.running)

/-- Place an instance on a rectangle (R304 to R307). -/
def placeOn (s : State) (k : Nat) (i : Inst) (t : Task) (r : Rect) (args : List Word) : State :=
  let pt := s.ptOf i
  let s := s.takeChannels i.graph r.die t
  let cores := rectCores t r
  let j := { i with
    st := .resident, rect := some r, reserved := none, stuckAt := none, bypass := 0, placed := s.stamp, ctx := none,
    quantum := s.quantumOf t r.die, released := false }
  let s := { s with stamp := s.stamp + 1 }
  match i.ctx with
  | some xs =>
    let s := s.setInst k { j with st := if xs.any savedRuns then .resident else .ending }
    let s := (cores.zip xs).foldl (fun s e => s.loadCore t pt r e.1 e.2) s
    ((s.membersOf { i with rect := some r }).foldl (fun s e => s.enqueue (.memberEnd k e.1)) s).kick
  | none =>
    let s := s.setInst k { j with chan := ⟨spanMembers t, [], 0⟩, membersEnded := [] }
    let s := cores.foldl (fun s c => s.holdPartner k t pt r c) s
    ((s.membersOf { i with rect := some r }).foldl (fun s e => s.zeroFill k t pt args r e.1 e.2) s).kick

/-- Place an instance once its arguments have been read, and go on from there. -/
def placeWhenRead (s : State) (k : Nat) (i : Inst) (t : Task) (r : Rect) (next : State → State) : State :=
  match s.placementArgs k i t r.die with
  | none => s.waitLink (.placeInstance k)
  | some (args, s) => next ((s.placeOn k i t r args).endLinkWait (.placeInstance k))

/-- The instance that the dispatchers consider first (R303). -/
def queueHead (s : State) : Option (Nat × Inst) := s.queue.find? fun e => e.2.st ≠ .reserving

/-- Idle cores of a rectangle. -/
def idleIn (s : State) (t : Task) (r : Rect) : Nat := (rectCores t r).countP fun c => (s.core c).inst.isNone

/-- Every core of a rectangle counts as free. -/
def allFreed (_ : Nat) : Bool := true

/-- The rectangle that RESERVING takes: it would fit once its resident instances end, and holds the most idle cores, ties
going to the lowest CID, and then to the lowest die (R306). -/
def reserveRect (s : State) (k : Nat) (i : Inst) (t : Task) : Option Rect :=
  let ds := (List.range Config.dies).filter (s.mayHold i.graph t)
  let rs := ((rectsOf t 0).flatMap fun r => ds.map fun d => { r with die := d }).filter fun r => s.rectFits k t r allFreed
  rs.foldl (fun b r => match b with
    | none => some r
    | some x => if s.idleIn t x < s.idleIn t r then some r else b) none

/-- One more bypass of the head, by an instance that has been placed; the 16th makes the head reserve (R306). -/
def countBypass (s : State) (h : Nat) (i : Inst) (t : Task) : State :=
  let n := i.bypass + 1
  if n < 16 then s.setInst h { i with bypass := n }
  else s.setInst h { i with bypass := n, st := .reserving, reserved := s.reserveRect h i t }

/-- Note when a waiting instance first found no rectangle (R308). -/
def noteStuck (s : State) (k : Nat) (i : Inst) : State :=
  if i.stuckAt.isSome then s else s.setInst k { i with stuckAt := some s.cycle }

/-- Consider a waiting instance (R303 to R306). One that reserves chooses another rectangle if a core of its own has been
withdrawn since. -/
def considerPlacing (s : State) (k : Nat) (i : Inst) (t : Task) : State :=
  if i.st = .reserving then
    match (i.reserved.filter fun r => s.rectFits k t r allFreed).or (s.reserveRect k i t) with
    | none => s.setInst k { i with reserved := none }
    | some r =>
      let i := { i with reserved := some r }
      let s := s.setInst k i
      if s.rectFits k t r noneFreed && s.mayHold i.graph t r.die then s.placeWhenRead k i t r id else s.noteStuck k i
  else
    match s.bestRect k i t noneFreed with
    | none => s.noteStuck k i
    | some r =>
      match s.queueHead with
      | none => s
      | some (h, hi) =>
        if h = k then s.placeWhenRead k i t r id
        else
          match s.taskOf hi with
          | none => s
          | some ht =>
            if (s.bestRect h hi ht noneFreed).isSome then s.enqueue (.placeInstance h)
            else s.placeWhenRead k i t r fun s => s.countBypass h hi ht

/-! ### Quanta and pre-emption (R308, R309) -/

/-- Stop a resident instance. -/
def beginStop (s : State) (k : Nat) : State :=
  match Map.find s.insts k with
  | some i => if i.st = .resident then (s.setInst k { i with st := .stopping }).enqueue (.preemptionStop k) else s
  | none => s

/-- Cores of instances that are being stopped. -/
def stoppingCore (s : State) (c : Nat) : Bool :=
  match s.instOf c with
  | some i => i.st = .stopping
  | none => false

/-- Could a waiting instance use cores that stopping an instance would free (R308)? -/
def couldUse (s : State) (k q : Nat) (i : Inst) (t : Task) : Bool :=
  let mine (c : Nat) : Bool := (s.core c).inst = some k
  match i.reserved with
  | some r => (rectCores t r).any mine
  | none =>
    ((List.range Config.dies).filter (s.mayHold i.graph t)).any fun d =>
      (rectsOf t d).any fun r => (rectCores t r).any mine && s.rectFits q t r mine

/-- Resident instances below a priority, the lowest first, the most recently placed first among equals (R308). -/
def victims (s : State) (p : Nat) : List Nat :=
  let before (a b : Inst) : Bool := s.prioOf a < s.prioOf b || (s.prioOf a = s.prioOf b && b.placed < a.placed)
  let rec ins (e : Nat × Inst) : List (Nat × Inst) → List (Nat × Inst)
    | [] => [e]
    | x :: r => if before e.2 x.2 then e :: x :: r else x :: ins e r
  (((s.insts.filter fun e => e.2.st = .resident && s.prioOf e.2 < p).foldl (fun l e => ins e l) []).map (·.1))

/-- Does a waiting instance fit once the instances that are being stopped have gone? -/
def fitsAfterStops (s : State) (k : Nat) (i : Inst) (t : Task) : Bool :=
  match i.reserved with
  | some r => s.rectFits k t r s.stoppingCore
  | none => (s.bestRect k i t s.stoppingCore).isSome

/-- Stop instances one after the other until the waiting one fits. -/
def stopUntilFits (s : State) (k : Nat) (i : Inst) (t : Task) : List Nat → State
  | [] => s
  | v :: r => if s.fitsAfterStops k i t then s else stopUntilFits (s.beginStop v) k i t r

/-- Does a stream of a stopping instance stand still (R197): is it parked, has it ended, or is it at a 4 KiB boundary of its
destination progress? -/
def standsStill (s : State) (c : Nat) (x : Stream) : Bool :=
  x.parked.isSome || x.stopped || (s.stopsOn c && x.req.atBoundary x.cursor)

/-- Does a stream wait in its context slot for those that stand still (R195)? It parks with them. -/
def waitsBehind (s : State) (c slot : Nat) (x : Stream) : Bool :=
  let free := s.setCore c { s.core c with streams := (s.core c).streams.filter fun e => e.1 = slot || !s.standsStill c e.2 }
  let stays (s : State) : Bool := match s.runStream c slot false x with
    | (.waits, s') => (s'.stream c slot).all (·.cursor = x.cursor)
    | _ => false
  stays s && !stays free

/-- Does the word at which a capture stands wait on streams that stand still (R195, R112): would it go on without them? -/
def waitsParked (s : State) (c tid : Nat) : Bool :=
  match (s.thread c tid).capture with
  | none => false
  | some x =>
    let by_ (st : BitVec 4) : Reg := BitVec.ofNat 5 (x.pass * st.toNat)
    let stays (s : State) : Bool :=
      match (x.words[x.word]?).bind decodeCaptured with
      | none => false
      | some i =>
        match (s.asThread c tid).runCaptured x.addr x.word (advanceWord (by_ x.sd) (by_ x.sa) (by_ x.sb) i) with
        | (s', .stays) => s' = s.asThread c tid
        | _ => false
    let free := s.setCore c { s.core c with streams := (s.core c).streams.filter fun e => !s.standsStill c e.2 }
    stays s && !stays free

/-- Does the word of a thread wait for a CXL link that is down (R335)? It has not retired and is issued again (R147, R220). -/
def waitsLink (t : Thread) : Bool :=
  match t.op with
  | some (.cxlReadTimeout _ _) => true
  | _ => false

/-- May a thread be stopped (R309): at a boundary outside any cover, in task mode, with no work that must complete? -/
def threadStops (s : State) (c tid : Nat) : Bool :=
  let t := s.thread c tid
  !t.running ||
    (t.mode = .task && t.cover = 0 && !t.inPhase && t.forest.isNone && (t.op.isNone || waitsLink t) &&
      (!midPass t || waitsCaptured t || s.waitsParked c tid))

/-- Has a core drained (R309)? Its running streams have come to a 4 KiB boundary (R197). -/
def coreDrained (s : State) (c : Nat) : Bool :=
  let x := s.core c
  x.vq.isEmpty && (x.streams.all fun e => s.standsStill c e.2 || s.waitsBehind c e.1 e.2) &&
    (match x.mq with
    | [] => true
    | e :: _ => isMms e.instr) &&
    (!x.paired || x.interval.all (· = 0)) && s.flights.all (fun f => f.core ≠ c) && s.xblocks.all (fun b => b.src ≠ c) &&
    s.drFlights.all fun f => f.core ≠ c

/-- A thread as it is saved: a word that has not retired is issued again on resume (R309, R147). On resume the thread begins
a new fetch block (DESIGN CHOICE, log 36: R32, R56 and R309 do not say whether it keeps the one in hand). -/
def savedThread (t : Thread) : Thread :=
  { t with
    wait := none, op := none, parked := none, fetched := none, stopTrap := false, stopTold := false, yielded := 0,
    wake := false, fixMask := none, pathSince := none }

/-- Save a core (R309, R32). -/
def saveCore (s : State) (c : Nat) : MemberCtx × State :=
  let s := (List.range 4).foldl (fun s tid => s.abandon c (parkedOf (s.thread c tid))) s
  let s := (s.core c).streams.foldl (fun s e => s.abandon c e.2.parked) s
  let x := s.snapshot c
  ({ x with
      threads := x.threads.map savedThread
      core := { x.core with
        streams := x.core.streams.map fun e => (e.1, { e.2 with parked := none })
        mq := x.core.mq.map fun e => { e with carried := true } } },
    s)

/-- Save every core of an instance and let it go. -/
def saveInst (s : State) (k : Nat) (i : Inst) : State :=
  let (xs, s) := (s.coresHeld k).foldl (fun (acc : List MemberCtx × State) c =>
    let (x, s) := acc.2.saveCore c
    (acc.1 ++ [x], s)) ([], s)
  let st : InstState := if s.predsEnded i then .ready else .early
  let s := s.setInst k { i with st := st, rect := none, ctx := some xs, entry := s.stamp, stuckAt := none, bypass := 0 }
  ({ s with stamp := s.stamp + 1 }.freeCores k).kick

/-- The executing thread takes trap 15 for the present stop (R99). -/
def stopTrapNow (s : State) : State := (s.setMe { s.me with stopTrap := false, stopTold := true }).takeTrap 15 0

/-- Does an asynchronous trap reach the word of a thread: none is in hand, it is blocked (R147), or it is a RELABEL, wherever
that stands (R220)? A parked access, and one that an engine performs, are left to end first. -/
def openToTrap (t : Thread) : Bool :=
  (t.parked.isNone && t.op.isNone && t.forest.isNone) || (match t.wait with
    | some (.relabel _ _ _) => true
    | _ => false)

/-- A thread of a stopping instance that runs a handler takes trap 15 first if AIE is 1 (R99), once in a stop. One that is
blocked takes it at once: its word has had no effect and is issued again (R147), a WFI has retired (R90). Any other takes
it at its next boundary. -/
def askHandlers (s : State) (k : Nat) : State :=
  s.forThreads k fun s c tid =>
    let t := s.thread c tid
    if !(t.running && t.mode = .service && t.aie) || t.stopTold then s
    else if t.cover = 0 && t.wait.isSome && openToTrap t && t.pending.isNone then
      (s.abandon c (parkedOf t)).within c tid fun s => (if t.wait = some .wfi then s.retire else s).stopTrapNow
    else s.setThread c tid { t with stopTrap := true }

/-- The open intervals of the paired cores of a stopping instance whose thread has come to its stop close (R309, R98). -/
def closeIntervals (s : State) (k : Nat) : State :=
  s.forThreads k fun s c tid =>
    let x := s.core c
    if x.paired && x.interval.toList.getD tid 0 ≠ 0 && s.threadStops c tid then s.enqueue (.pairIntervalEnd c tid true)
    else s

/-! ### The end and the failure of an instance (R91, R376) -/

/-- Do the four conditions of R91 hold for the core of a member whose threads have all executed TASKEND? -/
def memberDrained (s : State) (c : Nat) : Bool :=
  let x := s.core c
  (List.range 4).all (fun t => !(s.thread c t).running) && x.vq.isEmpty && x.mq.isEmpty && x.fifo.isEmpty &&
    x.streams.isEmpty && s.flights.all (fun f => f.core ≠ c) && s.xblocks.all (fun b => b.src ≠ c) &&
    (List.range 4).all (fun t => (s.thread c t).capture.all fun a => a.suspended || a.passes ≤ a.pass) &&
    (!x.paired || x.interval.all (· = 0))

/-- An instance whose members have all ended ends, if its event finds room (R300, R302). -/
def endInst (s : State) (k : Nat) : State :=
  match Map.find s.insts k with
  | none => s
  | some i =>
    match i.rect with
    | none => s
    | some r =>
      if i.st = .ending && (s.membersOf i).all (fun e => i.membersEnded.contains e.1) && s.eventRoom r.die then
        let s := s.freeCores k
        let s := s.setInst k { i with st := .ended, signalled := true, rect := none, released := true }
        ((s.appendEvent r.die false k).settleGraph i.graph).kick
      else s

/-- Restart or fail for good a FAILED instance that has let go of everything (R352, R319). -/
def spreadFailure (s : State) (n : Nat) : List Nat → State
  | [] => s
  | k :: rest =>
    match Map.find s.graphs n with
    | none => s
    | some g =>
      match g.tasks[k]? with
      | none => spreadFailure s n rest
      | some t =>
        let bad := t.preds.any fun p => match g.tasks[p]? with
          | some u => u.failed
          | none => false
        if bad && !t.failed then
          let s := { s with graphs := Map.insert s.graphs n { g with tasks := g.tasks.set k { t with failed := true } } }
          spreadFailure ((s.instsOf n k).foldl (fun s e => s.failInstance e.1) s) n rest
        else spreadFailure s n rest

/-- A task fails for good, and with it every task that depends on it (R319). -/
def failTask (s : State) (n k : Nat) : State :=
  match Map.find s.graphs n with
  | none => s
  | some g =>
    match g.tasks[k]? with
    | none => s
    | some t =>
      let s := { s with graphs := Map.insert s.graphs n { g with tasks := g.tasks.set k { t with failed := true } } }
      ((s.spreadFailure n (List.range g.tasks.length)).settleGraph n).kick

/-- A RESTART write takes effect (R352). An instance of a task that has failed for good stays FAILED (R319). -/
def applyRestart (s : State) (k : Nat) (i : Inst) (fail : Bool) : State :=
  if fail then (s.setInst k { i with restart := none }).failTask i.graph i.task
  else if (s.taskOf i).any (·.failed) then s.setInst k { i with restart := none }
  else
    { s.setInst k { i with
        st := .ready, restart := none, entry := s.stamp, bypass := 0, stuckAt := none, ctx := none, predsDone := true }
      with stamp := s.stamp + 1 }.kick

/-- A write of RESTART (R352): held while the instance has not let go of everything. -/
def writeRestart (s : State) (v : Word) : State :=
  let k := wbits v 0 48
  match Map.find s.insts k with
  | none => s
  | some i =>
    if i.st ≠ .failed then s
    else if i.released then s.applyRestart k i (v.getLsbD 63)
    else s.setInst k { i with restart := some (v.getLsbD 63) }

/-- Stop every member of a failed instance, and let its cores go once the event has room (R376, R300). -/
def stopFailed (s : State) (k : Nat) (i : Inst) (r : Rect) : State :=
  let s := (s.coresHeld k).foldl (fun s c =>
    let s := (List.range 4).foldl (fun s tid => s.abandon c (parkedOf (s.thread c tid))) s
    let s := (s.core c).streams.foldl (fun s e => s.abandon c e.2.parked) s
    let s := s.discardEngines c
    let s := s.setCore c { s.core c with streams := [] }
    (List.range 4).foldl (fun s tid => s.setThread c tid { s.thread c tid with
      running := false, wait := none, op := none, parked := none, forest := none, pending := none, fetched := none,
      inPhase := false, owes := false, pathSince := none }) s) s
  if s.eventRoom r.die then
    let s := s.freeCores k
    let s := s.setInst k { i with rect := none, ctx := none, released := true }
    let s := (s.appendEvent r.die true k).settleGraph i.graph
    (if i.restart.isSome then s.enqueue (.restartApply k) else s).kick
  else s

/-- A write of DFAIL (R378): it fails a resident instance, and names nothing otherwise. -/
def writeDfail (s : State) (v : Word) : State :=
  let k := wbits v 0 48
  match Map.find s.insts k with
  | none => s
  | some i => if holdsCores i.st then (s.failInstance k).kick else s

/-- A read of DEVENT (R299, R300): an instance that waited for room may go on. -/
def readDevent (s : State) (die : Nat) : Word × State :=
  match (s.die die).devents with
  | [] => (0, s)
  | (failed, id) :: rest =>
    let s := s.setDie die { s.die die with devents := rest }
    let s := s.insts.foldl (fun s e =>
      if e.2.st = .failed && !e.2.released then s.enqueue (.instanceFail e.1)
      else if e.2.st = .ending then
        (s.membersOf e.2).foldl (fun s m => s.enqueue (.memberEnd e.1 m.1)) s
      else s) s
    (BitVec.ofNat 64 (2 ^ 63 + (if failed then 2 ^ 62 else 0) + id.toNat), s)

/-! ### Words that wait for a service-register access -/

/-- The service-register write that a thread waits in completes at its die: the effect, as a numbered write if it crosses a
bridge (R253), and the word retires. It waits while no path leads there, which is timed (R324). -/
def completeWrite (s : State) (core tid die : Nat) (e : Instr) (f : State → State) : Out :=
  if (s.thread core tid).op ≠ some e then .next s
  else if !s.hasPath (dieOf core) die then .next (s.within core tid (·.waitsPath die))
  else .next ((s.within core tid fun s => ((f s).numberAtOnce core die).retire).afterLeaving core tid)

end State

/-- The register that a waiting load writes. -/
def loadDest (i : Option Instr) : Reg :=
  match i with
  | some (.ld d _ _) => d
  | some (.ldad d _ _) => d
  | _ => 0

/-! ### Events -/

/-- PLACE_INSTANCE (R303 to R307). -/
def execPlaceInstance (inst : Nat) (s : State) : Out :=
  match Map.find s.insts inst with
  | none => .next s
  | some i =>
    match s.taskOf i with
    | none => .next s
    | some t => .next (if State.waitsForCores i then s.considerPlacing inst i t else s)

/-- MEMBER_END (R91). -/
def execMemberEnd (inst member : Nat) (s : State) : Out :=
  match Map.find s.insts inst with
  | none => .next s
  | some i =>
    match (s.membersOf i).find? fun e => e.1 = member with
    | none => .next s
    | some (_, c) =>
      if (i.st = .resident || i.st = .ending) && s.memberDrained c then
        .next ((s.setInst inst { i with membersEnded := setInsert i.membersEnded member }).endInst inst)
      else .next s

/-- INSTANCE_FAIL (R376). -/
def execInstanceFail (inst : Nat) (s : State) : Out :=
  match Map.find s.insts inst with
  | none => .next s
  | some i =>
    match i.rect with
    | none => .next s
    | some r => .next (if i.st = .failed && !i.released then s.stopFailed inst i r else s)

/-- QUANTUM_EXPIRY (R308). -/
def execQuantumExpiry (inst : Nat) (s : State) : Out :=
  match Map.find s.insts inst with
  | none => .next s
  | some i =>
    match s.taskOf i, i.rect with
    | some t, some r =>
      if i.st ≠ .resident || i.quantum ≠ 0 then .next s
      else if s.queue.any fun e => s.prioOf i ≤ s.prioOf e.2 && (match s.taskOf e.2 with
          | some u => s.couldUse inst e.1 e.2 u
          | none => false) then .next (s.beginStop inst)
      else .next (s.setInst inst { i with quantum := s.quantumOf t r.die })
    | _, _ => .next s

/-- PRIORITY_PREEMPTION (R308): the waiting instance has found no rectangle for 1,024 cycles. -/
def execPriorityPreemption (inst : Nat) (s : State) : Out :=
  match Map.find s.insts inst with
  | none => .next s
  | some i =>
    match s.taskOf i, i.stuckAt with
    | some t, some since =>
      if State.waitsForCores i && 1024 ≤ (s.cycle - since).toNat && (s.bestRect inst i t State.noneFreed).isNone then
        .next (s.stopUntilFits inst i t (s.victims (s.prioOf i)))
      else .next s
    | _, _ => .next s

/-- PREEMPTION_STOP (R309, R99): each core drains, then the instance is saved. -/
def execPreemptionStop (inst : Nat) (s : State) : Out :=
  match Map.find s.insts inst with
  | none => .next s
  | some i =>
    if i.st ≠ .stopping then .next s
    else
      let cores := s.coresHeld inst
      if cores.all fun c => s.coreDrained c && (List.range 4).all fun t => s.threadStops c t then .next (s.saveInst inst i)
      else .next ((s.askHandlers inst).closeIntervals inst)

/-- DEVENT_READ (R299): a waiting load of DEVENT takes the event. -/
def execDeventRead (core tid die : Nat) (s : State) : Out :=
  if (s.thread core tid).op = some (.deventRead core tid die) then
    .next ((s.within core tid fun s =>
      let d := loadDest s.me.wait
      let (x, s) := s.readDevent die
      s.deliver d x).afterLeaving core tid)
  else .next s

/-- GSUBMIT_WRITE (R298): it waits while a read of the graph waits for a CXL link or a path (R335). -/
def execGsubmitWrite (core tid die : Nat) (v : Word) (s : State) : Out :=
  let e : Instr := .gsubmitWrite core tid die v
  if (s.thread core tid).op ≠ some e then .next (s.endLinkWait e)
  else
    match s.submitGraph (s.linkLate e) die v with
    | none => .next (s.waitLink e)
    | some _ => s.completeWrite core tid die e fun s => (((s.submitGraph (s.linkLate e) die v).getD s)).endLinkWait e

/-- DFAIL_WRITE (R378). -/
def execDfailWrite (core tid die : Nat) (v : Word) (s : State) : Out :=
  s.completeWrite core tid die (.dfailWrite core tid die v) fun s => s.writeDfail v

/-- RESTART_INSTANCE (R352): a write of RESTART with FAIL 0. -/
def execRestartInstance (core tid die : Nat) (v : Word) (s : State) : Out :=
  s.completeWrite core tid die (.restartInstance core tid die v) fun s => s.writeRestart v

/-- FAIL_TASK (R352, R319): a write of RESTART with FAIL 1. -/
def execFailTask (core tid die : Nat) (v : Word) (s : State) : Out :=
  s.completeWrite core tid die (.failTask core tid die v) fun s => s.writeRestart v

/-- RESTART_APPLY (R352): a held write takes effect. -/
def execRestartApply (inst : Nat) (s : State) : Out :=
  match Map.find s.insts inst with
  | none => .next s
  | some i =>
    match i.restart with
    | none => .next s
    | some fail => .next (if i.st = .failed && i.released then s.applyRestart inst i fail else s)

/-- WATCHDOG_EXPIRY (R15, R314): trap 12 outside any cover, at an instruction boundary; a blocked word is left as it
stands (R147), but for WFI, which has retired (R90). -/
def execWatchdogExpiry (core tid : Nat) (s : State) : Out :=
  let t := s.thread core tid
  if t.running && t.wdogDue && t.cover = 0 && State.openToTrap t && !(s.core core).contained then
    .next ((s.abandon core (State.parkedOf t)).within core tid fun s =>
      (if t.wait = some .wfi then s.retire else s).watchdogTrap)
  else .next s

/-- The cores of a pair: the leader, which executes, and its partner. -/
def pairCores (core : Nat) : List Nat := [core, State.partner core]

/-- A thread as a rollback restores it: a word that stood blocked has not retired and is issued again. -/
def restoredThread (t : Thread) : Thread := { t with wait := none, op := none, parked := none, forest := none, wake := false }

/-- The matrix queue as a rollback restores it: with what peers and stores have shown its words since. -/
def restoredQueue (now kept : List MatEntry) : List MatEntry :=
  kept.map fun e => match now.find? fun c => c.stamp = e.stamp && c.tid = e.tid with
    | some c => { e with served := c.served, pad := c.pad }
    | none => e

/-- Put words back into a queue in their order of issue. -/
def mergeQueue {α : Type} (stamp : α → Nat) (l : List α) : List α → List α
  | [] => l
  | e :: r => mergeQueue stamp (l.filter (fun x => stamp x < stamp e) ++ e :: l.filter (fun x => stamp e ≤ stamp x)) r

/-- Restore what the words of a thread have written since the end of its last matched interval (R98): its registers, WDOG
and a trap 12 that waits among them (DESIGN CHOICE, log 11: R15 has WDOG decrement whatever the thread does, R98 has
registers restored), the elements of the accumulator store and of the magnitude table, its words in the queues. What the
core's other threads have done since stays. The scratchpad needs no restoring: every word that writes it closes its
interval before and after (leavesPair), and writes of streams, of exchange blocks and of other cores have been performed
once and stay. -/
def State.rollback (s : State) (core tid : Nat) (x : PairPoint) : State :=
  let s := s.abandon core (State.parkedOf (s.thread core tid))
  let c := s.core core
  let put (m : Map (BitVec 32)) (l : Map (BitVec 32)) : Map (BitVec 32) := l.foldl (fun m e => Map.put 0 m e.1 e.2) m
  let s := s.setCore core { c with
    tvec := x.tvec.getD c.tvec, ptbase := x.ptbase.getD c.ptbase
    acc0 := put c.acc0 (x.acc.filter fun e => e.1 < 16384)
    acc1 := put c.acc1 ((x.acc.filter fun e => 16384 ≤ e.1).map fun e => (e.1 - 16384, e.2))
    accPoison := x.accPoison.foldl setInsert c.accPoison, cb2 := put c.cb2 x.cb2
    cb2Poison := x.cb2Poison.foldl setInsert c.cb2Poison
    vq := mergeQueue (·.stamp) (c.vq.filter fun e => e.tid.toNat ≠ tid) x.vq
    mq := mergeQueue (·.stamp) (c.mq.filter fun e => e.tid.toNat ≠ tid) (restoredQueue c.mq x.mq)
    interval := c.interval.set (tid % 4) 0 (Nat.mod_lt _ (by decide)), matched := State.markThread c.matched tid false }
  s.setThread core tid (restoredThread x.thread)

/-- PAIR_INTERVAL_END (R98, R354): the fingerprints of a thread's interval, with the word in hand where that is about to
leave the pair, agree or not. On agreement the interval closes; a first mismatch rolls back, a second of the same interval
contains both cores. -/
def execPairIntervalEnd (core tid : Nat) (agree : Bool) (s : State) : Out :=
  let c := s.core core
  if !c.paired || c.contained then .next s
  else if agree then .next ((s.agreeInterval core (tid % 4) true).kickCaptures core)
  else if c.mismatched.getLsbD (tid % 4) then
    let s := (pairCores core).foldl (fun s x => s.coreRecord x 7 5 16 0 0 0) s
    .next ((s.contain core).contain (State.partner core))
  else
    match Map.find s.checkpoints (threadKey core (tid % 4)) with
    | none => .next s
    | some x =>
      let s := (s.rollback core (tid % 4) x).kickCaptures core
      let s := s.setCore core { s.core core with mismatched := State.markThread (s.core core).mismatched (tid % 4) true }
      let d := s.die (dieOf core)
      let s := s.setDie (dieOf core) { d with pairfix := d.pairfix + 1 }
      .next (s.coreRecord core 6 5 0 tid 0 0)

end Sys2Proof.Machine
end

