-- ==== Sys2Proof/Machine/ServiceRegs.lean ====
section
/-! DEFINITION. The service registers of clusters and dies (R257, R271, R272, R274, R283, R284, R299, R328, R329, R332,
R352, R357, R358): reads, writes, and the writes that have a row of their own in the operation table. -/

namespace Sys2Proof.Machine

/-- A notification register as a word: EN bit 8, MB bits 7:4, SCORE bits 2:0. -/
def noteWord (n : Note) : Word := BitVec.ofNat 64 (bit n.en * 256 + n.mb.toNat * 16 + n.score.toNat)

/-- A notification register from a word. -/
def noteOf (v : Word) : Note := ⟨v.getLsbD 8, v.extractLsb' 4 4, v.extractLsb' 0 3⟩

/-- A BASE and KEY register as a word (R328, R357). -/
def baseKeyWord (base : BitVec 36) (key : BitVec 11) : Word := BitVec.ofNat 64 (base.toNat * 2 ^ 16 + key.toNat)

/-! ### The predictive counters (R358) -/

/-- A predictive counter of the die block. -/
inductive CounterReg where
  | msym (dev g : Nat)
  | mrow (dev e : Nat)
  | lane (l : Nat)
  | cxl (q : Nat)
  deriving DecidableEq, Repr

/-- The counter at an offset of the die block. -/
def counterAt (off : Nat) : Option CounterReg :=
  if 0x1000 ≤ off && off < 0x2200 then
    let dev := (off - 0x1000) / 0x100
    let r := off % 0x100
    if r < 0x40 then some (.msym dev (r / 8))
    else if r < 0xC0 then some (.mrow dev ((r - 0x40) / 8))
    else none
  else if 0x2400 ≤ off && off < 0x2580 then some (.lane ((off - 0x2400) / 8))
  else if 0x2580 ≤ off && off < 0x2590 then some (.cxl ((off - 0x2580) / 8))
  else none

namespace State

/-- A corrected-symbol counter, a row-table entry, a lane counter of a die. -/
def msymOf (d : Die) (dev g : Nat) : BitVec 32 := Map.get 0 d.msym (dev * 8 + g)
def mrowOf (d : Die) (dev e : Nat) : RowCount := Map.get ⟨0, 0, 0⟩ d.mrow (dev * 16 + e)
def laneOf (d : Die) (l : Nat) : LaneCount := Map.get ⟨0, 0⟩ d.lanecnt l

/-- A counter rises to or above its threshold: one record of KIND 8 (R358, R356). -/
def threshold (s : State) (die unit loc sub off old new limit : Nat) : State :=
  if limit ≠ 0 && old < limit && limit ≤ new then s.errorRecord die 8 unit 0 sub loc 0 off new else s

/-- Set a corrected-symbol counter. -/
def setMsym (s : State) (die dev g : Nat) (x : BitVec 32) : State :=
  let d := s.die die
  let s := s.setDie die { d with msym := Map.put 0 d.msym (dev * 8 + g) x }
  s.threshold die 4 dev g (0x1000 + 0x100 * dev + 8 * g) (msymOf d dev g).toNat x.toNat d.symth.toNat

/-- Set the entry of a row table. -/
def setMrow (s : State) (die dev e : Nat) (x : RowCount) : State :=
  let d := s.die die
  let old := if (mrowOf d dev e).bank = x.bank && (mrowOf d dev e).row = x.row then (mrowOf d dev e).count.toNat else 0
  let s := s.setDie die { d with mrow := Map.put ⟨0, 0, 0⟩ d.mrow (dev * 16 + e) x }
  s.threshold die 4 dev 0 (0x1040 + 0x100 * dev + 8 * e) old x.count.toNat d.rowth.toNat

/-- Unit and sub-unit of a lane in a record: an Ethernet lane, or a bridge lane group. -/
def laneUnit (l : Nat) : Nat := if l < 32 then 11 else 10

/-- Set a lane counter. -/
def setLane (s : State) (die l : Nat) (x : LaneCount) : State :=
  let d := s.die die
  let old := laneOf d l
  let s := s.setDie die { d with lanecnt := Map.put ⟨0, 0⟩ d.lanecnt l x }
  let off := 0x2400 + 8 * l
  let s := s.threshold die (laneUnit l) l 0 off old.retrain.toNat x.retrain.toNat d.retrth.toNat
  s.threshold die (laneUnit l) l 0 off old.fec.toNat x.fec.toNat d.fecth.toNat

/-- Set a port counter. -/
def setCxl (s : State) (die q : Nat) (x : CxlCount) : State :=
  let d := s.die die
  let old := cxlOf d q
  let s := s.setDie die { d with cxlcnt := Map.put ⟨0, 0, 0⟩ d.cxlcnt q x }
  let off := 0x2580 + 8 * q
  let s := s.threshold die 12 q 0 off old.linkdown.toNat x.linkdown.toNat d.retrth.toNat
  s.threshold die 12 q 0 off old.replay.toNat x.replay.toNat d.cxlth.toNat

/-! ### Reads -/

/-- A predictive counter as a word (R358). -/
def counterWord (d : Die) : CounterReg → Word
  | .msym dev g => (msymOf d dev g).setWidth 64
  | .mrow dev e =>
    let x := mrowOf d dev e
    BitVec.ofNat 64 (x.count.toNat * 2 ^ 32 + x.bank.toNat * 2 ^ 20 + x.row.toNat)
  | .lane l =>
    let x := laneOf d l
    BitVec.ofNat 64 (x.retrain.toNat * 2 ^ 48 + x.fec.toNat)
  | .cxl q =>
    let x := cxlOf d q
    BitVec.ofNat 64 (x.linkdown.toNat * 2 ^ 48 + x.poison.toNat * 2 ^ 32 + x.replay.toNat)

/-- Instances resident on a die (R299). -/
def residentOn (s : State) (die : Nat) : Nat :=
  s.insts.countP fun e => match e.2.rect with
    | some r => r.die = die
    | none => false

/-- LFLAT (R283): flattens homed on a die, waiting and running or queued, each in its 16 bits, which saturate (DESIGN CHOICE,
log 36: R283 gives no rule for more than 65,535). -/
def lflatWord (s : State) (die : Nat) : Nat :=
  let fs := s.nodes.filter fun e => e.2.home = die && e.2.st = .flattening
  min (fs.countP fun e => e.2.flatWaits) 65535 * 2 ^ 16 + min fs.length 65535

/-- The register of a die at an offset, without a read effect. -/
def readDieReg (s : State) (die off : Nat) : Word :=
  let d := s.die die
  let w (x : Nat) : Word := BitVec.ofNat 64 x
  match off with
  | 0x000 => d.fbpend.extractLsb' 0 64
  | 0x008 => d.fbpend.extractLsb' 64 64
  | 0x010 => noteWord d.fbnote
  | 0x020 => w (d.migbase.toNat * 2 ^ 16)
  | 0x028 => d.migsize
  | 0x030 => d.migin
  | 0x038 => d.migout
  | 0x040 => d.migdirect
  | 0x048 => d.walks
  | 0x140 => 0
  | 0x200 => w (d.lpbase.toNat * 2 ^ 16)
  | 0x208 => d.lpsize.setWidth 64
  | 0x210 => d.lfree
  | 0x218 => d.lresv.setWidth 64
  | 0x220 => d.lwarn.setWidth 64
  | 0x228 => noteWord d.lnote
  | 0x230 => w (s.lflatWord die)
  | 0x238 => w s.freeSlots
  | 0x240 => d.lcopy
  | 0x248 => d.lmat
  | 0x250 => d.lsplice
  | 0x258 => d.lrefuse
  | 0x300 => 0
  | 0x308 => d.glast
  | 0x310 => d.dquant.setWidth 64
  | 0x318 => noteWord d.dnote
  | 0x328 => w (s.residentOn die)
  | 0x330 => 0
  | 0x338 => w (d.dtvec.toNat * 4)
  | 0x340 => 0
  | 0x600 => baseKeyWord d.seobase d.seokey
  | 0x608 => d.seosize
  | 0x610 => d.seresv
  | 0x618 => d.sedrop
  | 0x620 => d.seatom
  | 0x700 => w (d.eptbase.toNat * 32)
  | 0x708 => d.eptsize.setWidth 64
  | 0x710 => w (d.inwbase.toNat * 16)
  | 0x718 => d.inwsize.setWidth 64
  | 0x720 => d.netdup
  | 0x800 => baseKeyWord d.errbase d.errkey
  | 0x808 => d.errsize.setWidth 64
  | 0x810 => d.errhead.setWidth 64
  | 0x818 => d.errtail.setWidth 64
  | 0x820 => d.errlost
  | 0x828 => noteWord d.errnote
  | 0x2590 => d.votecor
  | 0x2598 => d.pairfix
  | 0x25C0 => w (d.rowth.toNat * 2 ^ 32 + d.symth.toNat)
  | 0x25C8 => w (d.retrth.toNat * 2 ^ 48 + d.fecth.toNat)
  | 0x25D0 => d.cxlth.setWidth 64
  | _ =>
    if 0x100 ≤ off && off < 0x140 then 0
    else if 0x400 ≤ off && off < 0x500 then d.wdrawn.extractLsb' (64 * ((off - 0x400) / 8)) 64
    else match counterAt off with
      | some c => counterWord d c
      | none => Config.unlistedRegister s.free off

/-- FBENTA of a fault-buffer entry (R271). -/
def fbentaWord (e : FaultEntry) : Nat :=
  e.page.toNat * 2 ^ 16 + bit e.deliver * 2 ^ 15 + e.tid.toNat * 2 ^ 12 + e.core.toNat * 2 ^ 8 + bit e.perm * 8 +
    bit e.stream * 4 + bit e.write * 2 + bit e.read

/-- FBSTAT of a cluster (R271). -/
def fbstatWord (c : Cluster) : Nat :=
  c.parked.toNat * 2 ^ 16 + bit c.dropped * 2 ^ 8 + (c.fb.map fun e => 2 ^ e.1).sum

/-- The register of a cluster at an offset (R271). Of an entry that is not valid, FBENTA gives DELIVER as it was written and 0
in every other field, and FBENTB gives 0: DESIGN CHOICE, the spec names no value there (log 36). -/
def readClusterReg (s : State) (cluster off : Nat) : Word :=
  let c := s.cluster cluster
  if off = 0 then BitVec.ofNat 64 (fbstatWord c)
  else if off = 8 then c.total
  else if off = 0x10 then c.dropcnt
  else if 0x100 ≤ off && off < 0x180 then
    match Map.find c.fb ((off - 0x100) / 16) with
    | none => if off % 16 = 0 then BitVec.ofNat 64 (bit (c.deliver.getLsbD ((off - 0x100) / 16)) * 2 ^ 15) else 0
    | some e =>
      if off % 16 = 0 then BitVec.ofNat 64 (fbentaWord e)
      else BitVec.ofNat 64 (e.time.toNat * 2 ^ 32 + e.count.toNat)
  else Config.unlistedRegister s.free off

/-! ### Regions of the die's own GDDR7 -/

/-- Does a range from a 64 KiB frame on lie in the GDDR7 of a die (R257)? -/
def inOwnGddr (die base n : Nat) : Bool := die * 2 ^ 37 ≤ base * 2 ^ 16 && base * 2 ^ 16 + n ≤ (die + 1) * 2 ^ 37

/-! ### Writes that have a row of their own -/

/-- May the resident pieces of a die be written back now: is the link of each modified one up (R260, R335)? -/
def piecesCanGo (s : State) (die : Nat) : Bool :=
  (s.die die).pieces.all fun p => !p.modified || s.cxlLinkUp (portOfFrame p.frame)

/-- A write of MIGBASE or MIGSIZE (R260): every resident piece is written back and released, then the new pool takes
effect; a pool that is not GDDR7 of the die stores MIGSIZE = 0. -/
def writeMigration (s : State) (die off : Nat) (v : Word) : State :=
  let d := s.die die
  let d := { d with
    migout := d.migout + BitVec.ofNat 64 (d.pieces.countP Piece.modified)
    pieces := [] }
  let s := (s.die die).pieces.foldl writeBackPiece s
  let d := if off = 0x020 then { d with migbase := v.extractLsb' 16 36 } else { d with migsize := v }
  s.setDie die (if inOwnGddr die d.migbase.toNat (migBytes d) then d else { d with migsize := 0 })

/-- The base SRAM of a die writes back every line recorded under a key, with the poison of its words (R274, R350): lines of
device memory, and those of blocks in the die's pool. -/
def writeBackKey (s : State) (die : Nat) (key : KeyMat) : State :=
  let s := s.writeBackWhere fun u => homeOfPhys u = die && (Map.find s.tags (u / 16)).all (·.key = key)
  if s.nodesClean then s
  else { s with nodes := s.nodes.map fun e => (e.1, e.2.carryFine fun u =>
    (Map.find (e.2.blocks (Node.fineBlock u).1) (Node.fineBlock u).2).any fun b => b.pool = die && b.key = key) }

/-- A write of KEYLOAD (R274): the lines under the slot are written back, and the slot takes KEYWORD0 to KEYWORD7, which
clear. -/
def writeKeyload (s : State) (die : Nat) (v : Word) : State :=
  let s := s.writeBackKey die (s.keyOf die (v.extractLsb' 0 11).toNat)
  let d := s.die die
  let key : BitVec 512 := BitVec.ofNat 512 ((List.range 8).map fun k => (d.keywords.toList.getD k 0).toNat * 2 ^ (64 * k)).sum
  s.setDie die { d with keys := Map.insert d.keys (v.extractLsb' 0 11).toNat (.loaded key), keywords := Vector.replicate 8 0 }

/-- Is a block of a die's lineage pool allocated? -/
def poolUsed (d : Die) : Bool := d.lfree.toNat + d.lresv.toNat ≠ d.lpsize.toNat

/-- Does a lineage pool of a die hold to R284? -/
def poolOk (die : Nat) (d : Die) (size : Nat) : Bool :=
  (size = 0 || 64 ≤ size) && inOwnGddr die d.lpbase.toNat (size * 4096) &&
    !rangesMeet (d.lpbase.toNat * 2 ^ 16) (size * 4096) (d.migbase.toNat * 2 ^ 16) (migBytes d) &&
    !rangesMeet (d.lpbase.toNat * 2 ^ 16) (size * 4096) (d.seobase.toNat * 2 ^ 16) (seoBytes d)

/-- A write of LPBASE or LPSIZE (R284): ignored while a block is allocated; a write of SIZE sets up the pool and its
reserve, and the flattens that wait for a block go on. A write of LPBASE changes BASE alone: SIZE, LFREE and LRESV stay, and
the pool is not checked again (DESIGN CHOICE, log 36: R284 does not say what a set-up pool does). -/
def writePool (s : State) (die off : Nat) (v : Word) : State :=
  let d := s.die die
  if poolUsed d then s
  else if off = 0x200 then s.setDie die { d with lpbase := v.extractLsb' 16 36 }
  else
    let n := wbits v 0 26
    let n := if poolOk die d n then n else 0
    let s := s.setDie die { d with lpsize := BitVec.ofNat 26 n, lresv := if n = 0 then 0 else 64 }
    (s.setLfree die (n - 64)).serveWaiting s.nodes.length

/-- A write of SEOBASE or SEOSIZE (R329): ignored while a forest or an armed or partial slot exists; a region that
breaks the conditions stores SIZE = 0. -/
def writeOverflow (s : State) (die off : Nat) (v : Word) : State :=
  let d := s.die die
  if !d.forests.isEmpty || d.slots.any fun e => e.2.st = .armed || e.2.st = .partial_ then s
  else
    let d := if off = 0x600 then { d with seobase := v.extractLsb' 16 36, seokey := v.extractLsb' 0 11 }
      else { d with seosize := v }
    let ok := inOwnGddr die d.seobase.toNat (seoBytes d) &&
      !rangesMeet (d.seobase.toNat * 2 ^ 16) (seoBytes d) (d.lpbase.toNat * 2 ^ 16) (lpBytes d) &&
      !rangesMeet (d.seobase.toNat * 2 ^ 16) (seoBytes d) (d.migbase.toNat * 2 ^ 16) (migBytes d)
    s.setDie die (if ok then d else { d with seosize := 0 })

/-- A write of ERRBASE or ERRSIZE sets ERRHEAD and ERRTAIL to 0 (R357). Once the log has room, the records owed since
boot are made (R364). -/
def writeErrorLog (s : State) (die off : Nat) (v : Word) : State :=
  let d := { s.die die with errhead := 0, errtail := 0 }
  let s := s.setDie die (if off = 0x800 then { d with errbase := v.extractLsb' 16 36, errkey := v.extractLsb' 0 11 }
    else { d with errsize := v.extractLsb' 0 16 })
  if (s.die die).errsize.toNat ≤ 1 then s
  else
    let mine := s.owed.filter fun o => o.1 = die
    mine.foldl (fun s o => s.errorRecord die 11 o.2.1 0 0 o.2.2 0 0 0) { s with owed := s.owed.filter fun o => o.1 ≠ die }

/-! ### Writes of the other registers (R375, R5) -/

/-- Write a predictive counter: its RW fields take the value (R358). -/
def writeCounter (s : State) (die : Nat) (v : Word) : CounterReg → State
  | .msym dev g => s.setMsym die dev g (v.extractLsb' 0 32)
  | .mrow dev e => s.setMrow die dev e { mrowOf (s.die die) dev e with count := v.extractLsb' 32 32 }
  | .lane l => s.setLane die l ⟨v.extractLsb' 48 16, v.extractLsb' 0 32⟩
  | .cxl q => s.setCxl die q ⟨v.extractLsb' 48 16, v.extractLsb' 32 16, v.extractLsb' 0 32⟩

/-- Replace 64 bits of WDRAWN. -/
def setWdrawn (d : Die) (k : Nat) (v : Word) : Die :=
  let mask : BitVec 2048 := (BitVec.allOnes 64).setWidth 2048 <<< (64 * k)
  { d with wdrawn := (d.wdrawn &&& ~~~mask) ||| (v.setWidth 2048 <<< (64 * k)) }

/-- Write a register of a die that has no row of its own. -/
def writeDieReg (s : State) (die off : Nat) (v : Word) : State :=
  let d := s.die die
  match off with
  | 0x010 => s.setDie die { d with fbnote := noteOf v }
  | 0x220 => s.setDie die { d with lwarn := v.extractLsb' 0 26 }
  | 0x228 => s.setDie die { d with lnote := noteOf v }
  | 0x310 => s.setDie die { d with dquant := v.extractLsb' 0 48 }
  | 0x318 => s.setDie die { d with dnote := noteOf v }
  | 0x338 => s.setDie die { d with dtvec := v.extractLsb' 2 53 }
  | 0x700 => s.setDie die { d with eptbase := v.extractLsb' 5 47 }
  | 0x708 => s.setDie die { d with eptsize := v.extractLsb' 0 13 }
  | 0x710 => s.setDie die { d with inwbase := v.extractLsb' 4 48 }
  | 0x718 => s.setDie die { d with inwsize := v.extractLsb' 0 16 }
  | 0x810 => s.setDie die { d with errhead := v.extractLsb' 0 16 }
  | 0x828 => s.setDie die { d with errnote := noteOf v }
  | 0x25C0 => s.setDie die { d with rowth := v.extractLsb' 32 32, symth := v.extractLsb' 0 32 }
  | 0x25C8 => s.setDie die { d with retrth := v.extractLsb' 48 16, fecth := v.extractLsb' 0 32 }
  | 0x25D0 => s.setDie die { d with cxlth := v.extractLsb' 0 32 }
  | _ =>
    if 0x100 ≤ off && off < 0x140 then
      let k := (off - 0x100) / 8
      s.setDie die { d with keywords := d.keywords.set (k % 8) v (Nat.mod_lt _ (by decide)) }
    else if 0x400 ≤ off && off < 0x500 then (s.setDie die (setWdrawn d ((off - 0x400) / 8) v)).kick
    else match counterAt off with
      | some c => s.writeCounter die v c
      | none => s

/-- Write a register of a cluster: DELIVER of a valid entry is the one RW field (R271). -/
def writeClusterReg (s : State) (cluster off : Nat) (v : Word) : State :=
  let c := s.cluster cluster
  if 0x100 ≤ off && off < 0x180 && off % 16 = 0 then
    let k := (off - 0x100) / 16
    match Map.find c.fb k with
    | none =>
      let others := c.deliver &&& ~~~(1#8 <<< k)
      s.setCluster cluster { c with deliver := if v.getLsbD 15 then others ||| (1#8 <<< k) else others }
    | some e => s.setCluster cluster { c with fb := Map.insert c.fb k { e with deliver := v.getLsbD 15 } }
  else s

/-! ### Every write by its row -/

/-- The operation of a write of a die register by a thread. -/
def dieWriteEvent (core tid die off : Nat) (v : Word) : Instr :=
  if off = 0x020 || off = 0x028 then .migrationPoolWrite core tid die off v
  else if off = 0x140 then .keyload core tid die v
  else if off = 0x200 || off = 0x208 then .lineagePoolWrite core tid die off v
  else if off = 0x300 then .gsubmitWrite core tid die v
  else if off = 0x330 then if v.getLsbD 63 then .failTask core tid die v else .restartInstance core tid die v
  else if off = 0x340 then .dfailWrite core tid die v
  else if off = 0x600 || off = 0x608 then .overflowRegionWrite core tid die off v
  else if off = 0x800 || off = 0x808 then .errorLogWrite core tid die off v
  else .serviceRegisterWrite core tid die none off v

/-- The effect of a write of a die register, whichever row it has. -/
def dieWrite (s : State) (die off : Nat) (v : Word) : State :=
  if off = 0x020 || off = 0x028 then s.writeMigration die off v
  else if off = 0x140 then s.writeKeyload die v
  else if off = 0x200 || off = 0x208 then s.writePool die off v
  else if off = 0x300 then (s.submitGraph false die v).getD s
  else if off = 0x330 then s.writeRestart v
  else if off = 0x340 then s.writeDfail v
  else if off = 0x600 || off = 0x608 then s.writeOverflow die off v
  else if off = 0x800 || off = 0x808 then s.writeErrorLog die off v
  else s.writeDieReg die off v

/-- A load of a die register by the executing thread: its value, DEVENT with its read effect (R299, R375). -/
def dieRead (s : State) (die off : Nat) : Word × State :=
  if off = 0x320 then s.readDevent die else (s.readDieReg die off, s)

end State

/-! ### Events -/

/-- MIGRATION_POOL_WRITE (R260): it waits while a write-back waits for a link. -/
def execMigrationPoolWrite (core tid die off : Nat) (v : Word) (s : State) : Out :=
  if s.piecesCanGo die then
    s.completeWrite core tid die (.migrationPoolWrite core tid die off v) fun s => s.writeMigration die off v
  else .next s

/-- KEYLOAD (R274). -/
def execKeyload (core tid die : Nat) (v : Word) (s : State) : Out :=
  s.completeWrite core tid die (.keyload core tid die v) fun s => s.writeKeyload die v

/-- LINEAGE_POOL_WRITE (R284). -/
def execLineagePoolWrite (core tid die off : Nat) (v : Word) (s : State) : Out :=
  s.completeWrite core tid die (.lineagePoolWrite core tid die off v) fun s => s.writePool die off v

/-- OVERFLOW_REGION_WRITE (R329). -/
def execOverflowRegionWrite (core tid die off : Nat) (v : Word) (s : State) : Out :=
  s.completeWrite core tid die (.overflowRegionWrite core tid die off v) fun s => s.writeOverflow die off v

/-- ERROR_LOG_WRITE (R357). -/
def execErrorLogWrite (core tid die off : Nat) (v : Word) (s : State) : Out :=
  s.completeWrite core tid die (.errorLogWrite core tid die off v) fun s => s.writeErrorLog die off v

/-- SERVICE_REGISTER_WRITE (R375). -/
def execServiceRegisterWrite (core tid die : Nat) (cluster : Option Nat) (off : Nat) (v : Word) (s : State) : Out :=
  s.completeWrite core tid die (.serviceRegisterWrite core tid die cluster off v) fun s =>
    match cluster with
    | some c => s.writeClusterReg (die * 128 + c) off v
    | none => s.writeDieReg die off v

end Sys2Proof.Machine
end

