-- ==== Sys2Proof/Machine/Memory.lean ====
section
/-! DEFINITION. Scalar loads and stores, acquire loads and release stores, fences, atomics (R146 to R148, R155 to R157),
with the accesses to service registers (R375). -/

namespace Sys2Proof.Machine

namespace State

/-- The address of a scalar load or store: g(a) + sext(imm, 16) (R148). -/
def offsetAddr (s : State) (a : Reg) (i : BitVec 16) : Nat := (s.g a + sext16 i).toNat

end State

/-- Load n bytes into g(d), as f reads them (R148, R155). -/
def loadInto (i : Instr) (d : Reg) (va n : Nat) (f : Nat → Word) (s : State) : Out :=
  finish i 5 (do
    let x ← loadNat (s.agent 5) va n
    modify fun s => s.setG d (f x)) s

/-- Store the low n bytes of a word (R148, R155). -/
def storeFrom (i : Instr) (va n : Nat) (x : Word) (s : State) : Out :=
  finish i 5 (storeNat (s.agent 5) va n (x.toNat % 2 ^ (8 * n))) s

/-- n bytes sign-extended, or zero-extended, to 64 bits. -/
def loadSigned (n x : Nat) : Word := word (signed (8 * n) x)
def loadZero (x : Nat) : Word := BitVec.ofNat 64 x

/-- The place of an aligned doubleword. A service register waits for a path to it, and until the earlier writes of the thread
have been performed and acknowledged (R375, R253). -/
def placeDouble (a : Agent) (k : Kind) (va : Nat) : Acc Loc := do
  checkAligned va 8
  let loc ← resolve { a with regs := true } k va 8
  let s ← get
  let reach (d : Nat) : Acc Loc :=
    if !s.hasPath (dieOf a.core) d then throw (if k.writes then .path d else .stall)
    else if s.ownWritesOut then throw .stall
    else pure loc
  match loc with
  | .clusterReg c _ => reach (c / 128)
  | .dieReg d _ => reach d
  | _ => pure loc

/-- LD and LDAD: a doubleword, or a service register (R148, R155, R375). A read of DEVENT is left to its own event when
engine work is deferred. -/
def loadDouble (i : Instr) (d : Reg) (va : Nat) (s : State) : Out :=
  match placeDouble (s.agent 5) .load va s with
  | (.error e, s') => .next (State.stopped s s' i 5 e)
  | (.ok loc, s') =>
    match loc with
    | .clusterReg c off => .next ((s'.setG d (s'.readClusterReg c off)).retire)
    | .dieReg die off =>
      if off = 0x320 && s'.defer then
        let s' := s'.block i
        .next (s'.setMe { s'.me with op := some (.deventRead s.curCore s.curTid.toNat die) })
      else
        let (x, s') := s'.dieRead die off
        .next (s'.setG d x).retire
    | _ =>
      finish i 5 (do
        let loc ← placeDouble (s.agent 5) .load va
        let bs ← readLoc (s.agent 5) loc va 8
        modify fun s => s.setG d (BitVec.ofNat 64 (ofLe bs))) s

/-- A write of a service register: its operation is left to its event when engine work is deferred, or when it must wait
for the link of a piece to be written back or of a page to be read (R375, R260, R335). -/
def storeRegister (i : Instr) (e : Instr) (waits : Bool) (f : State → State) (s : State) : Out :=
  if s.defer || waits then
    let s := s.block i
    .next (s.setMe { s.me with op := some e })
  else .next (f s).retire

/-- SD and STLD: a doubleword, or a service register (R148, R155, R375). -/
def storeDouble (i : Instr) (va : Nat) (x : Word) (s : State) : Out :=
  match placeDouble (s.agent 5) .store va s with
  | (.error e, s') => .next (State.stopped s s' i 5 e)
  | (.ok loc, s') =>
    let core := s.curCore
    let tid := s.curTid.toNat
    match loc with
    | .clusterReg c off =>
      storeRegister i (.serviceRegisterWrite core tid (c / 128) (some (c % 128)) off x) false
        (fun s => (s.writeClusterReg c off x).numberAtOnce core (c / 128)) s'
    | .dieReg die off =>
      let e := State.dieWriteEvent core tid die off x
      let reads : Bool := off = 0x300 && !s'.defer && (s'.submitGraph false die x).isNone
      storeRegister i e (reads || (off = 0x020 || off = 0x028) && !s'.piecesCanGo die)
        (fun s => (s.dieWrite die off x).numberAtOnce core die) (if reads then s'.waitLink e else s')
    | _ =>
      finish i 5 (do
        let loc ← placeDouble (s.agent 5) .store va
        writeLoc (s.agent 5) loc va (leBytes 8 x.toNat)) s

/-! ### Scalar loads and stores (R148) -/

/-- LB (R148). -/
def execLb (d a : Reg) (i : BitVec 16) (s : State) : Out :=
  loadInto (.lb d a i) d (s.offsetAddr a i) 1 (loadSigned 1) s

/-- LBN (R148). -/
def execLbn (d a : Reg) (i : BitVec 16) (s : State) : Out :=
  loadInto (.lbn d a i) d (s.offsetAddr a i) 1 (loadZero) s

/-- LH (R148). -/
def execLh (d a : Reg) (i : BitVec 16) (s : State) : Out :=
  loadInto (.lh d a i) d (s.offsetAddr a i) 2 (loadSigned 2) s

/-- LHN (R148). -/
def execLhn (d a : Reg) (i : BitVec 16) (s : State) : Out :=
  loadInto (.lhn d a i) d (s.offsetAddr a i) 2 (loadZero) s

/-- LW (R148). -/
def execLw (d a : Reg) (i : BitVec 16) (s : State) : Out :=
  loadInto (.lw d a i) d (s.offsetAddr a i) 4 (loadSigned 4) s

/-- LWN (R148). -/
def execLwn (d a : Reg) (i : BitVec 16) (s : State) : Out :=
  loadInto (.lwn d a i) d (s.offsetAddr a i) 4 (loadZero) s

/-- LD (R148). -/
def execLd (d a : Reg) (i : BitVec 16) (s : State) : Out := loadDouble (.ld d a i) d (s.offsetAddr a i) s

/-- SB (R148). -/
def execSb (b a : Reg) (i : BitVec 16) (s : State) : Out :=
  storeFrom (.sb b a i) (s.offsetAddr a i) 1 (s.g b) s

/-- SH (R148). -/
def execSh (b a : Reg) (i : BitVec 16) (s : State) : Out :=
  storeFrom (.sh b a i) (s.offsetAddr a i) 2 (s.g b) s

/-- SW (R148). -/
def execSw (b a : Reg) (i : BitVec 16) (s : State) : Out :=
  storeFrom (.sw b a i) (s.offsetAddr a i) 4 (s.g b) s

/-- SD (R148). -/
def execSd (b a : Reg) (i : BitVec 16) (s : State) : Out := storeDouble (.sd b a i) (s.offsetAddr a i) (s.g b) s

/-! ### Acquire loads, release stores, fences (R155, R241). An access of the model is performed at package scope before
the thread issues its next word, so the orders hold of themselves (log 7). -/

/-- LDAB (R155). -/
def execLdab (d a : Reg) (sc : BitVec 2) (s : State) : Out :=
  loadInto (.ldab d a sc) d (s.g a).toNat 1 loadZero s

/-- LDAH (R155). -/
def execLdah (d a : Reg) (sc : BitVec 2) (s : State) : Out :=
  loadInto (.ldah d a sc) d (s.g a).toNat 2 loadZero s

/-- LDAW (R155). -/
def execLdaw (d a : Reg) (sc : BitVec 2) (s : State) : Out :=
  loadInto (.ldaw d a sc) d (s.g a).toNat 4 loadZero s

/-- LDAD (R155). -/
def execLdad (d a : Reg) (sc : BitVec 2) (s : State) : Out := loadDouble (.ldad d a sc) d (s.g a).toNat s

/-- STLB (R155). -/
def execStlb (a b : Reg) (sc : BitVec 2) (s : State) : Out :=
  storeFrom (.stlb a b sc) (s.g a).toNat 1 (s.g b) s

/-- STLH (R155). -/
def execStlh (a b : Reg) (sc : BitVec 2) (s : State) : Out :=
  storeFrom (.stlh a b sc) (s.g a).toNat 2 (s.g b) s

/-- STLW (R155). -/
def execStlw (a b : Reg) (sc : BitVec 2) (s : State) : Out :=
  storeFrom (.stlw a b sc) (s.g a).toNat 4 (s.g b) s

/-- STLD (R155). -/
def execStld (a b : Reg) (sc : BitVec 2) (s : State) : Out := storeDouble (.stld a b sc) (s.g a).toNat (s.g b) s

/-- FACQ (R155, R241): every earlier access of the thread has been performed. -/
def execFacq (_ : BitVec 2) (s : State) : Out := .next s.retire

/-- FREL (R155, R241): every earlier access of the thread has been performed. -/
def execFrel (_ : BitVec 2) (s : State) : Out := .next s.retire

/-- FSC (R155, R241): every earlier access of the thread has been performed. -/
def execFsc (_ : BitVec 2) (s : State) : Out := .next s.retire

/-! ### Atomics (R156, R157) -/

/-- Bytes of an atomic's size: W or D. -/
def amoBytes (z : BitVec 1) : Nat := if z = 0 then 4 else 8

/-- An atomic: read m, write the new value, if there is one, and return m (R156). -/
def amo (i : Instr) (d a b : Reg) (n : Nat) (f : Nat → Nat → Option Nat) (s : State) : Out :=
  let y := (s.g b).toNat % 2 ^ (8 * n)
  finish i 5 (do
    let m ← atomicNat (s.agent 5) true (s.g a).toNat n (fun m => f m y)
    modify fun s => s.setG d (BitVec.ofNat 64 m)) s

/-- The lesser of two values, or the greater, signed or unsigned. -/
def amoPick (n : Nat) (isSigned greater : Bool) (x y : Nat) : Nat :=
  let less := if isSigned then decide (signed (8 * n) x < signed (8 * n) y) else decide (x < y)
  if less = greater then y else x

/-- The new value of AMOBFADD: BF16 sums in each half (R156). -/
def bfHalves (x y : Nat) : Nat :=
  fpAddRne 1 (x % 2 ^ 16) (y % 2 ^ 16) + 2 ^ 16 * fpAddRne 1 (x / 2 ^ 16 % 2 ^ 16) (y / 2 ^ 16 % 2 ^ 16)

/-- AMOADD (R156). -/
def execAmoadd (d a b : Reg) (z : BitVec 1) (o sc : BitVec 2) (s : State) : Out :=
  amo (.amoadd d a b z o sc) d a b (amoBytes z) (fun m y => some ((m + y) % 2 ^ (8 * amoBytes z))) s

/-- AMOAND (R156). -/
def execAmoand (d a b : Reg) (z : BitVec 1) (o sc : BitVec 2) (s : State) : Out :=
  amo (.amoand d a b z o sc) d a b (amoBytes z) (fun m y => some (m &&& y)) s

/-- AMOOR (R156). -/
def execAmoor (d a b : Reg) (z : BitVec 1) (o sc : BitVec 2) (s : State) : Out :=
  amo (.amoor d a b z o sc) d a b (amoBytes z) (fun m y => some (m ||| y)) s

/-- AMOXOR (R156). -/
def execAmoxor (d a b : Reg) (z : BitVec 1) (o sc : BitVec 2) (s : State) : Out :=
  amo (.amoxor d a b z o sc) d a b (amoBytes z) (fun m y => some (m ^^^ y)) s

/-- AMOMIN (R156). -/
def execAmomin (d a b : Reg) (z : BitVec 1) (o sc : BitVec 2) (s : State) : Out :=
  amo (.amomin d a b z o sc) d a b (amoBytes z) (fun m y => some (amoPick (amoBytes z) true false m y)) s

/-- AMOMAX (R156). -/
def execAmomax (d a b : Reg) (z : BitVec 1) (o sc : BitVec 2) (s : State) : Out :=
  amo (.amomax d a b z o sc) d a b (amoBytes z) (fun m y => some (amoPick (amoBytes z) true true m y)) s

/-- AMOMINN (R156). -/
def execAmominn (d a b : Reg) (z : BitVec 1) (o sc : BitVec 2) (s : State) : Out :=
  amo (.amominn d a b z o sc) d a b (amoBytes z) (fun m y => some (amoPick (amoBytes z) false false m y)) s

/-- AMOMAXN (R156). -/
def execAmomaxn (d a b : Reg) (z : BitVec 1) (o sc : BitVec 2) (s : State) : Out :=
  amo (.amomaxn d a b z o sc) d a b (amoBytes z) (fun m y => some (amoPick (amoBytes z) false true m y)) s

/-- AMOSWAP (R156). -/
def execAmoswap (d a b : Reg) (z : BitVec 1) (o sc : BitVec 2) (s : State) : Out :=
  amo (.amoswap d a b z o sc) d a b (amoBytes z) (fun _ y => some y) s

/-- AMOCAS (R156). -/
def execAmocas (d a b : Reg) (z : BitVec 1) (o sc : BitVec 2) (s : State) : Out :=
  amo (.amocas d a b z o sc) d a b (amoBytes z) (fun m y => if m = (s.g d).toNat % 2 ^ (8 * amoBytes z) then some y else none) s

/-- AMOFADD (R156). -/
def execAmofadd (d a b : Reg) (o sc : BitVec 2) (s : State) : Out :=
  amo (.amofadd d a b o sc) d a b 4 (fun m y => some (fpAddRne 0 m y)) s

/-- AMOBFADD (R156). -/
def execAmobfadd (d a b : Reg) (o sc : BitVec 2) (s : State) : Out :=
  amo (.amobfadd d a b o sc) d a b 4 (fun m y => some (bfHalves m y)) s

end Sys2Proof.Machine
end

