-- ==== Sys2Proof/Machine/Mmu.lean ====
section
/-! DEFINITION. REPLAY (R94, R270, R271) and the CXL links (R335). -/

namespace Sys2Proof.Machine

namespace State

/-- The cluster that REPLAY or TESTC names, or none for a bad operand (R94). -/
def clusterOperand (x : Word) : Option Nat :=
  if x &&& ~~~0x37F#64 = 0 then some (wbits x 8 2 * 128 + wbits x 0 7) else none

/-- The cores of a cluster. -/
def coresOf (cluster : Nat) : List Nat := (List.range 16).map (coreOfCluster cluster)

/-- Is a thread parked in the fault buffer, rather than waiting for a CXL link? -/
def parkedInBuffer (t : Thread) : Bool := t.parked.isSome && t.op.isNone

/-- An access that is parked in a cluster: of a thread of a core, or of a stream by its context slot. -/
inductive Waiter where
  | thread (core tid : Nat)
  | stream (core slot : Nat)
  deriving DecidableEq, Repr

/-- The accesses parked on an entry of a cluster, or parked with no entry. -/
def waiters (s : State) (cluster : Nat) (entry : Option Nat) : List Waiter :=
  (coresOf cluster).flatMap fun core =>
    ((List.range 4).filter fun tid =>
      let t := s.thread core tid
      parkedInBuffer t && t.parked.any (·.entry = entry)).map (Waiter.thread core) ++
    ((s.core core).streams.filter fun e => e.2.parked.any (·.entry = entry)).map fun e => Waiter.stream core e.1

/-- The word in hand is issued again, or the capture goes on. -/
def retryThread (s : State) (core tid : Nat) : State :=
  let t := s.thread core tid
  let s := s.setThread core tid { t with wait := none, op := none, parked := none }
  if t.capture.isSome then s.enqueue (.repeatPass core tid) else s

/-- What a parked access of a word does with its bytes: an atomic and an element of VSCATADD read and write (R262). -/
def kindOfWord (i : Option Instr) (write : Bool) : Kind :=
  if !write then .load
  else
    match i with
    | some (.vscatadd _ _ _ _ _) => .both
    | some i => if (encode i).extractLsb' 26 6 = 0x18#6 then .both else .store
    | none => .store

/-- A parked access translates afresh (R270), of the element that its va names (R149): what it parks as if it must park
again. The leaf alone is tried: the place that it gives is reached by the retry, which counts (R272). A lineage address is
tried by its retry alone. -/
def retranslate (s : State) (taken : Option Nat) (a : Agent) (k : Kind) (p : Parked) : Option Parked × State :=
  let va := p.va.toNat % 2 ^ 55
  if !inDeviceMemory va then (none, s)
  else
    match leafOf a k va s with
    | (.error (.park _ write perm), s) =>
      let (k, s) := s.parkBeside taken a va write perm
      (some { p with write := write, entry := k }, s)
    | (.ok _, s) => (none, s)
    | _ => (none, s)

/-- PARKED of a core's cluster counts one access less. -/
def countUnparked (s : State) (core : Nat) : State :=
  let c := s.cluster (clusterOf core)
  s.setCluster (clusterOf core) { c with parked := c.parked - 1 }

/-- REPLAY acts on a parked access (R270): delivered as a trap or a failure of the stream, or retried, while one entry is
still held for those being retried. -/
def replayOne (taken : Option Nat) (deliver : Bool) (s : State) : Waiter → State
  | .thread core tid =>
    let t := s.thread core tid
    match t.parked with
    | none => s
    | some p =>
      let s := s.countUnparked core
      if deliver then s.within core tid fun s => s.takeTrapFrom (waitsCaptured t) (if p.write then 4 else 3) p.va
      else
        match s.retranslate taken ((s.asThread core tid).agent 5) (kindOfWord t.wait p.write) p with
        | (some q, s) => s.setThread core tid { s.thread core tid with parked := some q }
        | (none, s) => s.retryThread core tid
  | .stream core slot =>
    match s.stream core slot with
    | none => s
    | some x =>
      match x.parked with
      | none => s
      | some p =>
        let s := s.countUnparked core
        if deliver then s.failStream core slot 2 p.va.toNat
        else
          match s.retranslate taken (s.streamAgent core x.req) (if !p.write then .load else if x.req.kind = 6 then .both else .store) p with
          | (some q, s) => s.setStream core slot { x with parked := some q }
          | (none, s) => (s.setStream core slot { x with parked := none }).enqueue (.streamComplete core slot)

/-- REPLAY acts on the accesses of one entry, then frees it (R270). DELIVER of the entry reads on as it was last written
(DESIGN CHOICE, log 36: R270 says no more than that the entry is freed). -/
def replayEntry (cluster : Nat) (s : State) (e : Nat × FaultEntry) : State :=
  let ws := s.waiters cluster (some e.1)
  let c := s.cluster cluster
  let bit : BitVec 8 := 1#8 <<< e.1
  let s := s.setCluster cluster { c with
    fb := Map.erase c.fb e.1, deliver := if e.2.deliver then c.deliver ||| bit else c.deliver &&& ~~~bit }
  ws.foldl (replayOne (some e.1) e.2.deliver) s

/-- REPLAY of a cluster (R270): the result, and every parked access retried or delivered. The bit of FBPEND clears once no
entry is valid and DROPPED is 0 (R271). -/
def replay (s : State) (cluster : Nat) : Word × State :=
  let c := s.cluster cluster
  let x : Word := BitVec.ofNat 64 (c.fb.length + bit c.dropped * 2 ^ 32)
  let loose := s.waiters cluster none
  let s := s.setCluster cluster { c with dropped := false }
  let s := c.fb.foldl (replayEntry cluster) s
  let s := loose.foldl (replayOne none false) s
  let c := s.cluster cluster
  if c.fb.isEmpty && !c.dropped then
    let d := s.die (cluster / 128)
    (x, s.setDie (cluster / 128) { d with fbpend := d.fbpend &&& ~~~(1#128 <<< (cluster % 128)) })
  else (x, s)

end State

/-- REPLAY (R94, R270): privileged; a bad operand gives bit 62. -/
def execReplay (d a : Reg) (s : State) : Out :=
  privileged (State.privTval (.replay d a)) (fun s =>
    match State.clusterOperand (s.g a) with
    | none => .next (s.deliver d (BitVec.ofNat 64 (2 ^ 62)))
    | some k =>
      let (x, s) := s.replay k
      .next (s.deliver d x)) s

/-! ### CXL links (R335) -/

namespace State

/-- A link goes down: LINKDOWN counts, and a record of KIND 11 is made (R335, R358). -/
def linkDown (s : State) (p : Nat) : State :=
  let s := { s with cxlUp := s.cxlUp &&& ~~~(1#8 <<< p) }
  let x := cxlOf (s.die (p / 2)) (p % 2)
  let s := s.setCxl (p / 2) (p % 2)
    { x with linkdown := if x.linkdown = BitVec.allOnes 16 then x.linkdown else x.linkdown + 1 }
  s.errorRecord (p / 2) 11 12 0 0 (p % 2) 0 0 0

/-- What waits for a link looks again. -/
def wakeLinks (s : State) : State :=
  let s := s.threads.foldl (fun s e =>
    match e.2.op with
    | some (.cxlReadTimeout _ _) => s.retryThread (e.1 / 4) (e.1 % 4)
    | some (.migrationPoolWrite c t d o v) => s.enqueue (.migrationPoolWrite c t d o v)
    | _ => s) s
  let s := s.wakeEngines
  let s := s.flights.foldl (fun s f =>
    if ofSlot f && !f.performed then s.enqueue (.bridgeWriteReceive (flightKey f.src f.seq)) else s) s
  let s := s.linkWaits.foldl (fun s e => s.enqueue e.1) s
  s.wakeInbox.notifySlots

end State

/-- CXL_LINK_DOWN (R335). -/
def execCxlLinkDown (port : Nat) (s : State) : Out :=
  if port < 8 && s.cxlUp.getLsbD port then .next (s.linkDown port) else .next s

/-- CXL_LINK_UP (R335): the accesses and write-backs that wait proceed. -/
def execCxlLinkUp (port : Nat) (s : State) : Out :=
  if port < 8 && s.cxlPopulated.getLsbD port && !s.cxlUp.getLsbD port then
    .next ({ s with cxlUp := s.cxlUp ||| (1#8 <<< port) }.wakeLinks)
  else .next s

/-- CXL_READ_TIMEOUT (R335): a read that has waited 1,250,000 cycles returns poisoned data, which its thread consumes or
its stream carries. From
number 4 on, tid names context slot tid − 4 of the core. -/
def execCxlReadTimeout (core tid : Nat) (s : State) : Out :=
  if tid < 4 then
    let t := s.thread core tid
    match t.op, t.parked with
    | some (.cxlReadTimeout _ _), some p =>
      if p.write || (s.cycle - t.wfiAt).toNat < 1250000 then .next s
      else
        let captured := State.waitsCaptured t
        let isVec := match t.wait with
          | some i => (vectorWord none i).isSome
          | none => false
        let s := s.lateRead (s.portOf core (p.va.toNat % 2 ^ 55))
        .next (s.within core tid fun s =>
          let s := s.setMe { s.me with wait := none, op := none, parked := none }
          if s.inService then s.takeTrapFrom captured 17 p.va else s.consume (if isVec then 6 else 5) p.va)
    | _, _ => .next s
  else
    let slot := tid - 4
    match s.stream core slot with
    | none => .next s
    | some x =>
      if !State.streamRuns x || !(x.linkAt.any fun c => 1250000 ≤ (s.cycle - c).toNat) then .next s
      else
        match s.runStream core slot false x with
        | (.link va false, _) =>
          let s := s.lateRead (s.portOf core va.toNat)
          match s.runStream core slot true { x with linkAt := none } with
          | (.moved, s') => .next (s'.concludeStream core slot)
          | (.fail c v, s') => .next (s'.failStream core slot c v)
          | (.park va w p, s') => .next (s'.parkStream core slot x (.park va w p))
          | (.space va, s') => .next (s'.parkStream core slot x (.space va))
          | (.link v false, s') => .next ((if v = va then s'.lateStream core slot else s').waitStreamEnd core slot (.link v false))
          | (e, s') => .next (s'.waitStreamEnd core slot e)
        | _ => .next s

end Sys2Proof.Machine
end

