-- ==== Sys2Proof/Machine/Network.lean ====
section
/-! DEFINITION. Bridges with their numbered writes (R253, R323, R324), Ultra Ethernet packets (R332, R333), lanes
(R358). -/

namespace Sys2Proof.Machine

namespace State

/-! ### Numbered writes (R253, R324) -/

/-- A numbered write by its name. -/
def flight (s : State) (k : Nat) : Option Flight := s.flights.find? fun f => flightKey f.src f.seq = k

/-- Change a numbered write. -/
def setFlight (s : State) (k : Nat) (g : Flight → Flight) : State :=
  { s with flights := s.flights.map fun f => if flightKey f.src f.seq = k then g f else f }

/-- Can a write reach its home? A peer module is reached while a port is up that the endpoint's mask allows (R332). -/
def flightReaches (s : State) (f : Flight) : Bool :=
  if f.home < Config.dies then s.hasPath f.src f.home
  else s.ethUp &&& s.endpointPorts f.src (f.home - Config.dies) ≠ 0

/-- Must a write be performed before another: is it an earlier write of the same thread to one of the same locations, by
whichever mapping (R236), or of an earlier word of it to the same 4 KiB block (R238), or an earlier packet of the same
stream to an endpoint with ordered delivery (R333)? Lanes of one word to different locations are unordered (R150, R320). -/
def flightBefore (s : State) (g f : Flight) : Bool :=
  !g.performed && decide (g.seq < f.seq) && g.src = f.src && g.core = f.core && g.stream = f.stream && g.gone = f.gone &&
    (match f.stream with
    | none => g.tid = f.tid &&
        (rangesMeet g.addr g.data.length f.addr f.data.length || (g.word ≠ f.word && decide (g.va / 4096 = f.va / 4096)))
    | some _ => Config.dies ≤ f.home && s.endpointOrdered f.src (f.home - Config.dies))

/-- May a write be performed now? -/
def inOrder (s : State) (f : Flight) : Bool := !s.flights.any fun g => s.flightBefore g f

/-- Has the home performed a number of a source (R324)? -/
def numberSeen (w : Window) (seq : Nat) : Bool := seq < w.base || w.seen.contains seq

/-- Add the elements of a REDUCE packet one by one (R190). -/
def reducePacket (s : State) (pa slot fmt : Nat) : Nat → List Byte → State
  | 0, _ => s
  | fuel + 1, bs =>
    let n := CopyRequest.elemBytes fmt
    if bs.length < n then s
    else
      let x := reduceSum fmt (ofLe (s.physRead pa n slot)) (ofLe (bs.take n))
      reducePacket ((s.countAtomic (homeOfPhys pa)).physWrite pa slot (leBytes n x)) (pa + n) slot fmt fuel (bs.drop n)

/-- The home writes the bytes, replaces the nibble, or adds the elements of a write (R154, R190). -/
def performBytes (s : State) (f : Flight) : State :=
  match f.kind with
  | .bytes => s.physWrite f.addr f.key.toNat f.data
  | .nibble odd =>
    s.physWrite f.addr f.key.toNat [nibbleInto odd (ofLe f.data) (ofLe (s.physRead f.addr 1 f.key.toNat))]
  | .reduce fmt => s.reducePacket f.addr f.key.toNat fmt.toNat f.data.length f.data

/-- The last write to arrive of those that cover a unit of poison whole clears it (R350). -/
def coverArrived (s : State) (f : Flight) : State :=
  let left := s.flights.filter fun g =>
    !g.performed && g.core = f.core && g.tid = f.tid && g.stream = f.stream && g.word = f.word
  let done := f.covers.filter fun u => !left.any fun g => g.covers.contains u
  if done.isEmpty then s
  else { s with
    poison := s.poison.filter fun u => !done.contains (u, 64)
    sramPoison := s.sramPoison.filter fun u => !done.contains (u, 8) }

/-- Writes of INVVA that wait for an access look again (R267). -/
def wakeInvva (s : State) : State :=
  s.threads.foldl (fun s e => match e.2.op with
    | some (.invvaPage c t v) => s.enqueue (.invvaPage c t v)
    | some (.invvaRoot c t v) => s.enqueue (.invvaRoot c t v)
    | some (.invvaAll c t v) => s.enqueue (.invvaAll c t v)
    | _ => s) s

/-- The home reaches the place of a write: of a slot's, which has not reached the second tier before, a page is migrated, or
the write waits for its link (R258, R335). The piece records PIN from the leaf that translated the write (R259). -/
def reachHome (s : State) (f : Flight) : Option State := if ofSlot f then s.reachWrite f.addr f.pin else some s

/-- The home performs a write and records its number; what waits for a slot's write looks again (R231). -/
def performFlight (s : State) (k : Nat) (f : Flight) : State :=
  let s := s.setFlight k fun f => { f with performed := true, copies := f.copies - 1 }
  let s :=
    if f.home < Config.dies then
      let s := (((s.reachHome f).getD s).performBytes f).coverArrived f
      let s := if f.poisoned then (List.range f.data.length).foldl (fun s i => s.setPoison (f.addr + i)) s else s
      s.recordNumber f.home f.src f.seq
    else s
  let s := s.flights.foldl (fun s g =>
    if s.flightBefore { f with performed := false } g && !g.performed then s.enqueue (.bridgeWriteReceive (flightKey g.src g.seq))
    else s) s
  let s := if ofSlot f then s.notifySlots else s
  s.wakeInvva.enqueue (.writeAcknowledged k false)

/-- A copy of a write reaches its home (R253): the first is performed, a later one is discarded. -/
def receiveFlight (s : State) (k : Nat) (f : Flight) : State :=
  let w := Map.get ⟨0, []⟩ (s.die f.home).windows f.src
  if f.performed || (f.home < Config.dies && numberSeen w f.seq) then
    (s.setFlight k fun f => { f with copies := f.copies - 1 }).enqueue (.writeAcknowledged k false)
  else s.performFlight k f

/-- Send a write again by a path that is up, with its own number (R253, R324). -/
def resend (s : State) (k : Nat) : State :=
  (s.setFlight k fun f => { f with copies := f.copies + 1, sentAt := s.cycle }).enqueue (.bridgeWriteReceive k)

/-- Remove an acknowledged write; a stream's packet counts down, and the stream may complete (R333). That of a stream that
has ended counts for no other that runs in its context slot. -/
def acknowledge (s : State) (k : Nat) (f : Flight) : State :=
  let s := { s with flights := s.flights.filter fun x => flightKey x.src x.seq ≠ k }
  match f.stream with
  | none => s
  | some slot =>
    match s.stream f.core slot with
    | none => s
    | some x =>
      if f.gone then s
      else (s.setStream f.core slot { x with unacked := x.unacked - 1 }).enqueue (.streamComplete f.core slot)

/-- A peer refuses a packet (R332): its stream fails with CODE 2, and nothing more of it is sent. -/
def refuseFlight (s : State) (f : Flight) (slot : Nat) : State :=
  let s := { s with flights := s.flights.filter fun x =>
    !(x.core = f.core && x.stream = some slot && x.gone = f.gone && !x.performed) }
  if f.gone then s else s.failStream f.core slot 2 f.va

/-! ### Lane groups and lanes (R323, R324, R358) -/

/-- The two dies that a bridge joins (R323). -/
def bridgeDies (b : Nat) : Nat × Nat :=
  match b with
  | 0 => (0, 1)
  | 1 => (2, 3)
  | 2 => (0, 2)
  | _ => (1, 3)

/-- Count a retrain of a lane of a die; the field saturates. -/
def countRetrain (s : State) (die l : Nat) : State :=
  let x := laneOf (s.die die) l
  s.setLane die l { x with retrain := if x.retrain = BitVec.allOnes 16 then x.retrain else x.retrain + 1 }

/-- The lane number of a group of a bridge in the counters of its dies. -/
def groupLane (b g : Nat) : Nat := (if b < 2 then 32 else 40) + g

/-- A lane group fails and retrains; when its bridge carries nothing more, every unacknowledged write is sent again. -/
def failGroup (s : State) (b g : Nat) : State :=
  let s := { s with groupsDown := setInsert s.groupsDown (b * 8 + g) }
  let (x, y) := bridgeDies b
  let s := (s.countRetrain x (groupLane b g)).countRetrain y (groupLane b g)
  if s.bridgeUp b then s
  else s.flights.foldl (fun s f => if f.home < Config.dies && f.home ≠ f.src then s.resend (flightKey f.src f.seq) else s) s

/-- What waits for a path goes on. -/
def wakePaths (s : State) : State :=
  let s := s.threads.foldl (fun s e => e.2.op.elim s s.enqueue) s
  let s := s.flights.foldl (fun s f => if f.performed then s else s.enqueue (.bridgeWriteReceive (flightKey f.src f.seq))) s
  let s := s.wakeEngines
  let s := s.pathWaits.foldl (fun s e => s.enqueue e.1) s
  (s.linkWaits.foldl (fun s e => s.enqueue e.1) s).notifySlots

/-! ### Inbound packets (R332, R333) -/

/-- Where an inbound write goes: physical base and key slot, or none where the window refuses it. -/
def inboundWindow (s : State) (p : Packet) : Option (Nat × Nat) :=
  let d := s.die p.die
  if d.inwsize.toNat ≤ p.window then none
  else
    let at_ := d.inwbase.toNat * 16 + p.window * 16
    let w0 := ofLe (s.rawRead at_ 8)
    let w1 := ofLe (s.rawRead (at_ + 8) 8)
    let base := bits w0 16 36 * 2 ^ 16
    let size := bits w1 0 32 * 2 ^ 16
    if w0.testBit 0 && w0.testBit 1 && (!p.reduce || w0.testBit 2) && p.off + p.data.length ≤ size && base + size ≤ 2 ^ 39 then
      some (base, bits w1 32 11)
    else none

/-- Receive a packet (R333): a recorded number is discarded and counted; else the writes are performed and the number is
recorded. A window that refuses it performs nothing. Under ROD a packet is taken only when every number of its context before
it has been (R330); one that comes early is not, and its sender sends it again (log 24). What it writes to another die goes
there with a number; while no path leads there it waits at the receiving die (R324). -/
def receivePacket (s : State) (p : Packet) : State :=
  let s := s.endLinkWait (.packetReceive p)
  let d := s.die p.die
  let seen := Map.get [] d.netSeen p.ctx
  if seen.contains p.seq then s.setDie p.die { d with netdup := d.netdup + 1 }
  else if p.rod && p.seq ≠ Map.get 0 d.netNext p.ctx then s
  else
    let next (s : State) : State :=
      if p.rod then s.setDie p.die { s.die p.die with netNext := Map.insert (s.die p.die).netNext p.ctx (p.seq + 1) } else s
    match s.inboundWindow p with
    | none => next s
    | some (base, slot) =>
      let home := homeOfPhys (base + p.off)
      if !s.hasPath p.die home then s.waitPathOf (.packetReceive p) p.die home
      else
      let s := next s
      let s := if p.reduce then s.reducePacket (base + p.off) slot p.fmt.toNat p.data.length p.data
        else s.physWrite (base + p.off) slot p.data
      let s := s.numberFrom p.die home
      let seen := (seen ++ [p.seq]).drop (seen.length + 1 - 65536)
      s.setDie p.die { s.die p.die with netSeen := Map.insert (s.die p.die).netSeen p.ctx seen }

end State

/-! ### Events -/

/-- BRIDGE_WRITE_RECEIVE (R253). -/
def execBridgeWriteReceive (k : Nat) (s : State) : Out :=
  match s.flight k with
  | none => .next s
  | some f => .next (if f.copies ≠ 0 && s.flightReaches f && (f.performed || (s.inOrder f && (s.reachHome f).isSome))
      then s.receiveFlight k f else s)

/-- WRITE_ACKNOWLEDGED (R253): the home has performed the write; a peer may refuse a packet instead (R332). -/
def execWriteAcknowledged (k : Nat) (refused : Bool) (s : State) : Out :=
  match s.flight k with
  | none => .next s
  | some f =>
    match refused, f.stream with
    | true, some slot => .next (if Config.dies ≤ f.home && !f.performed then s.refuseFlight f slot else s)
    | true, none => .next s
    | false, _ => .next (if f.performed then s.acknowledge k f else s)

/-- RESEND_TIMEOUT (R324): no acknowledgement within 4,096 cycles. A write held at a full source is sent once it has room. -/
def execResendTimeout (k : Nat) (s : State) : Out :=
  match s.flight k with
  | none => .next s
  | some f =>
    let held : Bool := f.copies = 0 && !f.performed && s.sourceFull f.src
    .next (if 4096 ≤ (s.cycle - f.sentAt).toNat && !held then s.resend k else s)

/-- WRITE_UNREACHABLE (R324): every 65,536 cycles without a path the die makes a record of KIND 10. -/
def execWriteUnreachable (k : Nat) (s : State) : Out :=
  match s.flight k with
  | none => .next s
  | some f =>
    if f.performed || s.flightReaches f || (s.cycle - f.since).toNat < 65536 then .next s
    else .next ((s.setFlight k fun f => { f with since := f.since + 65536 }).errorRecord f.src 10 10 0 0 0 0 0 0)

/-- LANE_GROUP_FAIL (R324). -/
def execLaneGroupFail (bridge group : Nat) (s : State) : Out :=
  if bridge < 4 && group < 8 && !s.groupsDown.contains (bridge * 8 + group) then .next (s.failGroup bridge group)
  else .next s

/-- LANE_GROUP_RETRAINED (R324). -/
def execLaneGroupRetrained (bridge group : Nat) (s : State) : Out :=
  if s.groupsDown.contains (bridge * 8 + group % 8) then
    .next { s with groupsDown := setErase s.groupsDown (bridge * 8 + group % 8) }.wakePaths
  else .next s

/-- PACKET_RECEIVE (R333). -/
def execPacketReceive (pkt : Packet) (s : State) : Out :=
  if pkt.die < Config.dies && pkt.ctx < 65536 && pkt.data.length ≤ 4096 then .next (s.receivePacket pkt) else .next s

/-- ETHERNET_LANE_RETRAIN (R358). -/
def execEthernetLaneRetrain (die lane : Nat) (s : State) : Out :=
  if die < Config.dies && lane < 32 then .next (s.countRetrain die lane) else .next s

end Sys2Proof.Machine
end

