-- ==== Sys2Proof/Machine/Verify.lean ====
section
/-! DEFINITION. The verification of a boot image (R365): SHA-384 and ECDSA over P-384, as the standards that the rule
names define them (FIPS 180-4, FIPS 186; log 37). -/

namespace Sys2Proof.Machine

namespace Sha

/-- The round constants of SHA-512 and SHA-384. -/
def roundConstants : List Nat :=
  [0x428A2F98D728AE22, 0x7137449123EF65CD, 0xB5C0FBCFEC4D3B2F, 0xE9B5DBA58189DBBC,
    0x3956C25BF348B538, 0x59F111F1B605D019, 0x923F82A4AF194F9B, 0xAB1C5ED5DA6D8118,
    0xD807AA98A3030242, 0x12835B0145706FBE, 0x243185BE4EE4B28C, 0x550C7DC3D5FFB4E2,
    0x72BE5D74F27B896F, 0x80DEB1FE3B1696B1, 0x9BDC06A725C71235, 0xC19BF174CF692694,
    0xE49B69C19EF14AD2, 0xEFBE4786384F25E3, 0x0FC19DC68B8CD5B5, 0x240CA1CC77AC9C65,
    0x2DE92C6F592B0275, 0x4A7484AA6EA6E483, 0x5CB0A9DCBD41FBD4, 0x76F988DA831153B5,
    0x983E5152EE66DFAB, 0xA831C66D2DB43210, 0xB00327C898FB213F, 0xBF597FC7BEEF0EE4,
    0xC6E00BF33DA88FC2, 0xD5A79147930AA725, 0x06CA6351E003826F, 0x142929670A0E6E70,
    0x27B70A8546D22FFC, 0x2E1B21385C26C926, 0x4D2C6DFC5AC42AED, 0x53380D139D95B3DF,
    0x650A73548BAF63DE, 0x766A0ABB3C77B2A8, 0x81C2C92E47EDAEE6, 0x92722C851482353B] ++
  [0xA2BFE8A14CF10364, 0xA81A664BBC423001, 0xC24B8B70D0F89791, 0xC76C51A30654BE30,
    0xD192E819D6EF5218, 0xD69906245565A910, 0xF40E35855771202A, 0x106AA07032BBD1B8,
    0x19A4C116B8D2D0C8, 0x1E376C085141AB53, 0x2748774CDF8EEB99, 0x34B0BCB5E19B48A8,
    0x391C0CB3C5C95A63, 0x4ED8AA4AE3418ACB, 0x5B9CCA4F7763E373, 0x682E6FF3D6B2B8A3,
    0x748F82EE5DEFB2FC, 0x78A5636F43172F60, 0x84C87814A1F0AB72, 0x8CC702081A6439EC,
    0x90BEFFFA23631E28, 0xA4506CEBDE82BDE9, 0xBEF9A3F7B2C67915, 0xC67178F2E372532B,
    0xCA273ECEEA26619C, 0xD186B8C721C0C207, 0xEADA7DD6CDE0EB1E, 0xF57D4F7FEE6ED178,
    0x06F067AA72176FBA, 0x0A637DC5A2C898A6, 0x113F9804BEF90DAE, 0x1B710B35131C471B,
    0x28DB77F523047D84, 0x32CAAB7B40C72493, 0x3C9EBE0A15C9BEBC, 0x431D67C49C100D4C,
    0x4CC5D4BECB3E42B6, 0x597F299CFC657E2A, 0x5FCB6FAB3AD6FAEC, 0x6C44198C4A475817]

/-- The initial hash value of SHA-384. -/
def initial : List Nat :=
  [0xCBBB9D5DC1059ED8, 0x629A292A367CD507, 0x9159015A3070DD17, 0x152FECD8F70E5939,
    0x67332667FFC00B31, 0x8EB44A8768581511, 0xDB0C2E0D64F98FA7, 0x47B5481DBEFA4FA4]

/-- A 64-bit word rotated right. -/
def rotr (n x : Nat) : Nat := x / 2 ^ n + x % 2 ^ n * 2 ^ (64 - n)

def bigSigma0 (x : Nat) : Nat := rotr 28 x ^^^ rotr 34 x ^^^ rotr 39 x
def bigSigma1 (x : Nat) : Nat := rotr 14 x ^^^ rotr 18 x ^^^ rotr 41 x
def smallSigma0 (x : Nat) : Nat := rotr 1 x ^^^ rotr 8 x ^^^ x / 2 ^ 7
def smallSigma1 (x : Nat) : Nat := rotr 19 x ^^^ rotr 61 x ^^^ x / 2 ^ 6

/-- Bitwise choice and majority. -/
def choice (x y z : Nat) : Nat := (x &&& y) ^^^ ((2 ^ 64 - 1 - x) &&& z)
def majority (x y z : Nat) : Nat := (x &&& y) ^^^ (x &&& z) ^^^ (y &&& z)

/-- The next n words of a message schedule; the 16 latest words are given, the oldest first. -/
def schedule : Nat → List Nat → List Nat
  | 0, _ => []
  | n + 1, w =>
    let x := (smallSigma1 (w.getD 14 0) + w.getD 9 0 + smallSigma0 (w.getD 1 0) + w.getD 0 0) % 2 ^ 64
    x :: schedule n (w.drop 1 ++ [x])

/-- One round. -/
def round (h : List Nat) (kw : Nat × Nat) : List Nat :=
  match h with
  | [a, b, c, d, e, f, g, x] =>
    let t1 := x + bigSigma1 e + choice e f g + kw.1 + kw.2
    let t2 := bigSigma0 a + majority a b c
    [(t1 + t2) % 2 ^ 64, a, b, c, (d + t1) % 2 ^ 64, e, f, g]
  | _ => h

/-- The hash value after a block of 16 words. -/
def compress (h block : List Nat) : List Nat :=
  let out := (roundConstants.zip (block ++ schedule 64 block)).foldl round h
  (h.zip out).map fun e => (e.1 + e.2) % 2 ^ 64

/-- A number as bytes, the most significant first. -/
def beBytes : Nat → Nat → List Byte
  | 0, _ => []
  | n + 1, x => BitVec.ofNat 8 (x / 256 ^ n) :: beBytes n x

/-- Bytes as a number, the most significant first. -/
def ofBe (bs : List Byte) : Nat := bs.foldl (fun x b => x * 256 + b.toNat) 0

/-- A message padded to whole blocks of 128 bytes. -/
def padded (msg : List Byte) : List Byte :=
  msg ++ [0x80#8] ++ List.replicate ((239 - msg.length % 128) % 128) 0#8 ++ beBytes 16 (8 * msg.length)

/-- Bytes in groups of n. -/
def groups (n : Nat) : Nat → List Byte → List (List Byte)
  | 0, _ => []
  | fuel + 1, bs => if bs.isEmpty then [] else bs.take n :: groups n fuel (bs.drop n)

end Sha

/-- The SHA-384 digest of a message. -/
def sha384 (msg : List Byte) : Nat :=
  let bs := Sha.padded msg
  let blocks := (Sha.groups 128 bs.length bs).map fun b => (Sha.groups 8 16 b).map Sha.ofBe
  ((blocks.foldl Sha.compress Sha.initial).take 6).foldl (fun x w => x * 2 ^ 64 + w) 0

namespace P384

/-- The field, the coefficient b, the base point and its order. -/
def p : Nat := 2 ^ 384 - 2 ^ 128 - 2 ^ 96 + 2 ^ 32 - 1
def b : Nat :=
  0xB3312FA7E23EE7E4988E056BE3F82D19181D9C6EFE8141120314088F5013875AC656398D8A2ED19D2A85C8EDD3EC2AEF
def gx : Nat :=
  0xAA87CA22BE8B05378EB1C71EF320AD746E1D3B628BA79B9859F741E082542A385502F25DBF55296C3A545E3872760AB7
def gy : Nat :=
  0x3617DE4A96262C6F5D9E98BF9292DC29F8F41DBD289A147CE9DA3113B5F0B8C00A60B1CE1D7E819D7A431D7C90EA0E5F
def order : Nat :=
  0xFFFFFFFFFFFFFFFFFFFFFFFFFFFFFFFFFFFFFFFFFFFFFFFFC7634D81F4372DDF581A0DB248B0A77AECEC196ACCC52973

/-- A difference modulo p. -/
def sub (x y : Nat) : Nat := (x + p - y % p) % p

/-- A point in Jacobian coordinates; the point at infinity has z = 0. -/
structure Point where
  x : Nat
  y : Nat
  z : Nat
  deriving DecidableEq, Repr

/-- Twice a point. -/
def double (q : Point) : Point :=
  let delta := q.z * q.z % p
  let gamma := q.y * q.y % p
  let beta := q.x * gamma % p
  let alpha := 3 * (sub q.x delta * (q.x + delta)) % p
  let x := sub (alpha * alpha) (8 * beta)
  ⟨x, sub (alpha * sub (4 * beta) x) (8 * (gamma * gamma)), 2 * q.y * q.z % p⟩

/-- The sum of two points. -/
def add (q r : Point) : Point :=
  if q.z = 0 then r
  else if r.z = 0 then q
  else
    let zq := q.z * q.z % p
    let zr := r.z * r.z % p
    let u1 := q.x * zr % p
    let u2 := r.x * zq % p
    let s1 := q.y * zr * r.z % p
    let s2 := r.y * zq * q.z % p
    if u1 = u2 then if s1 = s2 then double q else ⟨1, 1, 0⟩
    else
      let h := sub u2 u1
      let t := sub s2 s1
      let hh := h * h % p
      let v := u1 * hh % p
      let hhh := h * hh % p
      let x := sub (t * t) (hhh + 2 * v)
      ⟨x, sub (t * sub v x) (s1 * hhh), q.z * r.z % p * h % p⟩

/-- x times a point, over the top n bits of x that are left. -/
def mul (q : Point) (x : Nat) : Nat → Point
  | 0 => ⟨1, 1, 0⟩
  | n + 1 =>
    let r := double (mul q (x / 2) n)
    if x % 2 = 1 then add r q else r

/-- x to the power e modulo m, over n bits of e. -/
def power (m x e : Nat) : Nat → Nat
  | 0 => 1
  | n + 1 =>
    let r := power m x (e / 2) n
    if e % 2 = 1 then r * r % m * x % m else r * r % m

/-- Is a pair of coordinates a point of the curve y² = x³ − 3x + b? -/
def onCurve (x y : Nat) : Bool := x < p && y < p && y * y % p = (sub (x * x % p * x) (3 * x) + b) % p

end P384

/-- Does an ECDSA signature (r, s) of a digest check against a public key? -/
def ecdsaVerify (keyX keyY r s digest : Nat) : Bool :=
  let n := P384.order
  if r = 0 || n ≤ r || s = 0 || n ≤ s || !P384.onCurve keyX keyY then false
  else
    let w := P384.power n s (n - 2) 384
    let q := P384.add (P384.mul ⟨P384.gx, P384.gy, 1⟩ (digest * w % n) 384) (P384.mul ⟨keyX, keyY, 1⟩ (r * w % n) 384)
    let zz := q.z * q.z % P384.p
    q.z ≠ 0 && (q.x = r * zz % P384.p || (r + n < P384.p && q.x = (r + n) * zz % P384.p))

/-- An image as bytes, the whole of which its signature covers (R365): its version, debug flag, Ubelo, addresses and client
list, each list after its length, then the rest (log 37: the spec gives the image no layout). -/
def imageBytes (x : FlashSlot) : List Byte :=
  Sha.beBytes 8 x.version.toNat ++ Sha.beBytes 1 (if x.debugFlag then 1 else 0) ++
    Sha.beBytes 8 x.ubelo.length ++ x.ubelo.flatMap (fun w => Sha.beBytes 4 w.toNat) ++
    Sha.beBytes 8 x.ipv6.length ++ x.ipv6.flatMap (fun a => Sha.beBytes 16 a.toNat) ++
    Sha.beBytes 8 x.clients.length ++ x.clients.flatMap (fun c => Sha.beBytes 16 c.toNat) ++ x.rest

/-- Does an image verify (R365): the digest of its key is the fused one, its signature checks, and its version is not
below the fused minimum? The key is hashed as its two coordinates of 48 bytes, the most significant byte first (log 37). -/
def slotVerifies (fusedKey fusedVersion : Nat) (x : FlashSlot) : Bool :=
  sha384 (Sha.beBytes 48 x.keyX ++ Sha.beBytes 48 x.keyY) = fusedKey && fusedVersion ≤ x.version.toNat &&
    ecdsaVerify x.keyX x.keyY x.sigR x.sigS (sha384 (imageBytes x))

end Sys2Proof.Machine
end

