-- ==== Sys2Proof/Machine/Package.lean ====
section
/-! DEFINITION. Power, boot, throttling, the management port and the JTAG port (R359 to R366, R274). -/

namespace Sys2Proof.Machine

namespace State

/-- Everything that a module reset leaves: no running state (R363). The management registers stay (R362), and so do the
model's own schedule, its counter and what has already left the module. -/
def cleared (s : State) : State :=
  { State.reset with
    mgmt := { s.mgmt with reason := 0, failed := false, step := 1 }
    booting := s.booting
    plan := s.plan, free := s.free, upsets := s.upsets, responses := s.responses, jtag := s.jtag }

/-- Device memory after a module reset: it was written under keys that the boot ROM has replaced, so every byte of it
reads as an unrelated one (R274, R273). -/
def keptMemory (s : State) : State :=
  { s.cleared with
    mem := s.mem.filter fun c => c.1 < 2 ^ 52
    poison := s.poison.filter fun u => u < 2 ^ 52
    tags := s.tags.map fun e => (e.1, { e.2 with lost := BitVec.allOnes 16 })
    blurred := s.blurred }

/-- What the dies' loss of power leaves: nothing of their state and of GDDR7 (R362). The expanders of the second tier are no
part of that; what they hold was written under keys that are gone, and reads as unrelated bytes (R273). -/
def railsLost (s : State) : State :=
  let far (pa : Nat) : Bool := match physRegion pa with
    | .tier2 _ => true
    | _ => false
  { s.cleared with
    mem := s.mem.filter fun c => far c.1
    poison := s.poison.filter far
    tags := (s.tags.filter fun e => far (e.1 * 16)).map fun e => (e.1, { e.2 with lost := BitVec.allOnes 16 })
    blurred := s.blurred.filter fun r => far r.1 }

/-- Main power goes: the management registers stay (R362). -/
def unpowered (s : State) : State := { s.railsLost with mgmt := s.mgmt, powered := false }

/-- The controller removes core-rail power: reason 5. Main power stays, so that a write of MRESET resets the module; until
then MSTAT shows a boot that has stopped at step 1 (R362; DESIGN CHOICE, log 26: STEP and FAILED are not stated). -/
def shutDown (s : State) : State :=
  { s.railsLost with mgmt := { s.mgmt with reason := 5, failed := true, step := 1 } }

/-- The boot stops at a step (R364). -/
def bootFails (s : State) (step : BitVec 4) (reason : BitVec 8) : State :=
  { s with mgmt := { s.mgmt with step := step, failed := true, reason := reason } }

/-- A boot step begins: MSTAT shows it (R364). -/
def atStep (s : State) (step : BitVec 4) : State := { s with mgmt := { s.mgmt with step := step } }

/-! ### Frames that Ubelo hands out -/

/-- Regions of die 0 that Ubelo has set aside: first frame and frames. -/
def setAside (s : State) : List (Nat × Nat) :=
  let d := s.die 0
  [(d.lpbase.toNat, ceilDiv (lpBytes d) 0x10000), (d.migbase.toNat, d.migsize.toNat), (d.seobase.toNat, d.seosize.toNat),
    (d.errbase.toNat, ceilDiv (d.errsize.toNat * 32) 0x10000)]

/-- The first frame from one on that lies in no region set aside. -/
def freeFrame (s : State) : Nat → Nat → Nat
  | 0, f => f
  | fuel + 1, f =>
    match s.setAside.find? fun r => r.1 ≤ f && f < r.1 + r.2 with
    | some r => freeFrame s fuel (r.1 + r.2)
    | none => f

/-- Fill a frame with zeros under a key. -/
def zeroFrame (s : State) (f : Nat) (key : KeyMat) : State :=
  let inside (k : Nat) : Bool := f * 0x10000 ≤ k && k < (f + 1) * 0x10000
  { s with
    mem := s.mem.filter fun c => !inside c.1
    poison := s.poison.filter fun u => !inside u
    sramPoison := s.sramPoison.filter fun u => !inside u
    admitted := setErase s.admitted f
    tags := (s.tags.filter fun e => e.1 < f * 0x1000) ++ ((List.range 0x1000).map fun i => (f * 0x1000 + i, ⟨key, 0⟩)) ++
      s.tags.filter fun e => (f + 1) * 0x1000 ≤ e.1 }

/-- A zero-filled frame of die 0 under a key slot. -/
def takeFrame (s : State) (slot : Nat) : Option (Nat × State) :=
  let f := s.freeFrame 8 s.nextFrame
  if f < 2 ^ 21 then some (f, { s with nextFrame := f + 1 }.zeroFrame f (s.keyOf 0 slot)) else none

/-- Words as little-endian bytes. -/
def bytesOfWords (ws : List (BitVec 32)) : List Byte := ws.flatMap fun w => leBytes 4 w.toNat

/-- Code filled to whole pages with ADDI g0, g0, 0 (R73), as bytes. -/
def textBytes (ws : List (BitVec 32)) : List Byte :=
  let n := ceilDiv ws.length 0x4000 * 0x4000
  bytesOfWords (ws ++ List.replicate (n - ws.length) 0x08000000#32)

/-! ### Page tables -/

/-- A table entry: V and the next table, or V, LEAF, the rights, the key slot and the frame (R261). -/
def tableEntry (f : Nat) : Nat := f * 2 ^ 22 + 1
def leafEntry (f slot flags : Nat) : Nat := f * 2 ^ 22 + slot * 2 ^ 11 + flags

/-- The table that an entry names, made if the entry is not valid; none where a leaf stands or no frame is left. -/
def nextTable (s : State) (pt : PtBase) (at_ : Nat) : Option (Nat × State) :=
  let e : Word := BitVec.ofNat 64 (ofLe (s.physRead at_ 8 pt.key.toNat))
  if Pte.v e then if Pte.leaf e then none else some (Pte.frame e, s)
  else
    match s.takeFrame pt.key.toNat with
    | none => none
    | some (f, s) => some (f, s.physWrite at_ pt.key.toNat (leBytes 8 (tableEntry f)))

/-- Map a 64 KiB page. -/
def mapPage (s : State) (pt : PtBase) (va f slot flags : Nat) : Option State :=
  match s.nextTable pt (pt.root.toNat * 2 ^ 16 + 8 * bits va 42 13) with
  | none => none
  | some (t2, s) =>
    match s.nextTable pt (t2 * 2 ^ 16 + 8 * bits va 29 13) with
    | none => none
    | some (t3, s) => some (s.physWrite (t3 * 2 ^ 16 + 8 * bits va 16 13) pt.key.toNat (leBytes 8 (leafEntry f slot flags)))

/-! ### The boot steps -/

/-- Where Ubelo is mapped, and where its first word stands: the lowest page of device memory (log 37: the spec does not say). -/
def ubeloBase : Nat := 0x4000000000

/-- Ubelo is copied page by page into GDDR7 of die 0 under key slot 0; each page is admitted (R364, R69), and a page that
is refused stays unadmitted. Its tree maps each page with R and PIN, and X where it is admitted. -/
def copyUbelo (s : State) (pt : PtBase) : Nat → Nat → List Byte → State
  | 0, _, _ => s
  | n + 1, va, bs =>
    match s.takeFrame 0 with
    | none => s
    | some (f, s) =>
      let page := bs.take 0x10000
      let s := s.physWrite (f * 0x10000) 0 page
      let ok := (firstRefused (wordsOf page) 0).isNone
      let s := if ok then { s with admitted := setInsert s.admitted f } else s
      copyUbelo ((s.mapPage pt va f 0 (if ok then 0x97 else 0x87)).getD s) pt n (va + 0x10000) (bs.drop 0x10000)

/-- Every service core starts Ubelo under its tree (R364). -/
def startUbelo (s : State) (pt : PtBase) : State :=
  (List.range (Config.dies * Config.serviceCoresPerDie)).foldl (fun s k =>
    let c := Config.taskCores + k
    let s := s.setCore c { s.core c with ptbase := pt }
    (List.range 4).foldl (fun s tid =>
      s.setThread c tid { s.thread c tid with pc := BitVec.ofNat 64 ubeloBase, fetched := none }) s) s

/-- Ubelo copied, admitted and started (R364, step 5). -/
def placeUbelo (s : State) (bs : List Byte) : State :=
  match s.takeFrame 0 with
  | none => s
  | some (f, s) =>
    let pt : PtBase := ⟨BitVec.ofNat 36 f, 0⟩
    (s.copyUbelo pt (ceilDiv bs.length 0x10000) ubeloBase bs).startUbelo pt

/-- The image that verifies (R365): slot A, or slot B if slot A fails. -/
def verifiedImage (inp : BootInput) : Option (Bool × FlashSlot) :=
  if slotVerifies inp.fusedKey inp.fusedVersion inp.slotA then some (false, inp.slotA)
  else if slotVerifies inp.fusedKey inp.fusedVersion inp.slotB then some (true, inp.slotB)
  else none

/-- The slot whose image the module runs. -/
def bootedSlot (s : State) (inp : BootInput) : FlashSlot :=
  match s.image with
  | some (true, _) => inp.slotB
  | _ => inp.slotA

/-- The CXL ports that come up: link trained, and an expander of 768,000,000,000 bytes or more (R364, R335). -/
def cxlPorts (inp : BootInput) : BitVec 8 :=
  BitVec.ofNat 8 (((List.range 8).filter fun p => inp.cxl.getLsbD p && tier2Size ≤ inp.cxlBytes.getD p 0).map (2 ^ ·)).sum

/-- A port is left down: its record of KIND 11 is made at once if the error log of its die is set, and is owed otherwise
(R364). -/
def recordPortDown (s : State) (o : Nat × Nat × Nat) : State :=
  if (s.die o.1).errsize.toNat ≤ 1 then { s with owed := s.owed ++ [o] }
  else s.errorRecord o.1 11 o.2.1 0 0 o.2.2 0 0 0

/-- Step 4: CXL links raised and each expander enumerated. -/
def bootCxl (s : State) (inp : BootInput) : State :=
  let up := cxlPorts inp
  ((List.range 8).filter fun p => !up.getLsbD p).foldl (fun s p => s.recordPortDown (p / 2, 12, p % 2))
    { s with cxlUp := up, cxlPopulated := up }

/-- Step 2: the ROM clears the base SRAM and loads random keys into every key slot (R274). -/
def runRom (s : State) : State :=
  (List.range Config.dies).foldl (fun s d => s.setDie d { s.die d with keys := [] }) { s with sramPoison := [] }

/-- Step 6: Ethernet ports trained; IPv6 addresses and the client list taken from the image. -/
def bootPorts (s : State) (inp : BootInput) : State :=
  let x := s.bootedSlot inp
  (List.range Config.dies).foldl (fun s d => s.setDie d { s.die d with ipv6 := x.ipv6.getD d 0 })
    (((List.range 16).filter fun p => !inp.eth.getLsbD p).foldl (fun s p => s.recordPortDown (p / 4, 11, 8 * (p % 4)))
      { s with ethUp := inp.eth, clients := x.clients.map (·.toNat) })

/-- The step that stands in MSTAT does its work, and the next one begins, or the boot stops there (R364, R365). -/
def bootWork (s : State) (inp : BootInput) : State :=
  match s.mgmt.step.toNat with
  | 1 => if inp.railsOk then s.atStep 2 else s.bootFails 1 1
  | 2 => s.runRom.atStep 3
  | 3 =>
    match verifiedImage inp with
    | some (b, x) => { s with image := some (b, x.debugFlag) }.atStep 4
    | none => s.bootFails 3 2
  | 4 =>
    if inp.gddrOk then
      let s := (s.bootCxl inp).atStep 5
      s.placeUbelo (textBytes (s.bootedSlot inp).ubelo)
    else s.bootFails 4 3
  | 5 => if inp.ubeloStarts then s.atStep 6 else s
  | 6 => (s.bootPorts inp).atStep 7
  | _ => s

/-- A boot in progress goes on (R364): one step's work in each cycle (log 37). -/
def bootStep (s : State) : State :=
  match s.booting with
  | none => s
  | some inp => if s.powered && !s.mgmt.failed then s.bootWork inp else s

/-- The device after a reset boots from step 1 on. -/
def startBoot (s : State) (inp : BootInput) : State := { s with booting := some inp, powered := true }

/-- Does the module run: powered, and Ubelo started on the service cores? -/
def running (s : State) : Bool := s.powered && !s.mgmt.failed && 5 ≤ s.mgmt.step.toNat

/-- Do the dies throttle (R360, R362)? -/
def throttles (s : State) : Bool := s.throttled || s.hotDies ≠ 0

end State

/-- POWER_ON (R364): power is applied to a module without power, or to one that stands at step 1. -/
def execPowerOn (inp : BootInput) (s : State) : Out :=
  if !s.powered || (s.mgmt.step = 1 && !s.mgmt.failed) then .next (s.railsLost.startBoot inp) else .next s

/-- MODULE_RESET (R363). -/
def execModuleReset (inp : BootInput) (s : State) : Out :=
  if s.powered then .next (s.keptMemory.startBoot inp) else .next s

/-- UBELO_START_TIMEOUT (R364). -/
def execUbeloStartTimeout (s : State) : Out :=
  if s.powered && s.mgmt.step = 5 && !s.mgmt.failed then .next (s.bootFails 5 4) else .next s

/-- POWER_OFF (R363). -/
def execPowerOff (s : State) : Out := .next s.unpowered

/-- MAIN_POWER_LOSS (R362). -/
def execMainPowerLoss (s : State) : Out := .next s.unpowered

/-- THERMAL_SHUTDOWN (R362): reason 5. -/
def execThermalShutdown (s : State) : Out := if s.powered then .next s.shutDown else .next s

/-- POWER_THROTTLE (R360). -/
def execPowerThrottle (s : State) : Out := .next (if s.powered then { s with throttled := true } else s)

/-- THERMAL_THROTTLE (R362). -/
def execThermalThrottle (die : Nat) (s : State) : Out :=
  .next (if s.powered && die < Config.dies then { s with hotDies := s.hotDies ||| (1#4 <<< die) } else s)

/-- THROTTLE_END (R360, R362). -/
def execThrottleEnd (s : State) : Out := .next { s with throttled := false, hotDies := 0 }

/-- A limit in its range, or its reset value (R362). -/
def clampLimit (lo hi reset x : Nat) : Nat := if lo ≤ x && x ≤ hi then x else reset

/-- A management register as the controller gives it (R362, R364): MSTAT, MRESET, which reads 0, MPLIM, MTLIM, MTHROT; 0 at
an index without a register (log 36). -/
def State.mgmtRead (s : State) (idx : Nat) : Word :=
  if idx = 0 then
    BitVec.ofNat 64 (s.mgmt.reason.toNat * 2 ^ 8 + bit s.mgmt.failed * 2 ^ 7 + s.mgmt.step.toNat)
  else if idx = 0x10 then s.mgmt.mplim.setWidth 64
  else if idx = 0x18 then s.mgmt.mtlim.setWidth 64
  else if idx = 0x20 then s.mgmt.mthrot
  else 0

/-- A write of MRESET (R362, R363): OFF removes main power, whatever RESET holds; RESET alone resets the module. -/
def writeMreset (v : Word) (s : State) : State :=
  if v.getLsbD 1 then s.unpowered
  else if v.getLsbD 0 && s.powered then s.keptMemory
  else s

/-- MANAGEMENT_REGISTER_WRITE (R362): MRESET, MPLIM and MTLIM; the other registers have no field that a write changes. -/
def execManagementRegisterWrite (idx : Nat) (v : Word) (s : State) : Out :=
  if idx = 0x08 then .next (writeMreset v s)
  else if idx = 0x10 then
    .next { s with mgmt := { s.mgmt with mplim := BitVec.ofNat 14 (clampLimit 4000 10000 10000 (wbits v 0 14)) } }
  else if idx = 0x18 then
    .next { s with mgmt := { s.mgmt with mtlim := BitVec.ofNat 7 (clampLimit 60 105 105 (wbits v 0 7)) } }
  else .next s

/-- The debug flag of the verified image (R366). -/
def State.debugAllowed (s : State) : Bool :=
  match s.image with
  | some (_, d) => d
  | none => false

/-- JTAG_ACCESS (R366): boundary scan is served at every state after step 1, debug only if the verified image allows it. -/
def execJtagAccess (cmd : JtagCommand) (s : State) : Out :=
  let served : Bool := match cmd with
    | .boundaryScan => s.powered && 1 < s.mgmt.step.toNat
    | .debug => s.powered && s.debugAllowed
  .next { s with jtag := s.jtag ++ [(cmd, served)] }

end Sys2Proof.Machine
end

