-- ==== Sys2Proof/Machine/Reliability.lean ====
section
/-! DEFINITION. In-field test (R94, R355) and patrol scrub with the predictive counters it feeds (R348, R349, R358). -/

namespace Sys2Proof.Machine

/-! ### TESTC (R94, R355) -/

/-- TESTC in service mode: refused while an instance is resident on the cluster or a test runs there; else the cluster
is withheld and the thread waits for TEST_COMPLETE. -/
def testcBody (d a : Reg) (s : State) : State :=
  match State.clusterOperand (s.g a) with
  | none => s.deliver d (BitVec.ofNat 64 (2 ^ 62))
  | some k =>
    let c := s.cluster k
    if c.testing || (State.coresOf k).any fun x => (s.core x).inst.isSome then s.deliver d (BitVec.ofNat 64 (2 ^ 63))
    else
      let e : Instr := .testComplete (k / 128) (k % 128) 0 false
      let s := (s.setCluster k { c with testing := true }).block (.testc d a)
      (s.setMe { s.me with op := some e }).enqueue e

/-- TESTC (R94): privileged. -/
def execTestc (d a : Reg) (s : State) : Out :=
  privileged (State.privTval (.testc d a)) (fun s => .next (testcBody d a s)) s

namespace State

/-- Withdraw a core (R301, R355). -/
def withdrawCore (s : State) (c : Nat) : State :=
  let d := s.die (dieOf c)
  s.setDie (dieOf c) { d with wdrawn := d.wdrawn ||| (1#2048 <<< cidOf c) }

/-- The outcome of a self-test (R355): a record of KIND 9 and withdrawal for each failing core, and for a failing shared
unit a record and the withdrawal of all 16 cores. -/
def testOutcome (s : State) (k : Nat) (failed : BitVec 16) (shared : Bool) : State :=
  let s := (coresOf k).foldl (fun s c => s.clearPad c) s
  let s := (List.range 16).foldl (fun s i =>
    let c := coreOfCluster k i
    if failed.getLsbD i then (s.coreRecord c 9 5 0 0 0 0).withdrawCore c else s) s
  if shared then
    (coresOf k).foldl withdrawCore (s.errorRecord (k / 128) 9 13 0 0 0 (k % 128) 0 0)
  else s

end State

/-- The test requests that wait for a cluster take its result, and Ubelo looks at its requests (R336). -/
def State.answerTests (s : State) (k : Nat) (x : Word) : State :=
  let step (t : TestReq) : TestReq :=
    if t.left.contains k then { t with left := t.left.erase k, results := t.results ++ [(k, x)] } else t
  if s.tests.isEmpty then s else { s with tests := s.tests.map step }.wakeInbox

/-- TEST_COMPLETE (R355, R94): the waiting TESTC receives its result. -/
def execTestComplete (die cluster : Nat) (failed : BitVec 16) (shared : Bool) (s : State) : Out :=
  let k := die * 128 + cluster % 128
  if !(s.cluster k).testing then .next s
  else
    let s := (s.testOutcome k failed shared)
    let s := s.setCluster k { s.cluster k with testing := false }
    let x : Word := BitVec.ofNat 64 (failed.toNat + bit shared * 2 ^ 16)
    let s := s.answerTests k x
    let waits := s.threads.find? fun e => e.2.op = some (.testComplete (k / 128) (k % 128) 0 false)
    let s := match waits with
      | none => s
      | some e =>
        match e.2.wait with
        | some (.testc d _) => s.within (e.1 / 4) (e.1 % 4) fun s => s.deliver d x
        | _ => s
    .next s.kick

/-! ### Patrol scrub (R348, R349, R358) -/

namespace State

/-- A saturating increment. -/
def satInc {n : Nat} (x : BitVec n) : BitVec n := if x = BitVec.allOnes n then x else x + 1

/-- The entry of a row table that takes a correction in a row it does not hold: one whose COUNT is 0, else the one with
the lowest COUNT, the lowest e among equals. -/
def rowVictim (d : Die) (dev : Nat) : Nat :=
  (List.range 16).foldl (fun b e => if (mrowOf d dev e).count < (mrowOf d dev b).count then e else b) 0

/-- Count a correction in a row of a device (R358). -/
def countRow (s : State) (die dev : Nat) (bank : BitVec 4) (row : BitVec 20) : State :=
  let d := s.die die
  let hit := (List.range 16).find? fun e =>
    let x := mrowOf d dev e
    x.count ≠ 0 && x.bank = bank && x.row = row
  match hit with
  | some e => s.setMrow die dev e ⟨satInc (mrowOf d dev e).count, bank, row⟩
  | none => s.setMrow die dev (rowVictim d dev) ⟨1, bank, row⟩

/-- Count a corrected symbol in a pin group of a device (R358). -/
def countSymbol (s : State) (die dev pin : Nat) : State := s.setMsym die dev pin (satInc (msymOf (s.die die) dev pin))

end State

/-- The base SRAM writes back the 64 bytes of a node's block that hold a byte, with the poison of their words (R350). -/
def State.writeBackBlock (s : State) (k : Nat) (scale : Bool) (q off : Nat) : State :=
  match s.node k with
  | none => s
  | some n => s.setNode k (n.carryFine fun u => u / 8 = Node.poisonKey scale q off)

namespace State

/-- A record of KIND 2 about a unit that stands at a place of a die (R356): units 3 and 9 name the core index and the cluster
of the place. -/
def placeRecord (s : State) (die unit cid addr : Nat) (synd : Word) : State :=
  let loc := if unit = 4 then 0 else cid % Config.coresPerDie
  let cluster := if unit = 4 then 0 else clusterOf (die * Config.coresPerDie + loc) % 128
  s.errorRecord die 2 unit 0 0 loc cluster addr synd.toNat

/-- A forest, a reduction slot, becomes poisoned as a whole (R348). -/
def poisonForest (s : State) (die k : Nat) : State :=
  match Map.find (s.die die).forests k with
  | none => s
  | some f => s.setDie die { s.die die with forests := Map.insert (s.die die).forests k { f with poisoned := true } }
def poisonSlot (s : State) (die k : Nat) : State :=
  match Map.find (s.die die).slots k with
  | none => s
  | some x => s.setDie die { s.die die with slots := Map.insert (s.die die).slots k { x with poisoned := true } }

/-- Change a node, if there is one in the slot. -/
def mapNode (s : State) (k : Nat) (f : Node → Node) : State :=
  match s.node k with
  | none => s
  | some n => s.setNode k (f n)

/-- The unit of storage becomes poisoned (R348). -/
def poisonHeld (s : State) : Held → State
  | .pad core off => s.setPoison (padBase core + off)
  | .acc core elem => s.setCore core { s.core core with accPoison := setInsert (s.core core).accPoison elem }
  | .cb2 core e => s.setCore core { s.core core with cb2Poison := setInsert (s.core core).cb2Poison e }
  | .ring core n => s.setCore core { s.core core with ringPoison := (s.core core).ringPoison ||| (1#8 <<< n) }
  | .context core slot =>
    match Map.find (s.core core).streams slot with
    | none => s
    | some x => s.setCore core { s.core core with streams := Map.insert (s.core core).streams slot { x with poisoned := true } }
  | .forest die k => s.poisonForest die k
  | .slot die k => s.poisonSlot die k
  | .directory k scale q => s.mapNode k fun n => { n with badEntries := some (scale, q) :: n.badEntries }
  | .node k => s.mapNode k fun n => { n with badEntries := none :: n.badEntries }
  | .block k scale q off => s.mapNode k fun n => { n with poison := setInsert n.poison (Node.poisonKey scale q off) }
  | .blockWord k scale q off => s.mapNode k fun n => { n with fine := setInsert n.fine (Node.fineKey scale q off) }
  | .piece pa => s.setPoison pa
  | .pieceWord pa => { s with sramPoison := setInsert s.sramPoison (pa / 8 * 8) }
  | .forestPage die k => s.poisonForest die k
  | .slotPage die k => s.poisonSlot die k
  | .expander pa => s.setPoison pa

/-- The die whose pool holds a block of a node, or the node's home. -/
def blockDie (s : State) (k : Nat) (scale : Bool) (q : Nat) : Nat :=
  match s.node k with
  | none => 0
  | some n => ((Map.find (n.blocks scale) q).map Block.pool).getD n.home

/-- The record of KIND 2 of an uncorrectable error (R356). What an expander returns poisoned makes none; it is counted when
it is received (R358). -/
def recordHeld (s : State) (cid addr : Nat) (synd : Word) : Held → State
  | .pad core off => s.coreRecord core 2 1 0 0 off synd.toNat
  | .acc core _ => s.coreRecord core 2 2 0 0 0 synd.toNat
  | .cb2 core _ => s.coreRecord core 2 6 0 0 0 synd.toNat
  | .ring core _ => s.coreRecord core 2 8 0 0 0 synd.toNat
  | .context core _ => s.coreRecord core 2 8 0 0 0 synd.toNat
  | .forest die _ => s.placeRecord die 9 cid 0 synd
  | .slot die _ => s.placeRecord die 9 cid 0 synd
  | .directory k _ _ => s.placeRecord (s.homeOfNode k) 3 cid addr synd
  | .node k => s.placeRecord (s.homeOfNode k) 3 cid addr synd
  | .block k scale q _ => s.placeRecord (s.blockDie k scale q) 4 cid addr synd
  | .blockWord k scale q _ => s.placeRecord (s.blockDie k scale q) 3 cid addr synd
  | .piece pa => s.placeRecord (portOfFrame (pa / 2 ^ 16) / 2) 4 cid addr synd
  | .pieceWord pa => s.placeRecord (portOfFrame (pa / 2 ^ 16) / 2) 3 cid addr synd
  | .forestPage die _ => s.placeRecord die 4 cid addr synd
  | .slotPage die _ => s.placeRecord die 4 cid addr synd
  | .expander _ => s

/-- Does the unit exist? -/
def heldStands (s : State) : Held → Bool
  | .pad _ off => off < Config.padSize
  | .context core slot => (Map.find (s.core core).streams slot).isSome
  | .directory k _ _ => (s.node k).isSome
  | .node k => (s.node k).isSome
  | .block k _ _ _ => (s.node k).isSome
  | .blockWord k _ _ _ => (s.node k).isSome
  | _ => true

/-- An uncorrectable error (R348, R356): the unit of storage that it hits is poisoned, and a record of KIND 2 is made. -/
def upsetHeld (s : State) (cid addr : Nat) (synd : Word) (h : Held) : State :=
  if s.heldStands h then (s.poisonHeld h).recordHeld cid addr synd h else s

/-! ### Patrol scrub of the pools (R348) -/

/-- The blocks of the package that a die's pool holds: node, plane, block. -/
def blocksIn (s : State) (die : Nat) : List (Nat × Bool × Nat) :=
  s.nodes.flatMap fun e => [false, true].flatMap fun scale =>
    ((e.2.blocks scale).filter fun b => b.2.pool = die).map fun b => (e.1, scale, b.1)

/-- What stands in the pools of a die at an address: a block of a node, a piece, a forest or a slot, or nothing. Which of
those that the pool holds is the device's own (Config.poolPlace). fine: a word of base SRAM, not a codeword. -/
def poolUnit (s : State) (die pa : Nat) (fine : Bool) : Option Held :=
  let d := s.die die
  let one {α : Type} (l : List α) : Option α := l[Config.poolPlace s.free pa % (l.length + 1)]?
  if meetsLp d pa 1 then
    (one (s.blocksIn die)).map fun b =>
      if fine then .blockWord b.1 b.2.1 b.2.2 (pa % 4096) else .block b.1 b.2.1 b.2.2 (pa % 4096)
  else if meetsMig d pa 1 then
    (one d.pieces).map fun p => if fine then .pieceWord (p.frame * 2 ^ 16 + pa % 2 ^ 16) else .piece (p.frame * 2 ^ 16 + pa % 2 ^ 16)
  else if meetsSeo d pa 1 then
    one (((Map.keys d.forests).map (Held.forestPage die)) ++ (Map.keys d.slots).map (Held.slotPage die))
  else none

/-- The unit that stands in a pool at an address is poisoned. -/
def poisonPool (s : State) (die pa : Nat) (fine : Bool) : State := (s.poolUnit die pa fine).elim s s.poisonHeld

/-- First physical address of a line of a die's GDDR7. -/
def lineAddr (die line : Nat) : Nat := die * 2 ^ 37 + line * 128

/-- What scrub does with its finding: corrected symbols are counted, an uncorrectable codeword is poisoned and recorded,
a miscorrected one reads as the decoder took it (R348, R349, R347). A word of base SRAM is poisoned alone; its record names
the slice that holds it (R356). In a pool, what stands there is poisoned. -/
def scrub (s : State) (die line : Nat) : ScrubFinding → State
  | .clean => s
  | .corrected dev pin bank row => if dev < 18 && pin < 8 then (s.countSymbol die dev pin).countRow die dev bank row else s
  | .uncorrectable half synd =>
    let pa := lineAddr die line + 64 * (half % 2)
    ((s.setPoison pa).poisonPool die pa false).errorRecord die 2 4 0 0 0 0 pa synd.toNat
  | .miscorrected half data => s.putBytes (lineAddr die line + 64 * (half % 2)) (data.take 64)
  | .sramCorrected => s
  | .sramUncorrectable w synd =>
    let pa := lineAddr die line + 8 * (w % 16)
    let cid := Config.sramSlice (lineAddr die line) % Config.coresPerDie
    ({ s with sramPoison := setInsert s.sramPoison pa }.poisonPool die pa true).errorRecord die 2 3 0 0 cid
      (clusterOf (die * Config.coresPerDie + cid) % 128) pa synd.toNat

end State

/-- An error that no event of its own brings (R347, R348, R358): a unit of storage is poisoned, or a corrected error is
counted. -/
def State.applyUpset (s : State) : Upset → State
  | .held h cid addr synd => s.upsetHeld cid addr synd h
  | .symbol die dev pin bank row =>
    if dev < 18 && pin < 8 then (s.countSymbol die dev pin).countRow die dev bank row else s
  | .fec die lane n =>
    let x := laneOf (s.die die) lane
    s.setLane die lane { x with fec := BitVec.ofNat 32 (min (x.fec.toNat + n) (2 ^ 32 - 1)) }
  | .replays die port n =>
    let x := cxlOf (s.die die) port
    s.setCxl die port { x with replay := BitVec.ofNat 32 (min (x.replay.toNat + n) (2 ^ 32 - 1)) }

/-- SCRUB_LINE (R348). -/
def execScrubLine (die line : Nat) (finding : ScrubFinding) (s : State) : Out :=
  if die < Config.dies && line < 2 ^ 30 then .next (s.scrub die line finding) else .next s

end Sys2Proof.Machine
end

