-- ==== Sys2Proof/Machine/Sync.lean ====
section
/-! DEFINITION. Barrier channels, mailboxes and exchange phases: the SYNC forms and their events (R158 to R165). -/

namespace Sys2Proof.Machine

/-- The result of a form whose level has no channel (R159, R160). -/
def noChannel : Word := 0x8000000000000000

namespace State

/-- The channel of the executing thread: none also for a span level that no instance stands behind. -/
def myChannel (s : State) : Option ChanRef :=
  match s.chanOf s.curCore s.me with
  | some .noSpan => none
  | r => r

/-- The channel of which the executing thread is a member, with its bit. -/
def membership (s : State) : Option (ChanRef × Nat × Nat) :=
  match s.myChannel with
  | none => none
  | some r =>
    match s.chanBit s.curCore s.me r with
    | some (k, b) => if bitmapHas (s.channel r).members k b then some (r, k, b) else none
    | none => none

/-- Window base of a contained member of the executing thread's instance that holds membership of a channel (R161). -/
def containedPeer (s : State) (r : ChanRef) : Option Word :=
  let hit := s.threads.find? fun e =>
    (s.core (e.1 / 4)).contained && (s.core (e.1 / 4)).inst = s.myCore.inst &&
      (match s.chanBit (e.1 / 4) e.2 r with
      | some (k, b) => bitmapHas (s.channel r).members k b
      | none => false)
  hit.map fun e => 0x1000000 + (e.2.spanix.setWidth 64) * 0x40000

/-- Set an arrival bit; a phase that this completes completes. -/
def setArrival (s : State) (r : ChanRef) (k b : Nat) : State :=
  let c := s.channel r
  s.settleChannel r { c with arrived := bitmapSet c.arrived k b }

end State

/-- Has the phase count passed a token (R159)? -/
def passed (phase token : BitVec 32) : Bool :=
  let n := (phase - token).toNat
  1 ≤ n && n ≤ 2 ^ 31 - 1

/-- ARRIVE (R159). -/
def arriveBody (d : Reg) (s : State) : State :=
  match s.membership with
  | none => s.deliver d noChannel
  | some (r, k, b) =>
    let c := s.channel r
    if State.bitmapHas c.arrived k b then s.block (.arrive d)
    else (s.deliver d (c.phase.setWidth 64)).setArrival r k b

/-- ARRIVE (R159), issued. -/
def execArrive (d : Reg) (s : State) : Out := .next (arriveBody d s)

/-- WAIT (R159, R161). -/
def waitBody (a : Reg) (s : State) : State :=
  let x := s.g a
  if x.getLsbD 63 then s.retire
  else
    match s.myChannel with
    | none => s.retire
    | some r =>
      if passed (s.channel r).phase (x.setWidth 32) then s.retire
      else
        match s.containedPeer r with
        | some base => s.takeTrap 13 base
        | none => s.block (.wait a)

/-- WAIT (R159), issued. -/
def execWait (a : Reg) (s : State) : Out := .next (waitBody a s)

/-! ### BARSET and BARQ (R160) -/

namespace State

/-- Threads per core of the executing instance; all four on a core without one. -/
def threadsRun (s : State) : Nat :=
  match s.instOf s.curCore with
  | some i => match s.taskOf i with
    | some t => t.threads
    | none => 4
  | none => 4

/-- The member of the executing instance that stands at a position of a cluster of the die. -/
def memberAt (s : State) (cluster pos : Nat) : Option Nat :=
  let c := coreOfCluster (s.myDie * 128 + cluster) pos
  match s.instOf s.curCore with
  | some i => match i.rect, s.taskOf i with
    | some r, some t => (List.range (t.w * t.h)).find? fun m => s.memberCoreAt i r m = c
    | _, _ => none
  | none => none

/-- The bits of a cluster's bitmap as the level of a channel holds them: bit of the bitmap, key and bit of the channel. -/
def clusterBits (s : State) (r : ChanRef) (ga : Word) : List (Nat × Nat × Nat) :=
  let cl := wbits ga 0 7
  match r with
  | .core _ => (List.range 4).map fun t => (t, 0, t)
  | .span _ => (List.range 16).flatMap fun pos =>
      match s.memberAt cl pos with
      | some m => (List.range s.threadsRun).map fun t => (4 * pos + t, m / 16, 4 * (m % 16) + t)
      | none => []
  | .noSpan => []
  | .die d _ => (List.range 64).map fun i => (i, d * 128 + cl, i)
  | .pkg _ => (List.range 64).map fun i => (i, wbits ga 8 2 * 128 + cl, i)

/-- May a bitmap be set: does it name only threads that the instance runs (R160)? A thread that has executed TASKEND counts
as one that the instance runs (DESIGN CHOICE, log 36: R160 does not say). -/
def bitmapRuns (s : State) (r : ChanRef) (ga x : Word) : Bool :=
  match r with
  | .core _ => (List.range 4).all fun t => !x.getLsbD t || t < s.threadsRun
  | .span _ => (List.range 64).all fun i => !x.getLsbD i || (s.clusterBits r ga).any fun e => e.1 = i
  | _ => true

end State

/-- BARSET (R160). -/
def execBarset (d a b : Reg) (s : State) : Out :=
  match s.myChannel with
  | none => .next (s.deliver d 3)
  | some r =>
    let ga := s.g a
    let x := s.g b
    if !s.bitmapRuns r ga x then .next (s.deliver d 2)
    else if !(s.channel r).arrived.isEmpty then .next (s.deliver d 1)
    else
      let members := (s.clusterBits r ga).foldl (fun m e =>
        if x.getLsbD e.1 then State.bitmapSet m e.2.1 e.2.2 else State.bitmapClear m e.2.1 e.2.2) (s.channel r).members
      let s := s.deliver d 0
      .next (s.settleChannel r { s.channel r with members := members })

/-- BARQ (R160). -/
def execBarq (d a q : Reg) (s : State) : Out :=
  match s.myChannel with
  | none => .next (s.deliver d noChannel)
  | some r =>
    let c := s.channel r
    let word (m : Map (BitVec 64)) : Word :=
      BitVec.ofNat 64 (((s.clusterBits r (s.g a)).map fun e => if State.bitmapHas m e.2.1 e.2.2 then 2 ^ e.1 else 0).sum)
    match q.toNat with
    | 0 => .next (s.deliver d (word c.arrived))
    | 1 => .next (s.deliver d (word c.members))
    | _ => .next (s.deliver d (c.phase.setWidth 64))

/-! ### Mailboxes (R162) -/

/-- A mailbox of the executing core. -/
def State.mailbox (s : State) (n : Reg) : BitVec 32 := s.myCore.mb[n.toNat % 16]'(Nat.mod_lt _ (by decide))

/-- MBWAIT (R162). -/
def mbwaitBody (d a n : Reg) (s : State) : State :=
  let x := s.mailbox n
  if (s.g a).toNat % 2 ^ 32 ≤ x.toNat then s.deliver d (x.setWidth 64)
  else if s.myCore.mbMark.getLsbD (n.toNat % 16) then s.takeTrap 13 (n.setWidth 64)
  else s.block (.mbwait d a n)

/-- MBWAIT (R162), issued. -/
def execMbwait (d a n : Reg) (s : State) : Out := .next (mbwaitBody d a n s)

/-- MBSUB (R162). -/
def execMbsub (d a n : Reg) (s : State) : Out :=
  let x := s.mailbox n
  let y := x.toNat - min ((s.g a).toNat % 2 ^ 32) x.toNat
  let s := s.deliver d (x.setWidth 64)
  .next (if y = x.toNat then s else s.setMailbox s.curCore (n.setWidth 4) (BitVec.ofNat 32 y))

/-- MBREAD (R162). -/
def execMbread (d n : Reg) (s : State) : Out := .next (s.deliver d ((s.mailbox n).setWidth 64))

/-- MBWAIT_RELEASE (R162). -/
def execMbwaitRelease (core tid : Nat) (s : State) : Out :=
  match (s.thread core tid).wait with
  | some (.mbwait d a n) => .next (s.within core tid (mbwaitBody d a n))
  | _ => .next s

/-! ### Exchange phases (R163 to R165) -/

namespace State

/-- XCLK of a thread, negative before its first frame. -/
def xclk (s : State) (t : Thread) : Int := (s.cycle - t.xbase).toInt

/-- Leave the phase with a result. -/
def leavePhase (s : State) (d : Reg) (x : Word) : State :=
  (s.setMe { s.me with inPhase := false, cArrived := none, overrun := false }).deliver d x

/-- The arrival that an overrun has left to the executing thread (R165). Like that of CPHASE it is a release, made once the
thread's blocks have been written and its earlier writes performed (R241, R244), and in the next phase where the thread has
arrived in this one already (R159). -/
def payArrival (s : State) : State :=
  if !s.me.owes || s.ownWritesOut then s
  else
    match s.membership with
    | none => s.setMe { s.me with owes := false }
    | some (r, k, b) =>
      if bitmapHas (s.channel r).arrived k b then s
      else (s.setMe { s.me with owes := false }).setArrival r k b

/-- The executing thread leaves its phase by overrun, as though by CPHASE (R165): a CPHASE in which it waits returns 1, as
its next CPHASE does otherwise; one that waits in XSEND or XRECV looks again. -/
def overrunPhase (s : State) : State :=
  let owes := s.me.cArrived.isNone
  match s.me.wait with
  | some (.cphase d) => (s.setMe { s.me with owes := owes }).payArrival.leavePhase d 1
  | _ =>
    ((s.setMe { s.me with inPhase := false, cArrived := none, overrun := true, owes := owes }).payArrival).notifyCore s.curCore

/-- Leave a phase whose clock has reached 65,536. -/
def endLate (s : State) : State := if s.me.inPhase && 65536 ≤ s.xclk s.me then s.overrunPhase else s

/-- Enter the phase: the exchange clock has been set at completion. A thread that comes to it 65,536 cycles late or more
leaves it at once. -/
def enterPhase (s : State) (d : Reg) : State :=
  ((s.setMe { s.me with inPhase := true, xArrived := none, overrun := false }).deliver d 0).endLate

/-- The last thread to arrive completes the phase itself: its core's count restarts, its clock begins with the others'. -/
def beginClock (s : State) : State :=
  let s := s.setMyCore { s.myCore with arrivals := 0 }
  s.setMe { s.me with xbase := State.frameAfter s.cycle }

end State

/-- XPHASE or CPHASE waits on a channel; where a contained member of it holds membership, it takes cause 13 instead
(R161). -/
def waitOn (r : State.ChanRef) (i : Instr) (s : State) : State :=
  match s.containedPeer r with
  | some base => s.takeTrap 13 base
  | none => s.block i

/-- Wait for the phase of a channel that follows a token, in a word that has arrived (R147, R161). -/
def awaitPhase (r : State.ChanRef) (tok : BitVec 32) (i : Instr) (done : State → State) (s : State) : State :=
  if passed (s.channel r).phase tok then done s else waitOn r i s

/-- XPHASE (R163). One that has arrived and is issued again only waits (R147). In a phase it answers 1, whether or not the
thread is a member still (DESIGN CHOICE, log 36: R163 orders its results 1 and 2 nowhere). -/
def xphaseBody (d : Reg) (s : State) : State :=
  if s.me.inPhase then s.deliver d 1
  else
    match s.me.xArrived, s.myChannel with
    | some tok, some r => awaitPhase r tok (.xphase d) (fun s => s.enterPhase d) s
    | _, _ =>
      match s.membership with
      | none => s.deliver d 2
      | some (r, k, b) =>
        let c := s.channel r
        if State.bitmapHas c.arrived k b then waitOn r (.xphase d) s
        else
          awaitPhase r c.phase (.xphase d) (fun s => s.beginClock.enterPhase d)
            ((s.setMe { s.me with xArrived := some c.phase }).setArrival r k b)

/-- XPHASE (R163), issued. -/
def execXphase (d : Reg) (s : State) : Out := .next (xphaseBody d s)

/-- Has the executing thread a block that has not been written at its destination? -/
def State.blocksUnderWay (s : State) : Bool := s.xblocks.any fun x => x.src = s.curCore && x.tid = s.curTid

/-- CPHASE (R165). One that has arrived and is issued again only waits (R147). A thread that is no longer a member has
nothing to wait for (log 32). -/
def cphaseBody (d : Reg) (s : State) : State :=
  if !s.me.inPhase then s.leavePhase d (if s.me.overrun then 1 else 2)
  else if s.blocksUnderWay then s.block (.cphase d)
  else
    match s.me.cArrived, s.myChannel with
    | some tok, some r => awaitPhase r tok (.cphase d) (fun s => s.leavePhase d 0) s
    | _, _ =>
      match s.membership with
      | none => s.leavePhase d 0
      | some (r, k, b) =>
        let c := s.channel r
        if State.bitmapHas c.arrived k b then waitOn r (.cphase d) s
        else
          awaitPhase r c.phase (.cphase d) (fun s => s.leavePhase d 0)
            ((s.setMe { s.me with cArrived := some c.phase }).setArrival r k b)

/-- CPHASE (R165), issued. -/
def execCphase (d : Reg) (s : State) : Out := .next (cphaseBody d s)

/-- WAIT_RELEASE (R159, R163, R165): the phase of the channel has completed. -/
def execWaitRelease (core tid : Nat) (s : State) : Out :=
  match (s.thread core tid).wait with
  | some (.arrive d) => .next (s.within core tid (arriveBody d))
  | some (.wait a) => .next (s.within core tid (waitBody a))
  | some (.xphase d) => .next (s.within core tid (xphaseBody d))
  | some (.cphase d) => .next (s.within core tid (cphaseBody d))
  | _ => .next s

/-- The code with which an XSEND sends nothing, if any: not in a phase, a cycle that is no slot, an address, a cycle that
has passed; in this order (log 32). -/
def xsendRefusal (a b c : Word) (s : State) : Option Word :=
  if !s.me.inPhase then some 2
  else if 8 ≤ c.toNat % 16 || 65536 ≤ c.toNat then some 3
  else if a.toNat % 128 ≠ 0 || b.toNat % 128 ≠ 0 || Config.padSize < b.toNat + 128 || a.toNat < 0x1000000 ||
      0x2000000 ≤ a.toNat || (s.windowOpen (s.agent 5) ((a.toNat - 0x1000000) / Config.padSize)).isNone then some 4
  else if (c.toNat : Int) < s.xclk s.me then some 1
  else none

/-- Send the block (R164): the source is read in the cycle in which it leaves. The window of a contained member takes cause 13
(R146, R351). A poisoned source word is consumed (DESIGN CHOICE, log 36: R350 names XSEND neither among the consumptions
nor among the movements). -/
def xsendNow (d : Reg) (a b : Word) (s : State) : State :=
  match s.windowOpen (s.agent 5) ((a.toNat - 0x1000000) / Config.padSize) with
  | none => s.deliver d 4
  | some dst =>
    if (s.core dst).contained then s.takeTrap 13 a
    else
    match checkPoison (.pad s.curCore b.toNat) b.toNat 128 s with
    | (.error e, s') => State.stoppedOwn s s' 5 e
    | (.ok _, s') =>
      let x : XBlock := ⟨s'.curCore, s'.curTid, dst, a.toNat % Config.padSize, s'.padRead s'.curCore b.toNat 128⟩
      ({ s' with xblocks := s'.xblocks ++ [x] }.enqueue (.xsendArrival 0)).deliver d 0

/-- XSEND (R164): it waits for its cycle. -/
def execXsend (d a b c : Reg) (s : State) : Out :=
  match xsendRefusal (s.g a) (s.g b) (s.g c) s with
  | some x => .next (s.deliver d x)
  | none =>
    if s.padHazard s.curCore false (s.g b).toNat 128 then .next s
    else if (((s.g c).toNat : Nat) : Int) = s.xclk s.me then .next (xsendNow d (s.g a) (s.g b) s)
    else .next (s.block (.xsend d a b c))

/-- A waiting XSEND looks at XCLK: it sends in its cycle; overrun has ended its phase, or its cycle has passed by. -/
def xsendSlot (core tid : Nat) (s : State) : State :=
  match (s.thread core tid).wait with
  | some (.xsend d a b c) =>
    if (s.core core).contained then s
    else
      s.within core tid fun s =>
        let at_ : Int := ((s.g c).toNat : Nat)
        if !s.me.inPhase then s.deliver d 2
        else if at_ = s.xclk s.me then xsendNow d (s.g a) (s.g b) s
        else if at_ < s.xclk s.me then s.deliver d 1
        else s
  | _ => s

/-- XSEND_SLOT (R164): XCLK has reached the cycle of a waiting XSEND. Each cycle looks at the XSENDs that wait, cores with
lower CID first, so that a block leaves in the cycle that its g(c) names. -/
def execXsendSlot (core tid : Nat) (s : State) : Out := .next (xsendSlot core tid s)

/-- XSEND_ARRIVAL (R164): block k is written at its destination and counted; one whose window has closed or whose
destination has been contained since it left is lost. The blocks of one thread arrive in the order in which they left: each
XSEND is a release of what its thread has sent before (R244). -/
def execXsendArrival (k : Nat) (s : State) : Out :=
  match s.xblocks[k]? with
  | none => .next s
  | some x =>
    if (s.xblocks.take k).any fun y => y.src = x.src && y.tid = x.tid then .next s
    else
    let s := { s with xblocks := s.xblocks.eraseIdx k }
    let isOpen := (List.range 4).any fun t => (s.thread x.dst t).running
    let s :=
      if (s.core x.dst).contained || !isOpen then s
      else
        let s := s.padWrite x.dst x.off x.data
        (s.setCore x.dst { s.core x.dst with arrivals := (s.core x.dst).arrivals + 1 }).notifyCore x.dst
    .next (s.enqueue (.waitRelease x.src x.tid.toNat))

/-- XRECV (R165). -/
def xrecvBody (d a : Reg) (s : State) : State :=
  if !s.me.inPhase then s.deliver d (BitVec.allOnes 64)
  else if (s.g a).toNat ≤ s.myCore.arrivals then s.deliver d (BitVec.ofNat 64 s.myCore.arrivals)
  else s.block (.xrecv d a)

/-- XRECV (R165), issued. -/
def execXrecv (d a : Reg) (s : State) : Out := .next (xrecvBody d a s)

/-- XRECV_RELEASE (R165). -/
def execXrecvRelease (core tid : Nat) (s : State) : Out :=
  match (s.thread core tid).wait with
  | some (.xrecv d a) => .next (s.within core tid (xrecvBody d a))
  | _ => .next s

/-- The overrun of a thread's phase at XCLK 65,536, and the arrival that one has left to it (R165). -/
def overrunSlot (core tid : Nat) (s : State) : State :=
  let t := s.thread core tid
  if t.inPhase && 65536 ≤ s.xclk t then s.within core tid State.overrunPhase
  else if t.owes then s.within core tid State.payArrival
  else s

/-- EXCHANGE_OVERRUN (R165). Each cycle looks at every thread, so that no word is issued in a phase past its last cycle. -/
def execExchangeOverrun (core tid : Nat) (s : State) : Out := .next (overrunSlot core tid s)

end Sys2Proof.Machine
end

