-- ==== Sys2Proof/Machine/Ubelo.lean ====
section
/-! DEFINITION. The Quoco requests that Ubelo serves (R336 to R338, R377, R290, R291, R316): what each leaves in the
device and answers. Ubelo is software; the model gives its effect, not its code (log 21). -/

namespace Sys2Proof.Machine

namespace State

/-! ### Answers -/

/-- Send a response (R336). -/
def respond (s : State) (r : Request) (code status : Nat) (data : List Word) : State :=
  { s with responses := s.responses ++ [⟨r.client, r.id, BitVec.ofNat 8 (0x80 + code), BitVec.ofNat 16 status, data⟩] }

/-- Serve a request at boot step 7 (R336, R364): a client that is not in the list gets STATUS 6; the requests of one client
are served in the order in which they came, one after the other (R337), and a malformed one gets STATUS 1. The service
answers whether the request is done; one that is not waits at the head of its client's requests. -/
def serve' (s : State) (e : Instr) (r : Request) (code : Nat) (f : State → Bool × State) : State :=
  if !s.running || s.mgmt.step ≠ 7 then s
  else if !s.clients.contains r.client then s.respond r code 6 []
  else
    let f (s : State) : Bool × State := if r.formed then f s else (true, s.respond r code 1 [])
    match s.inboxHead r.client with
    | some h =>
      if h ≠ e then if s.inbox.contains e then s else { s with inbox := s.inbox ++ [e] }
      else
        match f s with
        | (true, s) => { s with inbox := s.inbox.erase e }.wakeClient r.client
        | (false, s) => s
    | none =>
      match f s with
      | (true, s) => s
      | (false, s) => { s with inbox := s.inbox ++ [e] }

/-- Bytes as 8-byte words, the last filled with 0. -/
def packWords : Nat → List Byte → List Word
  | 0, _ => []
  | fuel + 1, bs => if bs.isEmpty then [] else BitVec.ofNat 64 (ofLe (bs.take 8)) :: packWords fuel (bs.drop 8)

/-! ### Frames and pages (R377) -/

/-- The lowest range of pages that no leaf maps at any level, from an address on: n pages of it have been found, of those
asked for (R377). -/
def findFrom (s : State) (pt : PtBase) (pages : Nat) : Nat → Nat → Nat → Option Nat
  | 0, _, _ => none
  | fuel + 1, va, n =>
    if s.walkTables 0 pt va = .notValid then
      if pages ≤ n + 1 then some (va - n * 0x10000) else findFrom s pt pages fuel (va + 0x10000) (n + 1)
    else findFrom s pt pages fuel (va + 0x10000) 0

/-- A range of pages of device memory that no leaf maps. -/
def findRange (s : State) (pt : PtBase) (pages : Nat) : Option Nat :=
  s.findFrom pt pages ((2 ^ 54 - 0x4000000000) / 0x10000) 0x4000000000 0

/-- Map pages one after the other on fresh frames, each with its bytes. -/
def placePages (s : State) (pt : PtBase) (flags : Nat) : Nat → Nat → List Byte → Option State
  | 0, _, _ => some s
  | n + 1, va, bs =>
    match s.takeFrame pt.key.toNat with
    | none => none
    | some (f, s) =>
      match s.mapPage pt va f pt.key.toNat flags with
      | none => none
      | some s => placePages (s.physWrite (f * 0x10000) pt.key.toNat (bs.take 0x10000)) pt flags n (va + 0x10000)
          (bs.drop 0x10000)

/-- Place a section: its base (R377). -/
def placeSection (s : State) (pt : PtBase) (flags size : Nat) (bs : List Byte) : Option (Nat × State) :=
  let pages := ceilDiv size 0x10000
  match s.findRange pt pages with
  | none => none
  | some va =>
    match s.placePages pt flags pages va bs with
    | none => none
    | some s => some (va, s)

/-- Rights of .text pages: R, PIN; of .data and .bss: R, W; all with V and LEAF (R377). -/
def textFlags : Nat := 0x87
def dataFlags : Nat := 0x0F

/-! ### Jobs -/

/-- The first key slot from 1 on that no job has. -/
def unusedKey (s : State) : Option Nat :=
  ((List.range 2047).map (· + 1)).find? fun k => s.jobs.all fun e => e.2.key.toNat ≠ k

/-- A job, made with its page-table tree and key slot if it is new (R377); none without a slot or a frame. -/
def openJob (s : State) (job : Nat) : Option (Job × State) :=
  match Map.find s.jobs job with
  | some j => some (j, s)
  | none =>
    match s.unusedKey with
    | none => none
    | some slot =>
      let s := (List.range Config.dies).foldl (fun s d =>
        s.setDie d { s.die d with keys := Map.insert (s.die d).keys slot (.loaded (Config.jobKey slot)) }) s
      match s.takeFrame slot with
      | none => none
      | some (f, s) =>
        let j : Job := ⟨BitVec.ofNat 64 (f * 2 ^ 16 + slot), BitVec.ofNat 11 slot, [], [], 0, none, none, none, []⟩
        some (j, { s with jobs := Map.insert s.jobs job j })

/-- Replace a job. -/
def setJob (s : State) (job : Nat) (j : Job) : State := { s with jobs := Map.insert s.jobs job j }

/-! ### Tensors -/

/-- Is a shape one that TNEW takes (R171)? -/
def shapeOk (t : TensorShape) : Bool :=
  let dim (n : Nat) : Bool := 1 ≤ n && n ≤ 16777216
  let scaled := (11 ≤ t.fmt.toNat && t.fmt.toNat ≤ 15) || t.fmt.toNat = 17
  dim t.n0 && dim t.n1 && dim t.n2 && dim t.n3 && t.fmt.toNat ≤ 17 && t.fmt.toNat ≠ 16 && (!t.sp || scaled) &&
    (t.sp || t.fmt.toNat ≠ 17) && t.elemPlane.blocks ≤ 2 ^ 26

/-- Store one code of a plane of a node by its logical number; none without a block. -/
def storeCode (s : State) (slot : Nat) (scale : Bool) (k code : Nat) : Option State :=
  match s.node slot with
  | none => none
  | some n =>
    let pl := n.shape.plane scale
    let (q, i) := pl.placeLinear k
    match s.ownBlock slot n scale q with
    | none => none
    | some s =>
      if pl.w = 4 then some (s.writeOwn slot scale q 0 [] (some (i, code)))
      else some (s.writeOwn slot scale q (i * (pl.w / 8)) (leBytes (pl.w / 8) code) none)

/-- Store codes from a logical number on. -/
def storeCodes (s : State) (slot : Nat) (scale : Bool) : Nat → List Nat → Option State
  | _, [] => some s
  | k, c :: r =>
    match s.storeCode slot scale k c with
    | none => none
    | some s => storeCodes s slot scale (k + 1) r

/-- Why Ubelo makes no root (R377). -/
inductive RootFail where
  | shape
  | slot
  | space
  deriving DecidableEq, Repr

/-- STATUS of a request that fails so. -/
def RootFail.status : RootFail → Nat
  | .shape => 1
  | _ => 3

/-- Undo a request that could not make a root, in the state that it began in: the nodes it made have used their
generations (R27), and a store without a block counts (R286). -/
def undoRoots (s : State) (e : RootFail) (reached : State) : State :=
  let s := { s with nodeGen := reached.nodeGen }
  match e with
  | .space => s.refuseSpace 0
  | _ => s

/-- Make a root on die 0 with its contents: its handle, or why not with the state reached (R377). -/
def makeRoot (s : State) (shape : TensorShape) (key : BitVec 11) (codes scales : List Nat) :
    Except (RootFail × State) (BitVec 32 × State) :=
  if !shapeOk shape then .error (.shape, s)
  else
    match s.freeSlot with
    | none => .error (.slot, s)
    | some k =>
      let s := s.newRoot k 0 shape key
      let h := BitVec.ofNat 32 (s.handleOf k)
      match s.storeCodes k false 0 codes with
      | none => .error (.space, s)
      | some s =>
        match s.storeCodes k true 0 (if shape.sp then scales else []) with
        | none => .error (.space, s)
        | some s => .ok (h, s)

/-- Make roots one after the other: their handles. -/
def makeRoots (s : State) (key : BitVec 11) : List (TensorShape × List Nat × List Nat) →
    Except (RootFail × State) (List (BitVec 32) × State)
  | [] => .ok ([], s)
  | (t, cs, ss) :: r =>
    match s.makeRoot t key cs ss with
    | .error e => .error e
    | .ok (h, s) =>
      match makeRoots s key r with
      | .error e => .error e
      | .ok (hs, s) => .ok (h :: hs, s)

end State

/-- A quotient as an exact value, or one so near that every rounding of R45 comes out the same: 40 bits, the last one set
if bits follow. -/
def fpOfQuotient (neg : Bool) (num den : Nat) : Fp :=
  let up := 40 + log2 den - log2 num
  let down := log2 num - (40 + log2 den)
  let n := num * 2 ^ up
  let d := den * 2 ^ down
  let m := n / d
  .fin neg (if n % d = 0 || m % 2 = 1 then m else m + 1) ((down : Int) - up)

/-- The value of a floating constant (R371). -/
def constValue : FloatConst → Fp
  | .dec neg num den => fpOfQuotient neg num den
  | .inf neg => .inf neg
  | .nan => .nan

/-- The scales and codes of one row of n0 elements of an MX tensor, whose constants come first and are followed by +0
(R45, R166). -/
def quantiseRow (fmt n0 : Nat) (xs : List FloatConst) : List Nat × List Nat :=
  let blocks := (List.range (ceilDiv n0 32)).map fun k =>
    mxQuantise fmt true ((List.range 32).map fun i =>
      if 32 * k + i < n0 then some ((xs[32 * k + i]?.map constValue).getD (.fin false 0 0)) else none)
  (blocks.map (·.1), (blocks.flatMap (·.2.1)).take n0)

/-- Codes and scales of a root of an image (R166): those of its floating constants, or its raw codes with every scale
0x7F. An MX tensor for which the image lists no value at all takes the second branch, its scale plane filled with 0x7F
(DESIGN CHOICE, log 36: R166 gives scales for floating and for raw contents only, and a root that TNEW makes reads 0). -/
def imageContents (t : TensorInit) : List Nat × List Nat :=
  let n0 := t.shape.n0
  if t.shape.sp && !t.consts.isEmpty then
    let rows := (List.range (ceilDiv t.consts.length n0)).map fun r =>
      quantiseRow t.shape.fmt.toNat n0 ((t.consts.drop (r * n0)).take n0)
    (rows.flatMap (·.2), rows.flatMap (·.1))
  else
    let p := t.shape.scalePlane
    (t.codes.map (·.toNat), List.replicate (p.n3 * p.n2 * p.n1 * p.n0) 0x7F)

namespace State

/-! ### Load image (R377) -/

/-- Replace bytes of a list at an offset. -/
def patch (bs : List Byte) (off : Nat) (xs : List Byte) : List Byte :=
  bs.take off ++ xs ++ bs.drop (off + xs.length)

/-- Admit the pages of .text: none if one is refused (R69, R70). -/
def admitPages (s : State) (pt : PtBase) : Nat → Nat → Option State
  | 0, _ => some s
  | n + 1, va =>
    match s.walkTables 0 pt va with
    | .leaf l =>
      let f := Pte.frame l.pte
      let words := wordsOf (s.physRead (f * 2 ^ 16) 0x10000 (Pte.key l.pte))
      if (firstRefused words 0).isSome then none
      else
        let s := { s with admitted := setInsert s.admitted f }
        admitPages (s.physWrite l.at_ pt.key.toNat (leBytes 8 (l.pte ||| 0x10).toNat)) pt n (va + 0x10000)
    | _ => none

/-- How a load ends. -/
inductive LoadEnd where
  | noSpace
  | refused
  | noRoot (e : RootFail)
  | done (text data bss : Nat) (handles : List (BitVec 32))
  deriving DecidableEq, Repr

/-- .data with its relocations, handle words and task entries resolved. -/
def dataBytes (img : Image) (text data bss : Nat) (hs : List (BitVec 32)) : List Byte :=
  let base (k : Nat) : Nat := if k = 0 then text else if k = 1 then data else bss
  let bs := img.relocs.foldl (fun bs r => patch bs r.off (leBytes 8 (fieldOf bs r.off 8 + base r.sect))) img.data
  let bs := (img.tensors.zip hs).foldl (fun bs e => patch bs e.1.word (leBytes 4 e.2.toNat)) bs
  img.handles.foldl (fun bs e => patch bs e.1 (leBytes 4 (hs.getD e.2 0).toNat)) bs

/-- Map the sections of an image with .text admitted, make the roots (R377). -/
def loadSections (s : State) (pt : PtBase) (key : BitVec 11) (img : Image) : LoadEnd × State :=
  let tb := textBytes img.text
  match s.placeSection pt textFlags tb.length tb with
  | none => (.noSpace, s)
  | some (text, s) =>
    match s.placeSection pt dataFlags img.data.length [] with
    | none => (.noSpace, s)
    | some (data, s) =>
      match s.placeSection pt dataFlags img.bss [] with
      | none => (.noSpace, s)
      | some (bss, s) =>
        match s.admitPages pt (ceilDiv tb.length 0x10000) text with
        | none => (.refused, s)
        | some s =>
          match s.makeRoots key (img.tensors.map fun t => (t.shape, (imageContents t).1, (imageContents t).2)) with
          | .error (e, s) => (.noRoot e, s)
          | .ok (hs, s) => (.done text data bss hs, s)

/-- Write bytes at virtual addresses of a tree, page by page, as die 0 reaches them: it fails where a page is not writable,
and waits for a path or a CXL link (R335). -/
def writeVirtual (pt : PtBase) : Nat → Nat → List Byte → Acc Unit
  | 0, va, bs => if bs.isEmpty then pure () else stopTrap 2 va
  | fuel + 1, va, bs =>
    if bs.isEmpty then pure ()
    else if !inDeviceMemory va then stopTrap 2 va
    else do
      let n := 0x10000 - va % 0x10000
      let s ← get
      match s.walkTables 0 pt va with
      | .leaf l =>
        let pa := l.phys va
        if !Pte.w l.pte then stopTrap 4 va
        else if !s.hasPath 0 (homeOfPhys pa) then throw (.path (homeOfPhys pa))
        else
          let put (s : State) : Acc Unit := do
            set ((s.physWrite pa (Pte.key l.pte) (bs.take n)).numberFrom 0 (homeOfPhys pa))
            writeVirtual pt fuel (va + n) (bs.drop n)
          match physRegion pa with
          | .gddr _ => put (s.touchLeaf pt l true)
          | .tier2 _ =>
            match (s.touchLeaf pt l true).touchPiece pa (Pte.pin l.pte) true with
            | some s => put s
            | none => throw (.cxl (BitVec.ofNat 64 va) true)
          | _ => stopTrap 4 va
      | _ => stopTrap 2 va

/-- Pages that n bytes can touch. -/
def pageFuel (n : Nat) : Nat := n / 0x10000 + 2

/-- Read bytes at virtual addresses of a tree, page by page, as die 0 reaches them: it fails where a page is not readable or
holds poison, and waits for a path or a CXL link, a late read returning poisoned data (R335). -/
def readPages (late : Bool) (pt : PtBase) : Nat → Nat → Nat → Acc (List Byte)
  | 0, va, n => if n = 0 then pure [] else stopTrap 2 va
  | fuel + 1, va, n =>
    if n = 0 then pure []
    else if !inDeviceMemory va then stopTrap 2 va
    else do
      let m := min n (0x10000 - va % 0x10000)
      let s ← get
      match s.walkTables 0 pt va with
      | .leaf l =>
        if !Pte.r l.pte then stopTrap 3 va
        else
          set (s.touchLeaf pt l false)
          reachFrame late 0 va (l.phys va) (Pte.pin l.pte)
          let s ← get
          if (s.poisonIn (l.phys va) m).isSome then throw (.poison (BitVec.ofNat 64 va))
          else
            let bs := s.physRead (l.phys va) m (Pte.key l.pte)
            return bs ++ (← readPages late pt fuel (va + m) (n - m))
      | _ => stopTrap 2 va

/-- An event of Ubelo waits with an access: the waiting for a link (R335), or of a write for a path (R324), is timed. -/
def waitFor (s : State) (e : Instr) : Stop → State
  | .cxl _ _ => s.waitLink e
  | .path d => s.waitPathOf e 0 d
  | _ => s.endLinkWait e

/-- An access of Ubelo for a request: the request waits with it, or fails with STATUS 7 and leaves nothing, or goes on. -/
def ubeloAccess {α : Type} (s : State) (e : Instr) (r : Request) (code : Nat) (m : Acc α) (f : α → State → State) :
    Bool × State :=
  match m s with
  | (.ok x, s') => (true, f x (s'.endLinkWait e))
  | (.error x, _) => if x.waits then (false, s.waitFor e x) else (true, (s.endLinkWait e).respond r code 7 [])

/-- Does a leaf map each page of a range? -/
def mappedAll (s : State) (pt : PtBase) (va n : Nat) : Bool :=
  (List.range (ceilDiv (va % 0x10000 + n) 0x10000)).all fun i =>
    match s.walkTables 0 pt (va + i * 0x10000) with
    | .leaf _ => inDeviceMemory (va + i * 0x10000)
    | _ => false

/-- The handle words of an image whose .data stands at a base, each with the place of its tensor in the job, where the image's
tensors come after n others: the word of each root, and those of the task entries (R377, R295). -/
def handleWords (img : Image) (data n : Nat) : List (Nat × Nat) :=
  (List.range img.tensors.length).filterMap (fun i => (img.tensors[i]?).map fun t => (data + t.word, n + i)) ++
    img.handles.map fun e => (data + e.1, n + e.2)

/-- Load an image (R377): a request that fails leaves nothing of it. -/
def loadImage (s : State) (r : Request) (job : Nat) (img : Image) : State :=
  match s.openJob job with
  | none => s.respond r 1 3 []
  | some (j, s1) =>
    let pt := ptbaseOf j.ptbase
    match s1.loadSections pt j.key img with
    | (.noSpace, _) => s.respond r 1 3 []
    | (.refused, _) => s.respond r 1 1 []
    | (.noRoot e, s2) => (s.undoRoots e s2).respond r 1 e.status []
    | (.done text data bss hs, s2) =>
      match writeVirtual pt (pageFuel img.data.length) data (dataBytes img text data bss hs) s2 with
      | (.error _, _) => s.respond r 1 3 []
      | (.ok _, s3) =>
        let s3 := s3.setJob job { j with tensors := j.tensors ++ hs, words := j.words ++ handleWords img data j.tensors.length }
        s3.respond r 1 0 [BitVec.ofNat 64 text, BitVec.ofNat 64 data, BitVec.ofNat 64 bss]

/-! ### The other requests (R336) -/

/-- Create a tensor (request 2). -/
def createTensor (s : State) (r : Request) (job : Nat) (shape : TensorShape) : State :=
  match Map.find s.jobs job with
  | none => s.respond r 2 2 []
  | some j =>
      match s.makeRoot shape j.key [] [] with
      | .error (e, _) => s.respond r 2 e.status []
      | .ok (h, s) => (s.setJob job { j with tensors := j.tensors ++ [h] }).respond r 2 0 [h.setWidth 64]

/-- Write bytes into the element plane of a node through a mapping, block by block: none without a block. -/
def writeNodeBytes (s : State) (slot : Nat) : Nat → Nat → List Byte → Option State
  | 0, _, bs => if bs.isEmpty then some s else none
  | fuel + 1, off, bs =>
    if bs.isEmpty then some s
    else
      match s.node slot with
      | none => none
      | some n =>
        let k := 4096 - off % 4096
        match s.ownBlock slot n false (off / 4096) with
        | none => none
        | some s =>
          let s := s.writeOwn slot false (off / 4096) (off % 4096) (bs.take k) none
          writeNodeBytes (s.coverWritten [(.node slot false (off / 4096) (off % 4096), k)]) slot fuel (off + k) (bs.drop k)

/-- Write data (request 3). -/
def writeData (s : State) (e : Instr) (r : Request) (target : DataTarget) (off : Nat) (data : List Byte) : Bool × State :=
  match target with
  | .node h =>
    match s.nodeOf h.toNat with
    | none => (true, s.respond r 3 2 [])
    | some (k, n) =>
      if !s.storable k n || n.shape.elemPlane.blocks * 4096 < off + data.length then (true, s.respond r 3 7 [])
      else if !s.hasPath 0 n.home then (false, s.waitPathOf e 0 n.home)
      else
        let s := s.endLinkWait e
        match s.writeNodeBytes k (data.length / 4096 + 2) off data with
        | none => (true, (s.refuseSpace n.home).respond r 3 3 [])
        | some s => (true, (s.numberFrom 0 n.home).respond r 3 0 [])
  | .device job va =>
    match Map.find s.jobs job with
    | none => (true, s.respond r 3 2 [])
    | some j =>
      if !s.mappedAll (ptbaseOf j.ptbase) (va.toNat + off) data.length then (true, s.respond r 3 2 [])
      else
        s.ubeloAccess e r 3 (writeVirtual (ptbaseOf j.ptbase) (pageFuel data.length) (va.toNat + off) data)
          fun _ s => s.respond r 3 0 []

/-- Resolved bytes of the element plane of a node. -/
def readNodeBytes (s : State) (slot : Nat) : Nat → Nat → Nat → List Byte
  | 0, _, _ => []
  | fuel + 1, off, n =>
    if n = 0 then []
    else
      let k := min n (4096 - off % 4096)
      let data := s.resolve slot false (off / 4096)
      (List.range k).map (fun i => Map.get 0 data (off % 4096 + i)) ++ readNodeBytes s slot fuel (off + k) (n - k)

/-- Does a run of the element plane of a node resolve through poison (R350)? -/
def nodePoisoned (s : State) (slot off n : Nat) : Bool :=
  !s.nodesClean && (List.range n).any fun i => s.resolvePoison 10 slot false ((off + i) / 4096) ((off + i) % 4096)

/-- Read data (request 4). -/
def readData (s : State) (e : Instr) (r : Request) (target : DataTarget) (off len : Nat) : Bool × State :=
  match target with
  | .node h =>
    match s.nodeOf h.toNat with
    | none => (true, s.respond r 4 2 [])
    | some (k, n) =>
      if n.shape.elemPlane.blocks * 4096 < off + len then (true, s.respond r 4 7 [])
      else if !s.hasPath 0 n.home then (false, s)
      else if s.nodePoisoned k off len then (true, s.respond r 4 7 [])
      else (true, s.respond r 4 0 (packWords (len + 1) (s.readNodeBytes k (len / 4096 + 2) off len)))
  | .device job va =>
    match Map.find s.jobs job with
    | none => (true, s.respond r 4 2 [])
    | some j =>
      if !s.mappedAll (ptbaseOf j.ptbase) (va.toNat + off) len then (true, s.respond r 4 2 [])
      else
        s.ubeloAccess e r 4 (readPages (s.linkLate e) (ptbaseOf j.ptbase) (pageFuel len) (va.toNat + off) len)
          fun bs s => s.respond r 4 0 (packWords (len + 1) bs)

/-- Submit a graph (request 5): the header is placed, as the die of the serving core reaches its home, then GSUBMIT of that die
is written (R298). A PTBASE within its limits that names the tree of no job is not found (R377); one with a reserved bit set
goes to the dispatchers, which refuse it. -/
def submitRequest (s : State) (e : Instr) (r : Request) (h : GraphHeader) : Bool × State :=
  let home := homeOfPhys h.addr
  if h.addr % 32 ≠ 0 || 2 ^ 39 ≤ h.addr || Config.dies ≤ h.die then (true, s.respond r 5 1 [])
  else if ptbaseOk h.ptbase && !s.jobs.any fun e => e.2.ptbase = h.ptbase then (true, s.respond r 5 2 [])
  else if !s.hasPath h.die home then (false, s.waitPathOf e h.die home)
  else
    let bs := leBytes 8 h.count.toNat ++ leBytes 8 h.list.toNat ++ leBytes 8 h.ptbase.toNat ++ leBytes 8 h.reserved.toNat
    let placed := (s.physWrite h.addr 0 bs).numberFrom h.die home
    match placed.submitGraph (s.linkLate e) h.die (BitVec.ofNat 64 h.addr) with
    | none => (false, s.waitLink e)
    | some s =>
      let g := (s.die h.die).glast
      (true, (s.endLinkWait e).respond r 5 (if g.getLsbD 63 then 4 else 0) [g])

/-- Open a delivery ring (request 6, R316), one for each client stream: where the stream has one, no other is opened, and the
request returns its address (DESIGN CHOICE, log 36: no rule says what a second request gets). -/
def openRing (s : State) (r : Request) (job cap stream : Nat) : State :=
  match Map.find s.jobs job with
  | none => s.respond r 6 2 []
  | some j =>
    if cap = 0 || 65536 < cap then s.respond r 6 1 []
    else
      match s.rings.find? fun g => g.client = r.client && g.stream = stream with
      | some g => s.respond r 6 0 [g.addr]
      | none =>
      let pt := ptbaseOf j.ptbase
      match s.placeSection pt dataFlags (0x40 + cap * 16) (leBytes 16 0 ++ leBytes 8 cap) with
      | none => s.respond r 6 3 []
      | some (va, s) =>
        let g : DeliveryRing := ⟨job, BitVec.ofNat 64 va, cap, r.client, stream, 0, 0⟩
        { s with rings := s.rings ++ [g] }.respond r 6 0 [BitVec.ofNat 64 va]

/-- TDEL of a node by Ubelo (R177); a busy one stays. -/
def deleteNode (s : State) (k : Nat) (n : Node) : State :=
  let cs := s.children k
  let busy := n.st = .flattening && !cs.isEmpty || cs.any fun c => match s.node c with
    | some m => m.st = .flattening
    | none => false
  if busy then s
  else
    match cs with
    | [] => (s.freeNode k).wakeLineage
    | [c] => (s.splice k c).wakeLineage
    | _ => (s.killMappings k).setNode k { n with st := .retired }

/-- Delete nodes by their handles. -/
def deleteHandles (s : State) (hs : List (BitVec 32)) : State :=
  hs.foldl (fun s h => match s.nodeOf h.toNat with
    | some (k, n) => s.deleteNode k n
    | none => s) s

/-- Is a graph of a job under way: an instance of it placed or over, and not every one over (R290, log 22)? -/
def jobPlaced (s : State) (j : Job) : Bool :=
  let past (i : Inst) : Bool := i.st = .ended || (i.st = .failed && i.released)
  s.graphs.any fun g =>
    let xs := (s.insts.filter fun e => e.2.graph = g.1).map (·.2)
    g.2.ptbase = j.ptbase && xs.any (fun i => past i || holdsCores i.st || i.st = .failed || i.ctx.isSome) && !xs.all past

/-- Fork tensors as TSEAL does: the children, in order. A handle that names no node any more stays. -/
def sealTensors (s : State) (hs : List (BitVec 32)) : List (BitVec 32) × State :=
  hs.foldl (fun (acc : List (BitVec 32) × State) h =>
    match acc.2.nodeOf h.toNat, acc.2.freeSlot with
    | some (k, _), some c =>
      let s := (acc.2.sealNode k).makeChild k c 0
      (acc.1 ++ [BitVec.ofNat 32 (s.handleOf c)], s)
    | _, _ => (acc.1 ++ [h], acc.2)) ([], s)

/-- Must a checkpoint of a job wait: for a boundary between two graphs, or for a bound tensor (R290)? -/
def checkpointWaits (s : State) (j : Job) : Bool :=
  s.jobPlaced j || j.tensors.any fun h => match s.nodeOf h.toNat with
    | some (_, n) => n.bound
    | none => false

/-- Delete the snapshots of the checkpoint before: those that stay, because a flatten is busy with them. -/
def releaseSnapshots (s : State) (hs : List (BitVec 32)) : List (BitVec 32) × State :=
  let s := s.deleteHandles hs
  (hs.filter fun h => (s.nodeOf h.toNat).isSome, s)

/-- The manifest of a checkpoint of a job (R290): each sealed tensor with its shape, its object, the object's length and CRC.
Sequence numbers count the checkpoints of one job, and an object's name carries the job, the number and the tensor's place
(DESIGN CHOICE, log 22: R290 says only that it carries the number). -/
def manifestOf (s : State) (job seq : Nat) (hs : List (BitVec 32)) : Manifest :=
  ⟨seq, (List.range hs.length).filterMap fun i =>
    let h := hs.getD i 0
    (s.nodeOf h.toNat).map fun e =>
      ⟨h, e.2.shape, (job, seq, i), Config.objectLength job seq i, Config.objectCrc job seq i⟩⟩

/-- A later graph of a job receives the handles of the children (R290): in the tensor entries of its tasks, and in the handle
words of the job's images (log 22). A word that its page refuses keeps the old handle. -/
def giveHandles (s : State) (j : Job) (hs : List (BitVec 32)) : State :=
  let swap (h : BitVec 32) : BitVec 32 := ((j.tensors.zip hs).find? fun e => e.1 = h).elim h (·.2)
  let s := { s with graphs := s.graphs.map fun g =>
    if g.2.ptbase ≠ j.ptbase then g
    else (g.1, { g.2 with tasks := g.2.tasks.map fun t => { t with tens := t.tens.map fun e => (swap e.1, e.2) } }) }
  j.words.foldl (fun s w =>
    match hs[w.2]? with
    | none => s
    | some h =>
      match writeVirtual (ptbaseOf j.ptbase) 2 w.1 (leBytes 4 h.toNat) s with
      | (.ok _, s) => s
      | (.error _, _) => s) s

/-- A checkpoint (request 7, R290, R291). It waits for a boundary between two graphs; a second one of the job is refused
meanwhile. Then the tensors are sealed, and the job runs on while the objects and the manifest are written. Once the
manifest is acknowledged, the snapshots before it are deleted and the request is answered. A failure leaves the earlier
manifest and snapshots. -/
def takeCheckpoint (s : State) (r : Request) (job : Nat) (j : Job) (o : StoreOutcome) : Bool × State :=
  if j.waiting.any fun w => w.1 ≠ r then (true, s.respond r 7 5 [])
  else
    match j.sealing with
    | none =>
      if s.checkpointWaits j then (false, s.setJob job { j with waiting := some (r, o) })
      else if s.freeSlots < j.tensors.length then (true, (s.setJob job { j with waiting := none }).respond r 7 3 [])
      else
        let (hs, s) := s.sealTensors j.tensors
        let s := s.giveHandles j hs
        (false, s.setJob job { j with
          tensors := hs, seq := j.seq + 1, sealing := some (j.seq + 1, j.tensors), waiting := some (r, o) })
    | some (seq, snaps) =>
      match o with
      | .durable =>
        let m := s.manifestOf job seq snaps
        let (busy, s) := s.releaseSnapshots j.snapshots
        (true, (s.setJob job { j with
          snapshots := busy ++ snaps, manifest := some m, sealing := none, waiting := none }).respond r 7 0 [])
      | .failed =>
        (true, (s.setJob job { j with
          snapshots := j.snapshots ++ snaps, sealing := none, waiting := none }).respond r 7 7 [])

/-- A restore (request 8, R291): a name that the file store does not know gives STATUS 2; else each tensor of the manifest
becomes a root with its contents, and the new handles are returned. Numbers that checkpoints of the job have used are not
used again, and the latest manifest stays the latest (R291). -/
def restoreJob (s : State) (r : Request) (job : Nat) (m : StoredManifest) : State :=
  if !m.found then s.respond r 8 2 []
  else
    match s.openJob job with
    | none => s.respond r 8 3 []
    | some (j, s1) =>
      match s1.makeRoots j.key (m.tensors.map fun t => (t.shape, t.codes.map (·.toNat), t.scales.map (·.toNat))) with
      | .error (e, s2) => (s.undoRoots e s2).respond r 8 e.status []
      | .ok (hs, s2) =>
        let latest := match j.manifest with
          | some old => if m.seq < old.seq then old else s2.manifestOf job m.seq hs
          | none => s2.manifestOf job m.seq hs
        (s2.setJob job { j with tensors := hs, seq := max j.seq m.seq, manifest := some latest }).respond r 8 0
          (hs.map (·.setWidth 64))

/-- Number of an instance state in a telemetry response. -/
def instStateNumber : InstState → Nat
  | .pending => 0
  | .early => 1
  | .ready => 2
  | .reserving => 3
  | .resident => 4
  | .stopping => 5
  | .saved => 6
  | .ending => 7
  | .ended => 8
  | .failed => 9

/-- HEAD and TAIL of a delivery ring, and its records. -/
def readRing (late : Bool) (g : DeliveryRing) : Acc (Nat × Nat × List Byte) := do
  match Map.find (← get).jobs g.job with
  | none => stopTrap 2 g.addr.toNat
  | some j =>
    let bs ← readPages late (ptbaseOf j.ptbase) 40 g.addr.toNat (0x40 + g.cap * 16)
    pure (fieldOf bs 0 8, fieldOf bs 8 8, bs.drop 0x40)

/-- Replace an open ring. -/
def setDelivery (s : State) (g : DeliveryRing) : State :=
  { s with rings := s.rings.map fun x => if x.client = g.client && x.stream = g.stream then g else x }

/-- Does the transport carry packets to clients: is an Ethernet port up? -/
def carriesClients (s : State) : Bool := s.ethUp ≠ 0

/-- Ubelo looks at a delivery ring (R338) while the transport carries packets: it advances HEAD over the records that the
transport has acknowledged; else it sends the records before TAIL that it has not sent, as token messages, in order. While
every port is down nothing is sent (log 21). -/
def serveDelivery (s : State) (g : DeliveryRing) : State :=
  match readRing false g s, Map.find s.jobs g.job with
  | (.ok (head, tail, records), s), some j =>
    if !s.carriesClients then s
    else if head ≠ g.acked then
      match writeVirtual (ptbaseOf j.ptbase) 2 g.addr.toNat (leBytes 8 g.acked) s with
      | (.ok _, s) => s
      | (.error _, _) => s
    else
      let n := min ((tail + 2 ^ 64 - g.sent) % 2 ^ 64) g.cap
      if n = 0 then s
      else
        let record (i : Nat) : Response := ⟨g.client, BitVec.ofNat 64 g.stream, 0, 0,
          packWords 4 ((records.drop ((g.sent + i) % g.cap * 16)).take 16)⟩
        { s with responses := s.responses ++ (List.range n).map record }.setDelivery { g with sent := (g.sent + n) % 2 ^ 64 }
  | _, _ => s

/-- The transport acknowledges the packet of the oldest record of a ring that it has not acknowledged (R338). -/
def acknowledgeRecord (s : State) (ring : Nat) : State :=
  match s.rings[ring]? with
  | none => s
  | some g =>
    if !s.carriesClients || g.acked = g.sent then s else s.setDelivery { g with acked := (g.acked + 1) % 2 ^ 64 }

/-- Is the ring of a client's stream open, and how does it stand? -/
inductive RingEnd where
  | closed
  | waits
  /-- The ring cannot be read. -/
  | lost
  deriving DecidableEq, Repr

/-- Close a client's delivery ring once HEAD equals TAIL (R338), for a request. -/
def closeRing (s : State) (e : Instr) (client stream : Nat) : RingEnd × State :=
  match s.rings.find? fun g => g.client = client && g.stream = stream with
  | none => (.closed, s)
  | some g =>
    let gone (s : State) : State := { s with rings := s.rings.filter fun x => !(x.client = client && x.stream = stream) }
    match readRing (s.linkLate e) g s with
    | (.error x, _) => if x.waits then (.waits, s.waitFor e x) else (.lost, gone (s.endLinkWait e))
    | (.ok (head, tail, _), s) =>
      let s := s.endLinkWait e
      if head = tail && head = g.sent then (.closed, gone s) else (.waits, s)

/-- Has a client a ring for a stream? -/
def hasRing (s : State) (client stream : Nat) : Bool := s.rings.any fun g => g.client = client && g.stream = stream

/-- A load request (R338, R377): the ring of the client stream that it ends is closed first. -/
def loadRequest (s : State) (e : Instr) (r : Request) (job : Nat) (img : Image) : Bool × State :=
  match img.ends with
  | none => (true, s.loadImage r job img)
  | some stream =>
    match s.closeRing e r.client stream with
    | (.waits, s) => (false, s)
    | (_, s) => (true, s.loadImage r job img)

/-- A telemetry request that reads (request 9). -/
def tell (s : State) (r : Request) (sel : TelemetrySel) : State :=
  match sel with
  | .instance_ id =>
    match Map.find s.insts id with
    | none => s.respond r 9 2 []
    | some i => s.respond r 9 0 [BitVec.ofNat 64 (instStateNumber i.st)]
  | .devent die =>
    if die < Config.dies then
      let (x, s) := s.readDevent die
      s.respond r 9 0 [x]
    else s.respond r 9 2 []
  | .register die off =>
    if die < Config.dies && off % 8 = 0 && off < 0x10000 then
      let (x, s) := s.dieRead die off
      s.respond r 9 0 [x]
    else s.respond r 9 2 []
  | .cluster die k off =>
    if die < Config.dies && k < 128 && off % 8 = 0 && off < 0x10000 then
      s.respond r 9 0 [s.readClusterReg (die * 128 + k) off]
    else s.respond r 9 2 []
  | .throttled => s.respond r 9 0 [s.mgmtRead 0x20]
  | .closeRing _ => s.respond r 9 0 []

/-- A telemetry request (R336, R338): one that ends a client stream waits until its ring is empty; a ring that cannot be
read gives STATUS 7 (log 36). -/
def telemetry (s : State) (e : Instr) (r : Request) (sel : TelemetrySel) : Bool × State :=
  match sel with
  | .closeRing stream =>
    if !s.hasRing r.client stream then (true, s.respond r 9 2 [])
    else
      match s.closeRing e r.client stream with
      | (.waits, s) => (false, s)
      | (.lost, s) => (true, s.respond r 9 7 [])
      | (.closed, s) => (true, s.tell r sel)
  | _ => (true, s.tell r sel)

/-- A test request (request 10, R355): its first look starts the self-tests of its idle clusters; clusters that hold an
instance answer as a refused TESTC, one under test makes the request busy. It is done when no cluster is left, and its
results stand in the order of the clusters in its list (DESIGN CHOICE, log 36). -/
def runTests (s : State) (r : Request) (cs : List (Nat × Nat)) : Bool × State :=
  let mine (t : TestReq) : Bool := t.client = r.client && t.id = r.id
  match s.tests.find? mine with
  | some t =>
    if t.left.isEmpty then
      let data : List Word := cs.filterMap fun c => (t.results.find? fun e => e.1 = c.1 * 128 + c.2).map (·.2)
      (true, { s with tests := s.tests.filter fun t => !mine t }.respond r 10 0 data)
    else (false, s)
  | none =>
    if cs.any fun c => Config.dies ≤ c.1 || 128 ≤ c.2 then (true, s.respond r 10 1 [])
    else if cs.any fun c => (s.cluster (c.1 * 128 + c.2)).testing then (true, s.respond r 10 5 [])
    else
      let ks := (cs.map fun c => c.1 * 128 + c.2).dedup
      let busy (k : Nat) : Bool := (coresOf k).any fun x => (s.core x).inst.isSome
      let idle := ks.filter fun k => !busy k
      let refused := (ks.filter busy).map fun k => (k, BitVec.ofNat 64 (2 ^ 63))
      if idle.isEmpty then (true, s.respond r 10 0 (cs.map fun _ => BitVec.ofNat 64 (2 ^ 63)))
      else
        let s := idle.foldl (fun s k => (s.setCluster k { s.cluster k with testing := true }).enqueue
          (.testComplete (k / 128) (k % 128) 0 false)) s
        (false, { s with tests := s.tests ++ [⟨r.client, r.id, idle, refused⟩] })

end State

/-! ### Events -/

/-- A request that is done as soon as it is served. -/
def atOnce (f : State → State) (s : State) : Bool × State := (true, f s)

/-- LOAD_IMAGE (R377). -/
def execLoadImage (req : Request) (job : Nat) (img : Image) (s : State) : Out :=
  .next (s.serve' (.loadImage req job img) req 1 fun s => s.loadRequest (.loadImage req job img) req job img)

/-- CREATE_TENSOR (R336). -/
def execCreateTensor (req : Request) (job : Nat) (shape : TensorShape) (s : State) : Out :=
  .next (s.serve' (.createTensor req job shape) req 2 (atOnce fun s => s.createTensor req job shape))

/-- WRITE_DATA (R336). -/
def execWriteData (req : Request) (target : DataTarget) (off : Nat) (data : List Byte) (s : State) : Out :=
  .next (s.serve' (.writeData req target off data) req 3 fun s => s.writeData (.writeData req target off data) req target off data)

/-- READ_DATA (R336). -/
def execReadData (req : Request) (target : DataTarget) (off len : Nat) (s : State) : Out :=
  .next (s.serve' (.readData req target off len) req 4 fun s => s.readData (.readData req target off len) req target off len)

/-- SUBMIT_GRAPH (R336). -/
def execSubmitGraph (req : Request) (hdr : GraphHeader) (s : State) : Out :=
  .next (s.serve' (.submitGraph req hdr) req 5 fun s => s.submitRequest (.submitGraph req hdr) req hdr)

/-- OPEN_DELIVERY_RING (R336). -/
def execOpenDeliveryRing (req : Request) (job cap stream : Nat) (s : State) : Out :=
  .next (s.serve' (.openDeliveryRing req job cap stream) req 6 (atOnce fun s => s.openRing req job cap stream))

/-- The checkpoint of a job, if the job exists. -/
def State.checkpointRequest (s : State) (r : Request) (job : Nat) (o : StoreOutcome) : Bool × State :=
  match Map.find s.jobs job with
  | none => (true, s.respond r 7 2 [])
  | some j => s.takeCheckpoint r job j o

/-- CHECKPOINT (R290, R291). -/
def execCheckpoint (req : Request) (job : Nat) (outcome : StoreOutcome) (s : State) : Out :=
  .next (s.serve' (.checkpoint req job outcome) req 7 fun s => s.checkpointRequest req job outcome)

/-- RESTORE (R291). -/
def execRestore (req : Request) (job : Nat) (manifest : StoredManifest) (s : State) : Out :=
  .next (s.serve' (.restore req job manifest) req 8 (atOnce fun s => s.restoreJob req job manifest))

/-- TELEMETRY (R336, R338). -/
def execTelemetry (req : Request) (sel : TelemetrySel) (s : State) : Out :=
  .next (s.serve' (.telemetry req sel) req 9 fun s => s.telemetry (.telemetry req sel) req sel)

/-- TEST (R336, R355). -/
def execTest (req : Request) (clusters : List (Nat × Nat)) (s : State) : Out :=
  .next (s.serve' (.test req clusters) req 10 fun s => s.runTests req clusters)

end Sys2Proof.Machine
end

