-- ==== Sys2Proof/Machine/Dispatch.lean ====
section
/-! DEFINITION. What each instruction and each event does: one arm for each constructor of Instr, a direct call of its
meaning. -/

namespace Sys2Proof.Machine

/-- The meaning of an instruction or an event. -/
def exec (i : Instr) (s : State) : Host.Outcome State Fault Refusal :=
  match i with
  | .lb d a imm => Sys2Proof.Machine.execLb d a imm s
  | .lbn d a imm => Sys2Proof.Machine.execLbn d a imm s
  | .lh d a imm => Sys2Proof.Machine.execLh d a imm s
  | .lhn d a imm => Sys2Proof.Machine.execLhn d a imm s
  | .lw d a imm => Sys2Proof.Machine.execLw d a imm s
  | .lwn d a imm => Sys2Proof.Machine.execLwn d a imm s
  | .ld d a imm => Sys2Proof.Machine.execLd d a imm s
  | .sb b a imm => Sys2Proof.Machine.execSb b a imm s
  | .sh b a imm => Sys2Proof.Machine.execSh b a imm s
  | .sw b a imm => Sys2Proof.Machine.execSw b a imm s
  | .sd b a imm => Sys2Proof.Machine.execSd b a imm s
  | .ldab d a sz => Sys2Proof.Machine.execLdab d a sz s
  | .ldah d a sz => Sys2Proof.Machine.execLdah d a sz s
  | .ldaw d a sz => Sys2Proof.Machine.execLdaw d a sz s
  | .ldad d a sz => Sys2Proof.Machine.execLdad d a sz s
  | .stlb a b sz => Sys2Proof.Machine.execStlb a b sz s
  | .stlh a b sz => Sys2Proof.Machine.execStlh a b sz s
  | .stlw a b sz => Sys2Proof.Machine.execStlw a b sz s
  | .stld a b sz => Sys2Proof.Machine.execStld a b sz s
  | .amoadd d a b z o sz => Sys2Proof.Machine.execAmoadd d a b z o sz s
  | .amoand d a b z o sz => Sys2Proof.Machine.execAmoand d a b z o sz s
  | .amoor d a b z o sz => Sys2Proof.Machine.execAmoor d a b z o sz s
  | .amoxor d a b z o sz => Sys2Proof.Machine.execAmoxor d a b z o sz s
  | .amomin d a b z o sz => Sys2Proof.Machine.execAmomin d a b z o sz s
  | .amomax d a b z o sz => Sys2Proof.Machine.execAmomax d a b z o sz s
  | .amominn d a b z o sz => Sys2Proof.Machine.execAmominn d a b z o sz s
  | .amomaxn d a b z o sz => Sys2Proof.Machine.execAmomaxn d a b z o sz s
  | .amoswap d a b z o sz => Sys2Proof.Machine.execAmoswap d a b z o sz s
  | .amocas d a b z o sz => Sys2Proof.Machine.execAmocas d a b z o sz s
  | .amofadd d a b o sz => Sys2Proof.Machine.execAmofadd d a b o sz s
  | .amobfadd d a b o sz => Sys2Proof.Machine.execAmobfadd d a b o sz s
  | .wfi => Sys2Proof.Machine.execWfi s
  | .waitpred => Sys2Proof.Machine.execWaitpred s
  | .convoy d n => Sys2Proof.Machine.execConvoy d n s
  | .convoyS d n => Sys2Proof.Machine.execConvoyS d n s
  | .pair d => Sys2Proof.Machine.execPair d s
  | .unpair d => Sys2Proof.Machine.execUnpair d s
  | .admitPage d a => Sys2Proof.Machine.execAdmitPage d a s
  | .replay d a => Sys2Proof.Machine.execReplay d a s
  | .testc d a => Sys2Proof.Machine.execTestc d a s
  | .sysr d r => Sys2Proof.Machine.execSysr d r s
  | .sysw a r => Sys2Proof.Machine.execSysw a r s
  | .arrive d => Sys2Proof.Machine.execArrive d s
  | .wait a => Sys2Proof.Machine.execWait a s
  | .mbwait d a n => Sys2Proof.Machine.execMbwait d a n s
  | .xphase d => Sys2Proof.Machine.execXphase d s
  | .cphase d => Sys2Proof.Machine.execCphase d s
  | .xsend d a b c => Sys2Proof.Machine.execXsend d a b c s
  | .xrecv d a => Sys2Proof.Machine.execXrecv d a s
  | .vadd d a b m t => Sys2Proof.Machine.execVadd d a b m t s
  | .vsub d a b m t => Sys2Proof.Machine.execVsub d a b m t s
  | .vmul d a b m t => Sys2Proof.Machine.execVmul d a b m t s
  | .vfma d a b m t => Sys2Proof.Machine.execVfma d a b m t s
  | .vfms d a b m t => Sys2Proof.Machine.execVfms d a b m t s
  | .vmin d a b m t => Sys2Proof.Machine.execVmin d a b m t s
  | .vmax d a b m t => Sys2Proof.Machine.execVmax d a b m t s
  | .vabs d a m t => Sys2Proof.Machine.execVabs d a m t s
  | .vneg d a m t => Sys2Proof.Machine.execVneg d a m t s
  | .vdiv d a b m t => Sys2Proof.Machine.execVdiv d a b m t s
  | .vsqrt d a m t => Sys2Proof.Machine.execVsqrt d a m t s
  | .vrcp d a m t => Sys2Proof.Machine.execVrcp d a m t s
  | .vrsqrt d a m t => Sys2Proof.Machine.execVrsqrt d a m t s
  | .vadds d a b m t => Sys2Proof.Machine.execVadds d a b m t s
  | .vsubs d a b m t => Sys2Proof.Machine.execVsubs d a b m t s
  | .vmulh d a b m t => Sys2Proof.Machine.execVmulh d a b m t s
  | .vand d a b m t => Sys2Proof.Machine.execVand d a b m t s
  | .vor d a b m t => Sys2Proof.Machine.execVor d a b m t s
  | .vxor d a b m t => Sys2Proof.Machine.execVxor d a b m t s
  | .vandn d a b m t => Sys2Proof.Machine.execVandn d a b m t s
  | .vnot d a m t => Sys2Proof.Machine.execVnot d a m t s
  | .vshl d a b m t => Sys2Proof.Machine.execVshl d a b m t s
  | .vshr d a b m t => Sys2Proof.Machine.execVshr d a b m t s
  | .vsra d a b m t => Sys2Proof.Machine.execVsra d a b m t s
  | .vcmpeq d a b m t => Sys2Proof.Machine.execVcmpeq d a b m t s
  | .vcmpne d a b m t => Sys2Proof.Machine.execVcmpne d a b m t s
  | .vcmplt d a b m t => Sys2Proof.Machine.execVcmplt d a b m t s
  | .vcmple d a b m t => Sys2Proof.Machine.execVcmple d a b m t s
  | .vcmpltn d a b m t => Sys2Proof.Machine.execVcmpltn d a b m t s
  | .vsel d a b m t => Sys2Proof.Machine.execVsel d a b m t s
  | .pand d a b => Sys2Proof.Machine.execPand d a b s
  | .por d a b => Sys2Proof.Machine.execPor d a b s
  | .pxor d a b => Sys2Proof.Machine.execPxor d a b s
  | .pnot d a => Sys2Proof.Machine.execPnot d a s
  | .pcnt d a t => Sys2Proof.Machine.execPcnt d a t s
  | .pfirst d a t => Sys2Proof.Machine.execPfirst d a t s
  | .pset d a t => Sys2Proof.Machine.execPset d a t s
  | .vpermb d a b m => Sys2Proof.Machine.execVpermb d a b m s
  | .vperm d a b m t => Sys2Proof.Machine.execVperm d a b m t s
  | .vslideup d a b m t => Sys2Proof.Machine.execVslideup d a b m t s
  | .vslidedn d a b m t => Sys2Proof.Machine.execVslidedn d a b m t s
  | .vbcast d a m t => Sys2Proof.Machine.execVbcast d a m t s
  | .vextr d a b t => Sys2Proof.Machine.execVextr d a b t s
  | .vins d a b t => Sys2Proof.Machine.execVins d a b t s
  | .viota d m t => Sys2Proof.Machine.execViota d m t s
  | .vzipl d a b m t => Sys2Proof.Machine.execVzipl d a b m t s
  | .vziph d a b m t => Sys2Proof.Machine.execVziph d a b m t s
  | .vmov d a m t => Sys2Proof.Machine.execVmov d a m t s
  | .vcvt d a f m t => Sys2Proof.Machine.execVcvt d a f m t s
  | .vcvts d a f m t => Sys2Proof.Machine.execVcvts d a f m t s
  | .vquant d a b m t => Sys2Proof.Machine.execVquant d a b m t s
  | .vdequant d a b m t => Sys2Proof.Machine.execVdequant d a b m t s
  | .vcbdec d a b m t => Sys2Proof.Machine.execVcbdec d a b m t s
  | .vcbload a => Sys2Proof.Machine.execVcbload a s
  | .vredsum d a m t => Sys2Proof.Machine.execVredsum d a m t s
  | .vredmax d a m t => Sys2Proof.Machine.execVredmax d a m t s
  | .vredmin d a m t => Sys2Proof.Machine.execVredmin d a m t s
  | .vredamax d a m t => Sys2Proof.Machine.execVredamax d a m t s
  | .vredamin d a m t => Sys2Proof.Machine.execVredamin d a m t s
  | .vscan d a m t => Sys2Proof.Machine.execVscan d a m t s
  | .vtolog d a m => Sys2Proof.Machine.execVtolog d a m s
  | .vfromlog d a m => Sys2Proof.Machine.execVfromlog d a m s
  | .vexp d a m t => Sys2Proof.Machine.execVexp d a m t s
  | .vlog d a m t => Sys2Proof.Machine.execVlog d a m t s
  | .vtanh d a m t => Sys2Proof.Machine.execVtanh d a m t s
  | .vsigm d a m t => Sys2Proof.Machine.execVsigm d a m t s
  | .vsilu d a m t => Sys2Proof.Machine.execVsilu d a m t s
  | .vgelu d a m t => Sys2Proof.Machine.execVgelu d a m t s
  | .vrand d m t => Sys2Proof.Machine.execVrand d m t s
  | .vmovi d t imm => Sys2Proof.Machine.execVmovi d t imm s
  | .vaddi d t imm => Sys2Proof.Machine.execVaddi d t imm s
  | .vmuli d t imm => Sys2Proof.Machine.execVmuli d t imm s
  | .vmini d t imm => Sys2Proof.Machine.execVmini d t imm s
  | .vmaxi d t imm => Sys2Proof.Machine.execVmaxi d t imm s
  | .vrsubi d t imm => Sys2Proof.Machine.execVrsubi d t imm s
  | .vandi d t imm => Sys2Proof.Machine.execVandi d t imm s
  | .vori d t imm => Sys2Proof.Machine.execVori d t imm s
  | .vld d a m t => Sys2Proof.Machine.execVld d a m t s
  | .vst d a m t => Sys2Proof.Machine.execVst d a m t s
  | .vlds d a b m t => Sys2Proof.Machine.execVlds d a b m t s
  | .vsts d a b m t => Sys2Proof.Machine.execVsts d a b m t s
  | .vldx d a b m t => Sys2Proof.Machine.execVldx d a b m t s
  | .vstx d a b m t => Sys2Proof.Machine.execVstx d a b m t s
  | .vldrow d a b m t => Sys2Proof.Machine.execVldrow d a b m t s
  | .vldcol d a b m t => Sys2Proof.Machine.execVldcol d a b m t s
  | .vstrow d a b m t => Sys2Proof.Machine.execVstrow d a b m t s
  | .vstcol d a b m t => Sys2Proof.Machine.execVstcol d a b m t s
  | .vscatadd d a b m t => Sys2Proof.Machine.execVscatadd d a b m t s
  | .vldb d a m t => Sys2Proof.Machine.execVldb d a m t s
  | .mma n z x t a b c f => Sys2Proof.Machine.execMma n z x t a b c f s
  | .mmd n z x t a b c f => Sys2Proof.Machine.execMmd n z x t a b c f s
  | .mms n z t a b c f => Sys2Proof.Machine.execMms n z t a b c f s
  | .mshape d a => Sys2Proof.Machine.execMshape d a s
  | .mzero d => Sys2Proof.Machine.execMzero d s
  | .mload d a b => Sys2Proof.Machine.execMload d a b s
  | .mstore d a b f => Sys2Proof.Machine.execMstore d a b f s
  | .mslice d a => Sys2Proof.Machine.execMslice d a s
  | .mwait d a => Sys2Proof.Machine.execMwait d a s
  | .mquant d a b => Sys2Proof.Machine.execMquant d a b s
  | .midx a => Sys2Proof.Machine.execMidx a s
  | .await d c => Sys2Proof.Machine.execAwait d c s
  | .cdrain d => Sys2Proof.Machine.execCdrain d s
  | .fork d a => Sys2Proof.Machine.execFork d a s
  | .tadd d a b c => Sys2Proof.Machine.execTadd d a b c s
  | .tseal d a b => Sys2Proof.Machine.execTseal d a b s
  | .twait d a => Sys2Proof.Machine.execTwait d a s
  | .relabel d a b => Sys2Proof.Machine.execRelabel d a b s
  | .drsend d a b c => Sys2Proof.Machine.execDrsend d a b c s
  | .drwait d a => Sys2Proof.Machine.execDrwait d a s
  | .drfix d a b => Sys2Proof.Machine.execDrfix d a b s
  | .fetchBlock core tid => Sys2Proof.Machine.execFetchBlock core tid s
  | .watchdogExpiry core tid => Sys2Proof.Machine.execWatchdogExpiry core tid s
  | .wfiWake core tid => Sys2Proof.Machine.execWfiWake core tid s
  | .waitRelease core tid => Sys2Proof.Machine.execWaitRelease core tid s
  | .mbwaitRelease core tid => Sys2Proof.Machine.execMbwaitRelease core tid s
  | .convoyForm core tid => Sys2Proof.Machine.execConvoyForm core tid s
  | .waitpredRelease core tid => Sys2Proof.Machine.execWaitpredRelease core tid s
  | .xsendSlot core tid => Sys2Proof.Machine.execXsendSlot core tid s
  | .xsendArrival k => Sys2Proof.Machine.execXsendArrival k s
  | .xrecvRelease core tid => Sys2Proof.Machine.execXrecvRelease core tid s
  | .exchangeOverrun core tid => Sys2Proof.Machine.execExchangeOverrun core tid s
  | .vectorWordExecute core => Sys2Proof.Machine.execVectorWordExecute core s
  | .repeatPass core tid => Sys2Proof.Machine.execRepeatPass core tid s
  | .matrixWordExecute core => Sys2Proof.Machine.execMatrixWordExecute core s
  | .mwaitRelease core tid => Sys2Proof.Machine.execMwaitRelease core tid s
  | .mmsPanel core => Sys2Proof.Machine.execMmsPanel core s
  | .pairIntervalEnd core tid agree => Sys2Proof.Machine.execPairIntervalEnd core tid agree s
  | .admitComplete core tid => Sys2Proof.Machine.execAdmitComplete core tid s
  | .preemptionStop inst => Sys2Proof.Machine.execPreemptionStop inst s
  | .quantumExpiry inst => Sys2Proof.Machine.execQuantumExpiry inst s
  | .priorityPreemption inst => Sys2Proof.Machine.execPriorityPreemption inst s
  | .placeInstance inst => Sys2Proof.Machine.execPlaceInstance inst s
  | .memberEnd inst member => Sys2Proof.Machine.execMemberEnd inst member s
  | .instanceFail inst => Sys2Proof.Machine.execInstanceFail inst s
  | .deventRead core tid die => Sys2Proof.Machine.execDeventRead core tid die s
  | .gsubmitWrite core tid die v => Sys2Proof.Machine.execGsubmitWrite core tid die v s
  | .dfailWrite core tid die v => Sys2Proof.Machine.execDfailWrite core tid die v s
  | .restartInstance core tid die v => Sys2Proof.Machine.execRestartInstance core tid die v s
  | .failTask core tid die v => Sys2Proof.Machine.execFailTask core tid die v s
  | .restartApply inst => Sys2Proof.Machine.execRestartApply inst s
  | .streamStart core => Sys2Proof.Machine.execStreamStart core s
  | .streamComplete core slot => Sys2Proof.Machine.execStreamComplete core slot s
  | .streamPark core slot => Sys2Proof.Machine.execStreamPark core slot s
  | .streamFail core slot => Sys2Proof.Machine.execStreamFail core slot s
  | .awaitRelease core tid => Sys2Proof.Machine.execAwaitRelease core tid s
  | .cdrainRelease core tid => Sys2Proof.Machine.execCdrainRelease core tid s
  | .mcastReceiverComplete core slot member => Sys2Proof.Machine.execMcastReceiverComplete core slot member s
  | .flattenMaterialise node => Sys2Proof.Machine.execFlattenMaterialise node s
  | .flattenComplete node => Sys2Proof.Machine.execFlattenComplete node s
  | .contributionArrive die slot imm => Sys2Proof.Machine.execContributionArrive die slot imm s
  | .deadlineExpiry die slot => Sys2Proof.Machine.execDeadlineExpiry die slot s
  | .drwaitRelease core tid => Sys2Proof.Machine.execDrwaitRelease core tid s
  | .drfixRelease core tid => Sys2Proof.Machine.execDrfixRelease core tid s
  | .testComplete die cluster failed shared => Sys2Proof.Machine.execTestComplete die cluster failed shared s
  | .invvaPage core tid v => Sys2Proof.Machine.execInvvaPage core tid v s
  | .invvaRoot core tid v => Sys2Proof.Machine.execInvvaRoot core tid v s
  | .invvaAll core tid v => Sys2Proof.Machine.execInvvaAll core tid v s
  | .migrationPoolWrite core tid die off v => Sys2Proof.Machine.execMigrationPoolWrite core tid die off v s
  | .keyload core tid die v => Sys2Proof.Machine.execKeyload core tid die v s
  | .lineagePoolWrite core tid die off v => Sys2Proof.Machine.execLineagePoolWrite core tid die off v s
  | .overflowRegionWrite core tid die off v => Sys2Proof.Machine.execOverflowRegionWrite core tid die off v s
  | .errorLogWrite core tid die off v => Sys2Proof.Machine.execErrorLogWrite core tid die off v s
  | .serviceRegisterWrite core tid die cluster off v => Sys2Proof.Machine.execServiceRegisterWrite core tid die cluster off v s
  | .scrubLine die line finding => Sys2Proof.Machine.execScrubLine die line finding s
  | .laneGroupFail bridge group => Sys2Proof.Machine.execLaneGroupFail bridge group s
  | .resendTimeout k => Sys2Proof.Machine.execResendTimeout k s
  | .writeUnreachable k => Sys2Proof.Machine.execWriteUnreachable k s
  | .bridgeWriteReceive k => Sys2Proof.Machine.execBridgeWriteReceive k s
  | .packetReceive pkt => Sys2Proof.Machine.execPacketReceive pkt s
  | .cxlLinkDown port => Sys2Proof.Machine.execCxlLinkDown port s
  | .cxlReadTimeout core tid => Sys2Proof.Machine.execCxlReadTimeout core tid s
  | .loadImage req job img => Sys2Proof.Machine.execLoadImage req job img s
  | .createTensor req job shape => Sys2Proof.Machine.execCreateTensor req job shape s
  | .writeData req target off data => Sys2Proof.Machine.execWriteData req target off data s
  | .readData req target off len => Sys2Proof.Machine.execReadData req target off len s
  | .submitGraph req hdr => Sys2Proof.Machine.execSubmitGraph req hdr s
  | .openDeliveryRing req job cap stream => Sys2Proof.Machine.execOpenDeliveryRing req job cap stream s
  | .checkpoint req job outcome => Sys2Proof.Machine.execCheckpoint req job outcome s
  | .restore req job manifest => Sys2Proof.Machine.execRestore req job manifest s
  | .telemetry req sel => Sys2Proof.Machine.execTelemetry req sel s
  | .test req clusters => Sys2Proof.Machine.execTest req clusters s
  | .powerOn inp => Sys2Proof.Machine.execPowerOn inp s
  | .ubeloStartTimeout => Sys2Proof.Machine.execUbeloStartTimeout s
  | .moduleReset inp => Sys2Proof.Machine.execModuleReset inp s
  | .powerOff => Sys2Proof.Machine.execPowerOff s
  | .powerThrottle => Sys2Proof.Machine.execPowerThrottle s
  | .thermalThrottle die => Sys2Proof.Machine.execThermalThrottle die s
  | .thermalShutdown => Sys2Proof.Machine.execThermalShutdown s
  | .laneGroupRetrained bridge group => Sys2Proof.Machine.execLaneGroupRetrained bridge group s
  | .cxlLinkUp port => Sys2Proof.Machine.execCxlLinkUp port s
  | .ethernetLaneRetrain die lane => Sys2Proof.Machine.execEthernetLaneRetrain die lane s
  | .writeAcknowledged k refused => Sys2Proof.Machine.execWriteAcknowledged k refused s
  | .throttleEnd => Sys2Proof.Machine.execThrottleEnd s
  | .mainPowerLoss => Sys2Proof.Machine.execMainPowerLoss s
  | .managementRegisterWrite idx v => Sys2Proof.Machine.execManagementRegisterWrite idx v s
  | .jtagAccess cmd => Sys2Proof.Machine.execJtagAccess cmd s
  | .add d a b => Sys2Proof.Machine.execAdd d a b s
  | .sub d a b => Sys2Proof.Machine.execSub d a b s
  | .and d a b => Sys2Proof.Machine.execAnd d a b s
  | .or d a b => Sys2Proof.Machine.execOr d a b s
  | .xor d a b => Sys2Proof.Machine.execXor d a b s
  | .andn d a b => Sys2Proof.Machine.execAndn d a b s
  | .sll d a b => Sys2Proof.Machine.execSll d a b s
  | .srl d a b => Sys2Proof.Machine.execSrl d a b s
  | .sra d a b => Sys2Proof.Machine.execSra d a b s
  | .slt d a b => Sys2Proof.Machine.execSlt d a b s
  | .sltn d a b => Sys2Proof.Machine.execSltn d a b s
  | .min d a b => Sys2Proof.Machine.execMin d a b s
  | .max d a b => Sys2Proof.Machine.execMax d a b s
  | .minn d a b => Sys2Proof.Machine.execMinn d a b s
  | .maxn d a b => Sys2Proof.Machine.execMaxn d a b s
  | .mul d a b => Sys2Proof.Machine.execMul d a b s
  | .mulh d a b => Sys2Proof.Machine.execMulh d a b s
  | .mulhn d a b => Sys2Proof.Machine.execMulhn d a b s
  | .div d a b => Sys2Proof.Machine.execDiv d a b s
  | .divn d a b => Sys2Proof.Machine.execDivn d a b s
  | .rem d a b => Sys2Proof.Machine.execRem d a b s
  | .remn d a b => Sys2Proof.Machine.execRemn d a b s
  | .clz d a => Sys2Proof.Machine.execClz d a s
  | .ctz d a => Sys2Proof.Machine.execCtz d a s
  | .popc d a => Sys2Proof.Machine.execPopc d a s
  | .sext d a w => Sys2Proof.Machine.execSext d a w s
  | .zext d a w => Sys2Proof.Machine.execZext d a w s
  | .cmov d a b c => Sys2Proof.Machine.execCmov d a b c s
  | .addi d a imm => Sys2Proof.Machine.execAddi d a imm s
  | .andi d a imm => Sys2Proof.Machine.execAndi d a imm s
  | .ori d a imm => Sys2Proof.Machine.execOri d a imm s
  | .xori d a imm => Sys2Proof.Machine.execXori d a imm s
  | .slti d a imm => Sys2Proof.Machine.execSlti d a imm s
  | .sltin d a imm => Sys2Proof.Machine.execSltin d a imm s
  | .slli d a sz => Sys2Proof.Machine.execSlli d a sz s
  | .srli d a sz => Sys2Proof.Machine.execSrli d a sz s
  | .srai d a sz => Sys2Proof.Machine.execSrai d a sz s
  | .lui d imm => Sys2Proof.Machine.execLui d imm s
  | .addpc d imm => Sys2Proof.Machine.execAddpc d imm s
  | .fadd d a b r => Sys2Proof.Machine.execFadd d a b r s
  | .fsub d a b r => Sys2Proof.Machine.execFsub d a b r s
  | .fmul d a b r => Sys2Proof.Machine.execFmul d a b r s
  | .fdiv d a b r => Sys2Proof.Machine.execFdiv d a b r s
  | .fsqrt d a r => Sys2Proof.Machine.execFsqrt d a r s
  | .fmadd d a b c => Sys2Proof.Machine.execFmadd d a b c s
  | .fmin d a b => Sys2Proof.Machine.execFmin d a b s
  | .fmax d a b => Sys2Proof.Machine.execFmax d a b s
  | .feq d a b => Sys2Proof.Machine.execFeq d a b s
  | .flt d a b => Sys2Proof.Machine.execFlt d a b s
  | .fle d a b => Sys2Proof.Machine.execFle d a b s
  | .fclass d a => Sys2Proof.Machine.execFclass d a s
  | .fneg d a => Sys2Proof.Machine.execFneg d a s
  | .fabs d a => Sys2Proof.Machine.execFabs d a s
  | .ftoi d a r => Sys2Proof.Machine.execFtoi d a r s
  | .fton d a r => Sys2Proof.Machine.execFton d a r s
  | .itof d a r => Sys2Proof.Machine.execItof d a r s
  | .ntof d a r => Sys2Proof.Machine.execNtof d a r s
  | .ftobf d a r => Sys2Proof.Machine.execFtobf d a r s
  | .bftof d a => Sys2Proof.Machine.execBftof d a s
  | .ftoh d a r => Sys2Proof.Machine.execFtoh d a r s
  | .htof d a => Sys2Proof.Machine.execHtof d a s
  | .facq sz => Sys2Proof.Machine.execFacq sz s
  | .frel sz => Sys2Proof.Machine.execFrel sz s
  | .fsc sz => Sys2Proof.Machine.execFsc sz s
  | .beq a b o => Sys2Proof.Machine.execBeq a b o s
  | .bne a b o => Sys2Proof.Machine.execBne a b o s
  | .blt a b o => Sys2Proof.Machine.execBlt a b o s
  | .bge a b o => Sys2Proof.Machine.execBge a b o s
  | .bltn a b o => Sys2Proof.Machine.execBltn a b o s
  | .bgen a b o => Sys2Proof.Machine.execBgen a b o s
  | .jal o => Sys2Proof.Machine.execJal o s
  | .jalr d a imm => Sys2Proof.Machine.execJalr d a imm s
  | .svc c => Sys2Proof.Machine.execSvc c s
  | .brk c => Sys2Proof.Machine.execBrk c s
  | .eret => Sys2Proof.Machine.execEret s
  | .yield => Sys2Proof.Machine.execYield s
  | .taskend => Sys2Proof.Machine.execTaskend s
  | .signal => Sys2Proof.Machine.execSignal s
  | .disband d => Sys2Proof.Machine.execDisband d s
  | .barset d a b => Sys2Proof.Machine.execBarset d a b s
  | .barq d a q => Sys2Proof.Machine.execBarq d a q s
  | .mbsub d a n => Sys2Proof.Machine.execMbsub d a n s
  | .mbread d n => Sys2Proof.Machine.execMbread d n s
  | .loop a o => Sys2Proof.Machine.execLoop a o s
  | .crit n => Sys2Proof.Machine.execCrit n s
  | .repeat a x y z l => Sys2Proof.Machine.execRepeat a x y z l s
  | .copy d a => Sys2Proof.Machine.execCopy d a s
  | .copyt d a => Sys2Proof.Machine.execCopyt d a s
  | .ringinit d a c => Sys2Proof.Machine.execRinginit d a c s
  | .relslot c => Sys2Proof.Machine.execRelslot c s
  | .ringq d q c => Sys2Proof.Machine.execRingq d q c s
  | .bfree a => Sys2Proof.Machine.execBfree a s
  | .bbinit d a b c => Sys2Proof.Machine.execBbinit d a b c s
  | .bbget d b c => Sys2Proof.Machine.execBbget d b c s
  | .bbpeek d b c => Sys2Proof.Machine.execBbpeek d b c s
  | .bbskip d b c => Sys2Proof.Machine.execBbskip d b c s
  | .bblz d => Sys2Proof.Machine.execBblz d s
  | .bbapp d a b c => Sys2Proof.Machine.execBbapp d a b c s
  | .bbflush d => Sys2Proof.Machine.execBbflush d s
  | .bbpos d => Sys2Proof.Machine.execBbpos d s
  | .tnew d a b c => Sys2Proof.Machine.execTnew d a b c s
  | .rebase d a b => Sys2Proof.Machine.execRebase d a b s
  | .flatten d a => Sys2Proof.Machine.execFlatten d a s
  | .tdel d a => Sys2Proof.Machine.execTdel d a s
  | .tinfo d a q => Sys2Proof.Machine.execTinfo d a q s
  | .tmap d a b => Sys2Proof.Machine.execTmap d a b s
  | .tunmap d a => Sys2Proof.Machine.execTunmap d a s
  | .eqnew d a => Sys2Proof.Machine.execEqnew d a s
  | .eqfree d a => Sys2Proof.Machine.execEqfree d a s
  | .unite d a b c => Sys2Proof.Machine.execUnite d a b c s
  | .find d a b => Sys2Proof.Machine.execFind d a b s
  | .eqsize d a b => Sys2Proof.Machine.execEqsize d a b s
  | .eqstat d a q => Sys2Proof.Machine.execEqstat d a q s
  | .milestone d a => Sys2Proof.Machine.execMilestone d a s
  | .undo d a b => Sys2Proof.Machine.execUndo d a b s
  | .undoKeep d a b => Sys2Proof.Machine.execUndoKeep d a b s
  | .vunite d a b c => Sys2Proof.Machine.execVunite d a b c s
  | .vfind d a b => Sys2Proof.Machine.execVfind d a b s
  | .drinit d a => Sys2Proof.Machine.execDrinit d a s
  | .drscale d a => Sys2Proof.Machine.execDrscale d a s
  | .drstat d a b k => Sys2Proof.Machine.execDrstat d a b k s

end Sys2Proof.Machine
end

