-- ==== Sys2Proof/Machine/Time.lean ====
section
/-! DEFINITION. What the passing of a cycle does (R15): counters and clocks go on, and the events that time makes
possible stand on the agenda. Time is the model's own schedule (log 5). -/

namespace Sys2Proof.Machine

namespace State

/-- Append an event that the agenda does not hold yet. -/
def propose (s : State) (i : Instr) : State := if s.agenda.contains i then s else s.enqueue i

/-- Propose an event under a condition. -/
def proposeIf (s : State) (c : Bool) (i : Instr) : State := if c then s.propose i else s

/-- Cycles that have passed since one. -/
def elapsed (s : State) (since : Word) : Nat := (s.cycle - since).toNat

/-- WDOG of one thread (R15): it decrements while its instance is resident; at 0 trap 12 waits. -/
def tickWatchdog (s : State) (k : Nat) (t : Thread) : State :=
  if !t.running || (s.core (k / 4)).inst.isNone then s
  else if t.wdog = 0 then s.proposeIf t.wdogDue (.watchdogExpiry (k / 4) (k % 4))
  else
    let due : Bool := t.wdog = 1
    (s.setThreadAt k { t with wdog := t.wdog - 1, wdogDue := t.wdogDue || due }).proposeIf due
      (.watchdogExpiry (k / 4) (k % 4))

/-- A write that waits, not yet sent, for a path: each 65,536 cycles of it make a record of KIND 10 (R324). -/
def tickPath (s : State) (p : Option PathWait) : State × Option PathWait :=
  match p with
  | none => (s, none)
  | some p =>
    if s.hasPath p.src p.home then (s, none)
    else if s.elapsed p.since < 65536 then (s, some p)
    else (s.errorRecord p.src 10 10 0 0 0 0 0 0, some { p with since := p.since + 65536 })

/-- The write of a thread that waits at issue for a path. -/
def tickThreadPath (s : State) (k : Nat) : State :=
  let t := s.threadAt k
  if t.pathSince.isNone then s
  else
    let (s, p) := s.tickPath t.pathSince
    if p = t.pathSince then s else s.setThreadAt k { s.threadAt k with pathSince := p }

/-- The waits of one thread that end with time: WFI (R90), a CXL link that stays down (R335), the XCLK of an XSEND
(R164), the overrun of a phase (R165); and its waiting for a path (R324). -/
def tickWaits (s : State) (k : Nat) (t : Thread) : State :=
  let core := k / 4
  let tid := k % 4
  let s := s.tickThreadPath k
  let s := s.proposeIf (t.wait = some .wfi && 65536 ≤ s.elapsed t.wfiAt) (.wfiWake core tid)
  let s := s.proposeIf (t.op = some (.cxlReadTimeout core tid) && 1250000 ≤ s.elapsed t.wfiAt) (.cxlReadTimeout core tid)
  let sends : Bool := match t.wait with
    | some (.xsend _ _ _ c) =>
      let at_ : Word := if c = 0#5 then 0 else t.g[c.toNat]
      (at_.toNat : Int) ≤ s.xclk t
    | _ => false
  let s := if sends then xsendSlot core tid s else s
  let s := if t.forest.isSome then s.forestTick core tid else s
  overrunSlot core tid s

/-- Every thread, as it stands when its turn comes: the XSEND of one may trap and break the convoy of another. -/
def tickThreads (s : State) : State :=
  (Map.keys s.threads).foldl (fun s k =>
    let s := s.tickWatchdog k (s.threadAt k)
    s.tickWaits k (s.threadAt k)) s

/-- One instance: its quantum (R308), its time without a rectangle, its stop, its end, its failure. -/
def tickInst (s : State) (k : Nat) (i : Inst) : State :=
  let s := if i.st = .resident && i.quantum ≠ 0 then s.setInst k { i with quantum := i.quantum - 1 } else s
  let s := s.proposeIf (i.st = .resident && i.quantum ≤ 1) (.quantumExpiry k)
  let s := match i.stuckAt with
    | some since => s.proposeIf (waitsForCores i && 1024 ≤ s.elapsed since) (.priorityPreemption k)
    | none => s
  let s := s.proposeIf (i.st = .stopping) (.preemptionStop k)
  let s := if i.st = .resident || i.st = .ending then
      (s.membersOf i).foldl (fun s m => s.proposeIf (s.memberDrained m.2) (.memberEnd k m.1)) s
    else s
  let s := s.proposeIf (i.st = .failed && !i.released) (.instanceFail k)
  s.proposeIf (i.st = .failed && i.released && i.restart.isSome) (.restartApply k)

/-- Every instance. -/
def tickInsts (s : State) : State := s.insts.foldl (fun s e => s.tickInst e.1 e.2) s

/-- The write of the word at the head of a core's sequencer that waits for a path. -/
def tickHeadPath (s : State) (core : Nat) : State :=
  let c := s.core core
  match c.vq with
  | [] => s
  | e :: rest =>
    if e.pathSince.isNone then s
    else
      let (s, p) := s.tickPath e.pathSince
      if p = e.pathSince then s else s.setCore core { s.core core with vq := { e with pathSince := p } :: rest }

/-- One stream: its waiting for a path; one of a service core that waits for lineage space goes on once there is some (R286,
log 36); one that runs looks again, and a read that has waited too long for a link ends (R335). -/
def tickStream (s : State) (core slot : Nat) (x : Stream) : State :=
  let (s, p) := s.tickPath x.pathSince
  let freed : Bool := !isTaskCore core && x.parked.isSome && s.freeBlocks ≠ 0
  let y := { x with pathSince := p, parked := if freed then none else x.parked }
  let s := if y = x then s else s.setStream core slot y
  let s := s.proposeIf (streamRuns y) (.streamComplete core slot)
  s.proposeIf (x.linkAt.any fun at_ => 1250000 ≤ s.elapsed at_) (.cxlReadTimeout core (slot + 4))

/-- The engines of a core that hold work look again. -/
def tickEngines (s : State) : State :=
  s.cores.foldl (fun s e =>
    let c := e.1
    let s := s.tickHeadPath c
    let s := s.proposeIf (!e.2.vq.isEmpty) (.vectorWordExecute c)
    let s := match e.2.mq with
      | [] => s
      | m :: _ => s.propose (if isMms m.instr then .mmsPanel c else .matrixWordExecute c)
    let s := (List.range 4).foldl (fun s t => s.proposeIf (s.thread c t).capture.isSome (.repeatPass c t)) s
    let s := s.proposeIf (!e.2.fifo.isEmpty) (.streamStart c)
    e.2.streams.foldl (fun s x => s.tickStream c x.1 x.2) s) s

/-- Numbered writes that have waited for 4,096 cycles, or for 65,536 without a path: a cycle in which a path is up does not
count (R324). -/
def tickFlights (s : State) : State :=
  let s := if s.flights.isEmpty then s
    else { s with flights := s.flights.map fun f => if s.flightReaches f then { f with since := f.since + 1 } else f }
  s.flights.foldl (fun s f =>
    let k := flightKey f.src f.seq
    let s := s.proposeIf (4096 ≤ s.elapsed f.sentAt) (.resendTimeout k)
    s.proposeIf (!f.performed && 65536 ≤ s.elapsed f.since) (.writeUnreachable k)) s

/-- Deadlines of armed reduction slots (R226). -/
def tickDeadlines (s : State) : State :=
  s.dies.foldl (fun s e => e.2.slots.foldl (fun s x =>
    s.proposeIf (x.2.st = .armed && s.deadlinePassed x.2) (.deadlineExpiry e.1 x.1)) s) s

/-- The write of an event that waits for a path: the event is tried again once there is one (R324). -/
def tickPathOf (s : State) (e : Instr × PathWait) : State :=
  match s.tickPath (some e.2) with
  | (s, none) => s.propose e.1
  | (s, some p) => if p = e.2 then s else { s with pathWaits := s.pathWaits.map fun x => if x = e then (e.1, p) else x }

/-- Ubelo looks at its delivery rings (R338) and at the request of each client that is next (R337); reads that have waited too
long for a CXL link end (R335). -/
def tickUbelo (s : State) : State :=
  let s := if s.mgmt.step = 7 then s.rings.foldl serveDelivery s else s
  let s := s.linkWaits.foldl (fun s e => s.proposeIf (1250000 ≤ s.elapsed e.2) e.1) s
  let s := s.pathWaits.foldl tickPathOf s
  s.inboxHeads.foldl propose s

/-- MTHROT counts the time in which the dies throttle (R362). -/
def tickThrottle (s : State) : State :=
  if s.throttles then { s with mgmt := { s.mgmt with mthrot := s.mgmt.mthrot + 4 } } else s

/-- A cycle passes. -/
def tick (s : State) : State :=
  (({ s with cycle := s.cycle + 1 }.tickThreads.tickInsts.tickEngines).tickFlights.tickDeadlines.tickUbelo).tickThrottle.bootStep

/-- n cycles pass. -/
def ticks : Nat → State → State
  | 0, s => s
  | n + 1, s => ticks n s.tick

end State

end Sys2Proof.Machine
end

