-- ==== Sys2Proof/Machine/Issue.lean ====
section
/-! DEFINITION. How the scalar pipeline of a core issues a word (R310): which thread, what holds it back (R104, R108,
R309), the traps that wait for a boundary (R97, R99), the vote on a covered word (R84, R354), the interval of a paired
core (R98), and a convoy's word in every member (R96). -/

namespace Sys2Proof.Machine

/-! ### What words do to g registers and to what lies beyond a pair -/

/-- The g registers that a queued or captured word writes or reads when it executes. -/
def gOperands (i : Instr) : List Reg :=
  let written : List Reg := match i with
    | .vextr d _ _ _ => [d]
    | .pcnt d _ _ => [d]
    | .pfirst d _ _ => [d]
    | _ => []
  match i with
  | .mshape d a => [d, a]
  | .mwait d a => [d, a]
  | _ =>
    match vectorWord none i with
    | some (a, b, _) => written ++ [a, b]
    | none =>
      match matrixWord i with
      | some (a, b, c, _) => [a, b, c]
      | none => []

/-- Does a vector word write a g register (R104)? -/
def writesG (i : Instr) : Bool :=
  match i with
  | .vextr _ _ _ _ => true
  | .pcnt _ _ _ => true
  | .pfirst _ _ _ => true
  | _ => false

/-- Is a word among those that issue beside a capture, its registers apart (R108)? Words under a cover go with their
CRIT. -/
def besideCapture (covered : Bool) (w : BitVec 32) : Bool :=
  let major := (fld w 26 6).toNat
  let fn := (fld w 0 6).toNat
  covered || (1 ≤ major && major ≤ 0x0B) || (0x19 ≤ major && major ≤ 0x20) || major = 0x25 || major = 0x26 ||
    (major = 0x21 && (fn ≤ 1 || fn = 4)) || ((major = 0x22 || major = 0x23) && !sysWaits (fld w 0 16).toNat)

/-- The register fields of a scalar word: d, a, and the sources of the R format; JAL links in g1. -/
def wordRegs (w : BitVec 32) : List Reg :=
  let major := (fld w 26 6).toNat
  if major = 0x1F then [1#5]
  else
    let two : List Reg := [fld w 21 5, fld w 16 5]
    if major = 1 || major = 0x0B then two ++ [fld w 11 5, fld w 6 5] else two

/-- Is a word a scalar load or store, or an atomic, or a write of INVVA: does it access memory, or follow accesses? -/
def accessesMemory (w : BitVec 32) : Bool :=
  (0x0C ≤ (fld w 26 6).toNat && (fld w 26 6).toNat ≤ 0x18) || ((fld w 26 6).toNat = 0x23 && (fld w 0 16).toNat = 0x107)

/-- Does a captured word access memory: a vector memory word or a matrix word? Accesses of the thread after it in program
order wait for it (R238, R128, R267). -/
def capturedAccess (w : BitVec 32) : Bool :=
  match decodeCaptured w with
  | some i => (matrixWord i).isSome || fld w 26 6 = 0x2F#6
  | none => false

/-- Must every earlier write of the thread have been performed before a word (R241, R244): a release, a fence, the
acceptance of a copy request, a LIN or an EQV form, DRSEND, INVVA? -/
def ordersWrites (i : Instr) : Bool :=
  match i with
  | .stlb _ _ _ | .stlh _ _ _ | .stlw _ _ _ | .stld _ _ _ | .frel _ | .fsc _ => true
  | .amoadd _ _ _ _ o _ | .amoand _ _ _ _ o _ | .amoor _ _ _ _ o _ | .amoxor _ _ _ _ o _ | .amomin _ _ _ _ o _
  | .amomax _ _ _ _ o _ | .amominn _ _ _ _ o _ | .amomaxn _ _ _ _ o _ | .amoswap _ _ _ _ o _
  | .amocas _ _ _ _ o _ | .amofadd _ _ _ o _ | .amobfadd _ _ _ o _ => 2 ≤ o.toNat
  | .arrive _ | .xphase _ | .cphase _ | .xsend _ _ _ _ | .bfree _ => true
  | .copy _ _ | .copyt _ _ | .replay _ _ | .drsend _ _ _ _ => true
  | _ => (encode i).extractLsb' 26 6 = 0x36#6 || (encode i).extractLsb' 26 6 = 0x37#6 || (match i with
    | .sysw _ r => r = 0x107#12
    | _ => false)

namespace State

/-- What some words wait for beside the thread's own writes: a load fence its queued vector accesses (R241), a copy request
the queued vector accesses of its core, which come before its stream's (R128, R195), a new arrival at a channel the one that
an overrun has left to the thread (R165). -/
def heldBack (s : State) (i : Instr) : Bool :=
  match i with
  | .facq _ => s.accessQueued
  | .copy _ _ | .copyt _ _ => s.myCore.vq.any fun e => !e.blocks.isEmpty
  | .arrive _ | .xphase _ => s.me.owes
  | _ => false

/-! ### Which thread -/

/-- May the instance of a core issue: is it resident, or stopping with the thread not yet at its stop (R309)? Service
cores run no instance. -/
def instIssues (s : State) (core tid : Nat) : Bool :=
  !isTaskCore core ||
    (match s.instOf core with
    | some i => i.st = .resident || i.st = .ending || (i.st = .stopping && !s.threadStops core tid)
    | none => false)

/-- Does trap 15 wait for the thread's next boundary: does it run a handler with AIE 1, outside any cover (R99, R85)? -/
def stopDue (t : Thread) : Bool := t.stopTrap && t.aie && t.mode = .service && t.cover = 0

/-- Does a trap wait for the thread's next boundary: one that a convoy or another unit left to it, trap 12 outside any
cover, or trap 15 (R97, R15, R85, R99)? -/
def trapDue (t : Thread) : Bool := t.pending.isSome || (t.wdogDue && t.cover = 0) || stopDue t

/-- Is a thread free to issue, convoys apart: no word of it blocks, no store of it is on its way, none that a pre-emption
stop saved in the matrix queue is left to perform (R251), no vector word of it is yet to write a g register (R104)? -/
def freeToIssue (s : State) (core tid : Nat) : Bool :=
  let t := s.thread core tid
  s.running && s.readyBase core tid && s.instIssues core tid &&
    !(s.core core).vq.any (fun e => e.tid.toNat = tid && writesG e.instr) &&
    !s.flightsOut core tid false && !s.carriedStores core tid &&
    !(trapDue t && midPass t)

/-- The members of a convoy as cores, the leader first. -/
def convoyCores (s : State) (core : Nat) (c : Convoy) : List Nat := c.members.filterMap (s.memberCore core)

/-- Is a thread ready (R310)? A follower issues nothing of its own but a trap that waits; a leader issues when every
member can (R96). -/
def ready (s : State) (core tid : Nat) : Bool :=
  let t := s.thread core tid
  s.freeToIssue core tid &&
    (match t.convoy with
    | none => true
    | some c => trapDue t || (convl t && (s.convoyCores core c).all fun x => s.freeToIssue x tid))

/-- Threads that a thread lets pass after YIELD are still ready (R90). -/
def letsPass (s : State) (core tid : Nat) : Bool :=
  (List.range 4).any fun u => (s.thread core tid).yielded.getLsbD u && s.ready core u

/-- The ready threads of a core in the order in which they get the turn, from the one after the last on (R310). One that lets
others pass comes after them: it issues where they stall (R90). -/
def turn (s : State) (core : Nat) : List Nat :=
  let ready := ((List.range 4).map fun k => ((s.core core).lastTid.toNat + 1 + k) % 4).filter (s.ready core)
  ready.filter (fun tid => !s.letsPass core tid) ++ ready.filter (s.letsPass core)

/-- A thread issues: it is the last of its core, and no other waits for it any more. -/
def chosen (s : State) (core tid : Nat) : State :=
  let s := s.setCore core { s.core core with lastTid := BitVec.ofNat 2 tid }
  (List.range 4).foldl (fun s u =>
    let t := s.thread core u
    if u = tid && t.yielded ≠ 0 then s.setThread core u { t with yielded := 0 }
    else if t.yielded.getLsbD tid then s.setThread core u { t with yielded := t.yielded &&& ~~~(1#4 <<< tid) }
    else s) s

/-- Has the turn of a thread left it, and its convoy, as they stood: has its word stalled? What it holds of its fetch block, the
timing of its waiting for a path and its yield do not count. -/
def stalled (s s' : State) (core tid : Nat) : Bool :=
  let cs := (s.thread core tid).convoy.elim [core] fun c => core :: s.convoyCores core c
  let kept (s : State) (c : Nat) : Thread := { s.thread c tid with fetched := none, pathSince := none, yielded := 0 }
  cs.all fun c => (s.core c).contained = (s'.core c).contained && kept s c = kept s' c

/-- A thread whose word has stalled is passed over: another is still the last that has issued, and still waited for (R310,
R90). -/
def passOver (s s' : State) (core : Nat) : State :=
  let s' := s'.setCore core { s'.core core with lastTid := (s.core core).lastTid }
  (List.range 4).foldl (fun x u =>
    if (x.thread core u).yielded = (s.thread core u).yielded then x
    else x.setThread core u { x.thread core u with yielded := (s.thread core u).yielded }) s'

/-- The executing thread takes the trap that waits: one left to it, then trap 12, then trap 15 (log 30). -/
def takeDue (s : State) : State :=
  match s.me.pending with
  | some p => (s.setMe { s.me with pending := none }).takeTrap p.cause p.tval
  | none => if s.me.wdogDue && s.me.cover = 0 then s.watchdogTrap else s.stopTrapNow

/-! ### What holds a word back -/

/-- The g registers that the remaining passes of a capture write or read (R108); fields repeat after 32 passes. -/
def passRegs (c : Capture) : List Reg :=
  (List.range (min 32 (c.passes - c.pass))).flatMap fun k =>
    c.words.flatMap fun w =>
      let by_ (st : BitVec 4) : Reg := BitVec.ofNat 5 ((c.pass + k) * st.toNat)
      match decodeCaptured w with
      | some i => gOperands (advanceWord (by_ c.sd) (by_ c.sa) (by_ c.sb) i)
      | none => []

/-- May the executing thread issue a word beside its capture (R108)? -/
def issuesBeside (s : State) (w : BitVec 32) : Bool :=
  match s.me.capture with
  | none => true
  | some c =>
    c.suspended || c.passes ≤ c.pass ||
      (besideCapture (s.me.cover ≠ 0) w && (wordRegs w).all (fun r => r = 0#5 || !(passRegs c).contains r) &&
        !(accessesMemory w && c.words.any capturedAccess))

/-- Does the effect of a word of the executing thread leave the pair? A doubleword load of service mode may read DEVENT,
which takes the event out (R375). -/
def leavesNow (s : State) (w : BitVec 32) : Bool := leavesPair w || (s.inService && fld w 26 6 = 0x12#6)

/-- Must the interval of the executing thread of a paired core close first (R98): has it 256 words, or does the word leave
the pair before the interval, the word taken in, has matched? -/
def intervalFirst (s : State) (w : BitVec 32) : Bool :=
  let c := s.myCore
  s.intervalFull || (c.paired && s.leavesNow w && !c.matched.getLsbD s.curTid.toNat)

end State

/-! ### One word -/

/-- Change the next state of an outcome. -/
def onNext (f : State → State) : Out → Out
  | .next s => .next (f s)
  | .fault r => .fault r
  | .refused r => .refused r

/-- The core that issued a word whose vote failed twice is contained, with a record of KIND 5; nothing of the word
takes effect (R84, R354). -/
def failVote (s : State) : State :=
  (s.coreRecord s.curCore 5 5 0 s.curTid.toNat 0 0).contain s.curCore

/-- A majority correction counts in VOTECOR of the die (R354). -/
def countVote (s : State) (core : Nat) : State :=
  s.setDie (dieOf core) { s.die (dieOf core) with votecor := (s.die (dieOf core)).votecor + 1 }

/-- Execute a word; under a cover its vote decides first (R84). A word that has not been issued uses no vote up. -/
def execVoted (i : Instr) (s : State) : Out :=
  match s.upsets with
  | [] => exec i s
  | n :: r =>
    if s.me.cover = 0 then exec i s
    else if 2 ≤ n then .next (failVote { s with upsets := r })
    else
      onNext (fun s' =>
        if s'.thread s.curCore s.curTid.toNat = s.me then s'
        else
          let s' := { s' with upsets := r }
          if n = 1 then countVote s' s.curCore else s') (exec i s)

/-- Execute a word; on a paired core the points of its threads take in what it changes (R98). -/
def execNoted (i : Instr) (s : State) : Out :=
  if s.myCore.paired then onNext (fun s' => s'.noteUndo s.curCore s.curTid.toNat s.myCore) (execVoted i s) else execVoted i s

/-- Execute a word whose effect leaves the pair, and close the interval after it so that no rollback repeats it. -/
def execPaired (i : Instr) (w : BitVec 32) (s : State) : Out :=
  if s.myCore.paired && s.leavesNow w then
    onNext (fun s' =>
      if s'.thread s.curCore s.curTid.toNat ≠ s.me then s'.afterLeaving s.curCore s.curTid.toNat else s') (execNoted i s)
  else execNoted i s

/-- Is a word an XSEND? Its block follows the thread's earlier blocks on their way, so it need not wait for them. -/
def isXsend : Instr → Bool
  | .xsend _ _ _ _ => true
  | _ => false

/-- Are writes of the executing thread still under way: queued in its matrix words, not yet acknowledged by their home
(R253), or in exchange blocks that have not arrived (R233)? -/
def State.writesOut (s : State) (i : Instr) : Bool :=
  if isXsend i then s.storesQueued || s.flightsOut s.curCore s.curTid.toNat true else s.ownWritesOut

/-- The executing thread issues a word, unless something holds it back: its capture, its own writes under way where the word
orders them, or the interval of its pair. -/
def issueWord (i : Instr) (w : BitVec 32) (s : State) : Out :=
  if !s.issuesBeside w || (ordersWrites i && s.writesOut i) || s.heldBack i then .next s
  else if s.intervalFirst w then .next (s.propose (.pairIntervalEnd s.curCore s.curTid.toNat true))
  else execPaired i w s

/-! ### A word of a convoy (R96, R97) -/

/-- A word that sets every member's pc to the leader's outcome. -/
def controlWord (w : BitVec 32) : Bool :=
  (0x19 ≤ (fld w 26 6).toNat && (fld w 26 6).toNat ≤ 0x20) || fld w 26 6 = 0x25#6 ||
    (fld w 26 6 = 0x21#6 && fld w 0 6 = 2#6)

/-- After a member's word: a follower keeps no fetch block, its pc follows the leader's at control transfers, and a
member that trapped itself takes no trap 11 for the break. -/
def settleMember (lead : Nat) (w : BitVec 32) (before : Thread) (s : State) : State :=
  let t := s.me
  let trapped : Bool := t.instret = before.instret && t.wait.isNone
  let t := if trapped then { t with pending := none } else t
  if s.curCore = lead then s.setMe t
  else
    let t := { t with fetched := none }
    s.setMe (if controlWord w && !trapped then { t with pc := (s.thread lead s.curTid.toNat).pc } else t)

/-- Execute a word in members of a convoy one after the other; if it stalls in one, it has not been issued in any. -/
def convoyWord (lead tid : Nat) (i : Instr) (w : BitVec 32) (block : Option FetchBlock) (s0 : State) :
    List Nat → State → Out
  | [], s => .next s
  | c :: r, s =>
    let s := s.asThread c tid
    let s := s.setMe { s.me with fetched := block }
    match issueWord i w s with
    | .next s' =>
      if s'.me = s.me && !s'.myCore.contained then .next { s0 with agenda := s'.agenda }
      else convoyWord lead tid i w block s0 r (settleMember lead w s.me (s'.asThread c tid))
    | o => o

/-- The members that execute the next word: all, or those that stand before the others because a stop has abandoned
their word. -/
def convoyTurn (s : State) (lead tid : Nat) (cs : List Nat) : List Nat :=
  let pc (c : Nat) : Word := (s.thread c tid).pc
  if cs.any fun c => pc c = pc lead + 4 then cs.filter fun c => pc c = pc lead
  else
    let late := cs.filter fun c => pc c + 4 = pc lead
    if late.isEmpty then cs else late

/-- The leader of a convoy issues the convoy's next word. -/
noncomputable def issueConvoy (c : Convoy) (s : State) : Out :=
  let lead := s.curCore
  let tid := s.curTid.toNat
  let cs := s.convoyCores lead c
  match cs.find? fun x => State.trapDue (s.thread x tid) with
  | some x => .next (s.within x tid State.takeDue)
  | none =>
    let turn := convoyTurn s lead tid cs
    let pc := match turn.head? with
      | some x => (s.thread x tid).pc
      | none => s.me.pc
    match s.fetchWord pc with
    | (none, s) => .next s
    | (some w, s) =>
      match decode w with
      | .error _ => .fault (.notAnInstruction w)
      | .ok i => onNext (fun s' => s'.asThread lead tid) (convoyWord lead tid i w s.me.fetched s turn s)

/-! ### Issue -/

/-- The executing thread fetches the word at its pc and issues it. -/
noncomputable def issueOwn (s : State) : Out :=
  match s.fetchWord s.me.pc with
  | (none, s) => .next s
  | (some w, s) =>
    match decode w with
    | .error _ => .fault (.notAnInstruction w)
    | .ok i => issueWord i w s

/-- A thread of a core issues: the trap that waits, its convoy's word, or its own. -/
noncomputable def issueThread (core tid : Nat) (s : State) : Out :=
  let s := (s.chosen core tid).asThread core tid
  if State.trapDue s.me then .next s.takeDue
  else
    match s.me.convoy with
    | some c => issueConvoy c s
    | none => issueOwn s

/-- The first thread of a core's turn whose word does not stall issues (R310). -/
noncomputable def issueTurn (core : Nat) : List Nat → State → Out
  | [], s => .next s
  | tid :: r, s =>
    match issueThread core tid s with
    | .next s' => if s.stalled s' core tid then issueTurn core r (s.passOver s' core) else .next s'
    | o => o

/-- A core issues one word of the thread whose turn it is, if one can; the engine work of the word is done at once or left for
later (log 3). -/
noncomputable def issueCore (core : Nat) (defer : Bool) (s : State) : Out :=
  onNext (fun s' => { s' with defer := false }) (issueTurn core (s.turn core) { s with defer := defer })

/-- Cycles that an issue has taken when the schedule is empty: three for a covered word (R310). -/
def issueCycles (s s' : State) : Nat :=
  let tid := s'.curTid.toNat
  if (s.turn s.curCore).isEmpty || s.stalled s' s.curCore tid || (s.thread s.curCore tid).cover = 0 then 1 else 3

/-- The k-th entry of a TLB goes. -/
def evict (l : List TlbEntry) (k : Nat) : List TlbEntry := l.eraseIdx k

/-- One move of the schedule. -/
noncomputable def runMove (m : Move) (s : State) : Out :=
  match m with
  | .issue core => issueCore core false s
  | .issueDeferred core => issueCore core true s
  | .event i => if i.isEvent then exec i s else .next s
  | .tick => .next s.tick
  | .evictL1 core k => .next (s.setCore core { s.core core with l1 := evict (s.core core).l1 k })
  | .evictWalker die k => .next (s.setDie die { s.die die with walkers := (s.die die).walkers.eraseIdx k })
  | .writeBack pa => .next (s.writeBackUnit pa)
  | .writeBackBlock node scale q off => .next (s.writeBackBlock node scale q off)
  | .acknowledge ring => .next (s.acknowledgeRecord ring)
  | .upset u => .next (s.applyUpset u)
  | .evictL2 cluster k => .next (s.setCluster cluster { s.cluster cluster with l2 := evict (s.cluster cluster).l2 k })

/-- The next move: the schedule's, else an event of the agenda, else the current core issues and time passes. -/
noncomputable def advance (s : State) : Out :=
  match s.plan with
  | m :: r => runMove m { s with plan := r }
  | [] =>
    match s.agenda with
    | i :: r => exec i { s with agenda := r }
    | [] => onNext (fun s' => State.ticks (issueCycles s s') s') (issueCore s.curCore false s)

/-! ### Placing a word where the machine fetches next (log 4) -/

/-- Frames that a placed word uses: three tables and the page of code. -/
def placeFrames : List Nat := [1, 2, 3, 4]

/-- A thread that stands at the placed word: in no wait, under no cover, in no capture or convoy. -/
def placedThread (t : Thread) : Thread :=
  { t with
    running := true, mode := .service, pc := 0x4000000000, fetched := none, wait := none, op := none, capture := none,
    convoy := none, parked := none, lane := 0, forest := none, pending := none, stopTrap := false, wdogDue := false,
    yielded := 0, cover := 0 }

/-- The module as it stands once a loader has put one word at the start of device memory, mapped and admitted (R261,
R68), with thread 0 of service core 0 of die 0 at it and its issue the next move. -/
def State.placeWord (s : State) (w : BitVec 32) : State :=
  let core := Config.taskCores
  let s := s.physWrite 0x10000 0 (leBytes 8 (1 + 2 * 2 ^ 22))
  let s := s.physWrite (0x20000 + 8 * 512) 0 (leBytes 8 (1 + 3 * 2 ^ 22))
  let s := s.physWrite 0x30000 0 (leBytes 8 (0x17 + 4 * 2 ^ 22))
  let s := (s.physWrite 0x40000 0 (leBytes 4 w.toNat)).dropAll
  let s := s.setThread core 0 (placedThread (s.thread core 0))
  let s := s.setCore core { s.core core with ptbase := ⟨1, 0⟩, contained := false, vq := [], lastTid := 3 }
  { s with
    admitted := setInsert s.admitted 4
    poison := s.poison.filter fun u => !placeFrames.contains (u / 2 ^ 16)
    sramPoison := s.sramPoison.filter fun u => !placeFrames.contains (u / 2 ^ 16)
    flights := s.flights.filter fun f => f.core ≠ core
    powered := true
    mgmt := { s.mgmt with failed := false, step := 7 }
    plan := [.issue core]
    defer := false }

end Sys2Proof.Machine
end

