-- ==== Sys2Proof/Machine/Step.lean ====
section
/-! DEFINITION. The step: one move of the device (log 3), and the state that runs a given word next (log 4). -/

namespace Sys2Proof.Machine

/-- One step: the next move, and the counter of free values goes on. -/
noncomputable def step (s : State) : Host.Outcome State Fault Refusal := advance { s with free := s.free + 1 }

/-- The word stored where thread 0 of service core 0 of die 0 fetches next. -/
def State.withFetchWord (s : State) (nbits w : Nat) : State := s.placeWord (BitVec.ofNat 32 (w % 2 ^ min nbits 32))

end Sys2Proof.Machine
end

