-- ==== Sys2Proof/Laws/PerInstr.lean ====
section
/-! SUPPORT. Decoding the word of a well-formed instruction gives the instruction: one lemma for each constructor. -/

namespace Sys2Proof.Laws

set_option Elab.async false

/-- A well-formed instruction that is no event is what its word decodes to. -/
def RoundTrip.Statement (i : Instr) : Prop := i.isEvent = false → i.wf = true → decode (encode i) = .ok i

theorem need_isNone (c : Bool) (r : Reject) : (need c r).isNone = c := by cases c <;> rfl

theorem need_eq_none {c : Bool} {r : Reject} (h : (need c r).isNone = true) : need c r = none := by
  simpa using h

/-! ### The fields of a word by its strip -/

theorem RoundTrip.strip6_5_5_16 (x0 : BitVec 6) (x1 : BitVec 5) (x2 : BitVec 5) (x3 : BitVec 16) {w : BitVec 32} (h : w
    = x0 ++ x1 ++ x2 ++ x3) :
    fld w 26 6 = x0 ∧ fld w 21 5 = x1 ∧ fld w 16 5 = x2 ∧ fld w 0 16 = x3 := by
  subst h
  refine ⟨?_, ?_, ?_, ?_⟩ <;>
    simp (disch := decide) only [fld, BitVec.extractLsb'_append_eq_of_le, BitVec.extractLsb'_append_eq_of_add_le,
      Nat.sub_self, BitVec.extractLsb'_eq_self, Nat.reduceSub]

theorem RoundTrip.strip6_5_5_8_2_6 (x0 : BitVec 6) (x1 : BitVec 5) (x2 : BitVec 5) (x3 : BitVec 8) (x4 : BitVec 2) (x5
    : BitVec 6) {w : BitVec 32} (h : w = x0 ++ x1 ++ x2 ++ x3 ++ x4 ++ x5) :
    fld w 26 6 = x0 ∧ fld w 21 5 = x1 ∧ fld w 16 5 = x2 ∧ fld w 8 8 = x3 ∧ fld w 6 2 = x4 ∧ fld w 0 6 = x5 := by
  subst h
  refine ⟨?_, ?_, ?_, ?_, ?_, ?_⟩ <;>
    simp (disch := decide) only [fld, BitVec.extractLsb'_append_eq_of_le, BitVec.extractLsb'_append_eq_of_add_le,
      Nat.sub_self, BitVec.extractLsb'_eq_self, Nat.reduceSub]

theorem RoundTrip.strip6_5_5_5_3_2_6 (x0 : BitVec 6) (x1 : BitVec 5) (x2 : BitVec 5) (x3 : BitVec 5) (x4 : BitVec 3)
    (x5 : BitVec 2) (x6 : BitVec 6) {w : BitVec 32} (h : w = x0 ++ x1 ++ x2 ++ x3 ++ x4 ++ x5 ++ x6) :
    fld w 26 6 = x0 ∧ fld w 21 5 = x1 ∧ fld w 16 5 = x2 ∧ fld w 11 5 = x3 ∧ fld w 8 3 = x4 ∧ fld w 6 2 = x5 ∧ fld w 0 6
    = x6 := by
  subst h
  refine ⟨?_, ?_, ?_, ?_, ?_, ?_, ?_⟩ <;>
    simp (disch := decide) only [fld, BitVec.extractLsb'_append_eq_of_le, BitVec.extractLsb'_append_eq_of_add_le,
      Nat.sub_self, BitVec.extractLsb'_eq_self, Nat.reduceSub]

theorem RoundTrip.strip6_5_5_5_1_2_2_6 (x0 : BitVec 6) (x1 : BitVec 5) (x2 : BitVec 5) (x3 : BitVec 5) (x4 : BitVec 1)
    (x5 : BitVec 2) (x6 : BitVec 2) (x7 : BitVec 6) {w : BitVec 32} (h : w = x0 ++ x1 ++ x2 ++ x3 ++ x4 ++ x5 ++ x6 ++
    x7) :
    fld w 26 6 = x0 ∧ fld w 21 5 = x1 ∧ fld w 16 5 = x2 ∧ fld w 11 5 = x3 ∧ fld w 10 1 = x4 ∧ fld w 8 2 = x5 ∧ fld w 6
    2 = x6 ∧ fld w 0 6 = x7 := by
  subst h
  refine ⟨?_, ?_, ?_, ?_, ?_, ?_, ?_, ?_⟩ <;>
    simp (disch := decide) only [fld, BitVec.extractLsb'_append_eq_of_le, BitVec.extractLsb'_append_eq_of_add_le,
      Nat.sub_self, BitVec.extractLsb'_eq_self, Nat.reduceSub]

theorem RoundTrip.strip6_5_5_10_6 (x0 : BitVec 6) (x1 : BitVec 5) (x2 : BitVec 5) (x3 : BitVec 10) (x4 : BitVec 6) {w :
    BitVec 32} (h : w = x0 ++ x1 ++ x2 ++ x3 ++ x4) :
    fld w 26 6 = x0 ∧ fld w 21 5 = x1 ∧ fld w 16 5 = x2 ∧ fld w 6 10 = x3 ∧ fld w 0 6 = x4 := by
  subst h
  refine ⟨?_, ?_, ?_, ?_, ?_⟩ <;>
    simp (disch := decide) only [fld, BitVec.extractLsb'_append_eq_of_le, BitVec.extractLsb'_append_eq_of_add_le,
      Nat.sub_self, BitVec.extractLsb'_eq_self, Nat.reduceSub]

theorem RoundTrip.strip6_5_5_4_12 (x0 : BitVec 6) (x1 : BitVec 5) (x2 : BitVec 5) (x3 : BitVec 4) (x4 : BitVec 12) {w :
    BitVec 32} (h : w = x0 ++ x1 ++ x2 ++ x3 ++ x4) :
    fld w 26 6 = x0 ∧ fld w 21 5 = x1 ∧ fld w 16 5 = x2 ∧ fld w 12 4 = x3 ∧ fld w 0 12 = x4 := by
  subst h
  refine ⟨?_, ?_, ?_, ?_, ?_⟩ <;>
    simp (disch := decide) only [fld, BitVec.extractLsb'_append_eq_of_le, BitVec.extractLsb'_append_eq_of_add_le,
      Nat.sub_self, BitVec.extractLsb'_eq_self, Nat.reduceSub]

theorem RoundTrip.strip6_5_5_5_5_6 (x0 : BitVec 6) (x1 : BitVec 5) (x2 : BitVec 5) (x3 : BitVec 5) (x4 : BitVec 5) (x5
    : BitVec 6) {w : BitVec 32} (h : w = x0 ++ x1 ++ x2 ++ x3 ++ x4 ++ x5) :
    fld w 26 6 = x0 ∧ fld w 21 5 = x1 ∧ fld w 16 5 = x2 ∧ fld w 11 5 = x3 ∧ fld w 6 5 = x4 ∧ fld w 0 6 = x5 := by
  subst h
  refine ⟨?_, ?_, ?_, ?_, ?_, ?_⟩ <;>
    simp (disch := decide) only [fld, BitVec.extractLsb'_append_eq_of_le, BitVec.extractLsb'_append_eq_of_add_le,
      Nat.sub_self, BitVec.extractLsb'_eq_self, Nat.reduceSub]

theorem RoundTrip.strip6_5_5_5_3_3_5 (x0 : BitVec 6) (x1 : BitVec 5) (x2 : BitVec 5) (x3 : BitVec 5) (x4 : BitVec 3)
    (x5 : BitVec 3) (x6 : BitVec 5) {w : BitVec 32} (h : w = x0 ++ x1 ++ x2 ++ x3 ++ x4 ++ x5 ++ x6) :
    fld w 26 6 = x0 ∧ fld w 21 5 = x1 ∧ fld w 16 5 = x2 ∧ fld w 11 5 = x3 ∧ fld w 8 3 = x4 ∧ fld w 5 3 = x5 ∧ fld w 0 5
    = x6 := by
  subst h
  refine ⟨?_, ?_, ?_, ?_, ?_, ?_, ?_⟩ <;>
    simp (disch := decide) only [fld, BitVec.extractLsb'_append_eq_of_le, BitVec.extractLsb'_append_eq_of_add_le,
      Nat.sub_self, BitVec.extractLsb'_eq_self, Nat.reduceSub]

theorem RoundTrip.strip6_5_5_5_6_5 (x0 : BitVec 6) (x1 : BitVec 5) (x2 : BitVec 5) (x3 : BitVec 5) (x4 : BitVec 6) (x5
    : BitVec 5) {w : BitVec 32} (h : w = x0 ++ x1 ++ x2 ++ x3 ++ x4 ++ x5) :
    fld w 26 6 = x0 ∧ fld w 21 5 = x1 ∧ fld w 16 5 = x2 ∧ fld w 11 5 = x3 ∧ fld w 5 6 = x4 ∧ fld w 0 5 = x5 := by
  subst h
  refine ⟨?_, ?_, ?_, ?_, ?_, ?_⟩ <;>
    simp (disch := decide) only [fld, BitVec.extractLsb'_append_eq_of_le, BitVec.extractLsb'_append_eq_of_add_le,
      Nat.sub_self, BitVec.extractLsb'_eq_self, Nat.reduceSub]

theorem RoundTrip.strip6_5_5_11_5 (x0 : BitVec 6) (x1 : BitVec 5) (x2 : BitVec 5) (x3 : BitVec 11) (x4 : BitVec 5) {w :
    BitVec 32} (h : w = x0 ++ x1 ++ x2 ++ x3 ++ x4) :
    fld w 26 6 = x0 ∧ fld w 21 5 = x1 ∧ fld w 16 5 = x2 ∧ fld w 5 11 = x3 ∧ fld w 0 5 = x4 := by
  subst h
  refine ⟨?_, ?_, ?_, ?_, ?_⟩ <;>
    simp (disch := decide) only [fld, BitVec.extractLsb'_append_eq_of_le, BitVec.extractLsb'_append_eq_of_add_le,
      Nat.sub_self, BitVec.extractLsb'_eq_self, Nat.reduceSub]

theorem RoundTrip.strip6_5_5_8_3_5 (x0 : BitVec 6) (x1 : BitVec 5) (x2 : BitVec 5) (x3 : BitVec 8) (x4 : BitVec 3) (x5
    : BitVec 5) {w : BitVec 32} (h : w = x0 ++ x1 ++ x2 ++ x3 ++ x4 ++ x5) :
    fld w 26 6 = x0 ∧ fld w 21 5 = x1 ∧ fld w 16 5 = x2 ∧ fld w 8 8 = x3 ∧ fld w 5 3 = x4 ∧ fld w 0 5 = x5 := by
  subst h
  refine ⟨?_, ?_, ?_, ?_, ?_, ?_⟩ <;>
    simp (disch := decide) only [fld, BitVec.extractLsb'_append_eq_of_le, BitVec.extractLsb'_append_eq_of_add_le,
      Nat.sub_self, BitVec.extractLsb'_eq_self, Nat.reduceSub]

theorem RoundTrip.strip6_5_3_2_16 (x0 : BitVec 6) (x1 : BitVec 5) (x2 : BitVec 3) (x3 : BitVec 2) (x4 : BitVec 16) {w :
    BitVec 32} (h : w = x0 ++ x1 ++ x2 ++ x3 ++ x4) :
    fld w 26 6 = x0 ∧ fld w 21 5 = x1 ∧ fld w 18 3 = x2 ∧ fld w 16 2 = x3 ∧ fld w 0 16 = x4 := by
  subst h
  refine ⟨?_, ?_, ?_, ?_, ?_⟩ <;>
    simp (disch := decide) only [fld, BitVec.extractLsb'_append_eq_of_le, BitVec.extractLsb'_append_eq_of_add_le,
      Nat.sub_self, BitVec.extractLsb'_eq_self, Nat.reduceSub]

theorem RoundTrip.strip6_1_1_1_2_5_5_5_6 (x0 : BitVec 6) (x1 : BitVec 1) (x2 : BitVec 1) (x3 : BitVec 1) (x4 : BitVec
    2) (x5 : BitVec 5) (x6 : BitVec 5) (x7 : BitVec 5) (x8 : BitVec 6) {w : BitVec 32} (h : w = x0 ++ x1 ++ x2 ++ x3 ++
    x4 ++ x5 ++ x6 ++ x7 ++ x8) :
    fld w 26 6 = x0 ∧ fld w 25 1 = x1 ∧ fld w 24 1 = x2 ∧ fld w 23 1 = x3 ∧ fld w 21 2 = x4 ∧ fld w 16 5 = x5 ∧ fld w
    11 5 = x6 ∧ fld w 6 5 = x7 ∧ fld w 0 6 = x8 := by
  subst h
  refine ⟨?_, ?_, ?_, ?_, ?_, ?_, ?_, ?_, ?_⟩ <;>
    simp (disch := decide) only [fld, BitVec.extractLsb'_append_eq_of_le, BitVec.extractLsb'_append_eq_of_add_le,
      Nat.sub_self, BitVec.extractLsb'_eq_self, Nat.reduceSub]

theorem RoundTrip.strip6_1_1_1_1_1_5_5_5_6 (x0 : BitVec 6) (x1 : BitVec 1) (x2 : BitVec 1) (x3 : BitVec 1) (x4 : BitVec
    1) (x5 : BitVec 1) (x6 : BitVec 5) (x7 : BitVec 5) (x8 : BitVec 5) (x9 : BitVec 6) {w : BitVec 32} (h : w = x0 ++
    x1 ++ x2 ++ x3 ++ x4 ++ x5 ++ x6 ++ x7 ++ x8 ++ x9) :
    fld w 26 6 = x0 ∧ fld w 25 1 = x1 ∧ fld w 24 1 = x2 ∧ fld w 23 1 = x3 ∧ fld w 22 1 = x4 ∧ fld w 21 1 = x5 ∧ fld w
    16 5 = x6 ∧ fld w 11 5 = x7 ∧ fld w 6 5 = x8 ∧ fld w 0 6 = x9 := by
  subst h
  refine ⟨?_, ?_, ?_, ?_, ?_, ?_, ?_, ?_, ?_, ?_⟩ <;>
    simp (disch := decide) only [fld, BitVec.extractLsb'_append_eq_of_le, BitVec.extractLsb'_append_eq_of_add_le,
      Nat.sub_self, BitVec.extractLsb'_eq_self, Nat.reduceSub]

theorem RoundTrip.strip6_5_5_2_8_6 (x0 : BitVec 6) (x1 : BitVec 5) (x2 : BitVec 5) (x3 : BitVec 2) (x4 : BitVec 8) (x5
    : BitVec 6) {w : BitVec 32} (h : w = x0 ++ x1 ++ x2 ++ x3 ++ x4 ++ x5) :
    fld w 26 6 = x0 ∧ fld w 21 5 = x1 ∧ fld w 16 5 = x2 ∧ fld w 14 2 = x3 ∧ fld w 6 8 = x4 ∧ fld w 0 6 = x5 := by
  subst h
  refine ⟨?_, ?_, ?_, ?_, ?_, ?_⟩ <;>
    simp (disch := decide) only [fld, BitVec.extractLsb'_append_eq_of_le, BitVec.extractLsb'_append_eq_of_add_le,
      Nat.sub_self, BitVec.extractLsb'_eq_self, Nat.reduceSub]

theorem RoundTrip.strip6_5_5_5_2_3_6 (x0 : BitVec 6) (x1 : BitVec 5) (x2 : BitVec 5) (x3 : BitVec 5) (x4 : BitVec 2)
    (x5 : BitVec 3) (x6 : BitVec 6) {w : BitVec 32} (h : w = x0 ++ x1 ++ x2 ++ x3 ++ x4 ++ x5 ++ x6) :
    fld w 26 6 = x0 ∧ fld w 21 5 = x1 ∧ fld w 16 5 = x2 ∧ fld w 11 5 = x3 ∧ fld w 9 2 = x4 ∧ fld w 6 3 = x5 ∧ fld w 0 6
    = x6 := by
  subst h
  refine ⟨?_, ?_, ?_, ?_, ?_, ?_, ?_⟩ <;>
    simp (disch := decide) only [fld, BitVec.extractLsb'_append_eq_of_le, BitVec.extractLsb'_append_eq_of_add_le,
      Nat.sub_self, BitVec.extractLsb'_eq_self, Nat.reduceSub]

theorem RoundTrip.strip6_5_5_7_3_6 (x0 : BitVec 6) (x1 : BitVec 5) (x2 : BitVec 5) (x3 : BitVec 7) (x4 : BitVec 3) (x5
    : BitVec 6) {w : BitVec 32} (h : w = x0 ++ x1 ++ x2 ++ x3 ++ x4 ++ x5) :
    fld w 26 6 = x0 ∧ fld w 21 5 = x1 ∧ fld w 16 5 = x2 ∧ fld w 9 7 = x3 ∧ fld w 6 3 = x4 ∧ fld w 0 6 = x5 := by
  subst h
  refine ⟨?_, ?_, ?_, ?_, ?_, ?_⟩ <;>
    simp (disch := decide) only [fld, BitVec.extractLsb'_append_eq_of_le, BitVec.extractLsb'_append_eq_of_add_le,
      Nat.sub_self, BitVec.extractLsb'_eq_self, Nat.reduceSub]

theorem RoundTrip.strip6_26 (x0 : BitVec 6) (x1 : BitVec 26) {w : BitVec 32} (h : w = x0 ++ x1) :
    fld w 26 6 = x0 ∧ fld w 0 26 = x1 := by
  subst h
  refine ⟨?_, ?_⟩ <;>
    simp (disch := decide) only [fld, BitVec.extractLsb'_append_eq_of_le, BitVec.extractLsb'_append_eq_of_add_le,
      Nat.sub_self, BitVec.extractLsb'_eq_self]

theorem RoundTrip.strip6_5_5_12_4 (x0 : BitVec 6) (x1 : BitVec 5) (x2 : BitVec 5) (x3 : BitVec 12) (x4 : BitVec 4) {w :
    BitVec 32} (h : w = x0 ++ x1 ++ x2 ++ x3 ++ x4) :
    fld w 26 6 = x0 ∧ fld w 21 5 = x1 ∧ fld w 16 5 = x2 ∧ fld w 4 12 = x3 ∧ fld w 0 4 = x4 := by
  subst h
  refine ⟨?_, ?_, ?_, ?_, ?_⟩ <;>
    simp (disch := decide) only [fld, BitVec.extractLsb'_append_eq_of_le, BitVec.extractLsb'_append_eq_of_add_le,
      Nat.sub_self, BitVec.extractLsb'_eq_self, Nat.reduceSub]

theorem RoundTrip.strip6_5_5_4_4_4_4 (x0 : BitVec 6) (x1 : BitVec 5) (x2 : BitVec 5) (x3 : BitVec 4) (x4 : BitVec 4)
    (x5 : BitVec 4) (x6 : BitVec 4) {w : BitVec 32} (h : w = x0 ++ x1 ++ x2 ++ x3 ++ x4 ++ x5 ++ x6) :
    fld w 26 6 = x0 ∧ fld w 21 5 = x1 ∧ fld w 16 5 = x2 ∧ fld w 12 4 = x3 ∧ fld w 8 4 = x4 ∧ fld w 4 4 = x5 ∧ fld w 0 4
    = x6 := by
  subst h
  refine ⟨?_, ?_, ?_, ?_, ?_, ?_, ?_⟩ <;>
    simp (disch := decide) only [fld, BitVec.extractLsb'_append_eq_of_le, BitVec.extractLsb'_append_eq_of_add_le,
      Nat.sub_self, BitVec.extractLsb'_eq_self, Nat.reduceSub]

/-! ### The two functions of the decoder by the major -/

theorem refusal_1 {w : BitVec 32} (h : fld w 26 6 = 1#6) : wordRefusal w = refuseOp w := by
  unfold wordRefusal; rw [h]; rfl

theorem form_1 {w : BitVec 32} (h : fld w 26 6 = 1#6) : formOf w = formOp w := by
  unfold formOf; rw [h]; rfl

theorem refusal_2 {w : BitVec 32} (h : fld w 26 6 = 2#6) : wordRefusal w = none := by
  unfold wordRefusal; rw [h]; rfl

theorem form_2 {w : BitVec 32} (h : fld w 26 6 = 2#6) : formOf w = some (.addi (fld w 21 5) (fld w 16 5) (fld w 0 16))
    := by
  unfold formOf; rw [h]; rfl

theorem refusal_3 {w : BitVec 32} (h : fld w 26 6 = 3#6) : wordRefusal w = none := by
  unfold wordRefusal; rw [h]; rfl

theorem form_3 {w : BitVec 32} (h : fld w 26 6 = 3#6) : formOf w = some (.andi (fld w 21 5) (fld w 16 5) (fld w 0 16))
    := by
  unfold formOf; rw [h]; rfl

theorem refusal_4 {w : BitVec 32} (h : fld w 26 6 = 4#6) : wordRefusal w = none := by
  unfold wordRefusal; rw [h]; rfl

theorem form_4 {w : BitVec 32} (h : fld w 26 6 = 4#6) : formOf w = some (.ori (fld w 21 5) (fld w 16 5) (fld w 0 16))
    := by
  unfold formOf; rw [h]; rfl

theorem refusal_5 {w : BitVec 32} (h : fld w 26 6 = 5#6) : wordRefusal w = none := by
  unfold wordRefusal; rw [h]; rfl

theorem form_5 {w : BitVec 32} (h : fld w 26 6 = 5#6) : formOf w = some (.xori (fld w 21 5) (fld w 16 5) (fld w 0 16))
    := by
  unfold formOf; rw [h]; rfl

theorem refusal_6 {w : BitVec 32} (h : fld w 26 6 = 6#6) : wordRefusal w = none := by
  unfold wordRefusal; rw [h]; rfl

theorem form_6 {w : BitVec 32} (h : fld w 26 6 = 6#6) : formOf w = some (.slti (fld w 21 5) (fld w 16 5) (fld w 0 16))
    := by
  unfold formOf; rw [h]; rfl

theorem refusal_7 {w : BitVec 32} (h : fld w 26 6 = 7#6) : wordRefusal w = none := by
  unfold wordRefusal; rw [h]; rfl

theorem form_7 {w : BitVec 32} (h : fld w 26 6 = 7#6) : formOf w = some (.sltin (fld w 21 5) (fld w 16 5) (fld w 0 16))
    := by
  unfold formOf; rw [h]; rfl

theorem refusal_8 {w : BitVec 32} (h : fld w 26 6 = 8#6) : wordRefusal w = refuseShi w := by
  unfold wordRefusal; rw [h]; rfl

theorem form_8 {w : BitVec 32} (h : fld w 26 6 = 8#6) : formOf w = formShi w := by
  unfold formOf; rw [h]; rfl

theorem refusal_9 {w : BitVec 32} (h : fld w 26 6 = 9#6) : wordRefusal w = need (fld w 16 5 = 0#5) .reservedField := by
  unfold wordRefusal; rw [h]; rfl

theorem form_9 {w : BitVec 32} (h : fld w 26 6 = 9#6) : formOf w = some (.lui (fld w 21 5) (fld w 0 16)) := by
  unfold formOf; rw [h]; rfl

theorem refusal_10 {w : BitVec 32} (h : fld w 26 6 = 10#6) : wordRefusal w = need (fld w 16 5 = 0#5) .reservedField :=
    by
  unfold wordRefusal; rw [h]; rfl

theorem form_10 {w : BitVec 32} (h : fld w 26 6 = 10#6) : formOf w = some (.addpc (fld w 21 5) (fld w 0 16)) := by
  unfold formOf; rw [h]; rfl

theorem refusal_11 {w : BitVec 32} (h : fld w 26 6 = 11#6) : wordRefusal w = refuseFop w := by
  unfold wordRefusal; rw [h]; rfl

theorem form_11 {w : BitVec 32} (h : fld w 26 6 = 11#6) : formOf w = formFop w := by
  unfold formOf; rw [h]; rfl

theorem refusal_12 {w : BitVec 32} (h : fld w 26 6 = 12#6) : wordRefusal w = none := by
  unfold wordRefusal; rw [h]; rfl

theorem form_12 {w : BitVec 32} (h : fld w 26 6 = 12#6) : formOf w = some (.lb (fld w 21 5) (fld w 16 5) (fld w 0 16))
    := by
  unfold formOf; rw [h]; rfl

theorem refusal_13 {w : BitVec 32} (h : fld w 26 6 = 13#6) : wordRefusal w = none := by
  unfold wordRefusal; rw [h]; rfl

theorem form_13 {w : BitVec 32} (h : fld w 26 6 = 13#6) : formOf w = some (.lbn (fld w 21 5) (fld w 16 5) (fld w 0 16))
    := by
  unfold formOf; rw [h]; rfl

theorem refusal_14 {w : BitVec 32} (h : fld w 26 6 = 14#6) : wordRefusal w = none := by
  unfold wordRefusal; rw [h]; rfl

theorem form_14 {w : BitVec 32} (h : fld w 26 6 = 14#6) : formOf w = some (.lh (fld w 21 5) (fld w 16 5) (fld w 0 16))
    := by
  unfold formOf; rw [h]; rfl

theorem refusal_15 {w : BitVec 32} (h : fld w 26 6 = 15#6) : wordRefusal w = none := by
  unfold wordRefusal; rw [h]; rfl

theorem form_15 {w : BitVec 32} (h : fld w 26 6 = 15#6) : formOf w = some (.lhn (fld w 21 5) (fld w 16 5) (fld w 0 16))
    := by
  unfold formOf; rw [h]; rfl

theorem refusal_16 {w : BitVec 32} (h : fld w 26 6 = 16#6) : wordRefusal w = none := by
  unfold wordRefusal; rw [h]; rfl

theorem form_16 {w : BitVec 32} (h : fld w 26 6 = 16#6) : formOf w = some (.lw (fld w 21 5) (fld w 16 5) (fld w 0 16))
    := by
  unfold formOf; rw [h]; rfl

theorem refusal_17 {w : BitVec 32} (h : fld w 26 6 = 17#6) : wordRefusal w = none := by
  unfold wordRefusal; rw [h]; rfl

theorem form_17 {w : BitVec 32} (h : fld w 26 6 = 17#6) : formOf w = some (.lwn (fld w 21 5) (fld w 16 5) (fld w 0 16))
    := by
  unfold formOf; rw [h]; rfl

theorem refusal_18 {w : BitVec 32} (h : fld w 26 6 = 18#6) : wordRefusal w = none := by
  unfold wordRefusal; rw [h]; rfl

theorem form_18 {w : BitVec 32} (h : fld w 26 6 = 18#6) : formOf w = some (.ld (fld w 21 5) (fld w 16 5) (fld w 0 16))
    := by
  unfold formOf; rw [h]; rfl

theorem refusal_19 {w : BitVec 32} (h : fld w 26 6 = 19#6) : wordRefusal w = none := by
  unfold wordRefusal; rw [h]; rfl

theorem form_19 {w : BitVec 32} (h : fld w 26 6 = 19#6) : formOf w = some (.sb (fld w 21 5) (fld w 16 5) (fld w 0 16))
    := by
  unfold formOf; rw [h]; rfl

theorem refusal_20 {w : BitVec 32} (h : fld w 26 6 = 20#6) : wordRefusal w = none := by
  unfold wordRefusal; rw [h]; rfl

theorem form_20 {w : BitVec 32} (h : fld w 26 6 = 20#6) : formOf w = some (.sh (fld w 21 5) (fld w 16 5) (fld w 0 16))
    := by
  unfold formOf; rw [h]; rfl

theorem refusal_21 {w : BitVec 32} (h : fld w 26 6 = 21#6) : wordRefusal w = none := by
  unfold wordRefusal; rw [h]; rfl

theorem form_21 {w : BitVec 32} (h : fld w 26 6 = 21#6) : formOf w = some (.sw (fld w 21 5) (fld w 16 5) (fld w 0 16))
    := by
  unfold formOf; rw [h]; rfl

theorem refusal_22 {w : BitVec 32} (h : fld w 26 6 = 22#6) : wordRefusal w = none := by
  unfold wordRefusal; rw [h]; rfl

theorem form_22 {w : BitVec 32} (h : fld w 26 6 = 22#6) : formOf w = some (.sd (fld w 21 5) (fld w 16 5) (fld w 0 16))
    := by
  unfold formOf; rw [h]; rfl

theorem refusal_23 {w : BitVec 32} (h : fld w 26 6 = 23#6) : wordRefusal w = refuseOrd w := by
  unfold wordRefusal; rw [h]; rfl

theorem form_23 {w : BitVec 32} (h : fld w 26 6 = 23#6) : formOf w = formOrd w := by
  unfold formOf; rw [h]; rfl

theorem refusal_24 {w : BitVec 32} (h : fld w 26 6 = 24#6) : wordRefusal w = refuseAmo w := by
  unfold wordRefusal; rw [h]; rfl

theorem form_24 {w : BitVec 32} (h : fld w 26 6 = 24#6) : formOf w = formAmo w := by
  unfold formOf; rw [h]; rfl

theorem refusal_25 {w : BitVec 32} (h : fld w 26 6 = 25#6) : wordRefusal w = none := by
  unfold wordRefusal; rw [h]; rfl

theorem form_25 {w : BitVec 32} (h : fld w 26 6 = 25#6) : formOf w = some (.beq (fld w 21 5) (fld w 16 5) (fld w 0 16))
    := by
  unfold formOf; rw [h]; rfl

theorem refusal_26 {w : BitVec 32} (h : fld w 26 6 = 26#6) : wordRefusal w = none := by
  unfold wordRefusal; rw [h]; rfl

theorem form_26 {w : BitVec 32} (h : fld w 26 6 = 26#6) : formOf w = some (.bne (fld w 21 5) (fld w 16 5) (fld w 0 16))
    := by
  unfold formOf; rw [h]; rfl

theorem refusal_27 {w : BitVec 32} (h : fld w 26 6 = 27#6) : wordRefusal w = none := by
  unfold wordRefusal; rw [h]; rfl

theorem form_27 {w : BitVec 32} (h : fld w 26 6 = 27#6) : formOf w = some (.blt (fld w 21 5) (fld w 16 5) (fld w 0 16))
    := by
  unfold formOf; rw [h]; rfl

theorem refusal_28 {w : BitVec 32} (h : fld w 26 6 = 28#6) : wordRefusal w = none := by
  unfold wordRefusal; rw [h]; rfl

theorem form_28 {w : BitVec 32} (h : fld w 26 6 = 28#6) : formOf w = some (.bge (fld w 21 5) (fld w 16 5) (fld w 0 16))
    := by
  unfold formOf; rw [h]; rfl

theorem refusal_29 {w : BitVec 32} (h : fld w 26 6 = 29#6) : wordRefusal w = none := by
  unfold wordRefusal; rw [h]; rfl

theorem form_29 {w : BitVec 32} (h : fld w 26 6 = 29#6) : formOf w = some (.bltn (fld w 21 5) (fld w 16 5) (fld w 0
    16)) := by
  unfold formOf; rw [h]; rfl

theorem refusal_30 {w : BitVec 32} (h : fld w 26 6 = 30#6) : wordRefusal w = none := by
  unfold wordRefusal; rw [h]; rfl

theorem form_30 {w : BitVec 32} (h : fld w 26 6 = 30#6) : formOf w = some (.bgen (fld w 21 5) (fld w 16 5) (fld w 0
    16)) := by
  unfold formOf; rw [h]; rfl

theorem refusal_31 {w : BitVec 32} (h : fld w 26 6 = 31#6) : wordRefusal w = none := by
  unfold wordRefusal; rw [h]; rfl

theorem form_31 {w : BitVec 32} (h : fld w 26 6 = 31#6) : formOf w = some (.jal (fld w 0 26)) := by
  unfold formOf; rw [h]; rfl

theorem refusal_32 {w : BitVec 32} (h : fld w 26 6 = 32#6) : wordRefusal w = none := by
  unfold wordRefusal; rw [h]; rfl

theorem form_32 {w : BitVec 32} (h : fld w 26 6 = 32#6) : formOf w = some (.jalr (fld w 21 5) (fld w 16 5) (fld w 0
    16)) := by
  unfold formOf; rw [h]; rfl

theorem refusal_33 {w : BitVec 32} (h : fld w 26 6 = 33#6) : wordRefusal w = refuseSys w := by
  unfold wordRefusal; rw [h]; rfl

theorem form_33 {w : BitVec 32} (h : fld w 26 6 = 33#6) : formOf w = formSys w := by
  unfold formOf; rw [h]; rfl

theorem refusal_34 {w : BitVec 32} (h : fld w 26 6 = 34#6) : wordRefusal w = (need (fld w 16 5 = 0#5)
    .reservedField).or ((need (fld w 12 4 = 0#4) .reservedField).or (need (sysReadable.contains (fld w 0 12).toNat)
    .systemRegister)) := by
  unfold wordRefusal; rw [h]; rfl

theorem form_34 {w : BitVec 32} (h : fld w 26 6 = 34#6) : formOf w = some (.sysr (fld w 21 5) (fld w 0 12)) := by
  unfold formOf; rw [h]; rfl

theorem refusal_35 {w : BitVec 32} (h : fld w 26 6 = 35#6) : wordRefusal w = (need (fld w 21 5 = 0#5)
    .reservedField).or ((need (fld w 12 4 = 0#4) .reservedField).or (need (sysReadable.contains (fld w 0 12).toNat &&
    !sysReadOnly.contains (fld w 0 12).toNat) .systemRegister)) := by
  unfold wordRefusal; rw [h]; rfl

theorem form_35 {w : BitVec 32} (h : fld w 26 6 = 35#6) : formOf w = some (.sysw (fld w 16 5) (fld w 0 12)) := by
  unfold formOf; rw [h]; rfl

theorem refusal_36 {w : BitVec 32} (h : fld w 26 6 = 36#6) : wordRefusal w = refuseSync w := by
  unfold wordRefusal; rw [h]; rfl

theorem form_36 {w : BitVec 32} (h : fld w 26 6 = 36#6) : formOf w = formSync w := by
  unfold formOf; rw [h]; rfl

theorem refusal_37 {w : BitVec 32} (h : fld w 26 6 = 37#6) : wordRefusal w = (need (fld w 16 5 = 0#5)
    .reservedField).or (need ((fld w 21 5) ≠ 0#5) .fieldValue) := by
  unfold wordRefusal; rw [h]; rfl

theorem form_37 {w : BitVec 32} (h : fld w 26 6 = 37#6) : formOf w = some (.loop (fld w 21 5) (fld w 0 16)) := by
  unfold formOf; rw [h]; rfl

theorem refusal_38 {w : BitVec 32} (h : fld w 26 6 = 38#6) : wordRefusal w = (need (fld w 21 5 = 0#5)
    .reservedField).or ((need (fld w 16 5 = 0#5) .reservedField).or (need (fld w 4 12 = 0#12) .reservedField)) := by
  unfold wordRefusal; rw [h]; rfl

theorem form_38 {w : BitVec 32} (h : fld w 26 6 = 38#6) : formOf w = some (.crit (fld w 0 4)) := by
  unfold formOf; rw [h]; rfl

theorem refusal_39 {w : BitVec 32} (h : fld w 26 6 = 39#6) : wordRefusal w = need (fld w 21 5 = 0#5) .reservedField :=
    by
  unfold wordRefusal; rw [h]; rfl

theorem form_39 {w : BitVec 32} (h : fld w 26 6 = 39#6) : formOf w = some (.repeat (fld w 16 5) (fld w 12 4) (fld w 8
    4) (fld w 4 4) (fld w 0 4)) := by
  unfold formOf; rw [h]; rfl

theorem refusal_40 {w : BitVec 32} (h : fld w 26 6 = 40#6) : wordRefusal w = refuseVarith w := by
  unfold wordRefusal; rw [h]; rfl

theorem form_40 {w : BitVec 32} (h : fld w 26 6 = 40#6) : formOf w = formVarith w := by
  unfold formOf; rw [h]; rfl

theorem refusal_41 {w : BitVec 32} (h : fld w 26 6 = 41#6) : wordRefusal w = refuseVlogic w := by
  unfold wordRefusal; rw [h]; rfl

theorem form_41 {w : BitVec 32} (h : fld w 26 6 = 41#6) : formOf w = formVlogic w := by
  unfold formOf; rw [h]; rfl

theorem refusal_42 {w : BitVec 32} (h : fld w 26 6 = 42#6) : wordRefusal w = refuseVperm w := by
  unfold wordRefusal; rw [h]; rfl

theorem form_42 {w : BitVec 32} (h : fld w 26 6 = 42#6) : formOf w = formVperm w := by
  unfold formOf; rw [h]; rfl

theorem refusal_43 {w : BitVec 32} (h : fld w 26 6 = 43#6) : wordRefusal w = refuseVconv w := by
  unfold wordRefusal; rw [h]; rfl

theorem form_43 {w : BitVec 32} (h : fld w 26 6 = 43#6) : formOf w = formVconv w := by
  unfold formOf; rw [h]; rfl

theorem refusal_44 {w : BitVec 32} (h : fld w 26 6 = 44#6) : wordRefusal w = refuseVred w := by
  unfold wordRefusal; rw [h]; rfl

theorem form_44 {w : BitVec 32} (h : fld w 26 6 = 44#6) : formOf w = formVred w := by
  unfold formOf; rw [h]; rfl

theorem refusal_45 {w : BitVec 32} (h : fld w 26 6 = 45#6) : wordRefusal w = refuseVsfn w := by
  unfold wordRefusal; rw [h]; rfl

theorem form_45 {w : BitVec 32} (h : fld w 26 6 = 45#6) : formOf w = formVsfn w := by
  unfold formOf; rw [h]; rfl

theorem refusal_46 {w : BitVec 32} (h : fld w 26 6 = 46#6) : wordRefusal w = refuseVimm w := by
  unfold wordRefusal; rw [h]; rfl

theorem form_46 {w : BitVec 32} (h : fld w 26 6 = 46#6) : formOf w = formVimm w := by
  unfold formOf; rw [h]; rfl

theorem refusal_47 {w : BitVec 32} (h : fld w 26 6 = 47#6) : wordRefusal w = refuseVmem w := by
  unfold wordRefusal; rw [h]; rfl

theorem form_47 {w : BitVec 32} (h : fld w 26 6 = 47#6) : formOf w = formVmem w := by
  unfold formOf; rw [h]; rfl

theorem refusal_48 {w : BitVec 32} (h : fld w 26 6 = 48#6) : wordRefusal w = need (mmFieldsOk ((fld w 23 1) = 1#1)
    ((fld w 21 2).getLsbD 1) (fld w 6 5) (fld w 0 6)) .fieldValue := by
  unfold wordRefusal; rw [h]; rfl

theorem form_48 {w : BitVec 32} (h : fld w 26 6 = 48#6) : formOf w = some (.mma (fld w 25 1) (fld w 24 1) (fld w 23 1)
    (fld w 21 2) (fld w 16 5) (fld w 11 5) (fld w 6 5) (fld w 0 6)) := by
  unfold formOf; rw [h]; rfl

theorem refusal_49 {w : BitVec 32} (h : fld w 26 6 = 49#6) : wordRefusal w = (need (fld w 21 1 = 0#1)
    .reservedField).or (need (((fld w 0 6).toNat ≤ 5 || (fld w 0 6) = 12#6 || (fld w 0 6) = 13#6) && !((fld w 23 1) =
    1#1 && (fld w 22 1) = 1#1)) .fieldValue) := by
  unfold wordRefusal; rw [h]; rfl

theorem form_49 {w : BitVec 32} (h : fld w 26 6 = 49#6) : formOf w = some (.mmd (fld w 25 1) (fld w 24 1) (fld w 23 1)
    (fld w 22 1) (fld w 16 5) (fld w 11 5) (fld w 6 5) (fld w 0 6)) := by
  unfold formOf; rw [h]; rfl

theorem refusal_50 {w : BitVec 32} (h : fld w 26 6 = 50#6) : wordRefusal w = (need (fld w 23 1 = 0#1)
    .reservedField).or (need (mmFieldsOk false ((fld w 21 2).getLsbD 1) (fld w 6 5) (fld w 0 6)) .fieldValue) := by
  unfold wordRefusal; rw [h]; rfl

theorem form_50 {w : BitVec 32} (h : fld w 26 6 = 50#6) : formOf w = some (.mms (fld w 25 1) (fld w 24 1) (fld w 21 2)
    (fld w 16 5) (fld w 11 5) (fld w 6 5) (fld w 0 6)) := by
  unfold formOf; rw [h]; rfl

theorem refusal_51 {w : BitVec 32} (h : fld w 26 6 = 51#6) : wordRefusal w = refuseMctl w := by
  unfold wordRefusal; rw [h]; rfl

theorem form_51 {w : BitVec 32} (h : fld w 26 6 = 51#6) : formOf w = formMctl w := by
  unfold formOf; rw [h]; rfl

theorem refusal_52 {w : BitVec 32} (h : fld w 26 6 = 52#6) : wordRefusal w = refuseCopy w := by
  unfold wordRefusal; rw [h]; rfl

theorem form_52 {w : BitVec 32} (h : fld w 26 6 = 52#6) : formOf w = formCopy w := by
  unfold formOf; rw [h]; rfl

theorem refusal_53 {w : BitVec 32} (h : fld w 26 6 = 53#6) : wordRefusal w = refuseBits w := by
  unfold wordRefusal; rw [h]; rfl

theorem form_53 {w : BitVec 32} (h : fld w 26 6 = 53#6) : formOf w = formBits w := by
  unfold formOf; rw [h]; rfl

theorem refusal_54 {w : BitVec 32} (h : fld w 26 6 = 54#6) : wordRefusal w = refuseLin w := by
  unfold wordRefusal; rw [h]; rfl

theorem form_54 {w : BitVec 32} (h : fld w 26 6 = 54#6) : formOf w = formLin w := by
  unfold formOf; rw [h]; rfl

theorem refusal_55 {w : BitVec 32} (h : fld w 26 6 = 55#6) : wordRefusal w = refuseEqv w := by
  unfold wordRefusal; rw [h]; rfl

theorem form_55 {w : BitVec 32} (h : fld w 26 6 = 55#6) : formOf w = formEqv w := by
  unfold formOf; rw [h]; rfl

theorem refusal_56 {w : BitVec 32} (h : fld w 26 6 = 56#6) : wordRefusal w = refuseDred w := by
  unfold wordRefusal; rw [h]; rfl

theorem form_56 {w : BitVec 32} (h : fld w 26 6 = 56#6) : formOf w = formDred w := by
  unfold formOf; rw [h]; rfl

theorem decode_of {w : BitVec 32} {i : Instr} (h : wordRefusal w = none) (k : formOf w = some i) : decode w = .ok i :=
    by
  simp [decode, h, k]

/-! ### One lemma for each constructor -/

theorem RoundTrip.lb : ∀ d a i, RoundTrip.Statement (.lb d a i) := by
  intro d a i _ h
  generalize hw : encode (.lb d a i) = ww
  obtain ⟨hm, h1, h2, h3⟩ := RoundTrip.strip6_5_5_16 12#6 d a i hw.symm
  exact decode_of ((refusal_12 hm).trans (by simp)) ((form_12 hm).trans (by simp [h1, h2, h3]))

theorem RoundTrip.lbn : ∀ d a i, RoundTrip.Statement (.lbn d a i) := by
  intro d a i _ h
  generalize hw : encode (.lbn d a i) = ww
  obtain ⟨hm, h1, h2, h3⟩ := RoundTrip.strip6_5_5_16 13#6 d a i hw.symm
  exact decode_of ((refusal_13 hm).trans (by simp)) ((form_13 hm).trans (by simp [h1, h2, h3]))

theorem RoundTrip.lh : ∀ d a i, RoundTrip.Statement (.lh d a i) := by
  intro d a i _ h
  generalize hw : encode (.lh d a i) = ww
  obtain ⟨hm, h1, h2, h3⟩ := RoundTrip.strip6_5_5_16 14#6 d a i hw.symm
  exact decode_of ((refusal_14 hm).trans (by simp)) ((form_14 hm).trans (by simp [h1, h2, h3]))

theorem RoundTrip.lhn : ∀ d a i, RoundTrip.Statement (.lhn d a i) := by
  intro d a i _ h
  generalize hw : encode (.lhn d a i) = ww
  obtain ⟨hm, h1, h2, h3⟩ := RoundTrip.strip6_5_5_16 15#6 d a i hw.symm
  exact decode_of ((refusal_15 hm).trans (by simp)) ((form_15 hm).trans (by simp [h1, h2, h3]))

theorem RoundTrip.lw : ∀ d a i, RoundTrip.Statement (.lw d a i) := by
  intro d a i _ h
  generalize hw : encode (.lw d a i) = ww
  obtain ⟨hm, h1, h2, h3⟩ := RoundTrip.strip6_5_5_16 16#6 d a i hw.symm
  exact decode_of ((refusal_16 hm).trans (by simp)) ((form_16 hm).trans (by simp [h1, h2, h3]))

theorem RoundTrip.lwn : ∀ d a i, RoundTrip.Statement (.lwn d a i) := by
  intro d a i _ h
  generalize hw : encode (.lwn d a i) = ww
  obtain ⟨hm, h1, h2, h3⟩ := RoundTrip.strip6_5_5_16 17#6 d a i hw.symm
  exact decode_of ((refusal_17 hm).trans (by simp)) ((form_17 hm).trans (by simp [h1, h2, h3]))

theorem RoundTrip.ld : ∀ d a i, RoundTrip.Statement (.ld d a i) := by
  intro d a i _ h
  generalize hw : encode (.ld d a i) = ww
  obtain ⟨hm, h1, h2, h3⟩ := RoundTrip.strip6_5_5_16 18#6 d a i hw.symm
  exact decode_of ((refusal_18 hm).trans (by simp)) ((form_18 hm).trans (by simp [h1, h2, h3]))

theorem RoundTrip.sb : ∀ b a i, RoundTrip.Statement (.sb b a i) := by
  intro b a i _ h
  generalize hw : encode (.sb b a i) = ww
  obtain ⟨hm, h1, h2, h3⟩ := RoundTrip.strip6_5_5_16 19#6 b a i hw.symm
  exact decode_of ((refusal_19 hm).trans (by simp)) ((form_19 hm).trans (by simp [h1, h2, h3]))

theorem RoundTrip.sh : ∀ b a i, RoundTrip.Statement (.sh b a i) := by
  intro b a i _ h
  generalize hw : encode (.sh b a i) = ww
  obtain ⟨hm, h1, h2, h3⟩ := RoundTrip.strip6_5_5_16 20#6 b a i hw.symm
  exact decode_of ((refusal_20 hm).trans (by simp)) ((form_20 hm).trans (by simp [h1, h2, h3]))

theorem RoundTrip.sw : ∀ b a i, RoundTrip.Statement (.sw b a i) := by
  intro b a i _ h
  generalize hw : encode (.sw b a i) = ww
  obtain ⟨hm, h1, h2, h3⟩ := RoundTrip.strip6_5_5_16 21#6 b a i hw.symm
  exact decode_of ((refusal_21 hm).trans (by simp)) ((form_21 hm).trans (by simp [h1, h2, h3]))

theorem RoundTrip.sd : ∀ b a i, RoundTrip.Statement (.sd b a i) := by
  intro b a i _ h
  generalize hw : encode (.sd b a i) = ww
  obtain ⟨hm, h1, h2, h3⟩ := RoundTrip.strip6_5_5_16 22#6 b a i hw.symm
  exact decode_of ((refusal_22 hm).trans (by simp)) ((form_22 hm).trans (by simp [h1, h2, h3]))

theorem RoundTrip.ldab : ∀ d a s, RoundTrip.Statement (.ldab d a s) := by
  intro d a s _ h
  generalize hw : encode (.ldab d a s) = ww
  obtain ⟨hm, h1, h2, h3, h4, h5⟩ := RoundTrip.strip6_5_5_8_2_6 23#6 d a 0#8 s 0#6 hw.symm
  exact decode_of ((refusal_23 hm).trans (by simp [refuseOrd, h3, h5, need])) ((form_23 hm).trans (by simp [formOrd,
      h1, h2, h4, h5]))

theorem RoundTrip.ldah : ∀ d a s, RoundTrip.Statement (.ldah d a s) := by
  intro d a s _ h
  generalize hw : encode (.ldah d a s) = ww
  obtain ⟨hm, h1, h2, h3, h4, h5⟩ := RoundTrip.strip6_5_5_8_2_6 23#6 d a 0#8 s 1#6 hw.symm
  exact decode_of ((refusal_23 hm).trans (by simp [refuseOrd, h3, h5, need])) ((form_23 hm).trans (by simp [formOrd,
      h1, h2, h4, h5]))

theorem RoundTrip.ldaw : ∀ d a s, RoundTrip.Statement (.ldaw d a s) := by
  intro d a s _ h
  generalize hw : encode (.ldaw d a s) = ww
  obtain ⟨hm, h1, h2, h3, h4, h5⟩ := RoundTrip.strip6_5_5_8_2_6 23#6 d a 0#8 s 2#6 hw.symm
  exact decode_of ((refusal_23 hm).trans (by simp [refuseOrd, h3, h5, need])) ((form_23 hm).trans (by simp [formOrd,
      h1, h2, h4, h5]))

theorem RoundTrip.ldad : ∀ d a s, RoundTrip.Statement (.ldad d a s) := by
  intro d a s _ h
  generalize hw : encode (.ldad d a s) = ww
  obtain ⟨hm, h1, h2, h3, h4, h5⟩ := RoundTrip.strip6_5_5_8_2_6 23#6 d a 0#8 s 3#6 hw.symm
  exact decode_of ((refusal_23 hm).trans (by simp [refuseOrd, h3, h5, need])) ((form_23 hm).trans (by simp [formOrd,
      h1, h2, h4, h5]))

theorem RoundTrip.stlb : ∀ a b s, RoundTrip.Statement (.stlb a b s) := by
  intro a b s _ h
  generalize hw : encode (.stlb a b s) = ww
  obtain ⟨hm, h1, h2, h3, h4, h5, h6⟩ := RoundTrip.strip6_5_5_5_3_2_6 23#6 0#5 a b 0#3 s 4#6 hw.symm
  exact decode_of ((refusal_23 hm).trans (by simp [refuseOrd, h1, h4, h6, need])) ((form_23 hm).trans (by simp
      [formOrd, h2, h3, h5, h6]))

theorem RoundTrip.stlh : ∀ a b s, RoundTrip.Statement (.stlh a b s) := by
  intro a b s _ h
  generalize hw : encode (.stlh a b s) = ww
  obtain ⟨hm, h1, h2, h3, h4, h5, h6⟩ := RoundTrip.strip6_5_5_5_3_2_6 23#6 0#5 a b 0#3 s 5#6 hw.symm
  exact decode_of ((refusal_23 hm).trans (by simp [refuseOrd, h1, h4, h6, need])) ((form_23 hm).trans (by simp
      [formOrd, h2, h3, h5, h6]))

theorem RoundTrip.stlw : ∀ a b s, RoundTrip.Statement (.stlw a b s) := by
  intro a b s _ h
  generalize hw : encode (.stlw a b s) = ww
  obtain ⟨hm, h1, h2, h3, h4, h5, h6⟩ := RoundTrip.strip6_5_5_5_3_2_6 23#6 0#5 a b 0#3 s 6#6 hw.symm
  exact decode_of ((refusal_23 hm).trans (by simp [refuseOrd, h1, h4, h6, need])) ((form_23 hm).trans (by simp
      [formOrd, h2, h3, h5, h6]))

theorem RoundTrip.stld : ∀ a b s, RoundTrip.Statement (.stld a b s) := by
  intro a b s _ h
  generalize hw : encode (.stld a b s) = ww
  obtain ⟨hm, h1, h2, h3, h4, h5, h6⟩ := RoundTrip.strip6_5_5_5_3_2_6 23#6 0#5 a b 0#3 s 7#6 hw.symm
  exact decode_of ((refusal_23 hm).trans (by simp [refuseOrd, h1, h4, h6, need])) ((form_23 hm).trans (by simp
      [formOrd, h2, h3, h5, h6]))

theorem RoundTrip.amoadd : ∀ d a b z o s, RoundTrip.Statement (.amoadd d a b z o s) := by
  intro d a b z o s _ h
  generalize hw : encode (.amoadd d a b z o s) = ww
  obtain ⟨hm, h1, h2, h3, h4, h5, h6, h7⟩ := RoundTrip.strip6_5_5_5_1_2_2_6 24#6 d a b z o s 0#6 hw.symm
  exact decode_of ((refusal_24 hm).trans (by simp [refuseAmo, h7])) ((form_24 hm).trans (by simp [formAmo, h1, h2, h3,
      h4, h5, h6, h7]))

theorem RoundTrip.amoand : ∀ d a b z o s, RoundTrip.Statement (.amoand d a b z o s) := by
  intro d a b z o s _ h
  generalize hw : encode (.amoand d a b z o s) = ww
  obtain ⟨hm, h1, h2, h3, h4, h5, h6, h7⟩ := RoundTrip.strip6_5_5_5_1_2_2_6 24#6 d a b z o s 1#6 hw.symm
  exact decode_of ((refusal_24 hm).trans (by simp [refuseAmo, h7])) ((form_24 hm).trans (by simp [formAmo, h1, h2, h3,
      h4, h5, h6, h7]))

theorem RoundTrip.amoor : ∀ d a b z o s, RoundTrip.Statement (.amoor d a b z o s) := by
  intro d a b z o s _ h
  generalize hw : encode (.amoor d a b z o s) = ww
  obtain ⟨hm, h1, h2, h3, h4, h5, h6, h7⟩ := RoundTrip.strip6_5_5_5_1_2_2_6 24#6 d a b z o s 2#6 hw.symm
  exact decode_of ((refusal_24 hm).trans (by simp [refuseAmo, h7])) ((form_24 hm).trans (by simp [formAmo, h1, h2, h3,
      h4, h5, h6, h7]))

theorem RoundTrip.amoxor : ∀ d a b z o s, RoundTrip.Statement (.amoxor d a b z o s) := by
  intro d a b z o s _ h
  generalize hw : encode (.amoxor d a b z o s) = ww
  obtain ⟨hm, h1, h2, h3, h4, h5, h6, h7⟩ := RoundTrip.strip6_5_5_5_1_2_2_6 24#6 d a b z o s 3#6 hw.symm
  exact decode_of ((refusal_24 hm).trans (by simp [refuseAmo, h7])) ((form_24 hm).trans (by simp [formAmo, h1, h2, h3,
      h4, h5, h6, h7]))

theorem RoundTrip.amomin : ∀ d a b z o s, RoundTrip.Statement (.amomin d a b z o s) := by
  intro d a b z o s _ h
  generalize hw : encode (.amomin d a b z o s) = ww
  obtain ⟨hm, h1, h2, h3, h4, h5, h6, h7⟩ := RoundTrip.strip6_5_5_5_1_2_2_6 24#6 d a b z o s 4#6 hw.symm
  exact decode_of ((refusal_24 hm).trans (by simp [refuseAmo, h7])) ((form_24 hm).trans (by simp [formAmo, h1, h2, h3,
      h4, h5, h6, h7]))

theorem RoundTrip.amomax : ∀ d a b z o s, RoundTrip.Statement (.amomax d a b z o s) := by
  intro d a b z o s _ h
  generalize hw : encode (.amomax d a b z o s) = ww
  obtain ⟨hm, h1, h2, h3, h4, h5, h6, h7⟩ := RoundTrip.strip6_5_5_5_1_2_2_6 24#6 d a b z o s 5#6 hw.symm
  exact decode_of ((refusal_24 hm).trans (by simp [refuseAmo, h7])) ((form_24 hm).trans (by simp [formAmo, h1, h2, h3,
      h4, h5, h6, h7]))

theorem RoundTrip.amominn : ∀ d a b z o s, RoundTrip.Statement (.amominn d a b z o s) := by
  intro d a b z o s _ h
  generalize hw : encode (.amominn d a b z o s) = ww
  obtain ⟨hm, h1, h2, h3, h4, h5, h6, h7⟩ := RoundTrip.strip6_5_5_5_1_2_2_6 24#6 d a b z o s 6#6 hw.symm
  exact decode_of ((refusal_24 hm).trans (by simp [refuseAmo, h7])) ((form_24 hm).trans (by simp [formAmo, h1, h2, h3,
      h4, h5, h6, h7]))

theorem RoundTrip.amomaxn : ∀ d a b z o s, RoundTrip.Statement (.amomaxn d a b z o s) := by
  intro d a b z o s _ h
  generalize hw : encode (.amomaxn d a b z o s) = ww
  obtain ⟨hm, h1, h2, h3, h4, h5, h6, h7⟩ := RoundTrip.strip6_5_5_5_1_2_2_6 24#6 d a b z o s 7#6 hw.symm
  exact decode_of ((refusal_24 hm).trans (by simp [refuseAmo, h7])) ((form_24 hm).trans (by simp [formAmo, h1, h2, h3,
      h4, h5, h6, h7]))

theorem RoundTrip.amoswap : ∀ d a b z o s, RoundTrip.Statement (.amoswap d a b z o s) := by
  intro d a b z o s _ h
  generalize hw : encode (.amoswap d a b z o s) = ww
  obtain ⟨hm, h1, h2, h3, h4, h5, h6, h7⟩ := RoundTrip.strip6_5_5_5_1_2_2_6 24#6 d a b z o s 8#6 hw.symm
  exact decode_of ((refusal_24 hm).trans (by simp [refuseAmo, h7])) ((form_24 hm).trans (by simp [formAmo, h1, h2, h3,
      h4, h5, h6, h7]))

theorem RoundTrip.amocas : ∀ d a b z o s, RoundTrip.Statement (.amocas d a b z o s) := by
  intro d a b z o s _ h
  generalize hw : encode (.amocas d a b z o s) = ww
  obtain ⟨hm, h1, h2, h3, h4, h5, h6, h7⟩ := RoundTrip.strip6_5_5_5_1_2_2_6 24#6 d a b z o s 9#6 hw.symm
  exact decode_of ((refusal_24 hm).trans (by simp [refuseAmo, h7])) ((form_24 hm).trans (by simp [formAmo, h1, h2, h3,
      h4, h5, h6, h7]))

theorem RoundTrip.amofadd : ∀ d a b o s, RoundTrip.Statement (.amofadd d a b o s) := by
  intro d a b o s _ h
  generalize hw : encode (.amofadd d a b o s) = ww
  obtain ⟨hm, h1, h2, h3, h4, h5, h6, h7⟩ := RoundTrip.strip6_5_5_5_1_2_2_6 24#6 d a b 0#1 o s 10#6 hw.symm
  exact decode_of ((refusal_24 hm).trans (by simp [refuseAmo, h4, h7, need])) ((form_24 hm).trans (by simp [formAmo,
      h1, h2, h3, h5, h6, h7]))

theorem RoundTrip.amobfadd : ∀ d a b o s, RoundTrip.Statement (.amobfadd d a b o s) := by
  intro d a b o s _ h
  generalize hw : encode (.amobfadd d a b o s) = ww
  obtain ⟨hm, h1, h2, h3, h4, h5, h6, h7⟩ := RoundTrip.strip6_5_5_5_1_2_2_6 24#6 d a b 0#1 o s 11#6 hw.symm
  exact decode_of ((refusal_24 hm).trans (by simp [refuseAmo, h4, h7, need])) ((form_24 hm).trans (by simp [formAmo,
      h1, h2, h3, h5, h6, h7]))

theorem RoundTrip.wfi : RoundTrip.Statement .wfi := by
  intro _ h
  generalize hw : encode .wfi = ww
  obtain ⟨hm, h1, h2, h3, h4⟩ := RoundTrip.strip6_5_5_10_6 33#6 0#5 0#5 0#10 3#6 hw.symm
  exact decode_of ((refusal_33 hm).trans (by simp [refuseSys, h1, h2, h3, h4, need])) ((form_33 hm).trans (by simp
      [formSys, h4]))

theorem RoundTrip.waitpred : RoundTrip.Statement .waitpred := by
  intro _ h
  generalize hw : encode .waitpred = ww
  obtain ⟨hm, h1, h2, h3, h4⟩ := RoundTrip.strip6_5_5_10_6 33#6 0#5 0#5 0#10 7#6 hw.symm
  exact decode_of ((refusal_33 hm).trans (by simp [refuseSys, h1, h2, h3, h4, need])) ((form_33 hm).trans (by simp
      [formSys, h4]))

theorem RoundTrip.convoy : ∀ d n, RoundTrip.Statement (.convoy d n) := by
  intro d n _ h
  generalize hw : encode (.convoy d n) = ww
  obtain ⟨hm, h1, h2, h3, h4, h5⟩ := RoundTrip.strip6_5_5_8_2_6 33#6 d 0#5 0#8 n 8#6 hw.symm
  simp only [Instr.wf, Instr.refusal, need_isNone] at h
  exact decode_of ((refusal_33 hm).trans (by simpa [refuseSys, h2, h3, h4, h5, need] using h)) ((form_33 hm).trans (by
      simp [formSys, h1, h3, h4, h5]))

theorem RoundTrip.convoyS : ∀ d n, RoundTrip.Statement (.convoyS d n) := by
  intro d n _ h
  generalize hw : encode (.convoyS d n) = ww
  obtain ⟨hm, h1, h2, h3, h4, h5⟩ := RoundTrip.strip6_5_5_8_2_6 33#6 d 0#5 4#8 n 8#6 hw.symm
  simp only [Instr.wf, Instr.refusal, need_isNone] at h
  exact decode_of ((refusal_33 hm).trans (by simpa [refuseSys, h2, h3, h4, h5, need] using h)) ((form_33 hm).trans (by
      simp [formSys, h1, h3, h4, h5]))

theorem RoundTrip.pair : ∀ d, RoundTrip.Statement (.pair d) := by
  intro d _ h
  generalize hw : encode (.pair d) = ww
  obtain ⟨hm, h1, h2, h3, h4⟩ := RoundTrip.strip6_5_5_10_6 33#6 d 0#5 0#10 10#6 hw.symm
  exact decode_of ((refusal_33 hm).trans (by simp [refuseSys, h2, h3, h4, need])) ((form_33 hm).trans (by simp
      [formSys, h1, h4]))

theorem RoundTrip.unpair : ∀ d, RoundTrip.Statement (.unpair d) := by
  intro d _ h
  generalize hw : encode (.unpair d) = ww
  obtain ⟨hm, h1, h2, h3, h4⟩ := RoundTrip.strip6_5_5_10_6 33#6 d 0#5 0#10 11#6 hw.symm
  exact decode_of ((refusal_33 hm).trans (by simp [refuseSys, h2, h3, h4, need])) ((form_33 hm).trans (by simp
      [formSys, h1, h4]))

theorem RoundTrip.admitPage : ∀ d a, RoundTrip.Statement (.admitPage d a) := by
  intro d a _ h
  generalize hw : encode (.admitPage d a) = ww
  obtain ⟨hm, h1, h2, h3, h4⟩ := RoundTrip.strip6_5_5_10_6 33#6 d a 0#10 12#6 hw.symm
  exact decode_of ((refusal_33 hm).trans (by simp [refuseSys, h3, h4, need])) ((form_33 hm).trans (by simp [formSys,
      h1, h2, h4]))

theorem RoundTrip.replay : ∀ d a, RoundTrip.Statement (.replay d a) := by
  intro d a _ h
  generalize hw : encode (.replay d a) = ww
  obtain ⟨hm, h1, h2, h3, h4⟩ := RoundTrip.strip6_5_5_10_6 33#6 d a 0#10 13#6 hw.symm
  exact decode_of ((refusal_33 hm).trans (by simp [refuseSys, h3, h4, need])) ((form_33 hm).trans (by simp [formSys,
      h1, h2, h4]))

theorem RoundTrip.testc : ∀ d a, RoundTrip.Statement (.testc d a) := by
  intro d a _ h
  generalize hw : encode (.testc d a) = ww
  obtain ⟨hm, h1, h2, h3, h4⟩ := RoundTrip.strip6_5_5_10_6 33#6 d a 0#10 14#6 hw.symm
  exact decode_of ((refusal_33 hm).trans (by simp [refuseSys, h3, h4, need])) ((form_33 hm).trans (by simp [formSys,
      h1, h2, h4]))

theorem RoundTrip.sysr : ∀ d r, RoundTrip.Statement (.sysr d r) := by
  intro d r _ h
  generalize hw : encode (.sysr d r) = ww
  obtain ⟨hm, h1, h2, h3, h4⟩ := RoundTrip.strip6_5_5_4_12 34#6 d 0#5 0#4 r hw.symm
  simp only [Instr.wf, Instr.refusal, need_isNone] at h
  exact decode_of ((refusal_34 hm).trans (by simpa [h2, h3, h4, need] using h)) ((form_34 hm).trans (by simp [h1, h4]))

theorem RoundTrip.sysw : ∀ a r, RoundTrip.Statement (.sysw a r) := by
  intro a r _ h
  generalize hw : encode (.sysw a r) = ww
  obtain ⟨hm, h1, h2, h3, h4⟩ := RoundTrip.strip6_5_5_4_12 35#6 0#5 a 0#4 r hw.symm
  simp only [Instr.wf, Instr.refusal, need_isNone] at h
  exact decode_of ((refusal_35 hm).trans (by simpa [h1, h3, h4, need] using h)) ((form_35 hm).trans (by simp [h2, h4]))

theorem RoundTrip.arrive : ∀ d, RoundTrip.Statement (.arrive d) := by
  intro d _ h
  generalize hw : encode (.arrive d) = ww
  obtain ⟨hm, h1, h2, h3, h4⟩ := RoundTrip.strip6_5_5_10_6 36#6 d 0#5 0#10 0#6 hw.symm
  exact decode_of ((refusal_36 hm).trans (by simp [refuseSync, h2, h3, h4, need])) ((form_36 hm).trans (by simp
      [formSync, h1, h4]))

theorem RoundTrip.wait : ∀ a, RoundTrip.Statement (.wait a) := by
  intro a _ h
  generalize hw : encode (.wait a) = ww
  obtain ⟨hm, h1, h2, h3, h4⟩ := RoundTrip.strip6_5_5_10_6 36#6 0#5 a 0#10 1#6 hw.symm
  exact decode_of ((refusal_36 hm).trans (by simp [refuseSync, h1, h3, h4, need])) ((form_36 hm).trans (by simp
      [formSync, h2, h4]))

theorem RoundTrip.mbwait : ∀ d a n, RoundTrip.Statement (.mbwait d a n) := by
  intro d a n _ h
  generalize hw : encode (.mbwait d a n) = ww
  obtain ⟨hm, h1, h2, h3, h4, h5⟩ := RoundTrip.strip6_5_5_5_5_6 36#6 d a n 0#5 4#6 hw.symm
  simp only [Instr.wf, Instr.refusal, need_isNone] at h
  exact decode_of ((refusal_36 hm).trans (by simpa [refuseSync, h3, h4, h5, need] using h)) ((form_36 hm).trans (by
      simp [formSync, h1, h2, h3, h5]))

theorem RoundTrip.xphase : ∀ d, RoundTrip.Statement (.xphase d) := by
  intro d _ h
  generalize hw : encode (.xphase d) = ww
  obtain ⟨hm, h1, h2, h3, h4⟩ := RoundTrip.strip6_5_5_10_6 36#6 d 0#5 0#10 7#6 hw.symm
  exact decode_of ((refusal_36 hm).trans (by simp [refuseSync, h2, h3, h4, need])) ((form_36 hm).trans (by simp
      [formSync, h1, h4]))

theorem RoundTrip.cphase : ∀ d, RoundTrip.Statement (.cphase d) := by
  intro d _ h
  generalize hw : encode (.cphase d) = ww
  obtain ⟨hm, h1, h2, h3, h4⟩ := RoundTrip.strip6_5_5_10_6 36#6 d 0#5 0#10 8#6 hw.symm
  exact decode_of ((refusal_36 hm).trans (by simp [refuseSync, h2, h3, h4, need])) ((form_36 hm).trans (by simp
      [formSync, h1, h4]))

theorem RoundTrip.xsend : ∀ d a b c, RoundTrip.Statement (.xsend d a b c) := by
  intro d a b c _ h
  generalize hw : encode (.xsend d a b c) = ww
  obtain ⟨hm, h1, h2, h3, h4, h5⟩ := RoundTrip.strip6_5_5_5_5_6 36#6 d a b c 9#6 hw.symm
  exact decode_of ((refusal_36 hm).trans (by simp [refuseSync, h5])) ((form_36 hm).trans (by simp [formSync, h1, h2,
      h3, h4, h5]))

theorem RoundTrip.xrecv : ∀ d a, RoundTrip.Statement (.xrecv d a) := by
  intro d a _ h
  generalize hw : encode (.xrecv d a) = ww
  obtain ⟨hm, h1, h2, h3, h4⟩ := RoundTrip.strip6_5_5_10_6 36#6 d a 0#10 10#6 hw.symm
  exact decode_of ((refusal_36 hm).trans (by simp [refuseSync, h3, h4, need])) ((form_36 hm).trans (by simp [formSync,
      h1, h2, h4]))

theorem RoundTrip.vadd : ∀ d a b m t, RoundTrip.Statement (.vadd d a b m t) := by
  intro d a b m t _ h
  generalize hw : encode (.vadd d a b m t) = ww
  obtain ⟨hm, h1, h2, h3, h4, h5, h6⟩ := RoundTrip.strip6_5_5_5_3_3_5 40#6 d a b m t 0#5 hw.symm
  exact decode_of ((refusal_40 hm).trans (by simp [refuseVarith, h6])) ((form_40 hm).trans (by simp [formVarith, h1,
      h2, h3, h4, h5, h6]))

theorem RoundTrip.vsub : ∀ d a b m t, RoundTrip.Statement (.vsub d a b m t) := by
  intro d a b m t _ h
  generalize hw : encode (.vsub d a b m t) = ww
  obtain ⟨hm, h1, h2, h3, h4, h5, h6⟩ := RoundTrip.strip6_5_5_5_3_3_5 40#6 d a b m t 1#5 hw.symm
  exact decode_of ((refusal_40 hm).trans (by simp [refuseVarith, h6])) ((form_40 hm).trans (by simp [formVarith, h1,
      h2, h3, h4, h5, h6]))

theorem RoundTrip.vmul : ∀ d a b m t, RoundTrip.Statement (.vmul d a b m t) := by
  intro d a b m t _ h
  generalize hw : encode (.vmul d a b m t) = ww
  obtain ⟨hm, h1, h2, h3, h4, h5, h6⟩ := RoundTrip.strip6_5_5_5_3_3_5 40#6 d a b m t 2#5 hw.symm
  exact decode_of ((refusal_40 hm).trans (by simp [refuseVarith, h6])) ((form_40 hm).trans (by simp [formVarith, h1,
      h2, h3, h4, h5, h6]))

theorem RoundTrip.vfma : ∀ d a b m t, RoundTrip.Statement (.vfma d a b m t) := by
  intro d a b m t _ h
  generalize hw : encode (.vfma d a b m t) = ww
  obtain ⟨hm, h1, h2, h3, h4, h5, h6⟩ := RoundTrip.strip6_5_5_5_3_3_5 40#6 d a b m t 3#5 hw.symm
  exact decode_of ((refusal_40 hm).trans (by simp [refuseVarith, h6])) ((form_40 hm).trans (by simp [formVarith, h1,
      h2, h3, h4, h5, h6]))

theorem RoundTrip.vfms : ∀ d a b m t, RoundTrip.Statement (.vfms d a b m t) := by
  intro d a b m t _ h
  generalize hw : encode (.vfms d a b m t) = ww
  obtain ⟨hm, h1, h2, h3, h4, h5, h6⟩ := RoundTrip.strip6_5_5_5_3_3_5 40#6 d a b m t 4#5 hw.symm
  exact decode_of ((refusal_40 hm).trans (by simp [refuseVarith, h6])) ((form_40 hm).trans (by simp [formVarith, h1,
      h2, h3, h4, h5, h6]))

theorem RoundTrip.vmin : ∀ d a b m t, RoundTrip.Statement (.vmin d a b m t) := by
  intro d a b m t _ h
  generalize hw : encode (.vmin d a b m t) = ww
  obtain ⟨hm, h1, h2, h3, h4, h5, h6⟩ := RoundTrip.strip6_5_5_5_3_3_5 40#6 d a b m t 5#5 hw.symm
  exact decode_of ((refusal_40 hm).trans (by simp [refuseVarith, h6])) ((form_40 hm).trans (by simp [formVarith, h1,
      h2, h3, h4, h5, h6]))

theorem RoundTrip.vmax : ∀ d a b m t, RoundTrip.Statement (.vmax d a b m t) := by
  intro d a b m t _ h
  generalize hw : encode (.vmax d a b m t) = ww
  obtain ⟨hm, h1, h2, h3, h4, h5, h6⟩ := RoundTrip.strip6_5_5_5_3_3_5 40#6 d a b m t 6#5 hw.symm
  exact decode_of ((refusal_40 hm).trans (by simp [refuseVarith, h6])) ((form_40 hm).trans (by simp [formVarith, h1,
      h2, h3, h4, h5, h6]))

theorem RoundTrip.vabs : ∀ d a m t, RoundTrip.Statement (.vabs d a m t) := by
  intro d a m t _ h
  generalize hw : encode (.vabs d a m t) = ww
  obtain ⟨hm, h1, h2, h3, h4, h5, h6⟩ := RoundTrip.strip6_5_5_5_3_3_5 40#6 d a 0#5 m t 7#5 hw.symm
  exact decode_of ((refusal_40 hm).trans (by simp [refuseVarith, h3, h6, need])) ((form_40 hm).trans (by simp
      [formVarith, h1, h2, h4, h5, h6]))

theorem RoundTrip.vneg : ∀ d a m t, RoundTrip.Statement (.vneg d a m t) := by
  intro d a m t _ h
  generalize hw : encode (.vneg d a m t) = ww
  obtain ⟨hm, h1, h2, h3, h4, h5, h6⟩ := RoundTrip.strip6_5_5_5_3_3_5 40#6 d a 0#5 m t 8#5 hw.symm
  exact decode_of ((refusal_40 hm).trans (by simp [refuseVarith, h3, h6, need])) ((form_40 hm).trans (by simp
      [formVarith, h1, h2, h4, h5, h6]))

theorem RoundTrip.vdiv : ∀ d a b m t, RoundTrip.Statement (.vdiv d a b m t) := by
  intro d a b m t _ h
  generalize hw : encode (.vdiv d a b m t) = ww
  obtain ⟨hm, h1, h2, h3, h4, h5, h6⟩ := RoundTrip.strip6_5_5_5_3_3_5 40#6 d a b m t 9#5 hw.symm
  simp only [Instr.wf, Instr.refusal, need_isNone] at h
  exact decode_of ((refusal_40 hm).trans (by simpa [refuseVarith, h5, h6, need] using h)) ((form_40 hm).trans (by simp
      [formVarith, h1, h2, h3, h4, h5, h6]))

theorem RoundTrip.vsqrt : ∀ d a m t, RoundTrip.Statement (.vsqrt d a m t) := by
  intro d a m t _ h
  generalize hw : encode (.vsqrt d a m t) = ww
  obtain ⟨hm, h1, h2, h3, h4, h5, h6⟩ := RoundTrip.strip6_5_5_5_3_3_5 40#6 d a 0#5 m t 10#5 hw.symm
  simp only [Instr.wf, Instr.refusal, need_isNone] at h
  exact decode_of ((refusal_40 hm).trans (by simpa [refuseVarith, h3, h5, h6, need] using h)) ((form_40 hm).trans (by
      simp [formVarith, h1, h2, h4, h5, h6]))

theorem RoundTrip.vrcp : ∀ d a m t, RoundTrip.Statement (.vrcp d a m t) := by
  intro d a m t _ h
  generalize hw : encode (.vrcp d a m t) = ww
  obtain ⟨hm, h1, h2, h3, h4, h5, h6⟩ := RoundTrip.strip6_5_5_5_3_3_5 40#6 d a 0#5 m t 11#5 hw.symm
  simp only [Instr.wf, Instr.refusal, need_isNone] at h
  exact decode_of ((refusal_40 hm).trans (by simpa [refuseVarith, h3, h5, h6, need] using h)) ((form_40 hm).trans (by
      simp [formVarith, h1, h2, h4, h5, h6]))

theorem RoundTrip.vrsqrt : ∀ d a m t, RoundTrip.Statement (.vrsqrt d a m t) := by
  intro d a m t _ h
  generalize hw : encode (.vrsqrt d a m t) = ww
  obtain ⟨hm, h1, h2, h3, h4, h5, h6⟩ := RoundTrip.strip6_5_5_5_3_3_5 40#6 d a 0#5 m t 12#5 hw.symm
  simp only [Instr.wf, Instr.refusal, need_isNone] at h
  exact decode_of ((refusal_40 hm).trans (by simpa [refuseVarith, h3, h5, h6, need] using h)) ((form_40 hm).trans (by
      simp [formVarith, h1, h2, h4, h5, h6]))

theorem RoundTrip.vadds : ∀ d a b m t, RoundTrip.Statement (.vadds d a b m t) := by
  intro d a b m t _ h
  generalize hw : encode (.vadds d a b m t) = ww
  obtain ⟨hm, h1, h2, h3, h4, h5, h6⟩ := RoundTrip.strip6_5_5_5_3_3_5 40#6 d a b m t 13#5 hw.symm
  simp only [Instr.wf, Instr.refusal, need_isNone] at h
  exact decode_of ((refusal_40 hm).trans (by simpa [refuseVarith, h5, h6, need] using h)) ((form_40 hm).trans (by simp
      [formVarith, h1, h2, h3, h4, h5, h6]))

theorem RoundTrip.vsubs : ∀ d a b m t, RoundTrip.Statement (.vsubs d a b m t) := by
  intro d a b m t _ h
  generalize hw : encode (.vsubs d a b m t) = ww
  obtain ⟨hm, h1, h2, h3, h4, h5, h6⟩ := RoundTrip.strip6_5_5_5_3_3_5 40#6 d a b m t 14#5 hw.symm
  simp only [Instr.wf, Instr.refusal, need_isNone] at h
  exact decode_of ((refusal_40 hm).trans (by simpa [refuseVarith, h5, h6, need] using h)) ((form_40 hm).trans (by simp
      [formVarith, h1, h2, h3, h4, h5, h6]))

theorem RoundTrip.vmulh : ∀ d a b m t, RoundTrip.Statement (.vmulh d a b m t) := by
  intro d a b m t _ h
  generalize hw : encode (.vmulh d a b m t) = ww
  obtain ⟨hm, h1, h2, h3, h4, h5, h6⟩ := RoundTrip.strip6_5_5_5_3_3_5 40#6 d a b m t 15#5 hw.symm
  simp only [Instr.wf, Instr.refusal, need_isNone] at h
  exact decode_of ((refusal_40 hm).trans (by simpa [refuseVarith, h5, h6, need] using h)) ((form_40 hm).trans (by simp
      [formVarith, h1, h2, h3, h4, h5, h6]))

theorem RoundTrip.vand : ∀ d a b m t, RoundTrip.Statement (.vand d a b m t) := by
  intro d a b m t _ h
  generalize hw : encode (.vand d a b m t) = ww
  obtain ⟨hm, h1, h2, h3, h4, h5, h6⟩ := RoundTrip.strip6_5_5_5_3_3_5 41#6 d a b m t 0#5 hw.symm
  exact decode_of ((refusal_41 hm).trans (by simp [refuseVlogic, h6])) ((form_41 hm).trans (by simp [formVlogic, h1,
      h2, h3, h4, h5, h6]))

theorem RoundTrip.vor : ∀ d a b m t, RoundTrip.Statement (.vor d a b m t) := by
  intro d a b m t _ h
  generalize hw : encode (.vor d a b m t) = ww
  obtain ⟨hm, h1, h2, h3, h4, h5, h6⟩ := RoundTrip.strip6_5_5_5_3_3_5 41#6 d a b m t 1#5 hw.symm
  exact decode_of ((refusal_41 hm).trans (by simp [refuseVlogic, h6])) ((form_41 hm).trans (by simp [formVlogic, h1,
      h2, h3, h4, h5, h6]))

theorem RoundTrip.vxor : ∀ d a b m t, RoundTrip.Statement (.vxor d a b m t) := by
  intro d a b m t _ h
  generalize hw : encode (.vxor d a b m t) = ww
  obtain ⟨hm, h1, h2, h3, h4, h5, h6⟩ := RoundTrip.strip6_5_5_5_3_3_5 41#6 d a b m t 2#5 hw.symm
  exact decode_of ((refusal_41 hm).trans (by simp [refuseVlogic, h6])) ((form_41 hm).trans (by simp [formVlogic, h1,
      h2, h3, h4, h5, h6]))

theorem RoundTrip.vandn : ∀ d a b m t, RoundTrip.Statement (.vandn d a b m t) := by
  intro d a b m t _ h
  generalize hw : encode (.vandn d a b m t) = ww
  obtain ⟨hm, h1, h2, h3, h4, h5, h6⟩ := RoundTrip.strip6_5_5_5_3_3_5 41#6 d a b m t 3#5 hw.symm
  exact decode_of ((refusal_41 hm).trans (by simp [refuseVlogic, h6])) ((form_41 hm).trans (by simp [formVlogic, h1,
      h2, h3, h4, h5, h6]))

theorem RoundTrip.vnot : ∀ d a m t, RoundTrip.Statement (.vnot d a m t) := by
  intro d a m t _ h
  generalize hw : encode (.vnot d a m t) = ww
  obtain ⟨hm, h1, h2, h3, h4, h5, h6⟩ := RoundTrip.strip6_5_5_5_3_3_5 41#6 d a 0#5 m t 4#5 hw.symm
  exact decode_of ((refusal_41 hm).trans (by simp [refuseVlogic, h3, h6, need])) ((form_41 hm).trans (by simp
      [formVlogic, h1, h2, h4, h5, h6]))

theorem RoundTrip.vshl : ∀ d a b m t, RoundTrip.Statement (.vshl d a b m t) := by
  intro d a b m t _ h
  generalize hw : encode (.vshl d a b m t) = ww
  obtain ⟨hm, h1, h2, h3, h4, h5, h6⟩ := RoundTrip.strip6_5_5_5_3_3_5 41#6 d a b m t 5#5 hw.symm
  simp only [Instr.wf, Instr.refusal, need_isNone] at h
  exact decode_of ((refusal_41 hm).trans (by simpa [refuseVlogic, h5, h6, need] using h)) ((form_41 hm).trans (by simp
      [formVlogic, h1, h2, h3, h4, h5, h6]))

theorem RoundTrip.vshr : ∀ d a b m t, RoundTrip.Statement (.vshr d a b m t) := by
  intro d a b m t _ h
  generalize hw : encode (.vshr d a b m t) = ww
  obtain ⟨hm, h1, h2, h3, h4, h5, h6⟩ := RoundTrip.strip6_5_5_5_3_3_5 41#6 d a b m t 6#5 hw.symm
  simp only [Instr.wf, Instr.refusal, need_isNone] at h
  exact decode_of ((refusal_41 hm).trans (by simpa [refuseVlogic, h5, h6, need] using h)) ((form_41 hm).trans (by simp
      [formVlogic, h1, h2, h3, h4, h5, h6]))

theorem RoundTrip.vsra : ∀ d a b m t, RoundTrip.Statement (.vsra d a b m t) := by
  intro d a b m t _ h
  generalize hw : encode (.vsra d a b m t) = ww
  obtain ⟨hm, h1, h2, h3, h4, h5, h6⟩ := RoundTrip.strip6_5_5_5_3_3_5 41#6 d a b m t 7#5 hw.symm
  simp only [Instr.wf, Instr.refusal, need_isNone] at h
  exact decode_of ((refusal_41 hm).trans (by simpa [refuseVlogic, h5, h6, need] using h)) ((form_41 hm).trans (by simp
      [formVlogic, h1, h2, h3, h4, h5, h6]))

theorem RoundTrip.vcmpeq : ∀ d a b m t, RoundTrip.Statement (.vcmpeq d a b m t) := by
  intro d a b m t _ h
  generalize hw : encode (.vcmpeq d a b m t) = ww
  obtain ⟨hm, h1, h2, h3, h4, h5, h6⟩ := RoundTrip.strip6_5_5_5_3_3_5 41#6 d a b m t 8#5 hw.symm
  simp only [Instr.wf, Instr.refusal, need_isNone] at h
  exact decode_of ((refusal_41 hm).trans (by simpa [refuseVlogic, h1, h6, need] using h)) ((form_41 hm).trans (by simp
      [formVlogic, h1, h2, h3, h4, h5, h6]))

theorem RoundTrip.vcmpne : ∀ d a b m t, RoundTrip.Statement (.vcmpne d a b m t) := by
  intro d a b m t _ h
  generalize hw : encode (.vcmpne d a b m t) = ww
  obtain ⟨hm, h1, h2, h3, h4, h5, h6⟩ := RoundTrip.strip6_5_5_5_3_3_5 41#6 d a b m t 9#5 hw.symm
  simp only [Instr.wf, Instr.refusal, need_isNone] at h
  exact decode_of ((refusal_41 hm).trans (by simpa [refuseVlogic, h1, h6, need] using h)) ((form_41 hm).trans (by simp
      [formVlogic, h1, h2, h3, h4, h5, h6]))

theorem RoundTrip.vcmplt : ∀ d a b m t, RoundTrip.Statement (.vcmplt d a b m t) := by
  intro d a b m t _ h
  generalize hw : encode (.vcmplt d a b m t) = ww
  obtain ⟨hm, h1, h2, h3, h4, h5, h6⟩ := RoundTrip.strip6_5_5_5_3_3_5 41#6 d a b m t 10#5 hw.symm
  simp only [Instr.wf, Instr.refusal, need_isNone] at h
  exact decode_of ((refusal_41 hm).trans (by simpa [refuseVlogic, h1, h6, need] using h)) ((form_41 hm).trans (by simp
      [formVlogic, h1, h2, h3, h4, h5, h6]))

theorem RoundTrip.vcmple : ∀ d a b m t, RoundTrip.Statement (.vcmple d a b m t) := by
  intro d a b m t _ h
  generalize hw : encode (.vcmple d a b m t) = ww
  obtain ⟨hm, h1, h2, h3, h4, h5, h6⟩ := RoundTrip.strip6_5_5_5_3_3_5 41#6 d a b m t 11#5 hw.symm
  simp only [Instr.wf, Instr.refusal, need_isNone] at h
  exact decode_of ((refusal_41 hm).trans (by simpa [refuseVlogic, h1, h6, need] using h)) ((form_41 hm).trans (by simp
      [formVlogic, h1, h2, h3, h4, h5, h6]))

theorem RoundTrip.vcmpltn : ∀ d a b m t, RoundTrip.Statement (.vcmpltn d a b m t) := by
  intro d a b m t _ h
  generalize hw : encode (.vcmpltn d a b m t) = ww
  obtain ⟨hm, h1, h2, h3, h4, h5, h6⟩ := RoundTrip.strip6_5_5_5_3_3_5 41#6 d a b m t 12#5 hw.symm
  simp only [Instr.wf, Instr.refusal] at h
  exact decode_of ((refusal_41 hm).trans (by simpa [refuseVlogic, h1, h5, h6, need] using h)) ((form_41 hm).trans (by
      simp [formVlogic, h1, h2, h3, h4, h5, h6]))

theorem RoundTrip.vsel : ∀ d a b m t, RoundTrip.Statement (.vsel d a b m t) := by
  intro d a b m t _ h
  generalize hw : encode (.vsel d a b m t) = ww
  obtain ⟨hm, h1, h2, h3, h4, h5, h6⟩ := RoundTrip.strip6_5_5_5_3_3_5 41#6 d a b m t 13#5 hw.symm
  exact decode_of ((refusal_41 hm).trans (by simp [refuseVlogic, h6])) ((form_41 hm).trans (by simp [formVlogic, h1,
      h2, h3, h4, h5, h6]))

theorem RoundTrip.pand : ∀ d a b, RoundTrip.Statement (.pand d a b) := by
  intro d a b _ h
  generalize hw : encode (.pand d a b) = ww
  obtain ⟨hm, h1, h2, h3, h4, h5⟩ := RoundTrip.strip6_5_5_5_6_5 41#6 d a b 0#6 14#5 hw.symm
  simp only [Instr.wf, Instr.refusal, need_isNone] at h
  exact decode_of ((refusal_41 hm).trans (by simpa [refuseVlogic, h1, h2, h3, h4, h5, need, and_assoc] using h))
      ((form_41 hm).trans (by simp [formVlogic, h1, h2, h3, h5]))

theorem RoundTrip.por : ∀ d a b, RoundTrip.Statement (.por d a b) := by
  intro d a b _ h
  generalize hw : encode (.por d a b) = ww
  obtain ⟨hm, h1, h2, h3, h4, h5⟩ := RoundTrip.strip6_5_5_5_6_5 41#6 d a b 0#6 15#5 hw.symm
  simp only [Instr.wf, Instr.refusal, need_isNone] at h
  exact decode_of ((refusal_41 hm).trans (by simpa [refuseVlogic, h1, h2, h3, h4, h5, need, and_assoc] using h))
      ((form_41 hm).trans (by simp [formVlogic, h1, h2, h3, h5]))

theorem RoundTrip.pxor : ∀ d a b, RoundTrip.Statement (.pxor d a b) := by
  intro d a b _ h
  generalize hw : encode (.pxor d a b) = ww
  obtain ⟨hm, h1, h2, h3, h4, h5⟩ := RoundTrip.strip6_5_5_5_6_5 41#6 d a b 0#6 16#5 hw.symm
  simp only [Instr.wf, Instr.refusal, need_isNone] at h
  exact decode_of ((refusal_41 hm).trans (by simpa [refuseVlogic, h1, h2, h3, h4, h5, need, and_assoc] using h))
      ((form_41 hm).trans (by simp [formVlogic, h1, h2, h3, h5]))

theorem RoundTrip.pnot : ∀ d a, RoundTrip.Statement (.pnot d a) := by
  intro d a _ h
  generalize hw : encode (.pnot d a) = ww
  obtain ⟨hm, h1, h2, h3, h4⟩ := RoundTrip.strip6_5_5_11_5 41#6 d a 0#11 17#5 hw.symm
  simp only [Instr.wf, Instr.refusal, need_isNone] at h
  exact decode_of ((refusal_41 hm).trans (by simpa [refuseVlogic, h1, h2, h3, h4, need] using h)) ((form_41 hm).trans
      (by simp [formVlogic, h1, h2, h4]))

theorem RoundTrip.pcnt : ∀ d a t, RoundTrip.Statement (.pcnt d a t) := by
  intro d a t _ h
  generalize hw : encode (.pcnt d a t) = ww
  obtain ⟨hm, h1, h2, h3, h4, h5⟩ := RoundTrip.strip6_5_5_8_3_5 41#6 d a 0#8 t 18#5 hw.symm
  simp only [Instr.wf, Instr.refusal, need_isNone] at h
  exact decode_of ((refusal_41 hm).trans (by simpa [refuseVlogic, h2, h3, h5, need] using h)) ((form_41 hm).trans (by
      simp [formVlogic, h1, h2, h4, h5]))

theorem RoundTrip.pfirst : ∀ d a t, RoundTrip.Statement (.pfirst d a t) := by
  intro d a t _ h
  generalize hw : encode (.pfirst d a t) = ww
  obtain ⟨hm, h1, h2, h3, h4, h5⟩ := RoundTrip.strip6_5_5_8_3_5 41#6 d a 0#8 t 19#5 hw.symm
  simp only [Instr.wf, Instr.refusal, need_isNone] at h
  exact decode_of ((refusal_41 hm).trans (by simpa [refuseVlogic, h2, h3, h5, need] using h)) ((form_41 hm).trans (by
      simp [formVlogic, h1, h2, h4, h5]))

theorem RoundTrip.pset : ∀ d a t, RoundTrip.Statement (.pset d a t) := by
  intro d a t _ h
  generalize hw : encode (.pset d a t) = ww
  obtain ⟨hm, h1, h2, h3, h4, h5⟩ := RoundTrip.strip6_5_5_8_3_5 41#6 d a 0#8 t 20#5 hw.symm
  simp only [Instr.wf, Instr.refusal, need_isNone] at h
  exact decode_of ((refusal_41 hm).trans (by simpa [refuseVlogic, h1, h3, h5, need] using h)) ((form_41 hm).trans (by
      simp [formVlogic, h1, h2, h4, h5]))

theorem RoundTrip.vpermb : ∀ d a b m, RoundTrip.Statement (.vpermb d a b m) := by
  intro d a b m _ h
  generalize hw : encode (.vpermb d a b m) = ww
  obtain ⟨hm, h1, h2, h3, h4, h5, h6⟩ := RoundTrip.strip6_5_5_5_3_3_5 42#6 d a b m 5#3 0#5 hw.symm
  exact decode_of ((refusal_42 hm).trans (by simp [refuseVperm, h5, h6, need])) ((form_42 hm).trans (by simp
      [formVperm, h1, h2, h3, h4, h6]))

theorem RoundTrip.vperm : ∀ d a b m t, RoundTrip.Statement (.vperm d a b m t) := by
  intro d a b m t _ h
  generalize hw : encode (.vperm d a b m t) = ww
  obtain ⟨hm, h1, h2, h3, h4, h5, h6⟩ := RoundTrip.strip6_5_5_5_3_3_5 42#6 d a b m t 1#5 hw.symm
  exact decode_of ((refusal_42 hm).trans (by simp [refuseVperm, h6])) ((form_42 hm).trans (by simp [formVperm, h1, h2,
      h3, h4, h5, h6]))

theorem RoundTrip.vslideup : ∀ d a b m t, RoundTrip.Statement (.vslideup d a b m t) := by
  intro d a b m t _ h
  generalize hw : encode (.vslideup d a b m t) = ww
  obtain ⟨hm, h1, h2, h3, h4, h5, h6⟩ := RoundTrip.strip6_5_5_5_3_3_5 42#6 d a b m t 2#5 hw.symm
  exact decode_of ((refusal_42 hm).trans (by simp [refuseVperm, h6])) ((form_42 hm).trans (by simp [formVperm, h1, h2,
      h3, h4, h5, h6]))

theorem RoundTrip.vslidedn : ∀ d a b m t, RoundTrip.Statement (.vslidedn d a b m t) := by
  intro d a b m t _ h
  generalize hw : encode (.vslidedn d a b m t) = ww
  obtain ⟨hm, h1, h2, h3, h4, h5, h6⟩ := RoundTrip.strip6_5_5_5_3_3_5 42#6 d a b m t 3#5 hw.symm
  exact decode_of ((refusal_42 hm).trans (by simp [refuseVperm, h6])) ((form_42 hm).trans (by simp [formVperm, h1, h2,
      h3, h4, h5, h6]))

theorem RoundTrip.vbcast : ∀ d a m t, RoundTrip.Statement (.vbcast d a m t) := by
  intro d a m t _ h
  generalize hw : encode (.vbcast d a m t) = ww
  obtain ⟨hm, h1, h2, h3, h4, h5, h6⟩ := RoundTrip.strip6_5_5_5_3_3_5 42#6 d a 0#5 m t 4#5 hw.symm
  exact decode_of ((refusal_42 hm).trans (by simp [refuseVperm, h3, h6, need])) ((form_42 hm).trans (by simp
      [formVperm, h1, h2, h4, h5, h6]))

theorem RoundTrip.vextr : ∀ d a b t, RoundTrip.Statement (.vextr d a b t) := by
  intro d a b t _ h
  generalize hw : encode (.vextr d a b t) = ww
  obtain ⟨hm, h1, h2, h3, h4, h5, h6⟩ := RoundTrip.strip6_5_5_5_3_3_5 42#6 d a b 0#3 t 5#5 hw.symm
  exact decode_of ((refusal_42 hm).trans (by simp [refuseVperm, h4, h6, need])) ((form_42 hm).trans (by simp
      [formVperm, h1, h2, h3, h5, h6]))

theorem RoundTrip.vins : ∀ d a b t, RoundTrip.Statement (.vins d a b t) := by
  intro d a b t _ h
  generalize hw : encode (.vins d a b t) = ww
  obtain ⟨hm, h1, h2, h3, h4, h5, h6⟩ := RoundTrip.strip6_5_5_5_3_3_5 42#6 d a b 0#3 t 6#5 hw.symm
  exact decode_of ((refusal_42 hm).trans (by simp [refuseVperm, h4, h6, need])) ((form_42 hm).trans (by simp
      [formVperm, h1, h2, h3, h5, h6]))

theorem RoundTrip.viota : ∀ d m t, RoundTrip.Statement (.viota d m t) := by
  intro d m t _ h
  generalize hw : encode (.viota d m t) = ww
  obtain ⟨hm, h1, h2, h3, h4, h5, h6⟩ := RoundTrip.strip6_5_5_5_3_3_5 42#6 d 0#5 0#5 m t 7#5 hw.symm
  simp only [Instr.wf, Instr.refusal, need_isNone] at h
  exact decode_of ((refusal_42 hm).trans (by simpa [refuseVperm, h2, h3, h5, h6, need] using h)) ((form_42 hm).trans
      (by simp [formVperm, h1, h4, h5, h6]))

theorem RoundTrip.vzipl : ∀ d a b m t, RoundTrip.Statement (.vzipl d a b m t) := by
  intro d a b m t _ h
  generalize hw : encode (.vzipl d a b m t) = ww
  obtain ⟨hm, h1, h2, h3, h4, h5, h6⟩ := RoundTrip.strip6_5_5_5_3_3_5 42#6 d a b m t 8#5 hw.symm
  exact decode_of ((refusal_42 hm).trans (by simp [refuseVperm, h6])) ((form_42 hm).trans (by simp [formVperm, h1, h2,
      h3, h4, h5, h6]))

theorem RoundTrip.vziph : ∀ d a b m t, RoundTrip.Statement (.vziph d a b m t) := by
  intro d a b m t _ h
  generalize hw : encode (.vziph d a b m t) = ww
  obtain ⟨hm, h1, h2, h3, h4, h5, h6⟩ := RoundTrip.strip6_5_5_5_3_3_5 42#6 d a b m t 9#5 hw.symm
  exact decode_of ((refusal_42 hm).trans (by simp [refuseVperm, h6])) ((form_42 hm).trans (by simp [formVperm, h1, h2,
      h3, h4, h5, h6]))

theorem RoundTrip.vmov : ∀ d a m t, RoundTrip.Statement (.vmov d a m t) := by
  intro d a m t _ h
  generalize hw : encode (.vmov d a m t) = ww
  obtain ⟨hm, h1, h2, h3, h4, h5, h6⟩ := RoundTrip.strip6_5_5_5_3_3_5 42#6 d a 0#5 m t 10#5 hw.symm
  exact decode_of ((refusal_42 hm).trans (by simp [refuseVperm, h3, h6, need])) ((form_42 hm).trans (by simp
      [formVperm, h1, h2, h4, h5, h6]))

theorem RoundTrip.vcvt : ∀ d a f m t, RoundTrip.Statement (.vcvt d a f m t) := by
  intro d a f m t _ h
  generalize hw : encode (.vcvt d a f m t) = ww
  obtain ⟨hm, h1, h2, h3, h4, h5, h6⟩ := RoundTrip.strip6_5_5_5_3_3_5 43#6 d a f m t 0#5 hw.symm
  simp only [Instr.wf, Instr.refusal, need_isNone] at h
  exact decode_of ((refusal_43 hm).trans (by simpa [refuseVconv, h3, h6, need] using h)) ((form_43 hm).trans (by simp
      [formVconv, h1, h2, h3, h4, h5, h6]))

theorem RoundTrip.vcvts : ∀ d a f m t, RoundTrip.Statement (.vcvts d a f m t) := by
  intro d a f m t _ h
  generalize hw : encode (.vcvts d a f m t) = ww
  obtain ⟨hm, h1, h2, h3, h4, h5, h6⟩ := RoundTrip.strip6_5_5_5_3_3_5 43#6 d a f m t 1#5 hw.symm
  simp only [Instr.wf, Instr.refusal, need_isNone] at h
  exact decode_of ((refusal_43 hm).trans (by simpa [refuseVconv, h3, h6, need] using h)) ((form_43 hm).trans (by simp
      [formVconv, h1, h2, h3, h4, h5, h6]))

theorem RoundTrip.vquant : ∀ d a b m t, RoundTrip.Statement (.vquant d a b m t) := by
  intro d a b m t _ h
  generalize hw : encode (.vquant d a b m t) = ww
  obtain ⟨hm, h1, h2, h3, h4, h5, h6⟩ := RoundTrip.strip6_5_5_5_3_3_5 43#6 d a b m t 2#5 hw.symm
  simp only [Instr.wf, Instr.refusal] at h
  exact decode_of ((refusal_43 hm).trans (by simpa [refuseVconv, h1, h3, h5, h6, need] using h)) ((form_43 hm).trans
      (by simp [formVconv, h1, h2, h3, h4, h5, h6]))

theorem RoundTrip.vdequant : ∀ d a b m t, RoundTrip.Statement (.vdequant d a b m t) := by
  intro d a b m t _ h
  generalize hw : encode (.vdequant d a b m t) = ww
  obtain ⟨hm, h1, h2, h3, h4, h5, h6⟩ := RoundTrip.strip6_5_5_5_3_3_5 43#6 d a b m t 3#5 hw.symm
  simp only [Instr.wf, Instr.refusal] at h
  exact decode_of ((refusal_43 hm).trans (by simpa [refuseVconv, h1, h3, h5, h6, need] using h)) ((form_43 hm).trans
      (by simp [formVconv, h1, h2, h3, h4, h5, h6]))

theorem RoundTrip.vcbdec : ∀ d a b m t, RoundTrip.Statement (.vcbdec d a b m t) := by
  intro d a b m t _ h
  generalize hw : encode (.vcbdec d a b m t) = ww
  obtain ⟨hm, h1, h2, h3, h4, h5, h6⟩ := RoundTrip.strip6_5_5_5_3_3_5 43#6 d a b m t 4#5 hw.symm
  simp only [Instr.wf, Instr.refusal, need_isNone] at h
  exact decode_of ((refusal_43 hm).trans (by simpa [refuseVconv, h5, h6, need] using h)) ((form_43 hm).trans (by simp
      [formVconv, h1, h2, h3, h4, h5, h6]))

theorem RoundTrip.vcbload : ∀ a, RoundTrip.Statement (.vcbload a) := by
  intro a _ h
  generalize hw : encode (.vcbload a) = ww
  obtain ⟨hm, h1, h2, h3, h4⟩ := RoundTrip.strip6_5_5_11_5 43#6 0#5 a 0#11 5#5 hw.symm
  simp only [Instr.wf, Instr.refusal, need_isNone] at h
  exact decode_of ((refusal_43 hm).trans (by simpa [refuseVconv, h1, h2, h3, h4, need] using h)) ((form_43 hm).trans
      (by simp [formVconv, h2, h4]))

theorem RoundTrip.vredsum : ∀ d a m t, RoundTrip.Statement (.vredsum d a m t) := by
  intro d a m t _ h
  generalize hw : encode (.vredsum d a m t) = ww
  obtain ⟨hm, h1, h2, h3, h4, h5, h6⟩ := RoundTrip.strip6_5_5_5_3_3_5 44#6 d a 0#5 m t 0#5 hw.symm
  exact decode_of ((refusal_44 hm).trans (by simp [refuseVred, h3, h6, need])) ((form_44 hm).trans (by simp [formVred,
      h1, h2, h4, h5, h6]))

theorem RoundTrip.vredmax : ∀ d a m t, RoundTrip.Statement (.vredmax d a m t) := by
  intro d a m t _ h
  generalize hw : encode (.vredmax d a m t) = ww
  obtain ⟨hm, h1, h2, h3, h4, h5, h6⟩ := RoundTrip.strip6_5_5_5_3_3_5 44#6 d a 0#5 m t 1#5 hw.symm
  exact decode_of ((refusal_44 hm).trans (by simp [refuseVred, h3, h6, need])) ((form_44 hm).trans (by simp [formVred,
      h1, h2, h4, h5, h6]))

theorem RoundTrip.vredmin : ∀ d a m t, RoundTrip.Statement (.vredmin d a m t) := by
  intro d a m t _ h
  generalize hw : encode (.vredmin d a m t) = ww
  obtain ⟨hm, h1, h2, h3, h4, h5, h6⟩ := RoundTrip.strip6_5_5_5_3_3_5 44#6 d a 0#5 m t 2#5 hw.symm
  exact decode_of ((refusal_44 hm).trans (by simp [refuseVred, h3, h6, need])) ((form_44 hm).trans (by simp [formVred,
      h1, h2, h4, h5, h6]))

theorem RoundTrip.vredamax : ∀ d a m t, RoundTrip.Statement (.vredamax d a m t) := by
  intro d a m t _ h
  generalize hw : encode (.vredamax d a m t) = ww
  obtain ⟨hm, h1, h2, h3, h4, h5, h6⟩ := RoundTrip.strip6_5_5_5_3_3_5 44#6 d a 0#5 m t 3#5 hw.symm
  simp only [Instr.wf, Instr.refusal, need_isNone] at h
  exact decode_of ((refusal_44 hm).trans (by simpa [refuseVred, h3, h5, h6, need] using h)) ((form_44 hm).trans (by
      simp [formVred, h1, h2, h4, h5, h6]))

theorem RoundTrip.vredamin : ∀ d a m t, RoundTrip.Statement (.vredamin d a m t) := by
  intro d a m t _ h
  generalize hw : encode (.vredamin d a m t) = ww
  obtain ⟨hm, h1, h2, h3, h4, h5, h6⟩ := RoundTrip.strip6_5_5_5_3_3_5 44#6 d a 0#5 m t 4#5 hw.symm
  simp only [Instr.wf, Instr.refusal, need_isNone] at h
  exact decode_of ((refusal_44 hm).trans (by simpa [refuseVred, h3, h5, h6, need] using h)) ((form_44 hm).trans (by
      simp [formVred, h1, h2, h4, h5, h6]))

theorem RoundTrip.vscan : ∀ d a m t, RoundTrip.Statement (.vscan d a m t) := by
  intro d a m t _ h
  generalize hw : encode (.vscan d a m t) = ww
  obtain ⟨hm, h1, h2, h3, h4, h5, h6⟩ := RoundTrip.strip6_5_5_5_3_3_5 44#6 d a 0#5 m t 5#5 hw.symm
  exact decode_of ((refusal_44 hm).trans (by simp [refuseVred, h3, h6, need])) ((form_44 hm).trans (by simp [formVred,
      h1, h2, h4, h5, h6]))

theorem RoundTrip.vtolog : ∀ d a m, RoundTrip.Statement (.vtolog d a m) := by
  intro d a m _ h
  generalize hw : encode (.vtolog d a m) = ww
  obtain ⟨hm, h1, h2, h3, h4, h5, h6⟩ := RoundTrip.strip6_5_5_5_3_3_5 45#6 d a 0#5 m 0#3 0#5 hw.symm
  exact decode_of ((refusal_45 hm).trans (by simp [refuseVsfn, h3, h5, h6, need])) ((form_45 hm).trans (by simp
      [formVsfn, h1, h2, h4, h6]))

theorem RoundTrip.vfromlog : ∀ d a m, RoundTrip.Statement (.vfromlog d a m) := by
  intro d a m _ h
  generalize hw : encode (.vfromlog d a m) = ww
  obtain ⟨hm, h1, h2, h3, h4, h5, h6⟩ := RoundTrip.strip6_5_5_5_3_3_5 45#6 d a 0#5 m 0#3 1#5 hw.symm
  exact decode_of ((refusal_45 hm).trans (by simp [refuseVsfn, h3, h5, h6, need])) ((form_45 hm).trans (by simp
      [formVsfn, h1, h2, h4, h6]))

theorem RoundTrip.vexp : ∀ d a m t, RoundTrip.Statement (.vexp d a m t) := by
  intro d a m t _ h
  generalize hw : encode (.vexp d a m t) = ww
  obtain ⟨hm, h1, h2, h3, h4, h5, h6⟩ := RoundTrip.strip6_5_5_5_3_3_5 45#6 d a 0#5 m t 2#5 hw.symm
  simp only [Instr.wf, Instr.refusal, need_isNone] at h
  exact decode_of ((refusal_45 hm).trans (by simpa [refuseVsfn, h3, h5, h6, need] using h)) ((form_45 hm).trans (by
      simp [formVsfn, h1, h2, h4, h5, h6]))

theorem RoundTrip.vlog : ∀ d a m t, RoundTrip.Statement (.vlog d a m t) := by
  intro d a m t _ h
  generalize hw : encode (.vlog d a m t) = ww
  obtain ⟨hm, h1, h2, h3, h4, h5, h6⟩ := RoundTrip.strip6_5_5_5_3_3_5 45#6 d a 0#5 m t 3#5 hw.symm
  simp only [Instr.wf, Instr.refusal, need_isNone] at h
  exact decode_of ((refusal_45 hm).trans (by simpa [refuseVsfn, h3, h5, h6, need] using h)) ((form_45 hm).trans (by
      simp [formVsfn, h1, h2, h4, h5, h6]))

theorem RoundTrip.vtanh : ∀ d a m t, RoundTrip.Statement (.vtanh d a m t) := by
  intro d a m t _ h
  generalize hw : encode (.vtanh d a m t) = ww
  obtain ⟨hm, h1, h2, h3, h4, h5, h6⟩ := RoundTrip.strip6_5_5_5_3_3_5 45#6 d a 0#5 m t 4#5 hw.symm
  simp only [Instr.wf, Instr.refusal, need_isNone] at h
  exact decode_of ((refusal_45 hm).trans (by simpa [refuseVsfn, h3, h5, h6, need] using h)) ((form_45 hm).trans (by
      simp [formVsfn, h1, h2, h4, h5, h6]))

theorem RoundTrip.vsigm : ∀ d a m t, RoundTrip.Statement (.vsigm d a m t) := by
  intro d a m t _ h
  generalize hw : encode (.vsigm d a m t) = ww
  obtain ⟨hm, h1, h2, h3, h4, h5, h6⟩ := RoundTrip.strip6_5_5_5_3_3_5 45#6 d a 0#5 m t 5#5 hw.symm
  simp only [Instr.wf, Instr.refusal, need_isNone] at h
  exact decode_of ((refusal_45 hm).trans (by simpa [refuseVsfn, h3, h5, h6, need] using h)) ((form_45 hm).trans (by
      simp [formVsfn, h1, h2, h4, h5, h6]))

theorem RoundTrip.vsilu : ∀ d a m t, RoundTrip.Statement (.vsilu d a m t) := by
  intro d a m t _ h
  generalize hw : encode (.vsilu d a m t) = ww
  obtain ⟨hm, h1, h2, h3, h4, h5, h6⟩ := RoundTrip.strip6_5_5_5_3_3_5 45#6 d a 0#5 m t 6#5 hw.symm
  simp only [Instr.wf, Instr.refusal, need_isNone] at h
  exact decode_of ((refusal_45 hm).trans (by simpa [refuseVsfn, h3, h5, h6, need] using h)) ((form_45 hm).trans (by
      simp [formVsfn, h1, h2, h4, h5, h6]))

theorem RoundTrip.vgelu : ∀ d a m t, RoundTrip.Statement (.vgelu d a m t) := by
  intro d a m t _ h
  generalize hw : encode (.vgelu d a m t) = ww
  obtain ⟨hm, h1, h2, h3, h4, h5, h6⟩ := RoundTrip.strip6_5_5_5_3_3_5 45#6 d a 0#5 m t 7#5 hw.symm
  simp only [Instr.wf, Instr.refusal, need_isNone] at h
  exact decode_of ((refusal_45 hm).trans (by simpa [refuseVsfn, h3, h5, h6, need] using h)) ((form_45 hm).trans (by
      simp [formVsfn, h1, h2, h4, h5, h6]))

theorem RoundTrip.vrand : ∀ d m t, RoundTrip.Statement (.vrand d m t) := by
  intro d m t _ h
  generalize hw : encode (.vrand d m t) = ww
  obtain ⟨hm, h1, h2, h3, h4, h5, h6⟩ := RoundTrip.strip6_5_5_5_3_3_5 45#6 d 0#5 0#5 m t 8#5 hw.symm
  simp only [Instr.wf, Instr.refusal, need_isNone] at h
  exact decode_of ((refusal_45 hm).trans (by simp [refuseVsfn, h2, h3, h5, h6, need]; simp at h; tauto)) ((form_45
      hm).trans (by simp [formVsfn, h1, h4, h5, h6]))

theorem RoundTrip.vmovi : ∀ d t i, RoundTrip.Statement (.vmovi d t i) := by
  intro d t i _ h
  generalize hw : encode (.vmovi d t i) = ww
  obtain ⟨hm, h1, h2, h3, h4⟩ := RoundTrip.strip6_5_3_2_16 46#6 d 0#3 t i hw.symm
  exact decode_of ((refusal_46 hm).trans (by simp [refuseVimm, h2])) ((form_46 hm).trans (by simp [formVimm, h1, h2,
      h3, h4]))

theorem RoundTrip.vaddi : ∀ d t i, RoundTrip.Statement (.vaddi d t i) := by
  intro d t i _ h
  generalize hw : encode (.vaddi d t i) = ww
  obtain ⟨hm, h1, h2, h3, h4⟩ := RoundTrip.strip6_5_3_2_16 46#6 d 1#3 t i hw.symm
  exact decode_of ((refusal_46 hm).trans (by simp [refuseVimm, h2])) ((form_46 hm).trans (by simp [formVimm, h1, h2,
      h3, h4]))

theorem RoundTrip.vmuli : ∀ d t i, RoundTrip.Statement (.vmuli d t i) := by
  intro d t i _ h
  generalize hw : encode (.vmuli d t i) = ww
  obtain ⟨hm, h1, h2, h3, h4⟩ := RoundTrip.strip6_5_3_2_16 46#6 d 2#3 t i hw.symm
  exact decode_of ((refusal_46 hm).trans (by simp [refuseVimm, h2])) ((form_46 hm).trans (by simp [formVimm, h1, h2,
      h3, h4]))

theorem RoundTrip.vmini : ∀ d t i, RoundTrip.Statement (.vmini d t i) := by
  intro d t i _ h
  generalize hw : encode (.vmini d t i) = ww
  obtain ⟨hm, h1, h2, h3, h4⟩ := RoundTrip.strip6_5_3_2_16 46#6 d 3#3 t i hw.symm
  exact decode_of ((refusal_46 hm).trans (by simp [refuseVimm, h2])) ((form_46 hm).trans (by simp [formVimm, h1, h2,
      h3, h4]))

theorem RoundTrip.vmaxi : ∀ d t i, RoundTrip.Statement (.vmaxi d t i) := by
  intro d t i _ h
  generalize hw : encode (.vmaxi d t i) = ww
  obtain ⟨hm, h1, h2, h3, h4⟩ := RoundTrip.strip6_5_3_2_16 46#6 d 4#3 t i hw.symm
  exact decode_of ((refusal_46 hm).trans (by simp [refuseVimm, h2])) ((form_46 hm).trans (by simp [formVimm, h1, h2,
      h3, h4]))

theorem RoundTrip.vrsubi : ∀ d t i, RoundTrip.Statement (.vrsubi d t i) := by
  intro d t i _ h
  generalize hw : encode (.vrsubi d t i) = ww
  obtain ⟨hm, h1, h2, h3, h4⟩ := RoundTrip.strip6_5_3_2_16 46#6 d 5#3 t i hw.symm
  exact decode_of ((refusal_46 hm).trans (by simp [refuseVimm, h2])) ((form_46 hm).trans (by simp [formVimm, h1, h2,
      h3, h4]))

theorem RoundTrip.vandi : ∀ d t i, RoundTrip.Statement (.vandi d t i) := by
  intro d t i _ h
  generalize hw : encode (.vandi d t i) = ww
  obtain ⟨hm, h1, h2, h3, h4⟩ := RoundTrip.strip6_5_3_2_16 46#6 d 6#3 t i hw.symm
  exact decode_of ((refusal_46 hm).trans (by simp [refuseVimm, h2])) ((form_46 hm).trans (by simp [formVimm, h1, h2,
      h3, h4]))

theorem RoundTrip.vori : ∀ d t i, RoundTrip.Statement (.vori d t i) := by
  intro d t i _ h
  generalize hw : encode (.vori d t i) = ww
  obtain ⟨hm, h1, h2, h3, h4⟩ := RoundTrip.strip6_5_3_2_16 46#6 d 7#3 t i hw.symm
  exact decode_of ((refusal_46 hm).trans (by simp [refuseVimm, h2])) ((form_46 hm).trans (by simp [formVimm, h1, h2,
      h3, h4]))

theorem RoundTrip.vld : ∀ d a m t, RoundTrip.Statement (.vld d a m t) := by
  intro d a m t _ h
  generalize hw : encode (.vld d a m t) = ww
  obtain ⟨hm, h1, h2, h3, h4, h5, h6⟩ := RoundTrip.strip6_5_5_5_3_3_5 47#6 d a 0#5 m t 0#5 hw.symm
  exact decode_of ((refusal_47 hm).trans (by simp [refuseVmem, h3, h6, need])) ((form_47 hm).trans (by simp [formVmem,
      h1, h2, h4, h5, h6]))

theorem RoundTrip.vst : ∀ d a m t, RoundTrip.Statement (.vst d a m t) := by
  intro d a m t _ h
  generalize hw : encode (.vst d a m t) = ww
  obtain ⟨hm, h1, h2, h3, h4, h5, h6⟩ := RoundTrip.strip6_5_5_5_3_3_5 47#6 d a 0#5 m t 1#5 hw.symm
  exact decode_of ((refusal_47 hm).trans (by simp [refuseVmem, h3, h6, need])) ((form_47 hm).trans (by simp [formVmem,
      h1, h2, h4, h5, h6]))

theorem RoundTrip.vlds : ∀ d a b m t, RoundTrip.Statement (.vlds d a b m t) := by
  intro d a b m t _ h
  generalize hw : encode (.vlds d a b m t) = ww
  obtain ⟨hm, h1, h2, h3, h4, h5, h6⟩ := RoundTrip.strip6_5_5_5_3_3_5 47#6 d a b m t 2#5 hw.symm
  exact decode_of ((refusal_47 hm).trans (by simp [refuseVmem, h6])) ((form_47 hm).trans (by simp [formVmem, h1, h2,
      h3, h4, h5, h6]))

theorem RoundTrip.vsts : ∀ d a b m t, RoundTrip.Statement (.vsts d a b m t) := by
  intro d a b m t _ h
  generalize hw : encode (.vsts d a b m t) = ww
  obtain ⟨hm, h1, h2, h3, h4, h5, h6⟩ := RoundTrip.strip6_5_5_5_3_3_5 47#6 d a b m t 3#5 hw.symm
  exact decode_of ((refusal_47 hm).trans (by simp [refuseVmem, h6])) ((form_47 hm).trans (by simp [formVmem, h1, h2,
      h3, h4, h5, h6]))

theorem RoundTrip.vldx : ∀ d a b m t, RoundTrip.Statement (.vldx d a b m t) := by
  intro d a b m t _ h
  generalize hw : encode (.vldx d a b m t) = ww
  obtain ⟨hm, h1, h2, h3, h4, h5, h6⟩ := RoundTrip.strip6_5_5_5_3_3_5 47#6 d a b m t 4#5 hw.symm
  simp only [Instr.wf, Instr.refusal, need_isNone] at h
  exact decode_of ((refusal_47 hm).trans (by simpa [refuseVmem, h5, h6, need] using h)) ((form_47 hm).trans (by simp
      [formVmem, h1, h2, h3, h4, h5, h6]))

theorem RoundTrip.vstx : ∀ d a b m t, RoundTrip.Statement (.vstx d a b m t) := by
  intro d a b m t _ h
  generalize hw : encode (.vstx d a b m t) = ww
  obtain ⟨hm, h1, h2, h3, h4, h5, h6⟩ := RoundTrip.strip6_5_5_5_3_3_5 47#6 d a b m t 5#5 hw.symm
  simp only [Instr.wf, Instr.refusal, need_isNone] at h
  exact decode_of ((refusal_47 hm).trans (by simpa [refuseVmem, h5, h6, need] using h)) ((form_47 hm).trans (by simp
      [formVmem, h1, h2, h3, h4, h5, h6]))

theorem RoundTrip.vldrow : ∀ d a b m t, RoundTrip.Statement (.vldrow d a b m t) := by
  intro d a b m t _ h
  generalize hw : encode (.vldrow d a b m t) = ww
  obtain ⟨hm, h1, h2, h3, h4, h5, h6⟩ := RoundTrip.strip6_5_5_5_3_3_5 47#6 d a b m t 6#5 hw.symm
  simp only [Instr.wf, Instr.refusal, need_isNone] at h
  exact decode_of ((refusal_47 hm).trans (by simpa [refuseVmem, h5, h6, need] using h)) ((form_47 hm).trans (by simp
      [formVmem, h1, h2, h3, h4, h5, h6]))

theorem RoundTrip.vldcol : ∀ d a b m t, RoundTrip.Statement (.vldcol d a b m t) := by
  intro d a b m t _ h
  generalize hw : encode (.vldcol d a b m t) = ww
  obtain ⟨hm, h1, h2, h3, h4, h5, h6⟩ := RoundTrip.strip6_5_5_5_3_3_5 47#6 d a b m t 7#5 hw.symm
  simp only [Instr.wf, Instr.refusal, need_isNone] at h
  exact decode_of ((refusal_47 hm).trans (by simpa [refuseVmem, h5, h6, need] using h)) ((form_47 hm).trans (by simp
      [formVmem, h1, h2, h3, h4, h5, h6]))

theorem RoundTrip.vstrow : ∀ d a b m t, RoundTrip.Statement (.vstrow d a b m t) := by
  intro d a b m t _ h
  generalize hw : encode (.vstrow d a b m t) = ww
  obtain ⟨hm, h1, h2, h3, h4, h5, h6⟩ := RoundTrip.strip6_5_5_5_3_3_5 47#6 d a b m t 8#5 hw.symm
  simp only [Instr.wf, Instr.refusal, need_isNone] at h
  exact decode_of ((refusal_47 hm).trans (by simpa [refuseVmem, h5, h6, need] using h)) ((form_47 hm).trans (by simp
      [formVmem, h1, h2, h3, h4, h5, h6]))

theorem RoundTrip.vstcol : ∀ d a b m t, RoundTrip.Statement (.vstcol d a b m t) := by
  intro d a b m t _ h
  generalize hw : encode (.vstcol d a b m t) = ww
  obtain ⟨hm, h1, h2, h3, h4, h5, h6⟩ := RoundTrip.strip6_5_5_5_3_3_5 47#6 d a b m t 9#5 hw.symm
  simp only [Instr.wf, Instr.refusal, need_isNone] at h
  exact decode_of ((refusal_47 hm).trans (by simpa [refuseVmem, h5, h6, need] using h)) ((form_47 hm).trans (by simp
      [formVmem, h1, h2, h3, h4, h5, h6]))

theorem RoundTrip.vscatadd : ∀ d a b m t, RoundTrip.Statement (.vscatadd d a b m t) := by
  intro d a b m t _ h
  generalize hw : encode (.vscatadd d a b m t) = ww
  obtain ⟨hm, h1, h2, h3, h4, h5, h6⟩ := RoundTrip.strip6_5_5_5_3_3_5 47#6 d a b m t 10#5 hw.symm
  simp only [Instr.wf, Instr.refusal, need_isNone] at h
  exact decode_of ((refusal_47 hm).trans (by simpa [refuseVmem, h5, h6, need] using h)) ((form_47 hm).trans (by simp
      [formVmem, h1, h2, h3, h4, h5, h6]))

theorem RoundTrip.vldb : ∀ d a m t, RoundTrip.Statement (.vldb d a m t) := by
  intro d a m t _ h
  generalize hw : encode (.vldb d a m t) = ww
  obtain ⟨hm, h1, h2, h3, h4, h5, h6⟩ := RoundTrip.strip6_5_5_5_3_3_5 47#6 d a 0#5 m t 11#5 hw.symm
  exact decode_of ((refusal_47 hm).trans (by simp [refuseVmem, h3, h6, need])) ((form_47 hm).trans (by simp [formVmem,
      h1, h2, h4, h5, h6]))

theorem RoundTrip.mma : ∀ n z x t a b c f, RoundTrip.Statement (.mma n z x t a b c f) := by
  intro n z x t a b c f _ h
  generalize hw : encode (.mma n z x t a b c f) = ww
  obtain ⟨hm, h1, h2, h3, h4, h5, h6, h7, h8⟩ := RoundTrip.strip6_1_1_1_2_5_5_5_6 48#6 n z x t a b c f hw.symm
  simp only [Instr.wf, Instr.refusal, need_isNone] at h
  exact decode_of ((refusal_48 hm).trans (by simpa [h3, h4, h7, h8, need] using h)) ((form_48 hm).trans (by simp [h1,
      h2, h3, h4, h5, h6, h7, h8]))

theorem RoundTrip.mmd : ∀ n z x t a b c f, RoundTrip.Statement (.mmd n z x t a b c f) := by
  intro n z x t a b c f _ h
  generalize hw : encode (.mmd n z x t a b c f) = ww
  obtain ⟨hm, h1, h2, h3, h4, h5, h6, h7, h8, h9⟩ := RoundTrip.strip6_1_1_1_1_1_5_5_5_6 49#6 n z x t 0#1 a b c f hw.symm
  simp only [Instr.wf, Instr.refusal, need_isNone] at h
  exact decode_of ((refusal_49 hm).trans (by simp [h3, h4, h5, h9, need]; simp at h; tauto)) ((form_49 hm).trans (by
      simp [h1, h2, h3, h4, h6, h7, h8, h9]))

theorem RoundTrip.mms : ∀ n z t a b c f, RoundTrip.Statement (.mms n z t a b c f) := by
  intro n z t a b c f _ h
  generalize hw : encode (.mms n z t a b c f) = ww
  obtain ⟨hm, h1, h2, h3, h4, h5, h6, h7, h8⟩ := RoundTrip.strip6_1_1_1_2_5_5_5_6 50#6 n z 0#1 t a b c f hw.symm
  simp only [Instr.wf, Instr.refusal, need_isNone] at h
  exact decode_of ((refusal_50 hm).trans (by simpa [h3, h4, h7, h8, need] using h)) ((form_50 hm).trans (by simp [h1,
      h2, h4, h5, h6, h7, h8]))

theorem RoundTrip.mshape : ∀ d a, RoundTrip.Statement (.mshape d a) := by
  intro d a _ h
  generalize hw : encode (.mshape d a) = ww
  obtain ⟨hm, h1, h2, h3, h4⟩ := RoundTrip.strip6_5_5_10_6 51#6 d a 0#10 0#6 hw.symm
  exact decode_of ((refusal_51 hm).trans (by simp [refuseMctl, h3, h4, need])) ((form_51 hm).trans (by simp [formMctl,
      h1, h2, h4]))

theorem RoundTrip.mzero : ∀ d, RoundTrip.Statement (.mzero d) := by
  intro d _ h
  generalize hw : encode (.mzero d) = ww
  obtain ⟨hm, h1, h2, h3, h4⟩ := RoundTrip.strip6_5_5_10_6 51#6 d 0#5 0#10 1#6 hw.symm
  simp only [Instr.wf, Instr.refusal, need_isNone] at h
  exact decode_of ((refusal_51 hm).trans (by simpa [refuseMctl, h1, h2, h3, h4, need] using h)) ((form_51 hm).trans (by
      simp [formMctl, h1, h4]))

theorem RoundTrip.mload : ∀ d a b, RoundTrip.Statement (.mload d a b) := by
  intro d a b _ h
  generalize hw : encode (.mload d a b) = ww
  obtain ⟨hm, h1, h2, h3, h4, h5⟩ := RoundTrip.strip6_5_5_5_5_6 51#6 d a b 0#5 2#6 hw.symm
  simp only [Instr.wf, Instr.refusal, need_isNone] at h
  exact decode_of ((refusal_51 hm).trans (by simpa [refuseMctl, h1, h4, h5, need] using h)) ((form_51 hm).trans (by
      simp [formMctl, h1, h2, h3, h5]))

theorem RoundTrip.mstore : ∀ d a b f, RoundTrip.Statement (.mstore d a b f) := by
  intro d a b f _ h
  generalize hw : encode (.mstore d a b f) = ww
  obtain ⟨hm, h1, h2, h3, h4, h5⟩ := RoundTrip.strip6_5_5_5_5_6 51#6 d a b f 3#6 hw.symm
  simp only [Instr.wf, Instr.refusal] at h
  exact decode_of ((refusal_51 hm).trans (by simpa [refuseMctl, h1, h4, h5, need] using h)) ((form_51 hm).trans (by
      simp [formMctl, h1, h2, h3, h4, h5]))

theorem RoundTrip.mslice : ∀ d a, RoundTrip.Statement (.mslice d a) := by
  intro d a _ h
  generalize hw : encode (.mslice d a) = ww
  obtain ⟨hm, h1, h2, h3, h4⟩ := RoundTrip.strip6_5_5_10_6 51#6 d a 0#10 4#6 hw.symm
  exact decode_of ((refusal_51 hm).trans (by simp [refuseMctl, h3, h4, need])) ((form_51 hm).trans (by simp [formMctl,
      h1, h2, h4]))

theorem RoundTrip.mwait : ∀ d a, RoundTrip.Statement (.mwait d a) := by
  intro d a _ h
  generalize hw : encode (.mwait d a) = ww
  obtain ⟨hm, h1, h2, h3, h4⟩ := RoundTrip.strip6_5_5_10_6 51#6 d a 0#10 5#6 hw.symm
  exact decode_of ((refusal_51 hm).trans (by simp [refuseMctl, h3, h4, need])) ((form_51 hm).trans (by simp [formMctl,
      h1, h2, h4]))

theorem RoundTrip.mquant : ∀ d a b, RoundTrip.Statement (.mquant d a b) := by
  intro d a b _ h
  generalize hw : encode (.mquant d a b) = ww
  obtain ⟨hm, h1, h2, h3, h4, h5⟩ := RoundTrip.strip6_5_5_5_5_6 51#6 d a b 0#5 6#6 hw.symm
  simp only [Instr.wf, Instr.refusal, need_isNone] at h
  exact decode_of ((refusal_51 hm).trans (by simpa [refuseMctl, h1, h3, h4, h5, need] using h)) ((form_51 hm).trans (by
      simp [formMctl, h1, h2, h3, h5]))

theorem RoundTrip.midx : ∀ a, RoundTrip.Statement (.midx a) := by
  intro a _ h
  generalize hw : encode (.midx a) = ww
  obtain ⟨hm, h1, h2, h3, h4⟩ := RoundTrip.strip6_5_5_10_6 51#6 0#5 a 0#10 7#6 hw.symm
  simp only [Instr.wf, Instr.refusal, need_isNone] at h
  exact decode_of ((refusal_51 hm).trans (by simpa [refuseMctl, h1, h2, h3, h4, need] using h)) ((form_51 hm).trans (by
      simp [formMctl, h2, h4]))

theorem RoundTrip.await : ∀ d c, RoundTrip.Statement (.await d c) := by
  intro d c _ h
  generalize hw : encode (.await d c) = ww
  obtain ⟨hm, h1, h2, h3, h4, h5⟩ := RoundTrip.strip6_5_5_5_5_6 52#6 d 0#5 0#5 c 3#6 hw.symm
  simp only [Instr.wf, Instr.refusal, need_isNone] at h
  exact decode_of ((refusal_52 hm).trans (by simpa [refuseCopy, h2, h3, h4, h5, need] using h)) ((form_52 hm).trans (by
      simp [formCopy, h1, h4, h5]))

theorem RoundTrip.cdrain : ∀ d, RoundTrip.Statement (.cdrain d) := by
  intro d _ h
  generalize hw : encode (.cdrain d) = ww
  obtain ⟨hm, h1, h2, h3, h4⟩ := RoundTrip.strip6_5_5_10_6 52#6 d 0#5 0#10 7#6 hw.symm
  exact decode_of ((refusal_52 hm).trans (by simp [refuseCopy, h2, h3, h4, need])) ((form_52 hm).trans (by simp
      [formCopy, h1, h4]))

theorem RoundTrip.fork : ∀ d a, RoundTrip.Statement (.fork d a) := by
  intro d a _ h
  generalize hw : encode (.fork d a) = ww
  obtain ⟨hm, h1, h2, h3, h4⟩ := RoundTrip.strip6_5_5_10_6 54#6 d a 0#10 1#6 hw.symm
  exact decode_of ((refusal_54 hm).trans (by simp [refuseLin, h3, h4, need])) ((form_54 hm).trans (by simp [formLin,
      h1, h2, h4]))

theorem RoundTrip.tadd : ∀ d a b c, RoundTrip.Statement (.tadd d a b c) := by
  intro d a b c _ h
  generalize hw : encode (.tadd d a b c) = ww
  obtain ⟨hm, h1, h2, h3, h4, h5⟩ := RoundTrip.strip6_5_5_5_5_6 54#6 d a b c 8#6 hw.symm
  exact decode_of ((refusal_54 hm).trans (by simp [refuseLin, h5])) ((form_54 hm).trans (by simp [formLin, h1, h2, h3,
      h4, h5]))

theorem RoundTrip.tseal : ∀ d a b, RoundTrip.Statement (.tseal d a b) := by
  intro d a b _ h
  generalize hw : encode (.tseal d a b) = ww
  obtain ⟨hm, h1, h2, h3, h4, h5⟩ := RoundTrip.strip6_5_5_5_5_6 54#6 d a b 0#5 9#6 hw.symm
  exact decode_of ((refusal_54 hm).trans (by simp [refuseLin, h4, h5, need])) ((form_54 hm).trans (by simp [formLin,
      h1, h2, h3, h5]))

theorem RoundTrip.twait : ∀ d a, RoundTrip.Statement (.twait d a) := by
  intro d a _ h
  generalize hw : encode (.twait d a) = ww
  obtain ⟨hm, h1, h2, h3, h4⟩ := RoundTrip.strip6_5_5_10_6 54#6 d a 0#10 10#6 hw.symm
  exact decode_of ((refusal_54 hm).trans (by simp [refuseLin, h3, h4, need])) ((form_54 hm).trans (by simp [formLin,
      h1, h2, h4]))

theorem RoundTrip.relabel : ∀ d a b, RoundTrip.Statement (.relabel d a b) := by
  intro d a b _ h
  generalize hw : encode (.relabel d a b) = ww
  obtain ⟨hm, h1, h2, h3, h4, h5⟩ := RoundTrip.strip6_5_5_5_5_6 55#6 d a b 0#5 8#6 hw.symm
  exact decode_of ((refusal_55 hm).trans (by simp [refuseEqv, h4, h5, need])) ((form_55 hm).trans (by simp [formEqv,
      h1, h2, h3, h5]))

theorem RoundTrip.drsend : ∀ d a b c, RoundTrip.Statement (.drsend d a b c) := by
  intro d a b c _ h
  generalize hw : encode (.drsend d a b c) = ww
  obtain ⟨hm, h1, h2, h3, h4, h5⟩ := RoundTrip.strip6_5_5_5_5_6 56#6 d a b c 1#6 hw.symm
  exact decode_of ((refusal_56 hm).trans (by simp [refuseDred, h5])) ((form_56 hm).trans (by simp [formDred, h1, h2,
      h3, h4, h5]))

theorem RoundTrip.drwait : ∀ d a, RoundTrip.Statement (.drwait d a) := by
  intro d a _ h
  generalize hw : encode (.drwait d a) = ww
  obtain ⟨hm, h1, h2, h3, h4⟩ := RoundTrip.strip6_5_5_10_6 56#6 d a 0#10 2#6 hw.symm
  exact decode_of ((refusal_56 hm).trans (by simp [refuseDred, h3, h4, need])) ((form_56 hm).trans (by simp [formDred,
      h1, h2, h4]))

theorem RoundTrip.drfix : ∀ d a b, RoundTrip.Statement (.drfix d a b) := by
  intro d a b _ h
  generalize hw : encode (.drfix d a b) = ww
  obtain ⟨hm, h1, h2, h3, h4, h5⟩ := RoundTrip.strip6_5_5_5_5_6 56#6 d a b 0#5 4#6 hw.symm
  exact decode_of ((refusal_56 hm).trans (by simp [refuseDred, h4, h5, need])) ((form_56 hm).trans (by simp [formDred,
      h1, h2, h3, h5]))

theorem RoundTrip.fetchBlock : ∀ core tid, RoundTrip.Statement (.fetchBlock core tid) := fun _ _ h => by cases h

theorem RoundTrip.watchdogExpiry : ∀ core tid, RoundTrip.Statement (.watchdogExpiry core tid) := fun _ _ h => by cases h

theorem RoundTrip.wfiWake : ∀ core tid, RoundTrip.Statement (.wfiWake core tid) := fun _ _ h => by cases h

theorem RoundTrip.waitRelease : ∀ core tid, RoundTrip.Statement (.waitRelease core tid) := fun _ _ h => by cases h

theorem RoundTrip.mbwaitRelease : ∀ core tid, RoundTrip.Statement (.mbwaitRelease core tid) := fun _ _ h => by cases h

theorem RoundTrip.convoyForm : ∀ core tid, RoundTrip.Statement (.convoyForm core tid) := fun _ _ h => by cases h

theorem RoundTrip.waitpredRelease : ∀ core tid, RoundTrip.Statement (.waitpredRelease core tid) := fun _ _ h => by
    cases h

theorem RoundTrip.xsendSlot : ∀ core tid, RoundTrip.Statement (.xsendSlot core tid) := fun _ _ h => by cases h

theorem RoundTrip.xsendArrival : ∀ k, RoundTrip.Statement (.xsendArrival k) := fun _ h => by cases h

theorem RoundTrip.xrecvRelease : ∀ core tid, RoundTrip.Statement (.xrecvRelease core tid) := fun _ _ h => by cases h

theorem RoundTrip.exchangeOverrun : ∀ core tid, RoundTrip.Statement (.exchangeOverrun core tid) := fun _ _ h => by
    cases h

theorem RoundTrip.vectorWordExecute : ∀ core, RoundTrip.Statement (.vectorWordExecute core) := fun _ h => by cases h

theorem RoundTrip.repeatPass : ∀ core tid, RoundTrip.Statement (.repeatPass core tid) := fun _ _ h => by cases h

theorem RoundTrip.matrixWordExecute : ∀ core, RoundTrip.Statement (.matrixWordExecute core) := fun _ h => by cases h

theorem RoundTrip.mwaitRelease : ∀ core tid, RoundTrip.Statement (.mwaitRelease core tid) := fun _ _ h => by cases h

theorem RoundTrip.mmsPanel : ∀ core, RoundTrip.Statement (.mmsPanel core) := fun _ h => by cases h

theorem RoundTrip.pairIntervalEnd : ∀ core tid agree, RoundTrip.Statement (.pairIntervalEnd core tid agree) := fun _ _
    _ h => by cases h

theorem RoundTrip.admitComplete : ∀ core tid, RoundTrip.Statement (.admitComplete core tid) := fun _ _ h => by cases h

theorem RoundTrip.preemptionStop : ∀ inst, RoundTrip.Statement (.preemptionStop inst) := fun _ h => by cases h

theorem RoundTrip.quantumExpiry : ∀ inst, RoundTrip.Statement (.quantumExpiry inst) := fun _ h => by cases h

theorem RoundTrip.priorityPreemption : ∀ inst, RoundTrip.Statement (.priorityPreemption inst) := fun _ h => by cases h

theorem RoundTrip.placeInstance : ∀ inst, RoundTrip.Statement (.placeInstance inst) := fun _ h => by cases h

theorem RoundTrip.memberEnd : ∀ inst member, RoundTrip.Statement (.memberEnd inst member) := fun _ _ h => by cases h

theorem RoundTrip.instanceFail : ∀ inst, RoundTrip.Statement (.instanceFail inst) := fun _ h => by cases h

theorem RoundTrip.deventRead : ∀ core tid die, RoundTrip.Statement (.deventRead core tid die) := fun _ _ _ h => by
    cases h

theorem RoundTrip.gsubmitWrite : ∀ core tid die v, RoundTrip.Statement (.gsubmitWrite core tid die v) := fun _ _ _ _ h
    => by cases h

theorem RoundTrip.dfailWrite : ∀ core tid die v, RoundTrip.Statement (.dfailWrite core tid die v) := fun _ _ _ _ h =>
    by cases h

theorem RoundTrip.restartInstance : ∀ core tid die v, RoundTrip.Statement (.restartInstance core tid die v) := fun _ _
    _ _ h => by cases h

theorem RoundTrip.failTask : ∀ core tid die v, RoundTrip.Statement (.failTask core tid die v) := fun _ _ _ _ h => by
    cases h

theorem RoundTrip.restartApply : ∀ inst, RoundTrip.Statement (.restartApply inst) := fun _ h => by cases h

theorem RoundTrip.streamStart : ∀ core, RoundTrip.Statement (.streamStart core) := fun _ h => by cases h

theorem RoundTrip.streamComplete : ∀ core slot, RoundTrip.Statement (.streamComplete core slot) := fun _ _ h => by
    cases h

theorem RoundTrip.streamPark : ∀ core slot, RoundTrip.Statement (.streamPark core slot) := fun _ _ h => by cases h

theorem RoundTrip.streamFail : ∀ core slot, RoundTrip.Statement (.streamFail core slot) := fun _ _ h => by cases h

theorem RoundTrip.awaitRelease : ∀ core tid, RoundTrip.Statement (.awaitRelease core tid) := fun _ _ h => by cases h

theorem RoundTrip.cdrainRelease : ∀ core tid, RoundTrip.Statement (.cdrainRelease core tid) := fun _ _ h => by cases h

theorem RoundTrip.mcastReceiverComplete : ∀ core slot member, RoundTrip.Statement (.mcastReceiverComplete core slot
    member) := fun _ _ _ h => by cases h

theorem RoundTrip.flattenMaterialise : ∀ node, RoundTrip.Statement (.flattenMaterialise node) := fun _ h => by cases h

theorem RoundTrip.flattenComplete : ∀ node, RoundTrip.Statement (.flattenComplete node) := fun _ h => by cases h

theorem RoundTrip.contributionArrive : ∀ die slot imm, RoundTrip.Statement (.contributionArrive die slot imm) := fun _
    _ _ h => by cases h

theorem RoundTrip.deadlineExpiry : ∀ die slot, RoundTrip.Statement (.deadlineExpiry die slot) := fun _ _ h => by cases h

theorem RoundTrip.drwaitRelease : ∀ core tid, RoundTrip.Statement (.drwaitRelease core tid) := fun _ _ h => by cases h

theorem RoundTrip.drfixRelease : ∀ core tid, RoundTrip.Statement (.drfixRelease core tid) := fun _ _ h => by cases h

theorem RoundTrip.testComplete : ∀ die cluster failed shared, RoundTrip.Statement (.testComplete die cluster failed
    shared) := fun _ _ _ _ h => by cases h

theorem RoundTrip.invvaPage : ∀ core tid v, RoundTrip.Statement (.invvaPage core tid v) := fun _ _ _ h => by cases h

theorem RoundTrip.invvaRoot : ∀ core tid v, RoundTrip.Statement (.invvaRoot core tid v) := fun _ _ _ h => by cases h

theorem RoundTrip.invvaAll : ∀ core tid v, RoundTrip.Statement (.invvaAll core tid v) := fun _ _ _ h => by cases h

theorem RoundTrip.migrationPoolWrite : ∀ core tid die off v, RoundTrip.Statement (.migrationPoolWrite core tid die off
    v) := fun _ _ _ _ _ h => by cases h

theorem RoundTrip.keyload : ∀ core tid die v, RoundTrip.Statement (.keyload core tid die v) := fun _ _ _ _ h => by
    cases h

theorem RoundTrip.lineagePoolWrite : ∀ core tid die off v, RoundTrip.Statement (.lineagePoolWrite core tid die off v)
    := fun _ _ _ _ _ h => by cases h

theorem RoundTrip.overflowRegionWrite : ∀ core tid die off v, RoundTrip.Statement (.overflowRegionWrite core tid die
    off v) := fun _ _ _ _ _ h => by cases h

theorem RoundTrip.errorLogWrite : ∀ core tid die off v, RoundTrip.Statement (.errorLogWrite core tid die off v) := fun
    _ _ _ _ _ h => by cases h

theorem RoundTrip.serviceRegisterWrite : ∀ core tid die cluster off v, RoundTrip.Statement (.serviceRegisterWrite core
    tid die cluster off v) := fun _ _ _ _ _ _ h => by cases h

theorem RoundTrip.scrubLine : ∀ die line finding, RoundTrip.Statement (.scrubLine die line finding) := fun _ _ _ h =>
    by cases h

theorem RoundTrip.laneGroupFail : ∀ bridge group, RoundTrip.Statement (.laneGroupFail bridge group) := fun _ _ h => by
    cases h

theorem RoundTrip.resendTimeout : ∀ k, RoundTrip.Statement (.resendTimeout k) := fun _ h => by cases h

theorem RoundTrip.writeUnreachable : ∀ k, RoundTrip.Statement (.writeUnreachable k) := fun _ h => by cases h

theorem RoundTrip.bridgeWriteReceive : ∀ k, RoundTrip.Statement (.bridgeWriteReceive k) := fun _ h => by cases h

theorem RoundTrip.packetReceive : ∀ pkt, RoundTrip.Statement (.packetReceive pkt) := fun _ h => by cases h

theorem RoundTrip.cxlLinkDown : ∀ port, RoundTrip.Statement (.cxlLinkDown port) := fun _ h => by cases h

theorem RoundTrip.cxlReadTimeout : ∀ core tid, RoundTrip.Statement (.cxlReadTimeout core tid) := fun _ _ h => by cases h

theorem RoundTrip.loadImage : ∀ req job img, RoundTrip.Statement (.loadImage req job img) := fun _ _ _ h => by cases h

theorem RoundTrip.createTensor : ∀ req job shape, RoundTrip.Statement (.createTensor req job shape) := fun _ _ _ h =>
    by cases h

theorem RoundTrip.writeData : ∀ req target off data, RoundTrip.Statement (.writeData req target off data) := fun _ _ _
    _ h => by cases h

theorem RoundTrip.readData : ∀ req target off len, RoundTrip.Statement (.readData req target off len) := fun _ _ _ _ h
    => by cases h

theorem RoundTrip.submitGraph : ∀ req hdr, RoundTrip.Statement (.submitGraph req hdr) := fun _ _ h => by cases h

theorem RoundTrip.openDeliveryRing : ∀ req job cap stream, RoundTrip.Statement (.openDeliveryRing req job cap stream)
    := fun _ _ _ _ h => by cases h

theorem RoundTrip.checkpoint : ∀ req job outcome, RoundTrip.Statement (.checkpoint req job outcome) := fun _ _ _ h =>
    by cases h

theorem RoundTrip.restore : ∀ req job manifest, RoundTrip.Statement (.restore req job manifest) := fun _ _ _ h => by
    cases h

theorem RoundTrip.telemetry : ∀ req sel, RoundTrip.Statement (.telemetry req sel) := fun _ _ h => by cases h

theorem RoundTrip.test : ∀ req clusters, RoundTrip.Statement (.test req clusters) := fun _ _ h => by cases h

theorem RoundTrip.powerOn : ∀ inp, RoundTrip.Statement (.powerOn inp) := fun _ h => by cases h

theorem RoundTrip.ubeloStartTimeout : RoundTrip.Statement .ubeloStartTimeout := fun h => by cases h

theorem RoundTrip.moduleReset : ∀ inp, RoundTrip.Statement (.moduleReset inp) := fun _ h => by cases h

theorem RoundTrip.powerOff : RoundTrip.Statement .powerOff := fun h => by cases h

theorem RoundTrip.powerThrottle : RoundTrip.Statement .powerThrottle := fun h => by cases h

theorem RoundTrip.thermalThrottle : ∀ die, RoundTrip.Statement (.thermalThrottle die) := fun _ h => by cases h

theorem RoundTrip.thermalShutdown : RoundTrip.Statement .thermalShutdown := fun h => by cases h

theorem RoundTrip.laneGroupRetrained : ∀ bridge group, RoundTrip.Statement (.laneGroupRetrained bridge group) := fun _
    _ h => by cases h

theorem RoundTrip.cxlLinkUp : ∀ port, RoundTrip.Statement (.cxlLinkUp port) := fun _ h => by cases h

theorem RoundTrip.ethernetLaneRetrain : ∀ die lane, RoundTrip.Statement (.ethernetLaneRetrain die lane) := fun _ _ h =>
    by cases h

theorem RoundTrip.writeAcknowledged : ∀ k refused, RoundTrip.Statement (.writeAcknowledged k refused) := fun _ _ h =>
    by cases h

theorem RoundTrip.throttleEnd : RoundTrip.Statement .throttleEnd := fun h => by cases h

theorem RoundTrip.mainPowerLoss : RoundTrip.Statement .mainPowerLoss := fun h => by cases h

theorem RoundTrip.managementRegisterWrite : ∀ idx v, RoundTrip.Statement (.managementRegisterWrite idx v) := fun _ _ h
    => by cases h

theorem RoundTrip.jtagAccess : ∀ cmd, RoundTrip.Statement (.jtagAccess cmd) := fun _ h => by cases h

theorem RoundTrip.add : ∀ d a b, RoundTrip.Statement (.add d a b) := by
  intro d a b _ h
  generalize hw : encode (.add d a b) = ww
  obtain ⟨hm, h1, h2, h3, h4, h5⟩ := RoundTrip.strip6_5_5_5_5_6 1#6 d a b 0#5 0#6 hw.symm
  exact decode_of ((refusal_1 hm).trans (by simp [refuseOp, h4, h5, need])) ((form_1 hm).trans (by simp [formOp, h1,
      h2, h3, h5]))

theorem RoundTrip.sub : ∀ d a b, RoundTrip.Statement (.sub d a b) := by
  intro d a b _ h
  generalize hw : encode (.sub d a b) = ww
  obtain ⟨hm, h1, h2, h3, h4, h5⟩ := RoundTrip.strip6_5_5_5_5_6 1#6 d a b 0#5 1#6 hw.symm
  exact decode_of ((refusal_1 hm).trans (by simp [refuseOp, h4, h5, need])) ((form_1 hm).trans (by simp [formOp, h1,
      h2, h3, h5]))

theorem RoundTrip.and : ∀ d a b, RoundTrip.Statement (.and d a b) := by
  intro d a b _ h
  generalize hw : encode (.and d a b) = ww
  obtain ⟨hm, h1, h2, h3, h4, h5⟩ := RoundTrip.strip6_5_5_5_5_6 1#6 d a b 0#5 2#6 hw.symm
  exact decode_of ((refusal_1 hm).trans (by simp [refuseOp, h4, h5, need])) ((form_1 hm).trans (by simp [formOp, h1,
      h2, h3, h5]))

theorem RoundTrip.or : ∀ d a b, RoundTrip.Statement (.or d a b) := by
  intro d a b _ h
  generalize hw : encode (.or d a b) = ww
  obtain ⟨hm, h1, h2, h3, h4, h5⟩ := RoundTrip.strip6_5_5_5_5_6 1#6 d a b 0#5 3#6 hw.symm
  exact decode_of ((refusal_1 hm).trans (by simp [refuseOp, h4, h5, need])) ((form_1 hm).trans (by simp [formOp, h1,
      h2, h3, h5]))

theorem RoundTrip.xor : ∀ d a b, RoundTrip.Statement (.xor d a b) := by
  intro d a b _ h
  generalize hw : encode (.xor d a b) = ww
  obtain ⟨hm, h1, h2, h3, h4, h5⟩ := RoundTrip.strip6_5_5_5_5_6 1#6 d a b 0#5 4#6 hw.symm
  exact decode_of ((refusal_1 hm).trans (by simp [refuseOp, h4, h5, need])) ((form_1 hm).trans (by simp [formOp, h1,
      h2, h3, h5]))

theorem RoundTrip.andn : ∀ d a b, RoundTrip.Statement (.andn d a b) := by
  intro d a b _ h
  generalize hw : encode (.andn d a b) = ww
  obtain ⟨hm, h1, h2, h3, h4, h5⟩ := RoundTrip.strip6_5_5_5_5_6 1#6 d a b 0#5 5#6 hw.symm
  exact decode_of ((refusal_1 hm).trans (by simp [refuseOp, h4, h5, need])) ((form_1 hm).trans (by simp [formOp, h1,
      h2, h3, h5]))

theorem RoundTrip.sll : ∀ d a b, RoundTrip.Statement (.sll d a b) := by
  intro d a b _ h
  generalize hw : encode (.sll d a b) = ww
  obtain ⟨hm, h1, h2, h3, h4, h5⟩ := RoundTrip.strip6_5_5_5_5_6 1#6 d a b 0#5 6#6 hw.symm
  exact decode_of ((refusal_1 hm).trans (by simp [refuseOp, h4, h5, need])) ((form_1 hm).trans (by simp [formOp, h1,
      h2, h3, h5]))

theorem RoundTrip.srl : ∀ d a b, RoundTrip.Statement (.srl d a b) := by
  intro d a b _ h
  generalize hw : encode (.srl d a b) = ww
  obtain ⟨hm, h1, h2, h3, h4, h5⟩ := RoundTrip.strip6_5_5_5_5_6 1#6 d a b 0#5 7#6 hw.symm
  exact decode_of ((refusal_1 hm).trans (by simp [refuseOp, h4, h5, need])) ((form_1 hm).trans (by simp [formOp, h1,
      h2, h3, h5]))

theorem RoundTrip.sra : ∀ d a b, RoundTrip.Statement (.sra d a b) := by
  intro d a b _ h
  generalize hw : encode (.sra d a b) = ww
  obtain ⟨hm, h1, h2, h3, h4, h5⟩ := RoundTrip.strip6_5_5_5_5_6 1#6 d a b 0#5 8#6 hw.symm
  exact decode_of ((refusal_1 hm).trans (by simp [refuseOp, h4, h5, need])) ((form_1 hm).trans (by simp [formOp, h1,
      h2, h3, h5]))

theorem RoundTrip.slt : ∀ d a b, RoundTrip.Statement (.slt d a b) := by
  intro d a b _ h
  generalize hw : encode (.slt d a b) = ww
  obtain ⟨hm, h1, h2, h3, h4, h5⟩ := RoundTrip.strip6_5_5_5_5_6 1#6 d a b 0#5 9#6 hw.symm
  exact decode_of ((refusal_1 hm).trans (by simp [refuseOp, h4, h5, need])) ((form_1 hm).trans (by simp [formOp, h1,
      h2, h3, h5]))

theorem RoundTrip.sltn : ∀ d a b, RoundTrip.Statement (.sltn d a b) := by
  intro d a b _ h
  generalize hw : encode (.sltn d a b) = ww
  obtain ⟨hm, h1, h2, h3, h4, h5⟩ := RoundTrip.strip6_5_5_5_5_6 1#6 d a b 0#5 10#6 hw.symm
  exact decode_of ((refusal_1 hm).trans (by simp [refuseOp, h4, h5, need])) ((form_1 hm).trans (by simp [formOp, h1,
      h2, h3, h5]))

theorem RoundTrip.min : ∀ d a b, RoundTrip.Statement (.min d a b) := by
  intro d a b _ h
  generalize hw : encode (.min d a b) = ww
  obtain ⟨hm, h1, h2, h3, h4, h5⟩ := RoundTrip.strip6_5_5_5_5_6 1#6 d a b 0#5 11#6 hw.symm
  exact decode_of ((refusal_1 hm).trans (by simp [refuseOp, h4, h5, need])) ((form_1 hm).trans (by simp [formOp, h1,
      h2, h3, h5]))

theorem RoundTrip.max : ∀ d a b, RoundTrip.Statement (.max d a b) := by
  intro d a b _ h
  generalize hw : encode (.max d a b) = ww
  obtain ⟨hm, h1, h2, h3, h4, h5⟩ := RoundTrip.strip6_5_5_5_5_6 1#6 d a b 0#5 12#6 hw.symm
  exact decode_of ((refusal_1 hm).trans (by simp [refuseOp, h4, h5, need])) ((form_1 hm).trans (by simp [formOp, h1,
      h2, h3, h5]))

theorem RoundTrip.minn : ∀ d a b, RoundTrip.Statement (.minn d a b) := by
  intro d a b _ h
  generalize hw : encode (.minn d a b) = ww
  obtain ⟨hm, h1, h2, h3, h4, h5⟩ := RoundTrip.strip6_5_5_5_5_6 1#6 d a b 0#5 13#6 hw.symm
  exact decode_of ((refusal_1 hm).trans (by simp [refuseOp, h4, h5, need])) ((form_1 hm).trans (by simp [formOp, h1,
      h2, h3, h5]))

theorem RoundTrip.maxn : ∀ d a b, RoundTrip.Statement (.maxn d a b) := by
  intro d a b _ h
  generalize hw : encode (.maxn d a b) = ww
  obtain ⟨hm, h1, h2, h3, h4, h5⟩ := RoundTrip.strip6_5_5_5_5_6 1#6 d a b 0#5 14#6 hw.symm
  exact decode_of ((refusal_1 hm).trans (by simp [refuseOp, h4, h5, need])) ((form_1 hm).trans (by simp [formOp, h1,
      h2, h3, h5]))

theorem RoundTrip.mul : ∀ d a b, RoundTrip.Statement (.mul d a b) := by
  intro d a b _ h
  generalize hw : encode (.mul d a b) = ww
  obtain ⟨hm, h1, h2, h3, h4, h5⟩ := RoundTrip.strip6_5_5_5_5_6 1#6 d a b 0#5 15#6 hw.symm
  exact decode_of ((refusal_1 hm).trans (by simp [refuseOp, h4, h5, need])) ((form_1 hm).trans (by simp [formOp, h1,
      h2, h3, h5]))

theorem RoundTrip.mulh : ∀ d a b, RoundTrip.Statement (.mulh d a b) := by
  intro d a b _ h
  generalize hw : encode (.mulh d a b) = ww
  obtain ⟨hm, h1, h2, h3, h4, h5⟩ := RoundTrip.strip6_5_5_5_5_6 1#6 d a b 0#5 16#6 hw.symm
  exact decode_of ((refusal_1 hm).trans (by simp [refuseOp, h4, h5, need])) ((form_1 hm).trans (by simp [formOp, h1,
      h2, h3, h5]))

theorem RoundTrip.mulhn : ∀ d a b, RoundTrip.Statement (.mulhn d a b) := by
  intro d a b _ h
  generalize hw : encode (.mulhn d a b) = ww
  obtain ⟨hm, h1, h2, h3, h4, h5⟩ := RoundTrip.strip6_5_5_5_5_6 1#6 d a b 0#5 17#6 hw.symm
  exact decode_of ((refusal_1 hm).trans (by simp [refuseOp, h4, h5, need])) ((form_1 hm).trans (by simp [formOp, h1,
      h2, h3, h5]))

theorem RoundTrip.div : ∀ d a b, RoundTrip.Statement (.div d a b) := by
  intro d a b _ h
  generalize hw : encode (.div d a b) = ww
  obtain ⟨hm, h1, h2, h3, h4, h5⟩ := RoundTrip.strip6_5_5_5_5_6 1#6 d a b 0#5 18#6 hw.symm
  exact decode_of ((refusal_1 hm).trans (by simp [refuseOp, h4, h5, need])) ((form_1 hm).trans (by simp [formOp, h1,
      h2, h3, h5]))

theorem RoundTrip.divn : ∀ d a b, RoundTrip.Statement (.divn d a b) := by
  intro d a b _ h
  generalize hw : encode (.divn d a b) = ww
  obtain ⟨hm, h1, h2, h3, h4, h5⟩ := RoundTrip.strip6_5_5_5_5_6 1#6 d a b 0#5 19#6 hw.symm
  exact decode_of ((refusal_1 hm).trans (by simp [refuseOp, h4, h5, need])) ((form_1 hm).trans (by simp [formOp, h1,
      h2, h3, h5]))

theorem RoundTrip.rem : ∀ d a b, RoundTrip.Statement (.rem d a b) := by
  intro d a b _ h
  generalize hw : encode (.rem d a b) = ww
  obtain ⟨hm, h1, h2, h3, h4, h5⟩ := RoundTrip.strip6_5_5_5_5_6 1#6 d a b 0#5 20#6 hw.symm
  exact decode_of ((refusal_1 hm).trans (by simp [refuseOp, h4, h5, need])) ((form_1 hm).trans (by simp [formOp, h1,
      h2, h3, h5]))

theorem RoundTrip.remn : ∀ d a b, RoundTrip.Statement (.remn d a b) := by
  intro d a b _ h
  generalize hw : encode (.remn d a b) = ww
  obtain ⟨hm, h1, h2, h3, h4, h5⟩ := RoundTrip.strip6_5_5_5_5_6 1#6 d a b 0#5 21#6 hw.symm
  exact decode_of ((refusal_1 hm).trans (by simp [refuseOp, h4, h5, need])) ((form_1 hm).trans (by simp [formOp, h1,
      h2, h3, h5]))

theorem RoundTrip.clz : ∀ d a, RoundTrip.Statement (.clz d a) := by
  intro d a _ h
  generalize hw : encode (.clz d a) = ww
  obtain ⟨hm, h1, h2, h3, h4⟩ := RoundTrip.strip6_5_5_10_6 1#6 d a 0#10 22#6 hw.symm
  exact decode_of ((refusal_1 hm).trans (by simp [refuseOp, h3, h4, need])) ((form_1 hm).trans (by simp [formOp, h1,
      h2, h4]))

theorem RoundTrip.ctz : ∀ d a, RoundTrip.Statement (.ctz d a) := by
  intro d a _ h
  generalize hw : encode (.ctz d a) = ww
  obtain ⟨hm, h1, h2, h3, h4⟩ := RoundTrip.strip6_5_5_10_6 1#6 d a 0#10 23#6 hw.symm
  exact decode_of ((refusal_1 hm).trans (by simp [refuseOp, h3, h4, need])) ((form_1 hm).trans (by simp [formOp, h1,
      h2, h4]))

theorem RoundTrip.popc : ∀ d a, RoundTrip.Statement (.popc d a) := by
  intro d a _ h
  generalize hw : encode (.popc d a) = ww
  obtain ⟨hm, h1, h2, h3, h4⟩ := RoundTrip.strip6_5_5_10_6 1#6 d a 0#10 24#6 hw.symm
  exact decode_of ((refusal_1 hm).trans (by simp [refuseOp, h3, h4, need])) ((form_1 hm).trans (by simp [formOp, h1,
      h2, h4]))

theorem RoundTrip.sext : ∀ d a w, RoundTrip.Statement (.sext d a w) := by
  intro d a w _ h
  generalize hw : encode (.sext d a w) = ww
  obtain ⟨hm, h1, h2, h3, h4, h5⟩ := RoundTrip.strip6_5_5_5_5_6 1#6 d a 0#5 w 25#6 hw.symm
  simp only [Instr.wf, Instr.refusal, need_isNone] at h
  exact decode_of ((refusal_1 hm).trans (by simpa [refuseOp, h3, h4, h5, need] using h)) ((form_1 hm).trans (by simp
      [formOp, h1, h2, h4, h5]))

theorem RoundTrip.zext : ∀ d a w, RoundTrip.Statement (.zext d a w) := by
  intro d a w _ h
  generalize hw : encode (.zext d a w) = ww
  obtain ⟨hm, h1, h2, h3, h4, h5⟩ := RoundTrip.strip6_5_5_5_5_6 1#6 d a 0#5 w 26#6 hw.symm
  simp only [Instr.wf, Instr.refusal, need_isNone] at h
  exact decode_of ((refusal_1 hm).trans (by simpa [refuseOp, h3, h4, h5, need] using h)) ((form_1 hm).trans (by simp
      [formOp, h1, h2, h4, h5]))

theorem RoundTrip.cmov : ∀ d a b c, RoundTrip.Statement (.cmov d a b c) := by
  intro d a b c _ h
  generalize hw : encode (.cmov d a b c) = ww
  obtain ⟨hm, h1, h2, h3, h4, h5⟩ := RoundTrip.strip6_5_5_5_5_6 1#6 d a b c 27#6 hw.symm
  exact decode_of ((refusal_1 hm).trans (by simp [refuseOp, h5])) ((form_1 hm).trans (by simp [formOp, h1, h2, h3, h4,
      h5]))

theorem RoundTrip.addi : ∀ d a i, RoundTrip.Statement (.addi d a i) := by
  intro d a i _ h
  generalize hw : encode (.addi d a i) = ww
  obtain ⟨hm, h1, h2, h3⟩ := RoundTrip.strip6_5_5_16 2#6 d a i hw.symm
  exact decode_of ((refusal_2 hm).trans (by simp)) ((form_2 hm).trans (by simp [h1, h2, h3]))

theorem RoundTrip.andi : ∀ d a i, RoundTrip.Statement (.andi d a i) := by
  intro d a i _ h
  generalize hw : encode (.andi d a i) = ww
  obtain ⟨hm, h1, h2, h3⟩ := RoundTrip.strip6_5_5_16 3#6 d a i hw.symm
  exact decode_of ((refusal_3 hm).trans (by simp)) ((form_3 hm).trans (by simp [h1, h2, h3]))

theorem RoundTrip.ori : ∀ d a i, RoundTrip.Statement (.ori d a i) := by
  intro d a i _ h
  generalize hw : encode (.ori d a i) = ww
  obtain ⟨hm, h1, h2, h3⟩ := RoundTrip.strip6_5_5_16 4#6 d a i hw.symm
  exact decode_of ((refusal_4 hm).trans (by simp)) ((form_4 hm).trans (by simp [h1, h2, h3]))

theorem RoundTrip.xori : ∀ d a i, RoundTrip.Statement (.xori d a i) := by
  intro d a i _ h
  generalize hw : encode (.xori d a i) = ww
  obtain ⟨hm, h1, h2, h3⟩ := RoundTrip.strip6_5_5_16 5#6 d a i hw.symm
  exact decode_of ((refusal_5 hm).trans (by simp)) ((form_5 hm).trans (by simp [h1, h2, h3]))

theorem RoundTrip.slti : ∀ d a i, RoundTrip.Statement (.slti d a i) := by
  intro d a i _ h
  generalize hw : encode (.slti d a i) = ww
  obtain ⟨hm, h1, h2, h3⟩ := RoundTrip.strip6_5_5_16 6#6 d a i hw.symm
  exact decode_of ((refusal_6 hm).trans (by simp)) ((form_6 hm).trans (by simp [h1, h2, h3]))

theorem RoundTrip.sltin : ∀ d a i, RoundTrip.Statement (.sltin d a i) := by
  intro d a i _ h
  generalize hw : encode (.sltin d a i) = ww
  obtain ⟨hm, h1, h2, h3⟩ := RoundTrip.strip6_5_5_16 7#6 d a i hw.symm
  exact decode_of ((refusal_7 hm).trans (by simp)) ((form_7 hm).trans (by simp [h1, h2, h3]))

theorem RoundTrip.slli : ∀ d a s, RoundTrip.Statement (.slli d a s) := by
  intro d a s _ h
  generalize hw : encode (.slli d a s) = ww
  obtain ⟨hm, h1, h2, h3, h4, h5⟩ := RoundTrip.strip6_5_5_2_8_6 8#6 d a 0#2 0#8 s hw.symm
  exact decode_of ((refusal_8 hm).trans (by simp [refuseShi, h3, h4, need])) ((form_8 hm).trans (by simp [formShi, h1,
      h2, h3, h5]))

theorem RoundTrip.srli : ∀ d a s, RoundTrip.Statement (.srli d a s) := by
  intro d a s _ h
  generalize hw : encode (.srli d a s) = ww
  obtain ⟨hm, h1, h2, h3, h4, h5⟩ := RoundTrip.strip6_5_5_2_8_6 8#6 d a 1#2 0#8 s hw.symm
  exact decode_of ((refusal_8 hm).trans (by simp [refuseShi, h3, h4, need])) ((form_8 hm).trans (by simp [formShi, h1,
      h2, h3, h5]))

theorem RoundTrip.srai : ∀ d a s, RoundTrip.Statement (.srai d a s) := by
  intro d a s _ h
  generalize hw : encode (.srai d a s) = ww
  obtain ⟨hm, h1, h2, h3, h4, h5⟩ := RoundTrip.strip6_5_5_2_8_6 8#6 d a 2#2 0#8 s hw.symm
  exact decode_of ((refusal_8 hm).trans (by simp [refuseShi, h3, h4, need])) ((form_8 hm).trans (by simp [formShi, h1,
      h2, h3, h5]))

theorem RoundTrip.lui : ∀ d i, RoundTrip.Statement (.lui d i) := by
  intro d i _ h
  generalize hw : encode (.lui d i) = ww
  obtain ⟨hm, h1, h2, h3⟩ := RoundTrip.strip6_5_5_16 9#6 d 0#5 i hw.symm
  exact decode_of ((refusal_9 hm).trans (by simp [h2, need])) ((form_9 hm).trans (by simp [h1, h3]))

theorem RoundTrip.addpc : ∀ d i, RoundTrip.Statement (.addpc d i) := by
  intro d i _ h
  generalize hw : encode (.addpc d i) = ww
  obtain ⟨hm, h1, h2, h3⟩ := RoundTrip.strip6_5_5_16 10#6 d 0#5 i hw.symm
  exact decode_of ((refusal_10 hm).trans (by simp [h2, need])) ((form_10 hm).trans (by simp [h1, h3]))

theorem RoundTrip.fadd : ∀ d a b r, RoundTrip.Statement (.fadd d a b r) := by
  intro d a b r _ h
  generalize hw : encode (.fadd d a b r) = ww
  obtain ⟨hm, h1, h2, h3, h4, h5, h6⟩ := RoundTrip.strip6_5_5_5_2_3_6 11#6 d a b 0#2 r 0#6 hw.symm
  simp only [Instr.wf, Instr.refusal, need_isNone] at h
  exact decode_of ((refusal_11 hm).trans (by simpa [refuseFop, h4, h5, h6, need] using h)) ((form_11 hm).trans (by simp
      [formFop, h1, h2, h3, h5, h6]))

theorem RoundTrip.fsub : ∀ d a b r, RoundTrip.Statement (.fsub d a b r) := by
  intro d a b r _ h
  generalize hw : encode (.fsub d a b r) = ww
  obtain ⟨hm, h1, h2, h3, h4, h5, h6⟩ := RoundTrip.strip6_5_5_5_2_3_6 11#6 d a b 0#2 r 1#6 hw.symm
  simp only [Instr.wf, Instr.refusal, need_isNone] at h
  exact decode_of ((refusal_11 hm).trans (by simpa [refuseFop, h4, h5, h6, need] using h)) ((form_11 hm).trans (by simp
      [formFop, h1, h2, h3, h5, h6]))

theorem RoundTrip.fmul : ∀ d a b r, RoundTrip.Statement (.fmul d a b r) := by
  intro d a b r _ h
  generalize hw : encode (.fmul d a b r) = ww
  obtain ⟨hm, h1, h2, h3, h4, h5, h6⟩ := RoundTrip.strip6_5_5_5_2_3_6 11#6 d a b 0#2 r 2#6 hw.symm
  simp only [Instr.wf, Instr.refusal, need_isNone] at h
  exact decode_of ((refusal_11 hm).trans (by simpa [refuseFop, h4, h5, h6, need] using h)) ((form_11 hm).trans (by simp
      [formFop, h1, h2, h3, h5, h6]))

theorem RoundTrip.fdiv : ∀ d a b r, RoundTrip.Statement (.fdiv d a b r) := by
  intro d a b r _ h
  generalize hw : encode (.fdiv d a b r) = ww
  obtain ⟨hm, h1, h2, h3, h4, h5, h6⟩ := RoundTrip.strip6_5_5_5_2_3_6 11#6 d a b 0#2 r 3#6 hw.symm
  simp only [Instr.wf, Instr.refusal, need_isNone] at h
  exact decode_of ((refusal_11 hm).trans (by simpa [refuseFop, h4, h5, h6, need] using h)) ((form_11 hm).trans (by simp
      [formFop, h1, h2, h3, h5, h6]))

theorem RoundTrip.fsqrt : ∀ d a r, RoundTrip.Statement (.fsqrt d a r) := by
  intro d a r _ h
  generalize hw : encode (.fsqrt d a r) = ww
  obtain ⟨hm, h1, h2, h3, h4, h5⟩ := RoundTrip.strip6_5_5_7_3_6 11#6 d a 0#7 r 4#6 hw.symm
  simp only [Instr.wf, Instr.refusal, need_isNone] at h
  exact decode_of ((refusal_11 hm).trans (by simpa [refuseFop, h3, h4, h5, need] using h)) ((form_11 hm).trans (by simp
      [formFop, h1, h2, h4, h5]))

theorem RoundTrip.fmadd : ∀ d a b c, RoundTrip.Statement (.fmadd d a b c) := by
  intro d a b c _ h
  generalize hw : encode (.fmadd d a b c) = ww
  obtain ⟨hm, h1, h2, h3, h4, h5⟩ := RoundTrip.strip6_5_5_5_5_6 11#6 d a b c 5#6 hw.symm
  exact decode_of ((refusal_11 hm).trans (by simp [refuseFop, h5])) ((form_11 hm).trans (by simp [formFop, h1, h2, h3,
      h4, h5]))

theorem RoundTrip.fmin : ∀ d a b, RoundTrip.Statement (.fmin d a b) := by
  intro d a b _ h
  generalize hw : encode (.fmin d a b) = ww
  obtain ⟨hm, h1, h2, h3, h4, h5⟩ := RoundTrip.strip6_5_5_5_5_6 11#6 d a b 0#5 6#6 hw.symm
  exact decode_of ((refusal_11 hm).trans (by simp [refuseFop, h4, h5, need])) ((form_11 hm).trans (by simp [formFop,
      h1, h2, h3, h5]))

theorem RoundTrip.fmax : ∀ d a b, RoundTrip.Statement (.fmax d a b) := by
  intro d a b _ h
  generalize hw : encode (.fmax d a b) = ww
  obtain ⟨hm, h1, h2, h3, h4, h5⟩ := RoundTrip.strip6_5_5_5_5_6 11#6 d a b 0#5 7#6 hw.symm
  exact decode_of ((refusal_11 hm).trans (by simp [refuseFop, h4, h5, need])) ((form_11 hm).trans (by simp [formFop,
      h1, h2, h3, h5]))

theorem RoundTrip.feq : ∀ d a b, RoundTrip.Statement (.feq d a b) := by
  intro d a b _ h
  generalize hw : encode (.feq d a b) = ww
  obtain ⟨hm, h1, h2, h3, h4, h5⟩ := RoundTrip.strip6_5_5_5_5_6 11#6 d a b 0#5 8#6 hw.symm
  exact decode_of ((refusal_11 hm).trans (by simp [refuseFop, h4, h5, need])) ((form_11 hm).trans (by simp [formFop,
      h1, h2, h3, h5]))

theorem RoundTrip.flt : ∀ d a b, RoundTrip.Statement (.flt d a b) := by
  intro d a b _ h
  generalize hw : encode (.flt d a b) = ww
  obtain ⟨hm, h1, h2, h3, h4, h5⟩ := RoundTrip.strip6_5_5_5_5_6 11#6 d a b 0#5 9#6 hw.symm
  exact decode_of ((refusal_11 hm).trans (by simp [refuseFop, h4, h5, need])) ((form_11 hm).trans (by simp [formFop,
      h1, h2, h3, h5]))

theorem RoundTrip.fle : ∀ d a b, RoundTrip.Statement (.fle d a b) := by
  intro d a b _ h
  generalize hw : encode (.fle d a b) = ww
  obtain ⟨hm, h1, h2, h3, h4, h5⟩ := RoundTrip.strip6_5_5_5_5_6 11#6 d a b 0#5 10#6 hw.symm
  exact decode_of ((refusal_11 hm).trans (by simp [refuseFop, h4, h5, need])) ((form_11 hm).trans (by simp [formFop,
      h1, h2, h3, h5]))

theorem RoundTrip.fclass : ∀ d a, RoundTrip.Statement (.fclass d a) := by
  intro d a _ h
  generalize hw : encode (.fclass d a) = ww
  obtain ⟨hm, h1, h2, h3, h4⟩ := RoundTrip.strip6_5_5_10_6 11#6 d a 0#10 11#6 hw.symm
  exact decode_of ((refusal_11 hm).trans (by simp [refuseFop, h3, h4, need])) ((form_11 hm).trans (by simp [formFop,
      h1, h2, h4]))

theorem RoundTrip.fneg : ∀ d a, RoundTrip.Statement (.fneg d a) := by
  intro d a _ h
  generalize hw : encode (.fneg d a) = ww
  obtain ⟨hm, h1, h2, h3, h4⟩ := RoundTrip.strip6_5_5_10_6 11#6 d a 0#10 12#6 hw.symm
  exact decode_of ((refusal_11 hm).trans (by simp [refuseFop, h3, h4, need])) ((form_11 hm).trans (by simp [formFop,
      h1, h2, h4]))

theorem RoundTrip.fabs : ∀ d a, RoundTrip.Statement (.fabs d a) := by
  intro d a _ h
  generalize hw : encode (.fabs d a) = ww
  obtain ⟨hm, h1, h2, h3, h4⟩ := RoundTrip.strip6_5_5_10_6 11#6 d a 0#10 13#6 hw.symm
  exact decode_of ((refusal_11 hm).trans (by simp [refuseFop, h3, h4, need])) ((form_11 hm).trans (by simp [formFop,
      h1, h2, h4]))

theorem RoundTrip.ftoi : ∀ d a r, RoundTrip.Statement (.ftoi d a r) := by
  intro d a r _ h
  generalize hw : encode (.ftoi d a r) = ww
  obtain ⟨hm, h1, h2, h3, h4, h5⟩ := RoundTrip.strip6_5_5_7_3_6 11#6 d a 0#7 r 14#6 hw.symm
  simp only [Instr.wf, Instr.refusal, need_isNone] at h
  exact decode_of ((refusal_11 hm).trans (by simpa [refuseFop, h3, h4, h5, need] using h)) ((form_11 hm).trans (by simp
      [formFop, h1, h2, h4, h5]))

theorem RoundTrip.fton : ∀ d a r, RoundTrip.Statement (.fton d a r) := by
  intro d a r _ h
  generalize hw : encode (.fton d a r) = ww
  obtain ⟨hm, h1, h2, h3, h4, h5⟩ := RoundTrip.strip6_5_5_7_3_6 11#6 d a 0#7 r 15#6 hw.symm
  simp only [Instr.wf, Instr.refusal, need_isNone] at h
  exact decode_of ((refusal_11 hm).trans (by simpa [refuseFop, h3, h4, h5, need] using h)) ((form_11 hm).trans (by simp
      [formFop, h1, h2, h4, h5]))

theorem RoundTrip.itof : ∀ d a r, RoundTrip.Statement (.itof d a r) := by
  intro d a r _ h
  generalize hw : encode (.itof d a r) = ww
  obtain ⟨hm, h1, h2, h3, h4, h5⟩ := RoundTrip.strip6_5_5_7_3_6 11#6 d a 0#7 r 16#6 hw.symm
  simp only [Instr.wf, Instr.refusal, need_isNone] at h
  exact decode_of ((refusal_11 hm).trans (by simpa [refuseFop, h3, h4, h5, need] using h)) ((form_11 hm).trans (by simp
      [formFop, h1, h2, h4, h5]))

theorem RoundTrip.ntof : ∀ d a r, RoundTrip.Statement (.ntof d a r) := by
  intro d a r _ h
  generalize hw : encode (.ntof d a r) = ww
  obtain ⟨hm, h1, h2, h3, h4, h5⟩ := RoundTrip.strip6_5_5_7_3_6 11#6 d a 0#7 r 17#6 hw.symm
  simp only [Instr.wf, Instr.refusal, need_isNone] at h
  exact decode_of ((refusal_11 hm).trans (by simpa [refuseFop, h3, h4, h5, need] using h)) ((form_11 hm).trans (by simp
      [formFop, h1, h2, h4, h5]))

theorem RoundTrip.ftobf : ∀ d a r, RoundTrip.Statement (.ftobf d a r) := by
  intro d a r _ h
  generalize hw : encode (.ftobf d a r) = ww
  obtain ⟨hm, h1, h2, h3, h4, h5⟩ := RoundTrip.strip6_5_5_7_3_6 11#6 d a 0#7 r 18#6 hw.symm
  simp only [Instr.wf, Instr.refusal, need_isNone] at h
  exact decode_of ((refusal_11 hm).trans (by simpa [refuseFop, h3, h4, h5, need] using h)) ((form_11 hm).trans (by simp
      [formFop, h1, h2, h4, h5]))

theorem RoundTrip.bftof : ∀ d a, RoundTrip.Statement (.bftof d a) := by
  intro d a _ h
  generalize hw : encode (.bftof d a) = ww
  obtain ⟨hm, h1, h2, h3, h4⟩ := RoundTrip.strip6_5_5_10_6 11#6 d a 0#10 19#6 hw.symm
  exact decode_of ((refusal_11 hm).trans (by simp [refuseFop, h3, h4, need])) ((form_11 hm).trans (by simp [formFop,
      h1, h2, h4]))

theorem RoundTrip.ftoh : ∀ d a r, RoundTrip.Statement (.ftoh d a r) := by
  intro d a r _ h
  generalize hw : encode (.ftoh d a r) = ww
  obtain ⟨hm, h1, h2, h3, h4, h5⟩ := RoundTrip.strip6_5_5_7_3_6 11#6 d a 0#7 r 20#6 hw.symm
  simp only [Instr.wf, Instr.refusal, need_isNone] at h
  exact decode_of ((refusal_11 hm).trans (by simpa [refuseFop, h3, h4, h5, need] using h)) ((form_11 hm).trans (by simp
      [formFop, h1, h2, h4, h5]))

theorem RoundTrip.htof : ∀ d a, RoundTrip.Statement (.htof d a) := by
  intro d a _ h
  generalize hw : encode (.htof d a) = ww
  obtain ⟨hm, h1, h2, h3, h4⟩ := RoundTrip.strip6_5_5_10_6 11#6 d a 0#10 21#6 hw.symm
  exact decode_of ((refusal_11 hm).trans (by simp [refuseFop, h3, h4, need])) ((form_11 hm).trans (by simp [formFop,
      h1, h2, h4]))

theorem RoundTrip.facq : ∀ s, RoundTrip.Statement (.facq s) := by
  intro s _ h
  generalize hw : encode (.facq s) = ww
  obtain ⟨hm, h1, h2, h3, h4, h5⟩ := RoundTrip.strip6_5_5_8_2_6 23#6 0#5 0#5 0#8 s 8#6 hw.symm
  exact decode_of ((refusal_23 hm).trans (by simp [refuseOrd, h1, h2, h3, h5, need])) ((form_23 hm).trans (by simp
      [formOrd, h4, h5]))

theorem RoundTrip.frel : ∀ s, RoundTrip.Statement (.frel s) := by
  intro s _ h
  generalize hw : encode (.frel s) = ww
  obtain ⟨hm, h1, h2, h3, h4, h5⟩ := RoundTrip.strip6_5_5_8_2_6 23#6 0#5 0#5 0#8 s 9#6 hw.symm
  exact decode_of ((refusal_23 hm).trans (by simp [refuseOrd, h1, h2, h3, h5, need])) ((form_23 hm).trans (by simp
      [formOrd, h4, h5]))

theorem RoundTrip.fsc : ∀ s, RoundTrip.Statement (.fsc s) := by
  intro s _ h
  generalize hw : encode (.fsc s) = ww
  obtain ⟨hm, h1, h2, h3, h4, h5⟩ := RoundTrip.strip6_5_5_8_2_6 23#6 0#5 0#5 0#8 s 10#6 hw.symm
  exact decode_of ((refusal_23 hm).trans (by simp [refuseOrd, h1, h2, h3, h5, need])) ((form_23 hm).trans (by simp
      [formOrd, h4, h5]))

theorem RoundTrip.beq : ∀ a b o, RoundTrip.Statement (.beq a b o) := by
  intro a b o _ h
  generalize hw : encode (.beq a b o) = ww
  obtain ⟨hm, h1, h2, h3⟩ := RoundTrip.strip6_5_5_16 25#6 a b o hw.symm
  exact decode_of ((refusal_25 hm).trans (by simp)) ((form_25 hm).trans (by simp [h1, h2, h3]))

theorem RoundTrip.bne : ∀ a b o, RoundTrip.Statement (.bne a b o) := by
  intro a b o _ h
  generalize hw : encode (.bne a b o) = ww
  obtain ⟨hm, h1, h2, h3⟩ := RoundTrip.strip6_5_5_16 26#6 a b o hw.symm
  exact decode_of ((refusal_26 hm).trans (by simp)) ((form_26 hm).trans (by simp [h1, h2, h3]))

theorem RoundTrip.blt : ∀ a b o, RoundTrip.Statement (.blt a b o) := by
  intro a b o _ h
  generalize hw : encode (.blt a b o) = ww
  obtain ⟨hm, h1, h2, h3⟩ := RoundTrip.strip6_5_5_16 27#6 a b o hw.symm
  exact decode_of ((refusal_27 hm).trans (by simp)) ((form_27 hm).trans (by simp [h1, h2, h3]))

theorem RoundTrip.bge : ∀ a b o, RoundTrip.Statement (.bge a b o) := by
  intro a b o _ h
  generalize hw : encode (.bge a b o) = ww
  obtain ⟨hm, h1, h2, h3⟩ := RoundTrip.strip6_5_5_16 28#6 a b o hw.symm
  exact decode_of ((refusal_28 hm).trans (by simp)) ((form_28 hm).trans (by simp [h1, h2, h3]))

theorem RoundTrip.bltn : ∀ a b o, RoundTrip.Statement (.bltn a b o) := by
  intro a b o _ h
  generalize hw : encode (.bltn a b o) = ww
  obtain ⟨hm, h1, h2, h3⟩ := RoundTrip.strip6_5_5_16 29#6 a b o hw.symm
  exact decode_of ((refusal_29 hm).trans (by simp)) ((form_29 hm).trans (by simp [h1, h2, h3]))

theorem RoundTrip.bgen : ∀ a b o, RoundTrip.Statement (.bgen a b o) := by
  intro a b o _ h
  generalize hw : encode (.bgen a b o) = ww
  obtain ⟨hm, h1, h2, h3⟩ := RoundTrip.strip6_5_5_16 30#6 a b o hw.symm
  exact decode_of ((refusal_30 hm).trans (by simp)) ((form_30 hm).trans (by simp [h1, h2, h3]))

theorem RoundTrip.jal : ∀ o, RoundTrip.Statement (.jal o) := by
  intro o _ h
  generalize hw : encode (.jal o) = ww
  obtain ⟨hm, h1⟩ := RoundTrip.strip6_26 31#6 o hw.symm
  exact decode_of ((refusal_31 hm).trans (by simp)) ((form_31 hm).trans (by simp [h1]))

theorem RoundTrip.jalr : ∀ d a i, RoundTrip.Statement (.jalr d a i) := by
  intro d a i _ h
  generalize hw : encode (.jalr d a i) = ww
  obtain ⟨hm, h1, h2, h3⟩ := RoundTrip.strip6_5_5_16 32#6 d a i hw.symm
  exact decode_of ((refusal_32 hm).trans (by simp)) ((form_32 hm).trans (by simp [h1, h2, h3]))

theorem RoundTrip.svc : ∀ c, RoundTrip.Statement (.svc c) := by
  intro c _ h
  generalize hw : encode (.svc c) = ww
  obtain ⟨hm, h1, h2, h3, h4, h5⟩ := RoundTrip.strip6_5_5_5_5_6 33#6 0#5 0#5 0#5 c 0#6 hw.symm
  exact decode_of ((refusal_33 hm).trans (by simp [refuseSys, h1, h2, h3, h5, need])) ((form_33 hm).trans (by simp
      [formSys, h4, h5]))

theorem RoundTrip.brk : ∀ c, RoundTrip.Statement (.brk c) := by
  intro c _ h
  generalize hw : encode (.brk c) = ww
  obtain ⟨hm, h1, h2, h3, h4, h5⟩ := RoundTrip.strip6_5_5_5_5_6 33#6 0#5 0#5 0#5 c 1#6 hw.symm
  exact decode_of ((refusal_33 hm).trans (by simp [refuseSys, h1, h2, h3, h5, need])) ((form_33 hm).trans (by simp
      [formSys, h4, h5]))

theorem RoundTrip.eret : RoundTrip.Statement .eret := by
  intro _ h
  generalize hw : encode .eret = ww
  obtain ⟨hm, h1, h2, h3, h4⟩ := RoundTrip.strip6_5_5_10_6 33#6 0#5 0#5 0#10 2#6 hw.symm
  exact decode_of ((refusal_33 hm).trans (by simp [refuseSys, h1, h2, h3, h4, need])) ((form_33 hm).trans (by simp
      [formSys, h4]))

theorem RoundTrip.yield : RoundTrip.Statement .yield := by
  intro _ h
  generalize hw : encode .yield = ww
  obtain ⟨hm, h1, h2, h3, h4⟩ := RoundTrip.strip6_5_5_10_6 33#6 0#5 0#5 0#10 4#6 hw.symm
  exact decode_of ((refusal_33 hm).trans (by simp [refuseSys, h1, h2, h3, h4, need])) ((form_33 hm).trans (by simp
      [formSys, h4]))

theorem RoundTrip.taskend : RoundTrip.Statement .taskend := by
  intro _ h
  generalize hw : encode .taskend = ww
  obtain ⟨hm, h1, h2, h3, h4⟩ := RoundTrip.strip6_5_5_10_6 33#6 0#5 0#5 0#10 5#6 hw.symm
  exact decode_of ((refusal_33 hm).trans (by simp [refuseSys, h1, h2, h3, h4, need])) ((form_33 hm).trans (by simp
      [formSys, h4]))

theorem RoundTrip.signal : RoundTrip.Statement .signal := by
  intro _ h
  generalize hw : encode .signal = ww
  obtain ⟨hm, h1, h2, h3, h4⟩ := RoundTrip.strip6_5_5_10_6 33#6 0#5 0#5 0#10 6#6 hw.symm
  exact decode_of ((refusal_33 hm).trans (by simp [refuseSys, h1, h2, h3, h4, need])) ((form_33 hm).trans (by simp
      [formSys, h4]))

theorem RoundTrip.disband : ∀ d, RoundTrip.Statement (.disband d) := by
  intro d _ h
  generalize hw : encode (.disband d) = ww
  obtain ⟨hm, h1, h2, h3, h4⟩ := RoundTrip.strip6_5_5_10_6 33#6 d 0#5 0#10 9#6 hw.symm
  exact decode_of ((refusal_33 hm).trans (by simp [refuseSys, h2, h3, h4, need])) ((form_33 hm).trans (by simp
      [formSys, h1, h4]))

theorem RoundTrip.barset : ∀ d a b, RoundTrip.Statement (.barset d a b) := by
  intro d a b _ h
  generalize hw : encode (.barset d a b) = ww
  obtain ⟨hm, h1, h2, h3, h4, h5⟩ := RoundTrip.strip6_5_5_5_5_6 36#6 d a b 0#5 2#6 hw.symm
  exact decode_of ((refusal_36 hm).trans (by simp [refuseSync, h4, h5, need])) ((form_36 hm).trans (by simp [formSync,
      h1, h2, h3, h5]))

theorem RoundTrip.barq : ∀ d a q, RoundTrip.Statement (.barq d a q) := by
  intro d a q _ h
  generalize hw : encode (.barq d a q) = ww
  obtain ⟨hm, h1, h2, h3, h4, h5⟩ := RoundTrip.strip6_5_5_5_5_6 36#6 d a 0#5 q 3#6 hw.symm
  simp only [Instr.wf, Instr.refusal, need_isNone] at h
  exact decode_of ((refusal_36 hm).trans (by simpa [refuseSync, h3, h4, h5, need] using h)) ((form_36 hm).trans (by
      simp [formSync, h1, h2, h4, h5]))

theorem RoundTrip.mbsub : ∀ d a n, RoundTrip.Statement (.mbsub d a n) := by
  intro d a n _ h
  generalize hw : encode (.mbsub d a n) = ww
  obtain ⟨hm, h1, h2, h3, h4, h5⟩ := RoundTrip.strip6_5_5_5_5_6 36#6 d a n 0#5 5#6 hw.symm
  simp only [Instr.wf, Instr.refusal, need_isNone] at h
  exact decode_of ((refusal_36 hm).trans (by simpa [refuseSync, h3, h4, h5, need] using h)) ((form_36 hm).trans (by
      simp [formSync, h1, h2, h3, h5]))

theorem RoundTrip.mbread : ∀ d n, RoundTrip.Statement (.mbread d n) := by
  intro d n _ h
  generalize hw : encode (.mbread d n) = ww
  obtain ⟨hm, h1, h2, h3, h4, h5⟩ := RoundTrip.strip6_5_5_5_5_6 36#6 d 0#5 n 0#5 6#6 hw.symm
  simp only [Instr.wf, Instr.refusal, need_isNone] at h
  exact decode_of ((refusal_36 hm).trans (by simpa [refuseSync, h2, h3, h4, h5, need] using h)) ((form_36 hm).trans (by
      simp [formSync, h1, h3, h5]))

theorem RoundTrip.loop : ∀ a o, RoundTrip.Statement (.loop a o) := by
  intro a o _ h
  generalize hw : encode (.loop a o) = ww
  obtain ⟨hm, h1, h2, h3⟩ := RoundTrip.strip6_5_5_16 37#6 a 0#5 o hw.symm
  simp only [Instr.wf, Instr.refusal, need_isNone] at h
  exact decode_of ((refusal_37 hm).trans (by simpa [h1, h2, need] using h)) ((form_37 hm).trans (by simp [h1, h3]))

theorem RoundTrip.crit : ∀ n, RoundTrip.Statement (.crit n) := by
  intro n _ h
  generalize hw : encode (.crit n) = ww
  obtain ⟨hm, h1, h2, h3, h4⟩ := RoundTrip.strip6_5_5_12_4 38#6 0#5 0#5 0#12 n hw.symm
  exact decode_of ((refusal_38 hm).trans (by simp [h1, h2, h3, need])) ((form_38 hm).trans (by simp [h4]))

theorem RoundTrip.repeat : ∀ a x y z l, RoundTrip.Statement (.repeat a x y z l) := by
  intro a x y z l _ h
  generalize hw : encode (.repeat a x y z l) = ww
  obtain ⟨hm, h1, h2, h3, h4, h5, h6⟩ := RoundTrip.strip6_5_5_4_4_4_4 39#6 0#5 a x y z l hw.symm
  exact decode_of ((refusal_39 hm).trans (by simp [h1, need])) ((form_39 hm).trans (by simp [h2, h3, h4, h5, h6]))

theorem RoundTrip.copy : ∀ d a, RoundTrip.Statement (.copy d a) := by
  intro d a _ h
  generalize hw : encode (.copy d a) = ww
  obtain ⟨hm, h1, h2, h3, h4⟩ := RoundTrip.strip6_5_5_10_6 52#6 d a 0#10 0#6 hw.symm
  simp only [Instr.wf, Instr.refusal, need_isNone] at h
  exact decode_of ((refusal_52 hm).trans (by simpa [refuseCopy, h2, h3, h4, need] using h)) ((form_52 hm).trans (by
      simp [formCopy, h1, h2, h4]))

theorem RoundTrip.copyt : ∀ d a, RoundTrip.Statement (.copyt d a) := by
  intro d a _ h
  generalize hw : encode (.copyt d a) = ww
  obtain ⟨hm, h1, h2, h3, h4⟩ := RoundTrip.strip6_5_5_10_6 52#6 d a 0#10 1#6 hw.symm
  simp only [Instr.wf, Instr.refusal, need_isNone] at h
  exact decode_of ((refusal_52 hm).trans (by simpa [refuseCopy, h2, h3, h4, need] using h)) ((form_52 hm).trans (by
      simp [formCopy, h1, h2, h4]))

theorem RoundTrip.ringinit : ∀ d a c, RoundTrip.Statement (.ringinit d a c) := by
  intro d a c _ h
  generalize hw : encode (.ringinit d a c) = ww
  obtain ⟨hm, h1, h2, h3, h4, h5⟩ := RoundTrip.strip6_5_5_5_5_6 52#6 d a 0#5 c 2#6 hw.symm
  simp only [Instr.wf, Instr.refusal, need_isNone] at h
  exact decode_of ((refusal_52 hm).trans (by simpa [refuseCopy, h3, h4, h5, need] using h)) ((form_52 hm).trans (by
      simp [formCopy, h1, h2, h4, h5]))

theorem RoundTrip.relslot : ∀ c, RoundTrip.Statement (.relslot c) := by
  intro c _ h
  generalize hw : encode (.relslot c) = ww
  obtain ⟨hm, h1, h2, h3, h4, h5⟩ := RoundTrip.strip6_5_5_5_5_6 52#6 0#5 0#5 0#5 c 4#6 hw.symm
  simp only [Instr.wf, Instr.refusal, need_isNone] at h
  exact decode_of ((refusal_52 hm).trans (by simpa [refuseCopy, h1, h2, h3, h4, h5, need] using h)) ((form_52 hm).trans
      (by simp [formCopy, h4, h5]))

theorem RoundTrip.ringq : ∀ d q c, RoundTrip.Statement (.ringq d q c) := by
  intro d q c _ h
  generalize hw : encode (.ringq d q c) = ww
  obtain ⟨hm, h1, h2, h3, h4, h5⟩ := RoundTrip.strip6_5_5_5_5_6 52#6 d 0#5 q c 5#6 hw.symm
  simp only [Instr.wf, Instr.refusal] at h
  exact decode_of ((refusal_52 hm).trans (by simpa [refuseCopy, h2, h3, h4, h5, need] using h)) ((form_52 hm).trans (by
      simp [formCopy, h1, h3, h4, h5]))

theorem RoundTrip.bfree : ∀ a, RoundTrip.Statement (.bfree a) := by
  intro a _ h
  generalize hw : encode (.bfree a) = ww
  obtain ⟨hm, h1, h2, h3, h4⟩ := RoundTrip.strip6_5_5_10_6 52#6 0#5 a 0#10 6#6 hw.symm
  exact decode_of ((refusal_52 hm).trans (by simp [refuseCopy, h1, h3, h4, need])) ((form_52 hm).trans (by simp
      [formCopy, h2, h4]))

theorem RoundTrip.bbinit : ∀ d a b c, RoundTrip.Statement (.bbinit d a b c) := by
  intro d a b c _ h
  generalize hw : encode (.bbinit d a b c) = ww
  obtain ⟨hm, h1, h2, h3, h4, h5⟩ := RoundTrip.strip6_5_5_5_5_6 53#6 d a b c 0#6 hw.symm
  simp only [Instr.wf, Instr.refusal, need_isNone] at h
  exact decode_of ((refusal_53 hm).trans (by simpa [refuseBits, h4, h5, need] using h)) ((form_53 hm).trans (by simp
      [formBits, h1, h2, h3, h4, h5]))

theorem RoundTrip.bbget : ∀ d b c, RoundTrip.Statement (.bbget d b c) := by
  intro d b c _ h
  generalize hw : encode (.bbget d b c) = ww
  obtain ⟨hm, h1, h2, h3, h4, h5⟩ := RoundTrip.strip6_5_5_5_5_6 53#6 d 0#5 b c 1#6 hw.symm
  simp only [Instr.wf, Instr.refusal, need_isNone] at h
  exact decode_of ((refusal_53 hm).trans (by simp [refuseBits, h2, h3, h4, h5, need]; simp at h; tauto)) ((form_53
      hm).trans (by simp [formBits, h1, h3, h4, h5]))

theorem RoundTrip.bbpeek : ∀ d b c, RoundTrip.Statement (.bbpeek d b c) := by
  intro d b c _ h
  generalize hw : encode (.bbpeek d b c) = ww
  obtain ⟨hm, h1, h2, h3, h4, h5⟩ := RoundTrip.strip6_5_5_5_5_6 53#6 d 0#5 b c 2#6 hw.symm
  simp only [Instr.wf, Instr.refusal, need_isNone] at h
  exact decode_of ((refusal_53 hm).trans (by simp [refuseBits, h2, h3, h4, h5, need]; simp at h; tauto)) ((form_53
      hm).trans (by simp [formBits, h1, h3, h4, h5]))

theorem RoundTrip.bbskip : ∀ d b c, RoundTrip.Statement (.bbskip d b c) := by
  intro d b c _ h
  generalize hw : encode (.bbskip d b c) = ww
  obtain ⟨hm, h1, h2, h3, h4, h5⟩ := RoundTrip.strip6_5_5_5_5_6 53#6 d 0#5 b c 3#6 hw.symm
  simp only [Instr.wf, Instr.refusal, need_isNone] at h
  exact decode_of ((refusal_53 hm).trans (by simp [refuseBits, h2, h3, h4, h5, need]; simp at h; tauto)) ((form_53
      hm).trans (by simp [formBits, h1, h3, h4, h5]))

theorem RoundTrip.bblz : ∀ d, RoundTrip.Statement (.bblz d) := by
  intro d _ h
  generalize hw : encode (.bblz d) = ww
  obtain ⟨hm, h1, h2, h3, h4⟩ := RoundTrip.strip6_5_5_10_6 53#6 d 0#5 0#10 4#6 hw.symm
  exact decode_of ((refusal_53 hm).trans (by simp [refuseBits, h2, h3, h4, need])) ((form_53 hm).trans (by simp
      [formBits, h1, h4]))

theorem RoundTrip.bbapp : ∀ d a b c, RoundTrip.Statement (.bbapp d a b c) := by
  intro d a b c _ h
  generalize hw : encode (.bbapp d a b c) = ww
  obtain ⟨hm, h1, h2, h3, h4, h5⟩ := RoundTrip.strip6_5_5_5_5_6 53#6 d a b c 5#6 hw.symm
  simp only [Instr.wf, Instr.refusal, need_isNone] at h
  exact decode_of ((refusal_53 hm).trans (by simp [refuseBits, h3, h4, h5, need]; simp at h; tauto)) ((form_53
      hm).trans (by simp [formBits, h1, h2, h3, h4, h5]))

theorem RoundTrip.bbflush : ∀ d, RoundTrip.Statement (.bbflush d) := by
  intro d _ h
  generalize hw : encode (.bbflush d) = ww
  obtain ⟨hm, h1, h2, h3, h4⟩ := RoundTrip.strip6_5_5_10_6 53#6 d 0#5 0#10 6#6 hw.symm
  exact decode_of ((refusal_53 hm).trans (by simp [refuseBits, h2, h3, h4, need])) ((form_53 hm).trans (by simp
      [formBits, h1, h4]))

theorem RoundTrip.bbpos : ∀ d, RoundTrip.Statement (.bbpos d) := by
  intro d _ h
  generalize hw : encode (.bbpos d) = ww
  obtain ⟨hm, h1, h2, h3, h4⟩ := RoundTrip.strip6_5_5_10_6 53#6 d 0#5 0#10 7#6 hw.symm
  exact decode_of ((refusal_53 hm).trans (by simp [refuseBits, h2, h3, h4, need])) ((form_53 hm).trans (by simp
      [formBits, h1, h4]))

theorem RoundTrip.tnew : ∀ d a b c, RoundTrip.Statement (.tnew d a b c) := by
  intro d a b c _ h
  generalize hw : encode (.tnew d a b c) = ww
  obtain ⟨hm, h1, h2, h3, h4, h5⟩ := RoundTrip.strip6_5_5_5_5_6 54#6 d a b c 0#6 hw.symm
  exact decode_of ((refusal_54 hm).trans (by simp [refuseLin, h5])) ((form_54 hm).trans (by simp [formLin, h1, h2, h3,
      h4, h5]))

theorem RoundTrip.rebase : ∀ d a b, RoundTrip.Statement (.rebase d a b) := by
  intro d a b _ h
  generalize hw : encode (.rebase d a b) = ww
  obtain ⟨hm, h1, h2, h3, h4, h5⟩ := RoundTrip.strip6_5_5_5_5_6 54#6 d a b 0#5 2#6 hw.symm
  exact decode_of ((refusal_54 hm).trans (by simp [refuseLin, h4, h5, need])) ((form_54 hm).trans (by simp [formLin,
      h1, h2, h3, h5]))

theorem RoundTrip.flatten : ∀ d a, RoundTrip.Statement (.flatten d a) := by
  intro d a _ h
  generalize hw : encode (.flatten d a) = ww
  obtain ⟨hm, h1, h2, h3, h4⟩ := RoundTrip.strip6_5_5_10_6 54#6 d a 0#10 3#6 hw.symm
  exact decode_of ((refusal_54 hm).trans (by simp [refuseLin, h3, h4, need])) ((form_54 hm).trans (by simp [formLin,
      h1, h2, h4]))

theorem RoundTrip.tdel : ∀ d a, RoundTrip.Statement (.tdel d a) := by
  intro d a _ h
  generalize hw : encode (.tdel d a) = ww
  obtain ⟨hm, h1, h2, h3, h4⟩ := RoundTrip.strip6_5_5_10_6 54#6 d a 0#10 4#6 hw.symm
  exact decode_of ((refusal_54 hm).trans (by simp [refuseLin, h3, h4, need])) ((form_54 hm).trans (by simp [formLin,
      h1, h2, h4]))

theorem RoundTrip.tinfo : ∀ d a q, RoundTrip.Statement (.tinfo d a q) := by
  intro d a q _ h
  generalize hw : encode (.tinfo d a q) = ww
  obtain ⟨hm, h1, h2, h3, h4, h5⟩ := RoundTrip.strip6_5_5_5_5_6 54#6 d a 0#5 q 5#6 hw.symm
  simp only [Instr.wf, Instr.refusal, need_isNone] at h
  exact decode_of ((refusal_54 hm).trans (by simp [refuseLin, h2, h3, h4, h5, need]; simp at h; exact ⟨h.1, fun k => h.2.resolve_left (by omega)⟩)) ((form_54 hm).trans (by
      simp [formLin, h1, h2, h4, h5]))

theorem RoundTrip.tmap : ∀ d a b, RoundTrip.Statement (.tmap d a b) := by
  intro d a b _ h
  generalize hw : encode (.tmap d a b) = ww
  obtain ⟨hm, h1, h2, h3, h4, h5⟩ := RoundTrip.strip6_5_5_5_5_6 54#6 d a b 0#5 6#6 hw.symm
  exact decode_of ((refusal_54 hm).trans (by simp [refuseLin, h4, h5, need])) ((form_54 hm).trans (by simp [formLin,
      h1, h2, h3, h5]))

theorem RoundTrip.tunmap : ∀ d a, RoundTrip.Statement (.tunmap d a) := by
  intro d a _ h
  generalize hw : encode (.tunmap d a) = ww
  obtain ⟨hm, h1, h2, h3, h4⟩ := RoundTrip.strip6_5_5_10_6 54#6 d a 0#10 7#6 hw.symm
  exact decode_of ((refusal_54 hm).trans (by simp [refuseLin, h3, h4, need])) ((form_54 hm).trans (by simp [formLin,
      h1, h2, h4]))

theorem RoundTrip.eqnew : ∀ d a, RoundTrip.Statement (.eqnew d a) := by
  intro d a _ h
  generalize hw : encode (.eqnew d a) = ww
  obtain ⟨hm, h1, h2, h3, h4⟩ := RoundTrip.strip6_5_5_10_6 55#6 d a 0#10 0#6 hw.symm
  exact decode_of ((refusal_55 hm).trans (by simp [refuseEqv, h3, h4, need])) ((form_55 hm).trans (by simp [formEqv,
      h1, h2, h4]))

theorem RoundTrip.eqfree : ∀ d a, RoundTrip.Statement (.eqfree d a) := by
  intro d a _ h
  generalize hw : encode (.eqfree d a) = ww
  obtain ⟨hm, h1, h2, h3, h4⟩ := RoundTrip.strip6_5_5_10_6 55#6 d a 0#10 1#6 hw.symm
  exact decode_of ((refusal_55 hm).trans (by simp [refuseEqv, h3, h4, need])) ((form_55 hm).trans (by simp [formEqv,
      h1, h2, h4]))

theorem RoundTrip.unite : ∀ d a b c, RoundTrip.Statement (.unite d a b c) := by
  intro d a b c _ h
  generalize hw : encode (.unite d a b c) = ww
  obtain ⟨hm, h1, h2, h3, h4, h5⟩ := RoundTrip.strip6_5_5_5_5_6 55#6 d a b c 2#6 hw.symm
  exact decode_of ((refusal_55 hm).trans (by simp [refuseEqv, h5])) ((form_55 hm).trans (by simp [formEqv, h1, h2, h3,
      h4, h5]))

theorem RoundTrip.find : ∀ d a b, RoundTrip.Statement (.find d a b) := by
  intro d a b _ h
  generalize hw : encode (.find d a b) = ww
  obtain ⟨hm, h1, h2, h3, h4, h5⟩ := RoundTrip.strip6_5_5_5_5_6 55#6 d a b 0#5 3#6 hw.symm
  exact decode_of ((refusal_55 hm).trans (by simp [refuseEqv, h4, h5, need])) ((form_55 hm).trans (by simp [formEqv,
      h1, h2, h3, h5]))

theorem RoundTrip.eqsize : ∀ d a b, RoundTrip.Statement (.eqsize d a b) := by
  intro d a b _ h
  generalize hw : encode (.eqsize d a b) = ww
  obtain ⟨hm, h1, h2, h3, h4, h5⟩ := RoundTrip.strip6_5_5_5_5_6 55#6 d a b 0#5 4#6 hw.symm
  exact decode_of ((refusal_55 hm).trans (by simp [refuseEqv, h4, h5, need])) ((form_55 hm).trans (by simp [formEqv,
      h1, h2, h3, h5]))

theorem RoundTrip.eqstat : ∀ d a q, RoundTrip.Statement (.eqstat d a q) := by
  intro d a q _ h
  generalize hw : encode (.eqstat d a q) = ww
  obtain ⟨hm, h1, h2, h3, h4, h5⟩ := RoundTrip.strip6_5_5_5_5_6 55#6 d a 0#5 q 5#6 hw.symm
  simp only [Instr.wf, Instr.refusal, need_isNone] at h
  exact decode_of ((refusal_55 hm).trans (by simpa [refuseEqv, h3, h4, h5, need] using h)) ((form_55 hm).trans (by simp
      [formEqv, h1, h2, h4, h5]))

theorem RoundTrip.milestone : ∀ d a, RoundTrip.Statement (.milestone d a) := by
  intro d a _ h
  generalize hw : encode (.milestone d a) = ww
  obtain ⟨hm, h1, h2, h3, h4⟩ := RoundTrip.strip6_5_5_10_6 55#6 d a 0#10 6#6 hw.symm
  exact decode_of ((refusal_55 hm).trans (by simp [refuseEqv, h3, h4, need])) ((form_55 hm).trans (by simp [formEqv,
      h1, h2, h4]))

theorem RoundTrip.undo : ∀ d a b, RoundTrip.Statement (.undo d a b) := by
  intro d a b _ h
  generalize hw : encode (.undo d a b) = ww
  obtain ⟨hm, h1, h2, h3, h4, h5⟩ := RoundTrip.strip6_5_5_5_5_6 55#6 d a b 0#5 7#6 hw.symm
  exact decode_of ((refusal_55 hm).trans (by simp [refuseEqv, h4, h5, need])) ((form_55 hm).trans (by simp [formEqv,
      h1, h2, h3, h4, h5]))

theorem RoundTrip.undoKeep : ∀ d a b, RoundTrip.Statement (.undoKeep d a b) := by
  intro d a b _ h
  generalize hw : encode (.undoKeep d a b) = ww
  obtain ⟨hm, h1, h2, h3, h4, h5⟩ := RoundTrip.strip6_5_5_5_5_6 55#6 d a b 1#5 7#6 hw.symm
  exact decode_of ((refusal_55 hm).trans (by simp [refuseEqv, h4, h5])) ((form_55 hm).trans (by simp [formEqv,
      h1, h2, h3, h4, h5]))

theorem RoundTrip.vunite : ∀ d a b c, RoundTrip.Statement (.vunite d a b c) := by
  intro d a b c _ h
  generalize hw : encode (.vunite d a b c) = ww
  obtain ⟨hm, h1, h2, h3, h4, h5⟩ := RoundTrip.strip6_5_5_5_5_6 55#6 d a b c 9#6 hw.symm
  exact decode_of ((refusal_55 hm).trans (by simp [refuseEqv, h5])) ((form_55 hm).trans (by simp [formEqv, h1, h2, h3,
      h4, h5]))

theorem RoundTrip.vfind : ∀ d a b, RoundTrip.Statement (.vfind d a b) := by
  intro d a b _ h
  generalize hw : encode (.vfind d a b) = ww
  obtain ⟨hm, h1, h2, h3, h4, h5⟩ := RoundTrip.strip6_5_5_5_5_6 55#6 d a b 0#5 10#6 hw.symm
  exact decode_of ((refusal_55 hm).trans (by simp [refuseEqv, h4, h5, need])) ((form_55 hm).trans (by simp [formEqv,
      h1, h2, h3, h5]))

theorem RoundTrip.drinit : ∀ d a, RoundTrip.Statement (.drinit d a) := by
  intro d a _ h
  generalize hw : encode (.drinit d a) = ww
  obtain ⟨hm, h1, h2, h3, h4⟩ := RoundTrip.strip6_5_5_10_6 56#6 d a 0#10 0#6 hw.symm
  exact decode_of ((refusal_56 hm).trans (by simp [refuseDred, h3, h4, need])) ((form_56 hm).trans (by simp [formDred,
      h1, h2, h4]))

theorem RoundTrip.drscale : ∀ d a, RoundTrip.Statement (.drscale d a) := by
  intro d a _ h
  generalize hw : encode (.drscale d a) = ww
  obtain ⟨hm, h1, h2, h3, h4⟩ := RoundTrip.strip6_5_5_10_6 56#6 d a 0#10 3#6 hw.symm
  exact decode_of ((refusal_56 hm).trans (by simp [refuseDred, h3, h4, need])) ((form_56 hm).trans (by simp [formDred,
      h1, h2, h4]))

theorem RoundTrip.drstat : ∀ d a b k, RoundTrip.Statement (.drstat d a b k) := by
  intro d a b k _ h
  generalize hw : encode (.drstat d a b k) = ww
  obtain ⟨hm, h1, h2, h3, h4, h5⟩ := RoundTrip.strip6_5_5_5_5_6 56#6 d a b k 5#6 hw.symm
  simp only [Instr.wf, Instr.refusal, need_isNone] at h
  exact decode_of ((refusal_56 hm).trans (by simpa [refuseDred, h4, h5, need] using h)) ((form_56 hm).trans (by simp
      [formDred, h1, h2, h3, h4, h5]))

end Sys2Proof.Laws
end

