-- ==== Sys2Proof/Safety.lean ====
section
/-! DEFINITION. The terms in which claims about the machine are stated: the invariant of memory, what a word leaves
unchanged, and what a trap leaves. -/

namespace Sys2Proof.Safety

open Machine

/-- The invariant that every state of a run keeps: memory stands in its canonical form. -/
def Inv (s : State) : Prop := Memory.wf s.mem = true

/-- What retiring a word changes in its thread beside the registers that the word writes: the pc, INSTRET, the cover
remainder, the fetch block in hand, what blocked the thread and what a word had kept while it waited. -/
def SameButRegisters (t u : Thread) : Prop :=
  u = { t with
    g := u.g, v := u.v, p := u.p, bb := u.bb, pc := u.pc, instret := u.instret, cover := u.cover, fetched := u.fetched,
    wait := u.wait, op := u.op, lane := u.lane, forest := u.forest, fixMask := u.fixMask, pathSince := u.pathSince,
    fstat := u.fstat, vstat := u.vstat }

/-- Nothing of the device changes outside the running thread but the interval counts of its core (R98). -/
def OnlyThread (s t : State) : Prop :=
  (∃ th co, t = { s with threads := th, cores := co }) ∧
    (∀ k, k ≠ s.meKey → t.threadAt k = s.threadAt k) ∧
    (∀ c, t.core c = { s.core c with interval := (t.core c).interval, matched := (t.core c).matched })

/-- The frame of a word that writes at most g(d): every other register, every flag but the bits that the word may set
in FSTAT, and every byte of memory keep their values. -/
def FrameG (d : Reg) (setsFstat : Bool) (s t : State) : Prop :=
  OnlyThread s t ∧ SameButRegisters s.me t.me ∧
    (∀ r, r ≠ d → t.g r = s.g r) ∧ (∀ r, t.v r = s.v r) ∧ (∀ r, t.p r = s.p r) ∧ t.me.bb = s.me.bb ∧
    t.me.vstat = s.me.vstat ∧ (if setsFstat then s.me.fstat &&& ~~~t.me.fstat = 0 else t.me.fstat = s.me.fstat) ∧
    (∀ a, t.memByte a = s.memByte a)

/-- A trap as R86 takes it, seen in the thread. -/
def Trapped (cause : BitVec 8) (tval : Word) (s t : State) : Prop :=
  t.me.epc = s.me.pc ∧ t.me.causeCode = cause ∧ t.me.causeAsync = decide (cause = 15) ∧ t.me.tval = tval ∧
    t.me.pmode = s.me.mode ∧ t.me.mode = .service ∧ t.me.convoy = none ∧ t.me.pc = s.myCore.tvec ∧
    t.me.keptCover = s.me.cover ∧ t.me.cover = 0

/-- A trap that waits for the boundary at which the captured pass under way ends (R110): the word has had no effect, and
a trap that waited before goes first. -/
def Pends (cause : BitVec 8) (tval : Word) (s t : State) : Prop :=
  t.me.pending = some (s.me.pending.getD ⟨cause, tval, true⟩) ∧ t.me.pc = s.me.pc ∧ t.me.mode = s.me.mode ∧
    t.me.capture = s.me.capture ∧ t.me.wait = none

/-- The frame of a trap: no g, v or p register, no flag, no byte of memory, no core, cluster or die changes. -/
def FrameTrap (s t : State) : Prop :=
  (∃ th ag, t = { s with threads := th, agenda := ag }) ∧ (∀ r, t.g r = s.g r) ∧ (∀ r, t.v r = s.v r) ∧ (∀ r, t.p r = s.p r) ∧
    t.me.fstat = s.me.fstat ∧ t.me.vstat = s.me.vstat ∧ t.me.instret = s.me.instret ∧
    (∀ a, t.memByte a = s.memByte a)

/-- A trap of the thread's own: taken at once, or at the end of a captured pass that is under way; with its frame. -/
def Traps (cause : BitVec 8) (tval : Word) (s t : State) : Prop :=
  (State.midPass s.me = false → Trapped cause tval s t) ∧ (State.midPass s.me = true → Pends cause tval s t) ∧ FrameTrap s t

/-- Can a word of the running thread on a core read n bytes at a place now: nothing of its own or on its own scratchpad
before it, a path to the bytes, no poison? -/
def readable (s : State) (core : Nat) (loc : Loc) (n : Nat) : Bool :=
  !s.ownPending core s.curTid.toNat false loc n &&
  match loc with
  | .pad c off => (s.poisonIn (padBase c + off) n).isNone
  | .phys pa _ => s.hasPath (dieOf core) (homeOfPhys pa) && (s.poisonIn pa n).isNone
  | .node slot scale q off => ((s.node slot).all fun x => s.hasPath (dieOf core) x.home) &&
      (List.range n).all fun i => !s.resolvePoison 10 slot scale q (off + i)
  | _ => false

/-- The state after a scalar word of the running thread on a core has stored bytes at a place at once; none if the store
waits, travels or finds no block of the lineage pool. -/
def stored (s : State) (core : Nat) (loc : Loc) (bs : List Byte) : Option State :=
  if s.ownPending core s.curTid.toNat true loc bs.length then none
  else match loc with
  | .pad c off => some (s.padWrite c off bs)
  | .phys pa slot =>
    if homeOfPhys pa ≠ dieOf core && (s.defer || !s.hasPath (dieOf core) (homeOfPhys pa)) then none
    else some ((s.physWrite pa slot bs).numberAtOnce core (homeOfPhys pa))
  | .node slot scale q off =>
    match s.node slot with
    | none => none
    | some n =>
      if s.hasPath (dieOf core) n.home then
        (s.ownBlock slot n scale q).map fun u =>
          ((u.writeOwn slot scale q off bs none).coverWritten [(loc, bs.length)]).numberAtOnce core n.home
      else none
  | _ => none

/-- The state after the write of an atomic at a place (R156): at once, whatever engine work is deferred. -/
def swapped (s : State) (core : Nat) (loc : Loc) (bs : List Byte) : Option State :=
  if s.ownPending core s.curTid.toNat true loc bs.length then none
  else match loc with
  | .pad c off => some (s.padWrite c off bs)
  | .phys pa slot => some ((s.physWrite pa slot bs).numberAtOnce core (homeOfPhys pa))
  | _ => none

/-- Is a byte of memory, by its key, one of n bytes at a place? -/
def inPlace (loc : Loc) (n a : Nat) : Prop :=
  match loc with
  | .pad c off => padBase c + off ≤ a ∧ a < padBase c + off + n
  | .phys pa _ => pa ≤ a ∧ a < pa + n
  | _ => False

/-- Nothing stands before a vector word of the executing thread, and an entry of the sequencer is free: it executes as it
issues. -/
def vectorIdle (s : State) : Prop :=
  s.seqEntries < 16 ∧ s.defer = false ∧ s.myCore.vq = [] ∧
    s.captureBefore s.curCore s.curTid.toNat s.myCore.queued = false ∧
    (s.myCore.mq.all fun e => !(e.tid = s.curTid && writesVecs e.instr) && !usesCb2 e.instr) = true

/-- Runs of the own scratchpad that a matrix word may read, or write, at issue: inside it, nothing before the word to wait
for, no poison to read. -/
def ownRuns (s : State) (write : Bool) (rs : List (Nat × Nat)) : Prop :=
  outsidePad rs = none ∧ ∀ r ∈ rs, s.runWaits (s.agent 7) write (r.1 % 2 ^ 64) r.2 = false ∧
    (write = false → s.poisonedRun s.curCore (r.1 % 2 ^ 64) r.2 = none)

/-- A matrix word that issues now is performed at once: an entry of the queue is free and none is taken, nothing is
deferred, no vector word stands before it, no element of the accumulator store or of the magnitude table is poisoned. -/
def matrixIdle (s : State) : Prop :=
  s.myCore.mq = [] ∧ s.myCore.vq = [] ∧ s.defer = false ∧ s.myCore.accPoison = [] ∧ s.myCore.cb2Poison = []

/-- No word or stream stands before an access of a core to its own scratchpad, and nothing is poisoned. -/
def padQuiet (s : State) (core : Nat) : Prop :=
  s.poison = [] ∧ s.sramPoison = [] ∧ ∀ write off n, s.padHazard core write off n = false

/-- The word has retired into the next. -/
def Retired (s t : State) : Prop := t.me.pc = (s.me.pc + 4) &&& ~~~3#64 ∧ t.me.instret = s.me.instret + 1

end Sys2Proof.Safety
end

