-- ==== Sys2Proof/Certificates/Slice0/Obligations.lean ====
section
/-! DEFINITION. The statements for the provers. Each says which rules of spec/ it rests on; one that rests on a choice of
the model names the log entry. -/

open Sys2Proof Sys2Proof.Machine Sys2Proof.Safety

/-- From every state, each OP, immediate, SHI, LUI and ADDPC form answers a next state: the one in which g(d) holds
the form's result, computed from the operands as they were before the write, and the word has retired (pc + 4, INSTRET
+ 1). A write to g0 is discarded by the register write itself (see RegisterZeroAndLanes). (R75, R76, R78,
04_scalar_control_system.md.) -/
def Obligations.IntegerFormsComplete : Prop :=
  ∀ (s : State) (d a b c : Reg) (w : Reg) (imm : BitVec 16) (n : BitVec 6),
    let x := s.g a
    let y := s.g b
    let ans (v : Word) : Out := .next (s.setG d v).retire
    let i : Word := imm.signExtend 64
    let k := if w = 0 then 8 else if w = 1 then 16 else 32
    exec (.add d a b) s = ans (x + y) ∧ exec (.sub d a b) s = ans (x - y) ∧ exec (.and d a b) s = ans (x &&& y) ∧
    exec (.or d a b) s = ans (x ||| y) ∧ exec (.xor d a b) s = ans (x ^^^ y) ∧ exec (.andn d a b) s = ans (x &&& ~~~y) ∧
    exec (.sll d a b) s = ans (x <<< (y.toNat % 64)) ∧ exec (.srl d a b) s = ans (x >>> (y.toNat % 64)) ∧
    exec (.sra d a b) s = ans (x.sshiftRight (y.toNat % 64)) ∧
    exec (.slt d a b) s = ans (if x.toInt < y.toInt then 1 else 0) ∧
    exec (.sltn d a b) s = ans (if x.toNat < y.toNat then 1 else 0) ∧
    exec (.min d a b) s = ans (BitVec.ofInt 64 (min x.toInt y.toInt)) ∧
    exec (.max d a b) s = ans (BitVec.ofInt 64 (max x.toInt y.toInt)) ∧
    exec (.minn d a b) s = ans (BitVec.ofNat 64 (min x.toNat y.toNat)) ∧
    exec (.maxn d a b) s = ans (BitVec.ofNat 64 (max x.toNat y.toNat)) ∧
    exec (.mul d a b) s = ans (BitVec.ofNat 64 (x.toNat * y.toNat)) ∧
    exec (.mulh d a b) s = ans (BitVec.ofInt 64 (x.toInt * y.toInt / 2 ^ 64)) ∧
    exec (.mulhn d a b) s = ans (BitVec.ofNat 64 (x.toNat * y.toNat / 2 ^ 64)) ∧
    exec (.clz d a) s = ans (BitVec.ofNat 64 (leadingZeros x)) ∧ exec (.ctz d a) s = ans (BitVec.ofNat 64 (trailingZeros x)) ∧
    exec (.popc d a) s = ans (BitVec.ofNat 64 (popCount x.toNat)) ∧
    exec (.sext d a w) s = ans ((x.setWidth k).signExtend 64) ∧
    exec (.zext d a w) s = ans ((x.setWidth k).setWidth 64) ∧
    exec (.cmov d a b c) s = ans (if s.g c ≠ 0 then x else y) ∧
    exec (.addi d a imm) s = ans (x + i) ∧ exec (.andi d a imm) s = ans (x &&& imm.setWidth 64) ∧
    exec (.ori d a imm) s = ans (x ||| imm.setWidth 64) ∧ exec (.xori d a imm) s = ans (x ^^^ imm.setWidth 64) ∧
    exec (.slti d a imm) s = ans (if x.toInt < i.toInt then 1 else 0) ∧
    exec (.sltin d a imm) s = ans (if x.toNat < i.toNat then 1 else 0) ∧
    exec (.slli d a n) s = ans (x <<< n.toNat) ∧ exec (.srli d a n) s = ans (x >>> n.toNat) ∧
    exec (.srai d a n) s = ans (x.sshiftRight n.toNat) ∧
    exec (.lui d imm) s = ans (i <<< 16) ∧ exec (.addpc d imm) s = ans (s.me.pc + (i <<< 16))

/-- DIV, DIVN, REM and REMN complete in every state. Division by zero gives all ones as quotient and the dividend as
remainder; -2^63 divided by -1 gives -2^63 and remainder 0; otherwise the signed quotient is rounded toward zero and
the remainder is x - q * y, in the signed and in the unsigned reading. None of them traps. (R77.) -/
def Obligations.DivisionRule : Prop :=
  ∀ (s : State) (d a b : Reg),
    let x := s.g a
    let y := s.g b
    let ans (v : Word) : Out := .next (s.setG d v).retire
    let q : Int := x.toInt.tdiv y.toInt
    (y = 0 → exec (.div d a b) s = ans (BitVec.allOnes 64) ∧ exec (.divn d a b) s = ans (BitVec.allOnes 64) ∧
      exec (.rem d a b) s = ans x ∧ exec (.remn d a b) s = ans x) ∧
    (x.toInt = -2 ^ 63 → y.toInt = -1 → exec (.div d a b) s = ans x ∧ exec (.rem d a b) s = ans 0) ∧
    (y ≠ 0 → ¬(x.toInt = -2 ^ 63 ∧ y.toInt = -1) →
      exec (.div d a b) s = ans (BitVec.ofInt 64 q) ∧ exec (.rem d a b) s = ans (BitVec.ofInt 64 (x.toInt - q * y.toInt))) ∧
    (y ≠ 0 → exec (.divn d a b) s = ans (BitVec.ofNat 64 (x.toNat / y.toNat)) ∧
      exec (.remn d a b) s = ans (BitVec.ofNat 64 (x.toNat - x.toNat / y.toNat * y.toNat)))

/-- The number that CLZ writes is the number of leading zero bits, that of CTZ the number of trailing zero bits (64
for 0), that of POPC the number of one bits: stated of the counting functions by the bits of the word. (R76,
04_scalar_control_system.md.) -/
def Obligations.BitCounts : Prop :=
  ∀ x : Word,
    (x = 0 → leadingZeros x = 64 ∧ trailingZeros x = 64) ∧
    (x ≠ 0 → leadingZeros x < 64 ∧ x.getLsbD (63 - leadingZeros x) = true ∧
      ∀ i, 63 - leadingZeros x < i → x.getLsbD i = false) ∧
    (x ≠ 0 → trailingZeros x < 64 ∧ x.getLsbD (trailingZeros x) = true ∧
      ∀ i, i < trailingZeros x → x.getLsbD i = false) ∧
    popCount x.toNat = (Finset.univ.filter fun i : Fin 64 => x.getLsbD i = true).card

/-- From every state each FOP form answers a next state: FSTAT has the form's flags set and none cleared, g(d) holds
the resulting code zero-extended (FTOI and FTON: the 64-bit integer), and the word has retired. The rounding mode is
the field, or FCTL.RND for code 7 and for FMADD; SAT is 0; the sources are the low 32 bits, of BFTOF and HTOF the low
16. (R79, R80, R17, R43.) -/
def Obligations.FloatFormsComplete : Prop :=
  ∀ (s : State) (d a b c : Reg) (r : BitVec 3),
    let f (q : Reg) : Nat := (s.g q).toNat % 2 ^ 32
    let x := f a
    let y := f b
    let h := (s.g a).toNat % 2 ^ 16
    let m := if r = 7 then s.me.frnd.toNat else r.toNat
    let ans (o : Nat × Flags) : Out := .next (((s.raiseF o.2).setG d (BitVec.ofNat 64 o.1)).retire)
    let int (o : Int × Flags) : Out := .next (((s.raiseF o.2).setG d (BitVec.ofInt 64 o.1)).retire)
    exec (.fadd d a b r) s = ans (fpAddCode 0 m false x y) ∧
    exec (.fsub d a b r) s = ans (fpAddCode 0 m false x (y ^^^ 2 ^ 31)) ∧
    exec (.fmul d a b r) s = ans (fpMulCode 0 m false x y) ∧
    exec (.fdiv d a b r) s = ans (fpDivRound 0 m false (fpDecode 0 x) (fpDecode 0 y)) ∧
    exec (.fsqrt d a r) s = ans (fpSqrtRound 0 m false (fpDecode 0 x)) ∧
    exec (.fmadd d a b c) s =
      (let v := fpFma s.me.frnd.toNat (fpDecode 0 x) (fpDecode 0 y) (fpDecode 0 (f c))
       let k := fpRound 0 s.me.frnd.toNat false v.1
       ans (k.1, v.2.or k.2)) ∧
    exec (.fmin d a b) s = ans (fpMinMax 0 false x y, {}) ∧ exec (.fmax d a b) s = ans (fpMinMax 0 true x y, {}) ∧
    exec (.feq d a b) s = ans (fopCompare false fpEq x y) ∧ exec (.flt d a b) s = ans (fopCompare true fpLt x y) ∧
    exec (.fle d a b) s = ans (fopCompare true (fun u w => !fpLt w u) x y) ∧
    exec (.fclass d a) s = ans (2 ^ fpClass x, {}) ∧
    exec (.fneg d a) s = ans (x ^^^ 2 ^ 31, {}) ∧ exec (.fabs d a) s = ans (x % 2 ^ 31, {}) ∧
    exec (.ftoi d a r) s = int (fpToInt m (-2 ^ 63) (2 ^ 63 - 1) (fpDecode 0 x)) ∧
    exec (.fton d a r) s = int (fpToInt m 0 (2 ^ 64 - 1) (fpDecode 0 x)) ∧
    exec (.itof d a r) s = ans (fpRound 0 m false (fpOfInt (s.g a).toInt)) ∧
    exec (.ntof d a r) s = ans (fpRound 0 m false (fpOfInt ((s.g a).toNat : Int))) ∧
    exec (.ftobf d a r) s = ans (fpConvert 0 1 m false x) ∧ exec (.ftoh d a r) s = ans (fpConvert 0 2 m false x) ∧
    exec (.bftof d a) s = ans (fpConvert 1 0 0 false h) ∧ exec (.htof d a) s = ans (fpConvert 2 0 0 false h)

/-- For FP32 codes: FEQ with a NaN operand writes 0 and sets no flag; FLT and FLE with a NaN operand write 0 and set
FSTAT.invalid; FMIN and FMAX with one NaN operand write the other operand, and with two the canonical NaN; FNEG
inverts bit 31 and FABS clears it, and neither changes another bit or a flag. (R80, 04_scalar_control_system.md.) -/
def Obligations.FloatNaNAndSignRules : Prop :=
  ∀ (s t : State) (d a b : Reg), d ≠ 0 →
    let nan (q : Reg) : Bool := (s.g q).toNat / 2 ^ 23 % 2 ^ 8 = 255 && (s.g q).toNat % 2 ^ 23 ≠ 0
    ((nan a ∨ nan b) → exec (.feq d a b) s = .next t → t.g d = 0 ∧ t.me.fstat = s.me.fstat) ∧
    ((nan a ∨ nan b) → (exec (.flt d a b) s = .next t ∨ exec (.fle d a b) s = .next t) →
      t.g d = 0 ∧ t.me.fstat = s.me.fstat ||| 1) ∧
    ((exec (.fmin d a b) s = .next t ∨ exec (.fmax d a b) s = .next t) →
      (nan a = true → nan b = false → t.g d = ((s.g b).setWidth 32).setWidth 64) ∧
      (nan a = false → nan b = true → t.g d = ((s.g a).setWidth 32).setWidth 64) ∧
      (nan a = true → nan b = true → t.g d = 0x7FC00000)) ∧
    (exec (.fneg d a) s = .next t → t.me.fstat = s.me.fstat ∧
      t.g d = ((s.g a).setWidth 32 ^^^ 0x80000000#32).setWidth 64) ∧
    (exec (.fabs d a) s = .next t → t.me.fstat = s.me.fstat ∧
      t.g d = ((s.g a).setWidth 32 &&& 0x7FFFFFFF#32).setWidth 64)

/-- When an OP, immediate, SHI, LUI, ADDPC, branch, JAL, JALR, LOOP, CRIT, fence or FOP form answers a next state,
then every g register but its destination (JAL: g1; LOOP: g(a); branches, CRIT and fences: none), every v and p
register, VSTAT, every special and exception register, every other thread, every core (but the interval count that R98
gives a paired core), every byte of memory and all else of the device is unchanged; FSTAT is unchanged by the integer
forms, and the FOP forms only set bits of it. In the thread only the pc, INSTRET, the cover remainder and the fetch
block in hand may change beside. (R75, R17, 04_scalar_control_system.md.) -/
def Obligations.RegisterFormsFrame : Prop :=
  ∀ (s t : State) (d a b c w : Reg) (imm : BitVec 16) (o : BitVec 26) (n : BitVec 6) (r : BitVec 3) (k : BitVec 4) (z : BitVec 2)
      (i : Instr), exec i s = .next t →
    (i ∈ [.add d a b, .sub d a b, .and d a b, .or d a b, .xor d a b, .andn d a b, .sll d a b, .srl d a b, .sra d a b,
        .slt d a b, .sltn d a b, .min d a b, .max d a b, .minn d a b, .maxn d a b, .mul d a b, .mulh d a b, .mulhn d a b,
        .div d a b, .divn d a b, .rem d a b, .remn d a b, .clz d a, .ctz d a, .popc d a, .sext d a w, .zext d a w,
        .cmov d a b c, .addi d a imm, .andi d a imm, .ori d a imm, .xori d a imm, .slti d a imm, .sltin d a imm,
        .slli d a n, .srli d a n, .srai d a n, .lui d imm, .addpc d imm, .jalr d a imm] → FrameG d false s t) ∧
    (i ∈ [.beq a b imm, .bne a b imm, .blt a b imm, .bge a b imm, .bltn a b imm, .bgen a b imm, .crit k, .facq z, .frel z,
        .fsc z] → FrameG 0 false s t) ∧
    (i = .jal o → FrameG 1 false s t) ∧ (i = .loop a imm → FrameG a false s t) ∧
    (i ∈ [.fadd d a b r, .fsub d a b r, .fmul d a b r, .fdiv d a b r, .fsqrt d a r, .fmadd d a b c, .fmin d a b, .fmax d a b,
        .feq d a b, .flt d a b, .fle d a b, .fclass d a, .fneg d a, .fabs d a, .ftoi d a r, .fton d a r, .itof d a r,
        .ntof d a r, .ftobf d a r, .bftof d a, .ftoh d a r, .htof d a] → FrameG d true s t)

/-- In every state g0 reads 0 and p0 reads all ones. A write to g0 or p0 changes nothing of the device. Any other g, v
or p register reads what was last written into it, and no write changes another register of its kind. (R11, R12,
01_machine_state.md.) -/
def Obligations.RegisterZeroAndLanes : Prop :=
  ∀ (s : State) (r q : Reg) (m k : BitVec 3) (x : Word) (y : VReg) (z : Pred),
    s.g 0 = 0 ∧ s.p 0 = BitVec.allOnes 128 ∧ s.setG 0 x = s ∧ s.setP 0 z = s ∧
    (s.setG r x).g q = (if q = r ∧ r ≠ 0 then x else s.g q) ∧ (s.setV r y).v q = (if q = r then y else s.v q) ∧
    (s.setP m z).p k = (if k = m ∧ m ≠ 0 then z else s.p k)

/-- Retiring adds 4 to the pc, whose bits 1:0 read 0, counts the word in INSTRET and takes one from the cover
remainder, which stays 0 at 0; a jump does the same with the pc at its target. Both leave every register and all of
memory as they are, and outside the thread nothing changes but the interval count of a paired core. (R15, R85, R98,
01_machine_state.md.) -/
def Obligations.RetireMovesOn : Prop :=
  ∀ (s : State) (target : Word),
    let t := s.retire
    let u := s.jump target
    t.me.pc = (s.me.pc + 4) &&& ~~~3#64 ∧ t.me.instret = s.me.instret + 1 ∧ t.me.cover = s.me.cover - 1 ∧
    u.me.pc = target &&& ~~~3#64 ∧ u.me.instret = s.me.instret + 1 ∧ u.me.cover = s.me.cover - 1 ∧
    FrameG 0 false s t ∧ FrameG 0 false s u

/-- The six branches go to pc + sext(offset, 16) * 4 if g(a) and g(b) stand in the named relation, and to the next
word otherwise. JAL sets g1 := pc + 4 and goes to pc + sext(offset, 26) * 4. JALR computes t := g(a) + sext(imm, 16)
before it writes g(d) := pc + 4, and goes to t with bits 1:0 cleared. None of them traps. (R81.) -/
def Obligations.BranchesAndJumps : Prop :=
  ∀ (s : State) (a b d : Reg) (o imm : BitVec 16) (j : BitVec 26),
    let x := s.g a
    let y := s.g b
    let go (c : Prop) [Decidable c] : Out := .next (if c then s.jump (s.me.pc + o.signExtend 64 * 4) else s.retire)
    exec (.beq a b o) s = go (x = y) ∧ exec (.bne a b o) s = go (x ≠ y) ∧
    exec (.blt a b o) s = go (x.toInt < y.toInt) ∧ exec (.bge a b o) s = go (y.toInt ≤ x.toInt) ∧
    exec (.bltn a b o) s = go (x.toNat < y.toNat) ∧ exec (.bgen a b o) s = go (y.toNat ≤ x.toNat) ∧
    exec (.jal j) s = .next ((s.setG 1 (s.me.pc + 4)).jump (s.me.pc + j.signExtend 64 * 4)) ∧
    exec (.jalr d a imm) s = .next ((s.setG d (s.me.pc + 4)).jump (x + imm.signExtend 64))

/-- LOOP sets g(a) := g(a) - 1 and branches to its target if the new value is not 0, else goes on with the next word;
a count of 0 wraps to 2^64 - 1 and branches. The word of LOOP with a = 0, or with a bit of its b field set, does not
decode. (R83.) -/
def Obligations.LoopForm : Prop :=
  (∀ (s : State) (a : Reg) (o : BitVec 16), a ≠ 0 →
    let x := s.g a - 1
    let s' := s.setG a x
    exec (.loop a o) s = .next (if x = 0 then s'.retire else s'.jump (s.me.pc + o.signExtend 64 * 4)) ∧
      (s.g a = 0 → s'.g a = BitVec.allOnes 64 ∧ x ≠ 0)) ∧
  ∀ (a b : BitVec 5) (o : BitVec 16), (a = 0 ∨ b ≠ 0) → ∃ r, decode (0x25#6 ++ a ++ b ++ o) = .error r

/-- CRIT n (n from 1 to 16, coded n - 1) retires and leaves a cover remainder of n. FACQ, FREL and FSC retire with no
other effect in a model whose accesses are performed before the next word issues (log 7). (R84, R85, R155,
07_memory_sync_instructions.md.) -/
def Obligations.CritAndFencesComplete : Prop :=
  ∀ (s : State) (n : BitVec 4) (z : BitVec 2),
    exec (.crit n) s = .next (s.retire.setMe { s.retire.me with cover := n.toNat + 1 }) ∧
    exec (.facq z) s = .next s.retire ∧ exec (.frel z) s = .next s.retire ∧ exec (.fsc z) s = .next s.retire

/-- For every cause and TVAL, taking a trap saves the pc in EPC, the cause with ASYNC set for cause 15 alone, the
value in TVAL and the mode in PMODE, enters service mode at the pc that TVEC of the core holds, ends the thread's
convoy membership, and keeps the cover remainder beside the cover, which ends. It changes no register that programs
compute with, no flag, no core, cluster or die and no byte of memory; outside a convoy it changes no other thread.
While a captured pass of the thread is under way the trap waits for the boundary at which the pass ends, and a trap
that waits is taken in the same way. (R86, R85, R97, 04_scalar_control_system.md, R110.) -/
def Obligations.TrapEntry : Prop :=
  ∀ (s : State) (cause : BitVec 8) (tval : Word),
    let t := s.takeTrap cause tval
    Traps cause tval s t ∧
      (∀ p, s.me.pending = some p → State.midPass s.me = false → Trapped p.cause p.tval s s.takeDue ∧ FrameTrap s s.takeDue) ∧
      (s.me.convoy = none → ∀ k, k ≠ s.meKey → t.threadAt k = s.threadAt k)

/-- SVC and BRK complete by taking traps 9 and 8 with the code in TVAL, EPC naming the SVC or BRK itself. In service
mode ERET completes with pc := EPC (bits 1:0 clear), MODE := PMODE, PMODE unchanged and the kept cover remainder
restored, and every g, v and p register and byte of memory unchanged. In task mode ERET traps with cause 10 and its
own word in TVAL. (R89, R85, R11.) -/
def Obligations.SystemCallBreakpointAndReturn : Prop :=
  ∀ (s : State) (c : BitVec 5),
    exec (.svc c) s = .next (s.takeTrap 9 (c.setWidth 64)) ∧ exec (.brk c) s = .next (s.takeTrap 8 (c.setWidth 64)) ∧
    (s.me.mode = .task → exec .eret s = .next (s.takeTrap 10 0x84000002)) ∧
    (s.me.mode = .service → ∃ t, exec .eret s = .next t ∧ t.me.pc = s.me.epc &&& ~~~3#64 ∧ t.me.mode = s.me.pmode ∧
      t.me.pmode = s.me.pmode ∧ t.me.cover = s.me.keptCover ∧ t.me.instret = s.me.instret + 1 ∧
      (∀ r, t.g r = s.g r) ∧ (∀ r, t.v r = s.v r) ∧ (∀ r, t.p r = s.p r) ∧ t.me.fstat = s.me.fstat ∧
      t.me.vstat = s.me.vstat ∧ t.me.epc = s.me.epc ∧ t.me.tval = s.me.tval ∧ t.me.causeCode = s.me.causeCode ∧
      (∀ x, t.memByte x = s.memByte x) ∧ (∀ k, k ≠ s.meKey → t.threadAt k = s.threadAt k))

/-- In service mode, or for a number that R11 does not make privileged, and with no earlier engine work of the thread
outstanding where R100 makes the move wait, SYSR writes the register's value into g(d) and retires, and SYSW writes
g(a) to the register and retires (INVVA: the entries are dropped; the word retires at once unless engine work is left
for later events or a write that used a dropped entry has still to be performed, in which case it blocks until its
event). In task mode SYSR of 0x101 to 0x1FF, and SYSW of 0x100 to 0x1FF and of INSTRET, VSEQ and VSRES, trap with
cause 10 and the instruction word in TVAL; SYSR of STATUS does not. (R11, R14, R100, R87, R267.) -/
def Obligations.SystemRegisterMoves : Prop :=
  ∀ (s : State) (q : Reg) (r : BitVec 12),
    let n := r.toNat
    let waits := sysWaits n && s.engineBusy
    (s.me.mode = .service ∨ n < 0x101 → waits = false → exec (.sysr q r) s = .next (s.setG q (s.sysRead n)).retire) ∧
    (s.me.mode = .task → 0x101 ≤ n → exec (.sysr q r) s = .next (s.takeTrap 10 ((encode (.sysr q r)).setWidth 64))) ∧
    (s.me.mode = .service ∨ (n < 0x100 ∧ n ∉ [0x041, 0x044, 0x045]) → waits = false → n ≠ 0x107 →
      exec (.sysw q r) s = .next (s.sysWrite n (s.g q)).retire) ∧
    (s.me.mode = .service → n = 0x107 →
      let dropped : State := if (s.g q).toNat % 4 = 0 then s.dropPage (s.g q)
        else if (s.g q).toNat % 4 = 1 then s.dropRoot else s.dropAll
      let b : State := dropped.block (.sysw q r)
      (s.defer = false → invvaHeld (s.g q) s = false → exec (.sysw q r) s = .next dropped.retire) ∧
      (s.defer = true ∨ invvaHeld (s.g q) s = true →
        exec (.sysw q r) s = .next (b.setMe { b.me with op := some (invvaEvent s.curCore s.curTid.toNat (s.g q)) }))) ∧
    (s.me.mode = .task → (0x100 ≤ n ∨ n ∈ [0x041, 0x044, 0x045]) →
      exec (.sysw q r) s = .next (s.takeTrap 10 ((encode (.sysw q r)).setWidth 64)))

/-- In service mode a register reads, after SYSW, the written value in its RW fields and 0 in its reserved bits:
DOMAIN, VSTAT, FSTAT, BBPTR, BBLIM, BBLO, BBHI, the RNG registers, WDOG, INSTRET, VSEQ, VSRES, EPC, CAUSE, TVAL, TVEC,
PTBASE and INVROOT. BBCNT stores at most 128 with DIR from bit 8; a rounding field stores 0 for 5, 6 and 7 and QFMT
stores 11 for a code other than 11 to 15; STATUS takes CVB, AIE and PMODE alone. In task mode DOMAIN takes LEVEL
alone. (R14, R16, R18, R19, R20, R100, R111, R153, R266.) -/
def Obligations.SystemRegisterFields : Prop :=
  ∀ (s : State) (x : Word),
    let rd (n : Nat) : Word := (s.sysWrite n x).sysRead n
    let f (v : Nat) : Nat := if v ≤ 4 then v else 0
    (s.me.mode = .service → rd 0x008 = x &&& 0x07FFFF03) ∧
    (s.me.mode = .task → rd 0x008 = (s.sysRead 0x008 &&& ~~~3#64) ||| (x &&& 3)) ∧
    rd 0x010 = x &&& 0x3F ∧ rd 0x012 = x &&& 0x1F ∧
    (rd 0x011).toNat = (let q := x.toNat / 16 % 32; if 11 ≤ q ∧ q ≤ 15 then q else 11) * 16 + x.toNat / 8 % 2 * 8 + f (x.toNat % 8) ∧
    (rd 0x013).toNat = f (x.toNat % 8) ∧
    rd 0x028 = x &&& 0x3FFFF ∧ rd 0x029 = x &&& 0x3FFFF ∧
    (rd 0x02A).toNat = x.toNat / 256 % 2 * 256 + min (x.toNat % 256) 128 ∧ rd 0x02B = x ∧ rd 0x02C = x ∧
    rd 0x030 = x ∧ rd 0x031 = x &&& 0xFFFFFFFF ∧ rd 0x032 = x ∧ rd 0x033 = x &&& 0xFFFFFFFF ∧
    rd 0x038 = x &&& 0xFFFFFFFFFFFF ∧ rd 0x041 = x ∧ rd 0x044 = x &&& 0x3FF8FFFFFF ∧ rd 0x045 = x ∧
    rd 0x100 = (s.sysRead 0x100 &&& ~~~0x26#64) ||| (x &&& 0x26) ∧
    rd 0x101 = x ∧ rd 0x102 = x &&& 0x80000000000000FF ∧ rd 0x103 = x ∧ rd 0x104 = x &&& ~~~3#64 ∧
    rd 0x105 = x &&& 0xFFFFFFFFF07FF ∧ rd 0x106 = x &&& 0xFFFFFFFFF0000

/-- A write of a system register leaves every other register that SYSR reads as it was, every g, v and p register,
every other thread, and every byte of memory. (R14, R100, 04_scalar_control_system.md.) -/
def Obligations.SystemRegisterWriteFrame : Prop :=
  ∀ (s : State) (x : Word) (n m : Nat),
    let t := s.sysWrite n x
    (m ≠ n → m ∈ sysReadable → t.sysRead m = s.sysRead m) ∧
      (∀ r, t.g r = s.g r) ∧ (∀ r, t.v r = s.v r) ∧ (∀ r, t.p r = s.p r) ∧ (∀ a, t.memByte a = s.memByte a) ∧
      (∀ k, k ≠ s.meKey → t.threadAt k = s.threadAt k) ∧ (∀ c, c ≠ s.curCore → t.core c = s.core c)

/-- In task mode ERET, ADMIT, REPLAY and TESTC take trap 10 with their own word in TVAL; in service mode TASKEND does.
Such a trap has none of the instruction's effect: no register, no flag and no byte of memory changes, and EPC names
the word. (R11, R87, R91.) -/
def Obligations.PrivilegedFormsTrapInTaskMode : Prop :=
  ∀ (s : State) (d a : Reg),
    (s.me.mode = .task → ∀ i ∈ [Instr.eret, .admitPage d a, .replay d a, .testc d a],
      ∃ t, exec i s = .next t ∧ Traps 10 ((encode i).setWidth 64) s t) ∧
    (s.me.mode = .service →
      ∃ t, exec .taskend s = .next t ∧ Traps 10 ((encode .taskend).setWidth 64) s t)

/-- WFI retires at once if a trap is pending (the model's reading of R90, whose wake events a pending trap is: log
17); else the thread stops in it, and WFI_WAKE retires it once a wake event was seen, a trap is pending or 65,536
cycles have passed, and changes nothing before that. YIELD retires and lets every other ready thread of the core issue
first. In task mode TASKEND retires and ends the thread (it runs no more and is in no convoy). SIGNAL retires and
marks the instance of the core as having signalled, and the dispatchers look again. WAITPRED retires if every
predecessor instance has ended and else blocks; WAITPRED_RELEASE retires the blocked word once they have. On a core
without an instance SIGNAL and WAITPRED retire. (R90, R310, 04_scalar_control_system.md, R91, R92, R93, R302.) -/
def Obligations.WaitForInterruptAndYield : Prop :=
  (∀ (s : State) (core : Nat) (tid : Nat),
     let due (t : Thread) : Bool := t.pending.isSome || t.wdogDue || t.stopTrap
     let w := s.thread core tid
     let others := (List.range 4).filter fun k => k ≠ s.curTid.toNat && (s.thread s.curCore k).running &&
       (s.thread s.curCore k).wait.isNone && (s.thread s.curCore k).forest.isNone && !s.myCore.contained
     (due s.me = true → exec .wfi s = .next s.retire) ∧
     (due s.me = false → exec .wfi s = .next (s.setMe { s.me with wait := some .wfi, wake := false, wfiAt := s.cycle })) ∧
     (w.wait = some .wfi → (w.wake || due w || 65536 ≤ (s.cycle - w.wfiAt).toNat) = true →
       exec (.wfiWake core tid) s = .next (s.within core tid fun s => (s.setMe { s.me with wake := false }).retire)) ∧
     ((w.wait ≠ some .wfi ∨ (w.wake || due w || 65536 ≤ (s.cycle - w.wfiAt).toNat) = false) →
       exec (.wfiWake core tid) s = .next s) ∧
     exec .yield s = .next (s.retire.setMe { s.retire.me with
       yielded := others.foldl (fun m k => m ||| (1#4 <<< k)) 0 })) ∧
  (∀ (s : State) (core tid : Nat),
     (s.me.mode = .task → exec .taskend s = .next s.retire.endThread ∧ s.retire.endThread.me.running = false ∧
        s.retire.endThread.me.convoy = none) ∧
     (∀ (k : Nat) (i : Inst), (s.core s.curCore).inst = some k → Map.find s.insts k = some i →
       (∃ t, exec .signal s = .next t ∧ t = (s.retire.setInst k { i with signalled := true }).kick) ∧
       (s.predsEnded i = true → exec .waitpred s = .next s.retire) ∧
       (s.predsEnded i = false → exec .waitpred s = .next (s.block .waitpred))) ∧
     ((s.core s.curCore).inst = none → exec .signal s = .next s.retire ∧ exec .waitpred s = .next s.retire) ∧
     (∀ i, s.instOf core = some i → (s.thread core tid).wait = some .waitpred →
       exec (.waitpredRelease core tid) s = .next (if s.predsEnded i then s.within core tid State.retire else s)))

/-- CONVOY and CONVOY.S answer 1 if the span row does not hold the group or a member runs too few threads, 3 in a
convoy, 4 on a paired core, and clear CVB. If every other thread of the group waits in CONVOY with the same n, the
convoy forms, strict if the leader's word is CONVOY.S (log 36: R95 leaves open whose word decides): every member's
CONVOY retires with 0 in its destination, the member is in the convoy of the group, goes on at the leader's pc,
wherever its own CONVOY stood (the model's choice, log 10), its CVB is clear and no other register of it changes; if
some has not arrived the thread blocks, and CONVOY_FORM looks again. DISBAND answers 0 in a convoy, which the thread
leaves, else 1 if CVB is set and 2 if not. Where a thread of the group waits with another n, every such thread and the
issuing one answer 2. (R95, R96, R19.) -/
def Obligations.ConvoyForms : Prop :=
  ∀ (s : State) (d : Reg) (n : BitVec 2) (core tid : Nat),
    let done (x : Word) : State := (s.setG d x).retire
    let clear (t : State) : State := t.setMe { t.me with cvb := false }
    (∀ strict : Bool,
      let i : Instr := if strict then .convoyS d n else .convoy d n
      (s.convoyGroup n = none ∨ s.groupRuns = false → exec i s = .next (clear (done 1))) ∧
      (∀ grp, s.convoyGroup n = some grp → s.groupRuns = true →
        let others := (s.groupCores grp).filter (· ≠ s.curCore)
        let waits (c : Nat) : Option (BitVec 2 × Bool) := State.convoyWait (s.thread c s.curTid.toNat)
        let clash := others.filter fun c =>
          match waits c with
          | some w => w.1 ≠ n
          | none => false
        (clash ≠ [] → exec i s = .next (clear (clash.foldl (fun u c => u.convoyResult c s.curTid.toNat 2) (done 2)))) ∧
        (clash = [] → s.me.convoy.isSome = true → exec i s = .next (clear (done 3))) ∧
        (clash = [] → s.me.convoy = none → s.myCore.paired = true → exec i s = .next (clear (done 4))) ∧
        (clash = [] → s.me.convoy = none → s.myCore.paired = false → (∃ c ∈ others, waits c = none) →
          exec i s = .next (clear (s.block i))) ∧
        (clash = [] → s.me.convoy = none → s.myCore.paired = false → (∀ c ∈ others, (waits c).isSome = true) →
          let lead : Bool := match (s.groupCores grp).head? with
            | some c => if c = s.curCore then strict else match waits c with
              | some w => w.2
              | none => strict
            | none => strict
          let t := (clear (s.block i)).formConvoy grp lead
          let first := s.thread ((s.groupCores grp).headD s.curCore) s.curTid.toNat
          exec i s = .next t ∧
            ((s.groupCores grp).Nodup → ∀ c ∈ s.groupCores grp,
              let old := s.thread c s.curTid.toNat
              let new := t.thread c s.curTid.toNat
              let dest := if c = s.curCore then d else State.convoyDest old
              new.convoy = some ⟨lead, grp⟩ ∧ new.cvb = false ∧ new.wait = none ∧ new.pc = (first.pc + 4) &&& ~~~3#64 ∧
                new.instret = old.instret + 1 ∧ (dest ≠ 0 → new.g[dest.toNat] = 0) ∧
                (∀ r : Reg, r ≠ dest → new.g[r.toNat] = old.g[r.toNat]) ∧ new.v = old.v ∧ new.p = old.p)))) ∧
    (∀ i : Instr, (i = .convoy d n ∨ i = .convoyS d n) → (s.thread core tid).wait = some i →
      ∃ t, exec i (s.asThread core tid) = .next t ∧
        exec (.convoyForm core tid) s = .next { t with curCore := s.curCore, curTid := s.curTid }) ∧
    exec (.disband d) s = .next (if s.me.convoy.isSome then ((s.setMe { s.me with convoy := none }).setG d 0).retire
      else if s.me.cvb then done 1 else done 2)

/-- PAIR answers 1 if the task is not paired, 2 in a convoy, 3 on a paired core; otherwise it answers 0, both cores
read PAIRED, and what each thread begins its first interval with is kept. UNPAIR answers 1 on an unpaired core; with
the intervals of the core's threads closed it answers 0 and releases the partner; an open interval is closed first, as
one that agrees, that of the lowest thread before the others (R98 says only that UNPAIR closes it: the order and the
agreement are the model's choice, log 11). (R98, 04_scalar_control_system.md.) -/
def Obligations.PairAndUnpair : Prop :=
  ∀ (s : State) (d : Reg),
    let done (x : Word) : Out := .next (s.setG d x).retire
    let couple (t : State) (c : Nat) : State := t.setCore c { t.core c with
      paired := true, agreed := 0, interval := Vector.replicate 4 0, mismatched := 0, matched := 0 }
    let free (t : State) (c : Nat) : State := t.setCore c { t.core c with paired := false, mismatched := 0, matched := 0 }
    (s.taskPaired = false → exec (.pair d) s = done 1) ∧
    (s.taskPaired = true → s.me.convoy.isSome = true → exec (.pair d) s = done 2) ∧
    (s.taskPaired = true → s.me.convoy = none → s.myCore.paired = true → exec (.pair d) s = done 3) ∧
    (s.taskPaired = true → s.me.convoy = none → s.myCore.paired = false →
      exec (.pair d) s = .next ((couple (couple (s.setG d 0).retire s.curCore) (s.curCore + 1)).checkpointPair s.curCore)) ∧
    (s.myCore.paired = false → exec (.unpair d) s = done 1) ∧
    (s.myCore.paired = true → s.myCore.interval = Vector.replicate 4 0 →
      exec (.unpair d) s = .next (((free (free s s.curCore) (s.curCore + 1)).dropCheckpoints s.curCore).setG d 0).retire) ∧
    (∀ k : Fin 4, s.myCore.paired = true → s.myCore.interval[k] ≠ 0 → (∀ j : Fin 4, j < k → s.myCore.interval[j] = 0) →
      exec (.unpair d) s = .next (s.enqueue (.pairIntervalEnd s.curCore k true)))

/-- In service mode ADMIT walks for its address (a walk that counts, and sets no A: log 36) and answers
0x8000000000000001 for an address outside device memory, without a valid 64 KiB leaf or with R = 0; 0x8000000000000002
with W = 1; 0x8000000000000004 in the second tier or not pinned; and changes nothing else. Otherwise it sets the
frame's admission bit and scans its words: it answers the byte offset of the first that R65 and R66 refuse, and the
frame is not admitted; or all ones, the frame is admitted, and X is set in the leaf in memory by one update. With
engine work deferred it blocks, keeping the leaf, until ADMIT_COMPLETE scans that leaf's frame and retires it with the
result: 0x8000000000000003 where a write has meanwhile ended the admission. INVVA_PAGE, INVVA_ROOT and INVVA_ALL drop
the cached entries and retire a thread blocked in that very write once the writes that used them have been performed;
to a thread that does not wait for them they do nothing. (R69, R70, R65, R66, R11, R266, R267.) -/
def Obligations.AdmitChecksThePage : Prop :=
  (∀ (s : State) (d a : Reg), s.me.mode = .service →
     let va := (s.g a).toNat
     let walk := s.beginWalk s.myDie s.myCore.ptbase va
     let u := walk.2
     let key := s.myCore.ptbase.key.toNat
     let done (t : State) (x : Word) : Out := .next (t.setG d x).retire
     (va < 0x4000000000 ∨ 2 ^ 54 ≤ va → exec (.admitPage d a) s = done s 0x8000000000000001) ∧
     (0x4000000000 ≤ va → va < 2 ^ 54 →
       ((∀ l, walk.1 = .leaf l → l.large = true ∨ Pte.r l.pte = false) →
         exec (.admitPage d a) s = done u 0x8000000000000001) ∧
       (∀ l, walk.1 = .leaf l → l.large = false → Pte.r l.pte = true →
         (Pte.w l.pte = true → exec (.admitPage d a) s = done u 0x8000000000000002) ∧
         (Pte.w l.pte = false → Pte.tier l.pte = true ∨ Pte.pin l.pte = false →
           exec (.admitPage d a) s = done u 0x8000000000000004) ∧
         (Pte.w l.pte = false → Pte.tier l.pte = false → Pte.pin l.pte = true →
           let f := Pte.frame l.pte
           let t : State := { u with admitted := setInsert u.admitted f }
           let b := t.block (.admitPage d a)
           let words := wordsOf (t.physRead (f * 2 ^ 16) 0x10000 (Pte.key l.pte))
           (s.defer = true → exec (.admitPage d a) s =
             .next (b.setMe { b.me with op := some (.admitComplete s.curCore s.curTid.toNat), admitting := some l })) ∧
           (s.defer = false → ∀ k, firstRefused words 0 = some k →
             exec (.admitPage d a) s = done { t with admitted := setErase t.admitted f } (BitVec.ofNat 64 (4 * k))) ∧
           (s.defer = false → firstRefused words 0 = none →
             exec (.admitPage d a) s =
               done (t.physWrite l.at_ key (leBytes 8 (ofLe (t.physRead l.at_ 8 key) ||| 0x10))) (BitVec.allOnes 64)))))) ∧
  (∀ (s : State) (core tid : Nat) (v : Word) (d a : Reg),
     let w := s.thread core tid
     (∀ l, w.wait = some (.admitPage d a) → w.op = some (.admitComplete core tid) → w.admitting = some l →
       exec (.admitComplete core tid) s = .next (s.within core tid fun s =>
         let r := s.admitScan l
         ((r.2.setMe { r.2.me with admitting := none }).setG d r.1).retire)) ∧
     (∀ l, firstRefused (wordsOf (s.physRead (Pte.frame l.pte * 2 ^ 16) 0x10000 (Pte.key l.pte))) 0 = none →
       s.admitted.contains (Pte.frame l.pte) = false → s.admitScan l = (0x8000000000000003, s)) ∧
     (w.op = some (.invvaPage core tid v) → exec (.invvaPage core tid v) s = .next (s.within core tid fun s =>
       if invvaHeld v (s.dropPage v) then s.dropPage v else (s.dropPage v).retire)) ∧
     (w.op = some (.invvaRoot core tid v) → exec (.invvaRoot core tid v) s = .next (s.within core tid fun s =>
       if invvaHeld v s.dropRoot then s.dropRoot else s.dropRoot.retire)) ∧
     (w.op = some (.invvaAll core tid v) → exec (.invvaAll core tid v) s = .next (s.within core tid fun s =>
       if invvaHeld v s.dropAll then s.dropAll else s.dropAll.retire)) ∧
     (w.op = none → exec (.invvaPage core tid v) s = .next s ∧ exec (.invvaRoot core tid v) s = .next s ∧
       exec (.invvaAll core tid v) s = .next s ∧ exec (.admitComplete core tid) s = .next s))

/-- LB, LBN, LH, LHN, LW, LWN and LD at g(a) + sext(imm, 16), and LDAB, LDAH, LDAW and LDAD at g(a): if the address is
aligned, resolves (own scratchpad, a window, device memory through the page tables, a lineage window), and the bytes
can be read now, the word completes: g(d) holds the little-endian bytes, sign-extended for LB, LH and LW and
zero-extended otherwise, and the word retires. LD and LDAD read a service register where the address resolves to one,
once no write of the thread is queued, unacknowledged or on its way in an exchange block (DEVENT only while engine
work is not deferred). (R148, R155, R146, R2, R375.) -/
def Obligations.ScalarLoadsComplete : Prop :=
  ∀ (s u : State) (d a : Reg) (imm : BitVec 16) (z : BitVec 2) (loc : Loc),
    let va := (s.g a + imm.signExtend 64).toNat
    let at_ := (s.g a).toNat
    let regs : Agent := { s.agent 5 with regs := true }
    let ok (x n : Nat) : Prop := x % n = 0 ∧ resolve (s.agent 5) .load x n s = (.ok loc, u) ∧ readable u s.curCore loc n = true
    let okD (x : Nat) : Prop := x % 8 = 0 ∧ resolve regs .load x 8 s = (.ok loc, u) ∧ readable u s.curCore loc 8 = true
    let bytes (n : Nat) : Nat := ofLe (peekLoc u loc n)
    let sx (n : Nat) : Out := .next (u.setG d (BitVec.ofInt 64 (signed (8 * n) (bytes n)))).retire
    let zx (n : Nat) : Out := .next (u.setG d (BitVec.ofNat 64 (bytes n))).retire
    (ok va 1 → exec (.lb d a imm) s = sx 1 ∧ exec (.lbn d a imm) s = zx 1) ∧
    (ok va 2 → exec (.lh d a imm) s = sx 2 ∧ exec (.lhn d a imm) s = zx 2) ∧
    (ok va 4 → exec (.lw d a imm) s = sx 4 ∧ exec (.lwn d a imm) s = zx 4) ∧
    (okD va → exec (.ld d a imm) s = zx 8) ∧
    (ok at_ 1 → exec (.ldab d a z) s = zx 1) ∧ (ok at_ 2 → exec (.ldah d a z) s = zx 2) ∧
    (ok at_ 4 → exec (.ldaw d a z) s = zx 4) ∧ (okD at_ → exec (.ldad d a z) s = zx 8) ∧
    (∀ x i, (x, i) ∈ [(va, Instr.ld d a imm), (at_, .ldad d a z)] → x % 8 = 0 → u.ownWritesOut = false →
      (∀ c off, resolve regs .load x 8 s = (.ok (.clusterReg c off), u) → u.hasPath (dieOf s.curCore) (c / 128) = true →
        exec i s = .next (u.setG d (u.readClusterReg c off)).retire) ∧
      (∀ die off, resolve regs .load x 8 s = (.ok (.dieReg die off), u) → u.hasPath (dieOf s.curCore) die = true →
        (off ≠ 0x320 ∨ u.defer = false) →
        exec i s = .next ((u.dieRead die off).2.setG d (u.dieRead die off).1).retire))

/-- SB, SH, SW and SD at g(a) + sext(imm, 16), and STLB, STLH, STLW and STLD at g(a): if the address is aligned and
resolves, and the store neither waits nor travels to another die, the word completes: the low 1, 2, 4 or 8 bytes of
g(b) stand there, low byte first, and the word retires. SD and STLD to a service register of a cluster or of a die
perform the register's write, as a numbered write if it crosses a bridge, performed and acknowledged at once (R253,
R324; that it is at once is the model's choice, log 23), once no write of the thread is queued, unacknowledged or on
its way in an exchange block, and unless it is left to an event or a read of GSUBMIT's graph waits. (R148, R155, R146,
R2, R375, R253, R324.) -/
def Obligations.ScalarStoresComplete : Prop :=
  ∀ (s u t : State) (b a : Reg) (imm : BitVec 16) (z : BitVec 2) (loc : Loc),
    let va := (s.g a + imm.signExtend 64).toNat
    let at_ := (s.g a).toNat
    let regs : Agent := { s.agent 5 with regs := true }
    let ok (x n : Nat) : Prop := x % n = 0 ∧ resolve (s.agent 5) .store x n s = (.ok loc, u) ∧
      stored u s.curCore loc (leBytes n ((s.g b).toNat % 2 ^ (8 * n))) = some t
    let okD (x : Nat) : Prop := x % 8 = 0 ∧ resolve regs .store x 8 s = (.ok loc, u) ∧
      stored u s.curCore loc (leBytes 8 (s.g b).toNat) = some t
    (ok va 1 → exec (.sb b a imm) s = .next t.retire) ∧ (ok va 2 → exec (.sh b a imm) s = .next t.retire) ∧
    (ok va 4 → exec (.sw b a imm) s = .next t.retire) ∧ (okD va → exec (.sd b a imm) s = .next t.retire) ∧
    (ok at_ 1 → exec (.stlb a b z) s = .next t.retire) ∧ (ok at_ 2 → exec (.stlh a b z) s = .next t.retire) ∧
    (ok at_ 4 → exec (.stlw a b z) s = .next t.retire) ∧ (okD at_ → exec (.stld a b z) s = .next t.retire) ∧
    (∀ x i, (x, i) ∈ [(va, Instr.sd b a imm), (at_, .stld a b z)] → x % 8 = 0 → u.ownWritesOut = false → u.defer = false →
      (∀ c off, resolve regs .store x 8 s = (.ok (.clusterReg c off), u) → u.hasPath (dieOf s.curCore) (c / 128) = true →
        exec i s = .next ((u.writeClusterReg c off (s.g b)).numberAtOnce s.curCore (c / 128)).retire) ∧
      (∀ die off, resolve regs .store x 8 s = (.ok (.dieReg die off), u) → u.hasPath (dieOf s.curCore) die = true →
        (off ≠ 0x020 ∧ off ≠ 0x028 ∨ u.piecesCanGo die = true) →
        (off ≠ 0x300 ∨ (u.submitGraph false die (s.g b)).isSome = true) →
        exec i s = .next ((u.dieWrite die off (s.g b)).numberAtOnce s.curCore die).retire))

/-- AMOADD, AMOAND, AMOOR, AMOXOR, AMOMIN, AMOMAX, AMOMINN, AMOMAXN, AMOSWAP and AMOCAS on 4 or 8 bytes, and AMOFADD
and AMOBFADD on 4: if g(a) is aligned and resolves to a scratchpad or to device memory, and the bytes can be read and
stored now, the word completes: the new value stands there (AMOCAS: only where m equals the old g(d)), g(d) holds m,
and an atomic on device memory is counted by the home die. (R156, R157, R327, R328.) -/
def Obligations.AtomicsComplete : Prop :=
  ∀ (s u t : State) (d a b : Reg) (z : BitVec 1) (o c : BitVec 2) (loc : Loc) (n : Nat),
    let at_ := (s.g a).toNat
    let m := ofLe (peekLoc u loc n)
    let y := (s.g b).toNat % 2 ^ (8 * n)
    let cur := (s.g d).toNat % 2 ^ (8 * n)
    let counted : State := match loc with
      | .phys pa _ => u.countAtomic (homeOfPhys pa)
      | _ => u
    let sg (x : Nat) : Int := signed (8 * n) x
    let ok (new : Nat) : Prop := at_ % n = 0 ∧ resolve (s.agent 5) .both at_ n s = (.ok loc, u) ∧
      readable u s.curCore loc n = true ∧ swapped counted s.curCore loc (leBytes n new) = some t
    let ans : Out := .next (t.setG d (BitVec.ofNat 64 m)).retire
    (n = (if z = 0 then 4 else 8) →
      (ok ((m + y) % 2 ^ (8 * n)) → exec (.amoadd d a b z o c) s = ans) ∧
      (ok (m &&& y) → exec (.amoand d a b z o c) s = ans) ∧ (ok (m ||| y) → exec (.amoor d a b z o c) s = ans) ∧
      (ok (m ^^^ y) → exec (.amoxor d a b z o c) s = ans) ∧
      (ok (if sg y ≤ sg m then y else m) → exec (.amomin d a b z o c) s = ans) ∧
      (ok (if sg m < sg y then y else m) → exec (.amomax d a b z o c) s = ans) ∧
      (ok (min m y) → exec (.amominn d a b z o c) s = ans) ∧ (ok (max m y) → exec (.amomaxn d a b z o c) s = ans) ∧
      (ok y → exec (.amoswap d a b z o c) s = ans) ∧
      (m = cur → ok y → exec (.amocas d a b z o c) s = ans) ∧
      (m ≠ cur → at_ % n = 0 → resolve (s.agent 5) .both at_ n s = (.ok loc, u) → readable u s.curCore loc n = true →
        exec (.amocas d a b z o c) s = .next (counted.setG d (BitVec.ofNat 64 m)).retire)) ∧
    (n = 4 →
      (ok (fpAddRne 0 m y) → exec (.amofadd d a b o c) s = ans) ∧
      (ok (fpAddRne 1 (m % 2 ^ 16) (y % 2 ^ 16) + 2 ^ 16 * fpAddRne 1 (m / 2 ^ 16 % 2 ^ 16) (y / 2 ^ 16 % 2 ^ 16)) →
        exec (.amobfadd d a b o c) s = ans))

/-- A load, store or atomic of n bytes whose address is not a multiple of n takes trap 1, and an aligned one outside
every region takes trap 2: between the own scratchpad and the member windows, between those and device memory, or at
or above 2^55; so does one in a member window that is not open, or at a lineage-window address that no mapping of the
task holds; TVAL holds the address of its first byte, and no register, flag or byte of memory changes. (R146, R148,
R21, R87, R22, R23.) -/
def Obligations.MisalignedAndUnmappedAccessesTrap : Prop :=
  ∀ (s : State) (d a b : Reg) (imm : BitVec 16) (z : BitVec 1) (o c : BitVec 2),
    let va := s.g a + imm.signExtend 64
    let at_ := s.g a
    let hole (x : Word) : Prop := (0x40000 ≤ x.toNat ∧ x.toNat < 0x1000000) ∨ (0x2000000 ≤ x.toNat ∧ x.toNat < 0x4000000000) ∨
      2 ^ 55 ≤ x.toNat ∨
      (0x1000000 ≤ x.toNat ∧ x.toNat < 0x2000000 ∧ s.windowOpen (s.agent 5) ((x.toNat - 0x1000000) / 0x40000) = none) ∨
      (2 ^ 54 ≤ x.toNat ∧ x.toNat < 2 ^ 55 ∧ s.mappingAt (s.agent 5).task x.toNat = none)
    let traps (i : Instr) (x : Word) (n : Nat) : Prop :=
      (x.toNat % n ≠ 0 → ∃ t, exec i s = .next t ∧ Traps 1 x s t) ∧
      (x.toNat % n = 0 → hole x → ∃ t, exec i s = .next t ∧ Traps 2 x s t)
    let w := if z = 0 then 4 else 8
    traps (.lb d a imm) va 1 ∧ traps (.lbn d a imm) va 1 ∧ traps (.lh d a imm) va 2 ∧ traps (.lhn d a imm) va 2 ∧
    traps (.lw d a imm) va 4 ∧ traps (.lwn d a imm) va 4 ∧ traps (.ld d a imm) va 8 ∧
    traps (.sb b a imm) va 1 ∧ traps (.sh b a imm) va 2 ∧ traps (.sw b a imm) va 4 ∧ traps (.sd b a imm) va 8 ∧
    traps (.ldab d a c) at_ 1 ∧ traps (.ldah d a c) at_ 2 ∧ traps (.ldaw d a c) at_ 4 ∧ traps (.ldad d a c) at_ 8 ∧
    traps (.stlb a b c) at_ 1 ∧ traps (.stlh a b c) at_ 2 ∧ traps (.stlw a b c) at_ 4 ∧ traps (.stld a b c) at_ 8 ∧
    traps (.amoadd d a b z o c) at_ w ∧ traps (.amoand d a b z o c) at_ w ∧ traps (.amoor d a b z o c) at_ w ∧
    traps (.amoxor d a b z o c) at_ w ∧ traps (.amomin d a b z o c) at_ w ∧ traps (.amomax d a b z o c) at_ w ∧
    traps (.amominn d a b z o c) at_ w ∧ traps (.amomaxn d a b z o c) at_ w ∧ traps (.amoswap d a b z o c) at_ w ∧
    traps (.amocas d a b z o c) at_ w ∧ traps (.amofadd d a b o c) at_ 4 ∧ traps (.amobfadd d a b o c) at_ 4

/-- A scalar store or acquire load form whose word completes on bytes (own scratchpad, member window, device memory,
lineage window; no service register): a store changes no register, and in memory only the bytes at the place its
address resolves to, the width of the form from that place on, beside what resolving the address has changed
(ResolveFrame: A and D bits of the leaf; nothing in a scratchpad, window or lineage window). A load changes g(d), no
byte of memory and no lineage node. A store to a lineage window leaves every byte of memory, every other block of its
node, and every other node, flattens in progress apart. All leave every flag, every v and p register and every other
thread but for the wake of a thread in WFI (a lineage store may notify a service core, R286). (R148, R155, R146, R264,
R179, R286.) -/
def Obligations.StoreAndLoadFrame : Prop :=
  ∀ (s u t : State) (d a b : Reg) (imm : BitVec 16) (z : BitVec 2) (loc : Loc) (i : Instr) (x : Word) (n : Nat) (store : Bool),
    (store, i, x, n) ∈ [(false, Instr.lb d a imm, s.g a + imm.signExtend 64, 1), (false, .lbn d a imm, s.g a + imm.signExtend 64, 1),
      (false, .lh d a imm, s.g a + imm.signExtend 64, 2), (false, .lhn d a imm, s.g a + imm.signExtend 64, 2),
      (false, .lw d a imm, s.g a + imm.signExtend 64, 4), (false, .lwn d a imm, s.g a + imm.signExtend 64, 4),
      (false, .ld d a imm, s.g a + imm.signExtend 64, 8), (false, .ldab d a z, s.g a, 1), (false, .ldah d a z, s.g a, 2),
      (false, .ldaw d a z, s.g a, 4), (false, .ldad d a z, s.g a, 8),
      (true, .sb b a imm, s.g a + imm.signExtend 64, 1), (true, .sh b a imm, s.g a + imm.signExtend 64, 2),
      (true, .sw b a imm, s.g a + imm.signExtend 64, 4), (true, .sd b a imm, s.g a + imm.signExtend 64, 8),
      (true, .stlb a b z, s.g a, 1), (true, .stlh a b z, s.g a, 2), (true, .stlw a b z, s.g a, 4), (true, .stld a b z, s.g a, 8)] →
    x.toNat % n = 0 →
    resolve { s.agent 5 with regs := n = 8 } (if store then .store else .load) x.toNat n s = (.ok loc, u) →
    (∀ c o, loc ≠ .clusterReg c o ∧ loc ≠ .dieReg c o) →
    exec i s = .next t → t.me.pc = (s.me.pc + 4) &&& ~~~3#64 → t.me.instret = s.me.instret + 1 →
    (∀ r, (store = true ∨ r ≠ d) → t.g r = s.g r) ∧ (∀ r, t.v r = s.v r) ∧ (∀ r, t.p r = s.p r) ∧
      t.me.fstat = s.me.fstat ∧ t.me.vstat = s.me.vstat ∧ (∀ k, k ≠ s.meKey → { t.threadAt k with wake := (s.threadAt k).wake } = s.threadAt k) ∧
      (∀ y, (store = true → ¬ inPlace loc n y) → t.memByte y = u.memByte y) ∧
      (x.toNat < 0x2000000 ∨ 2 ^ 54 ≤ x.toNat → u = s) ∧
      (store = false ∨ x.toNat < 0x2000000 → t.nodes = u.nodes) ∧
      (∀ slot scale q off, store = true → loc = .node slot scale q off →
        (∀ k m, k ≠ slot → u.node k = some m → m.st ≠ .flattening → t.node k = some m) ∧
        (∀ m m', u.node slot = some m → m.st ≠ .flattening → t.node slot = some m' → ∀ sc p, (sc, p) ≠ (scale, q) →
          Map.find (m'.blocks sc) p = Map.find (m.blocks sc) p))

/-- When an access resolves, every thread is unchanged; below the end of the member windows, and in the lineage
windows, nothing at all is; every byte of a scratchpad keeps its value; and a byte of device memory that changes is
one of the 8 bytes of the leaf that a walk of the tables found for the address, and holds what the leaf has there with
A (bit 5) set, and D (bit 6) too where the access writes. (R21, R264, R265, 12_memory_and_translation.md.) -/
def Obligations.ResolveFrame : Prop :=
  ∀ (s u : State) (a : Agent) (k : Kind) (va n : Nat) (loc : Loc), resolve a k va n s = (.ok loc, u) →
    u.threads = s.threads ∧ u.curCore = s.curCore ∧ u.curTid = s.curTid ∧
    (va + n - 1 < 0x2000000 ∨ 2 ^ 54 ≤ va → u = s) ∧ (∀ x, 2 ^ 52 ≤ x → u.memByte x = s.memByte x) ∧
    (∀ x, u.memByte x ≠ s.memByte x →
      ∃ l, s.walk (dieOf a.core) a.pt va = .leaf l ∧ l.at_ ≤ x ∧ x < l.at_ + 8 ∧
        u.memByte x = (leBytes 8 (l.pte ||| (if k.writes then 0x60 else 0x20)).toNat).getD (x - l.at_) 0)

/-- Writing bytes to a scratchpad or to a physical address under a key leaves every other byte of memory as it was,
and each written byte holds what was written; reading device memory back under the same key slot gives the written
bytes, whatever stood there, in a pool too, unless the write itself loses them with a resident piece (R260). A byte
that a pool has written for itself since a mapping last did reads as a free value (log 34), until a write through a
mapping. (R2, R273, 12_memory_and_translation.md.) -/
def Obligations.MemoryReadsWhatWasWritten : Prop :=
  ∀ (s : State) (core off pa slot : Nat) (bs : List Byte),
    (∀ x, (s.padWrite core off bs).memByte x =
      if padBase core + off ≤ x ∧ x < padBase core + off + bs.length then bs.getD (x - (padBase core + off)) 0
      else s.memByte x) ∧
    (∀ x, (s.physWrite pa slot bs).memByte x =
      if pa ≤ x ∧ x < pa + bs.length then bs.getD (x - pa) 0 else s.memByte x) ∧
    (s.padWrite core off bs).padRead core off bs.length = bs ∧
    ((∀ e ∈ s.dies, State.meetsMig e.2 pa bs.length = true →
        ∀ p ∈ e.2.pieces, State.rangesMeet pa bs.length (p.frame * 2 ^ 16) (2 ^ 16) = false) →
      (s.physWrite pa slot bs).physRead pa bs.length slot = bs) ∧
    (∀ x, (s.physWrite pa slot bs).isBlurred x = (s.isBlurred x && !(decide (pa ≤ x) && decide (x < pa + bs.length)))) ∧
    (∀ x key, s.isBlurred x = true → s.physByte x key = Config.unrelatedByte s.free x)

/-- For a member whose bit is not set ARRIVE writes the phase count as token, sets its arrival bit and completes the
phase if that was the last; a thread that is no member, or whose level has no channel, gets 0x8000000000000000 and
nothing else; one that has arrived already waits. WAIT retires at once with bit 63 set, without a channel, or when P -
token is from 1 to 2^31 - 1 modulo 2^32; else it blocks, or takes trap 13 if a contained member of the instance holds
membership. WAIT_RELEASE lets the blocked word look again. BARSET answers 3 without a channel, 2 where the bitmap
names a thread that the instance does not run, 1 while an arrival bit is set, and otherwise sets the membership bits
of the cluster and answers 0. BARQ reads the arrival bitmap (0), the membership bitmap (1) or the phase count (2), and
0x8000000000000000 without a channel. (R158, R159, R161, R160.) -/
def Obligations.BarrierArriveAndWait : Prop :=
  (∀ (s : State) (d a : Reg) (core tid : Nat),
     (s.membership = none → exec (.arrive d) s = .next (s.setG d 0x8000000000000000).retire) ∧
     (∀ r k b, s.membership = some (r, k, b) →
       let c := s.channel r
       let t := (s.setG d (c.phase.setWidth 64)).retire
       (State.bitmapHas c.arrived k b = false → exec (.arrive d) s =
         .next (t.settleChannel r { t.channel r with arrived := State.bitmapSet (t.channel r).arrived k b })) ∧
       (State.bitmapHas c.arrived k b = true → exec (.arrive d) s = .next (s.block (.arrive d)))) ∧
     ((s.g a).getLsbD 63 = true ∨ s.myChannel = none → exec (.wait a) s = .next s.retire) ∧
     (∀ r, (s.g a).getLsbD 63 = false → s.myChannel = some r →
       let n := ((s.channel r).phase - (s.g a).setWidth 32).toNat
       (1 ≤ n ∧ n ≤ 2 ^ 31 - 1 → exec (.wait a) s = .next s.retire) ∧
       (¬(1 ≤ n ∧ n ≤ 2 ^ 31 - 1) → s.containedPeer r = none → exec (.wait a) s = .next (s.block (.wait a))) ∧
       (∀ base, ¬(1 ≤ n ∧ n ≤ 2 ^ 31 - 1) → s.containedPeer r = some base →
         exec (.wait a) s = .next (s.takeTrap 13 base))) ∧
     (∀ i ∈ [Instr.arrive d, .wait a, .xphase d, .cphase d], (s.thread core tid).wait = some i →
       ∃ t, exec i (s.asThread core tid) = .next t ∧
         exec (.waitRelease core tid) s = .next { t with curCore := s.curCore, curTid := s.curTid })) ∧
  (∀ (s : State) (d a b q : Reg),
     let done (x : Word) : State := (s.setG d x).retire
     (s.myChannel = none → exec (.barset d a b) s = .next (done 3) ∧ exec (.barq d a q) s = .next (done 0x8000000000000000)) ∧
     (∀ r, s.myChannel = some r →
       let c := s.channel r
       let ok := s.bitmapRuns r (s.g a) (s.g b)
       let bitsOf (m : Map (BitVec 64)) : Nat :=
         ((s.clusterBits r (s.g a)).map fun e => if State.bitmapHas m e.2.1 e.2.2 then 2 ^ e.1 else 0).sum
       (ok = false → exec (.barset d a b) s = .next (done 2)) ∧
       (ok = true → c.arrived ≠ [] → exec (.barset d a b) s = .next (done 1)) ∧
       (ok = true → c.arrived = [] → exec (.barset d a b) s = .next ((done 0).settleChannel r { (done 0).channel r with
         members := (s.clusterBits r (s.g a)).foldl (fun m e => if (s.g b).getLsbD e.1 then State.bitmapSet m e.2.1 e.2.2
           else State.bitmapClear m e.2.1 e.2.2) c.members })) ∧
       (q = 0 → exec (.barq d a q) s = .next (done (BitVec.ofNat 64 (bitsOf c.arrived)))) ∧
       (q = 1 → exec (.barq d a q) s = .next (done (BitVec.ofNat 64 (bitsOf c.members)))) ∧
       (q = 2 → exec (.barq d a q) s = .next (done (c.phase.setWidth 64)))))

/-- Setting the bitmaps of a channel (of a core, of the span of an instance, of a die, of the package) completes the
phase exactly when the arrivals equal the membership, some membership bit is set and no contained core is a member:
then the phase count goes up by 1 modulo 2^32 and every arrival bit clears, the membership staying. Otherwise the
channel holds just what was set. (R158, R161.) -/
def Obligations.BarrierPhaseCompletes : Prop :=
  ∀ (s : State) (r : State.ChanRef) (c : Channel), r ≠ .noSpan → (∀ k, r = .span k → (Map.find s.insts k).isSome = true) →
    let done := c.members = c.arrived ∧ (∃ e ∈ c.members, e.2 ≠ 0) ∧ s.containedMember r = none
    (done → ((s.settleChannel r c).channel r) = { c with arrived := [], phase := c.phase + 1 }) ∧
    (¬ done → ((s.settleChannel r c).channel r) = c)

/-- An increment adds 1 and leaves 0xFFFFFFFF where it stands. MBREAD writes the value. MBSUB writes the old value and
leaves the value less the subtrahend, or 0. MBWAIT writes the value once it has reached bits 31:0 of g(a); below that
it blocks, or on a marked mailbox takes trap 13 with the mailbox number in TVAL; MBWAIT_RELEASE lets it look again.
(R162, 07_memory_sync_instructions.md.) -/
def Obligations.MailboxForms : Prop :=
  ∀ (s : State) (d a n : Reg) (k : BitVec 4) (core tid : Nat), n.toNat ≤ 15 →
    let x := s.mailbox n
    let th := (s.g a).setWidth 32
    let done (v : BitVec 32) : State := (s.setG d (v.setWidth 64)).retire
    ((s.core core).contained = false →
      ((s.incMailbox core k).core core).mb[k.toNat]'k.isLt =
        if (s.core core).mb[k.toNat]'k.isLt = 0xFFFFFFFF then 0xFFFFFFFF else (s.core core).mb[k.toNat]'k.isLt + 1) ∧
    exec (.mbread d n) s = .next (done x) ∧
    (∃ t, exec (.mbsub d a n) s = .next t ∧ t.g d = (if d = 0 then 0 else x.setWidth 64) ∧
      (s.myCore.contained = false → t.mailbox n = if th ≤ x then x - th else 0) ∧
      t.me.pc = (s.me.pc + 4) &&& ~~~3#64 ∧ (∀ r, r ≠ d → t.g r = s.g r) ∧ (∀ y, t.memByte y = s.memByte y)) ∧
    (th ≤ x → exec (.mbwait d a n) s = .next (done x)) ∧
    (x < th → s.myCore.mbMark.getLsbD n.toNat = true → exec (.mbwait d a n) s = .next (s.takeTrap 13 (n.setWidth 64))) ∧
    (x < th → s.myCore.mbMark.getLsbD n.toNat = false → exec (.mbwait d a n) s = .next (s.block (.mbwait d a n))) ∧
    ((s.thread core tid).wait = some (.mbwait d a n) → ∃ t, exec (.mbwait d a n) (s.asThread core tid) = .next t ∧
      exec (.mbwaitRelease core tid) s = .next { t with curCore := s.curCore, curTid := s.curTid })

/-- XPHASE answers 1 inside a phase and 2 for no member (inside a phase it answers 1 whether or not the thread is a
member still: the model's order, log 36). Its first issue sets the arrival bit (or waits while that bit is set): if
that completes the phase, the core's arrival count restarts, the exchange clock begins at the next frame and it enters
with 0; else it blocks. Wherever XPHASE or CPHASE would wait, it takes trap 13 instead for a contained member. Issued
again it only waits: it enters once the phase has passed. CPHASE outside a phase answers 1 after an overrun and 2
otherwise; inside it waits for the thread's blocks under way, then arrives and waits in the same way, and leaves the
phase with 0 (a thread that is no longer a member at once: log 32). XSEND outside a phase answers 2, for a cycle that
is no slot 3, for a bad address 4, for a cycle that has passed 1, in that order of the model (log 32); in its cycle it
sends the 128 bytes and answers 0, or takes trap 13 where the core of the window is contained; before its cycle it
blocks. XRECV outside a phase answers all ones, answers the arrival count once it has reached g(a), and blocks before.
A block arrives after the earlier blocks of its thread: it is written to the destination's scratchpad and counted
there, unless that window has closed or its core is contained. A waiting XSEND sends in the cycle that it names,
answers 2 once the thread has left the phase and 1 once that cycle has gone by (log 32); a waiting XRECV looks again.
A thread in a phase whose exchange clock has reached 65,536 leaves it, arriving as CPHASE does: one that waits in
CPHASE receives 1, another has its next CPHASE answer 1. That arrival is made once no write of the thread is under
way; until then, and while the bit of this phase is set already, the thread owes it (log 32). (R163, R164, R165,
R146.) -/
def Obligations.ExchangePhaseForms : Prop :=
  (∀ (s : State) (d a b c : Reg),
     let done (x : Word) : Out := .next (s.setG d x).retire
     -- a thread that comes to its phase 65,536 cycles late leaves it at once
     let enter (t : State) : State :=
       let u := ((t.setMe { t.me with inPhase := true, xArrived := none, overrun := false }).setG d 0).retire
       if 65536 ≤ u.xclk u.me then u.overrunPhase else u
     let leave (t : State) (x : Word) : State :=
       ((t.setMe { t.me with inPhase := false, cArrived := none, overrun := false }).setG d x).retire
     let clock (t : State) : State :=
       let t := t.setMyCore { t.myCore with arrivals := 0 }
       t.setMe { t.me with xbase := State.frameAfter t.cycle }
     let waits (t : State) (r : State.ChanRef) (i : Instr) : State := match t.containedPeer r with
       | some base => t.takeTrap 13 base
       | none => t.block i
     (s.me.inPhase = true → exec (.xphase d) s = done 1) ∧
     (s.me.inPhase = false → s.me.xArrived = none ∨ s.myChannel = none → s.membership = none → exec (.xphase d) s = done 2) ∧
     (∀ r tok, s.me.inPhase = false → s.me.xArrived = some tok → s.myChannel = some r → exec (.xphase d) s =
       .next (if passed (s.channel r).phase tok then enter s else waits s r (.xphase d))) ∧
     (∀ r k n, s.me.inPhase = false → s.me.xArrived = none → s.membership = some (r, k, n) →
       let phase := (s.channel r).phase
       let u := (s.setMe { s.me with xArrived := some phase }).setArrival r k n
       (State.bitmapHas (s.channel r).arrived k n = true → exec (.xphase d) s = .next (waits s r (.xphase d))) ∧
       (State.bitmapHas (s.channel r).arrived k n = false → exec (.xphase d) s =
         .next (if passed (u.channel r).phase phase then enter (clock u) else waits u r (.xphase d)))) ∧
     (s.me.inPhase = false → exec (.cphase d) s = .next (leave s (if s.me.overrun then 1 else 2))) ∧
     (s.me.inPhase = true → s.blocksUnderWay = true → exec (.cphase d) s = .next (s.block (.cphase d))) ∧
     (s.me.inPhase = true → s.blocksUnderWay = false →
       (∀ r tok, s.me.cArrived = some tok → s.myChannel = some r → exec (.cphase d) s =
         .next (if passed (s.channel r).phase tok then leave s 0 else waits s r (.cphase d))) ∧
       (s.me.cArrived = none ∨ s.myChannel = none → s.membership = none → exec (.cphase d) s = .next (leave s 0)) ∧
       (∀ r k n, s.me.cArrived = none → s.membership = some (r, k, n) →
         let phase := (s.channel r).phase
         let u := (s.setMe { s.me with cArrived := some phase }).setArrival r k n
         (State.bitmapHas (s.channel r).arrived k n = true → exec (.cphase d) s = .next (waits s r (.cphase d))) ∧
         (State.bitmapHas (s.channel r).arrived k n = false → exec (.cphase d) s =
           .next (if passed (u.channel r).phase phase then leave u 0 else waits u r (.cphase d))))) ∧
     (let ga := (s.g a).toNat
      let gb := (s.g b).toNat
      let gc := (s.g c).toNat
      let slot : Prop := gc % 16 < 8 ∧ gc < 65536
      let goodAddr (dst : Nat) : Prop := ga % 128 = 0 ∧ gb % 128 = 0 ∧ gb + 128 ≤ 0x40000 ∧ 0x1000000 ≤ ga ∧ ga < 0x2000000 ∧
        s.windowOpen (s.agent 5) ((ga - 0x1000000) / 0x40000) = some dst
      (s.me.inPhase = false → exec (.xsend d a b c) s = done 2) ∧
      (s.me.inPhase = true → ¬ slot → exec (.xsend d a b c) s = done 3) ∧
      (s.me.inPhase = true → slot → (∀ dst, ¬ goodAddr dst) → exec (.xsend d a b c) s = done 4) ∧
      (∀ dst, s.me.inPhase = true → slot → goodAddr dst →
        ((gc : Int) < s.xclk s.me → exec (.xsend d a b c) s = done 1) ∧
        (s.xclk s.me < (gc : Int) → s.padHazard s.curCore false gb 128 = false →
          exec (.xsend d a b c) s = .next (s.block (.xsend d a b c))) ∧
        ((gc : Int) = s.xclk s.me → s.padHazard s.curCore false gb 128 = false → (s.core dst).contained = true →
          exec (.xsend d a b c) s = .next (s.takeTrap 13 (s.g a))) ∧
        ((gc : Int) = s.xclk s.me → s.padHazard s.curCore false gb 128 = false → (s.core dst).contained = false →
          s.poisonIn (padBase s.curCore + gb) 128 = none →
          exec (.xsend d a b c) s = .next ((({ s with xblocks := s.xblocks ++ [XBlock.mk s.curCore s.curTid dst
            (ga % 0x40000) (s.padRead s.curCore gb 128)] }.enqueue (.xsendArrival 0)).setG d 0).retire)))) ∧
     (s.me.inPhase = false → exec (.xrecv d a) s = done (BitVec.allOnes 64)) ∧
     (s.me.inPhase = true → (s.g a).toNat ≤ s.myCore.arrivals → exec (.xrecv d a) s = done (BitVec.ofNat 64 s.myCore.arrivals)) ∧
     (s.me.inPhase = true → s.myCore.arrivals < (s.g a).toNat → exec (.xrecv d a) s = .next (s.block (.xrecv d a)))) ∧
  (∀ (s : State) (core tid k : Nat) (d a b c : Reg) (x : XBlock), tid < 4 →
     let t := s.thread core tid
     let v := s.asThread core tid
     let back (u : State) : State := { u with curCore := s.curCore, curTid := s.curTid }
     let answer (y : Word) : Out := .next (back (v.setG d y).retire)
     (s.xblocks[k]? = some x → (∃ y ∈ s.xblocks.take k, y.src = x.src ∧ y.tid = x.tid) → exec (.xsendArrival k) s = .next s) ∧
     (s.xblocks[k]? = some x → (∀ y ∈ s.xblocks.take k, ¬(y.src = x.src ∧ y.tid = x.tid)) →
       ((s.core x.dst).contained = false → (∃ j < 4, (s.thread x.dst j).running = true) →
         ∃ u, exec (.xsendArrival k) s = .next u ∧ (u.core x.dst).arrivals = (s.core x.dst).arrivals + 1 ∧
           (∀ y, u.memByte y = (s.padWrite x.dst x.off x.data).memByte y) ∧ u.xblocks = s.xblocks.eraseIdx k) ∧
       ((s.core x.dst).contained = true ∨ (∀ j < 4, (s.thread x.dst j).running = false) →
         exec (.xsendArrival k) s =
           .next ({ s with xblocks := s.xblocks.eraseIdx k }.enqueue (.waitRelease x.src x.tid.toNat)))) ∧
     (t.wait = some (.xsend d a b c) → (s.core core).contained = false →
       let gc : Int := ((v.g c).toNat : Int)
       (t.inPhase = false → exec (.xsendSlot core tid) s = answer 2) ∧
       (t.inPhase = true → gc < s.xclk t → exec (.xsendSlot core tid) s = answer 1) ∧
       (t.inPhase = true → s.xclk t < gc → exec (.xsendSlot core tid) s = .next s) ∧
       (∀ dst, t.inPhase = true → gc = s.xclk t →
         v.windowOpen (v.agent 5) (((v.g a).toNat - 0x1000000) / 0x40000) = some dst →
         ((s.core dst).contained = true → exec (.xsendSlot core tid) s = .next (back (v.takeTrap 13 (v.g a)))) ∧
         ((s.core dst).contained = false → v.poisonIn (padBase core + (v.g b).toNat) 128 = none →
         exec (.xsendSlot core tid) s = .next (back ((({ v with xblocks := v.xblocks ++ [XBlock.mk core (BitVec.ofNat 2 tid) dst
           ((v.g a).toNat % 0x40000) (v.padRead core (v.g b).toNat 128)] }.enqueue (.xsendArrival 0)).setG d 0).retire))))) ∧
     (t.wait = some (.xrecv d a) → ∃ u, exec (.xrecv d a) v = .next u ∧ exec (.xrecvRelease core tid) s = .next (back u)) ∧
     -- the arrival as though by CPHASE: made at once, or owed while the thread's earlier writes are under way
     (t.inPhase = true → 65536 ≤ s.xclk t →
       ∃ u, exec (.exchangeOverrun core tid) s = .next u ∧ (u.thread core tid).inPhase = false ∧
         (u.thread core tid).cArrived = none ∧
         ((∀ e, t.wait ≠ some (.cphase e)) → (u.thread core tid).overrun = true) ∧
         (t.wait = some (.cphase d) → (u.thread core tid).wait = none ∧ (d ≠ 0 → (u.thread core tid).g[d.toNat] = 1)) ∧
         (t.cArrived ≠ none → (u.thread core tid).owes = false) ∧
         (t.cArrived = none → v.ownWritesOut = true → (u.thread core tid).owes = true) ∧
         (∀ r k n, v.membership = some (r, k, n) → t.cArrived = none → v.ownWritesOut = false →
           State.bitmapHas (s.channel r).arrived k n = false →
           (u.thread core tid).owes = false ∧ u.channel r = (v.setArrival r k n).channel r)) ∧
     (t.inPhase = false → t.owes = false → exec (.exchangeOverrun core tid) s = .next s) ∧
     (t.inPhase = false → t.owes = true →
       let paid : State := v.setMe { t with owes := false }
       (v.ownWritesOut = true → exec (.exchangeOverrun core tid) s = .next s) ∧
       (v.ownWritesOut = false → v.membership = none → exec (.exchangeOverrun core tid) s = .next (back paid)) ∧
       (∀ r k n, v.ownWritesOut = false → v.membership = some (r, k, n) → exec (.exchangeOverrun core tid) s =
         .next (if State.bitmapHas (s.channel r).arrived k n then s else back (paid.setArrival r k n)))))

/-- With no word before it in the sequencer, each form of VARITH, each bitwise and shift form and each log-path
function answers a next state: the active lanes of vd hold the form's element value and the word has retired. Floating
types compute on values and round once by VCTL; integer types compute on signed (N32: unsigned) values and wrap modulo
2^w, VADDS and VSUBS saturate with overflow. (What putLanes writes and leaves is LaneWrites.) (R101, R102, R103, R105,
R113, R114, R123, R124.) -/
def Obligations.VectorArithmeticForms : Prop :=
  ∀ (s : State) (d a b : Reg) (m t : BitVec 3), vectorIdle s →
    let w := typeWidth t
    let lanes (f : Nat → Nat × Flags) : Out := .next (s.putLanes d m w f).retire
    let x := lane (s.v a) w
    let y := lane (s.v b) w
    let z := lane (s.v d) w
    let val (k : Nat) : Fp := fpDecode t.toNat k
    let int (k : Nat) : Int := if t = 7#3 then (k : Int) else signed w k
    let wrap (k : Int) : Nat × Flags := (pattern w k, {})
    let bit (f : Nat → Nat) : Out := lanes fun i => (f i, {})
    let three (f : Fp → Fp → Fp → Fp × Flags) (g : Int → Int → Int → Int) : Out := lanes fun i =>
      if Machine.isF t then s.ctl.out t.toNat (f (val (x i)) (val (y i)) (val (z i))) else wrap (g (int (x i)) (int (y i)) (int (z i)))
    let log (f : LogFn) : Out := lanes fun i => s.ctl.out t.toNat (s.ctl.apply f (val (x i)))
    let sat (k : Int) : Nat × Flags :=
      let r := max (typeLo t) (min (typeHi t) k)
      (pattern w r, { overflow := decide (r ≠ k) })
    exec (.vadd d a b m t) s = three (fun u v _ => fpAdd s.vmode u v) (fun u v _ => u + v) ∧
    exec (.vsub d a b m t) s = three (fun u v _ => fpAdd s.vmode u v.neg) (fun u v _ => u - v) ∧
    exec (.vmul d a b m t) s = three (fun u v _ => fpMul u v) (fun u v _ => u * v) ∧
    exec (.vfma d a b m t) s = three (fun u v k => fpFma s.vmode u v k) (fun u v k => u * v + k) ∧
    exec (.vfms d a b m t) s = three (fun u v k => fpFma s.vmode u.neg v k) (fun u v k => k - u * v) ∧
    exec (.vmin d a b m t) s = bit (fun i => elemMinMax t false (x i) (y i)) ∧
    exec (.vmax d a b m t) s = bit (fun i => elemMinMax t true (x i) (y i)) ∧
    exec (.vabs d a m t) s = lanes (fun i => if Machine.isF t then (x i % 2 ^ (w - 1), {}) else wrap (int (x i)).natAbs) ∧
    exec (.vneg d a m t) s = lanes (fun i => if Machine.isF t then (x i ^^^ 2 ^ (w - 1), {}) else wrap (-int (x i))) ∧
    exec (.vdiv d a b m t) s = lanes (fun i => s.ctl.out t.toNat (s.ctl.div (val (x i)) (val (y i)))) ∧
    exec (.vadds d a b m t) s = lanes (fun i => sat (int (x i) + int (y i))) ∧
    exec (.vsubs d a b m t) s = lanes (fun i => sat (int (x i) - int (y i))) ∧
    exec (.vmulh d a b m t) s = lanes (fun i => wrap (int (x i) * int (y i) / 2 ^ w)) ∧
    exec (.vand d a b m t) s = bit (fun i => x i &&& y i) ∧ exec (.vor d a b m t) s = bit (fun i => x i ||| y i) ∧
    exec (.vxor d a b m t) s = bit (fun i => x i ^^^ y i) ∧
    exec (.vandn d a b m t) s = bit (fun i => x i ^^^ (x i &&& y i)) ∧
    exec (.vnot d a m t) s = bit (fun i => 2 ^ w - 1 - x i) ∧
    exec (.vshl d a b m t) s = bit (fun i => x i * 2 ^ (y i % w) % 2 ^ w) ∧
    exec (.vshr d a b m t) s = bit (fun i => x i / 2 ^ (y i % w)) ∧
    exec (.vsra d a b m t) s = lanes (fun i => wrap (signed w (x i) / 2 ^ (y i % w))) ∧
    exec (.vsqrt d a m t) s = log .sqrt ∧ exec (.vrcp d a m t) s = log .rcp ∧ exec (.vrsqrt d a m t) s = log .rsqrt ∧
    exec (.vexp d a m t) s = log .exp ∧ exec (.vlog d a m t) s = log .log ∧ exec (.vtanh d a m t) s = log .tanh ∧
    exec (.vsigm d a m t) s = log .sigm ∧ exec (.vsilu d a m t) s = log .silu ∧ exec (.vgelu d a m t) s = log .gelu

/-- With no word before it in the sequencer, each comparison writes its predicate (compareLanes, see LaneWrites), VSEL
chooses lane by lane, the predicate forms act on all 128 bits or count active elements, the VPERM forms move elements,
VEXTR, PCNT and PFIRST write g(d), and each VIMM form computes every lane of vd from its old value and the immediate;
then the word has retired. (R61, R105, R115, R116, R117, R118, R126.) -/
def Obligations.VectorMoveForms : Prop :=
  ∀ (s : State) (d a b : Reg) (m t : BitVec 3) (u : BitVec 2) (imm : BitVec 16), vectorIdle s →
    let w := typeWidth t
    let n := 1024 / w
    let x := lane (s.v a) w
    let y := lane (s.v b) w
    let val (k : Nat) : Fp := fpDecode t.toNat k
    let int (k : Nat) : Int := if t = 7#3 then (k : Int) else signed w k
    let lanes (f : Nat → Nat) : Out := .next (s.putLanes d m w fun i => (f i, {})).retire
    let cmp (f : Nat → Nat → Bool × Flags) : Out := .next (s.compareLanes d a b m t f).retire
    let rel (ordered nan : Bool) (f : Fp → Fp → Bool) (g : Int → Int → Bool) : Out := cmp fun j k =>
      if Machine.isF t then if (val j).isNan || (val k).isNan then (nan, if ordered then Flags.inv else {}) else (f (val j) (val k), {})
      else (g (int j) (int k), {})
    let pred (z : Pred) : Out := .next (s.setP (predReg d) z).retire
    let pa := s.p (predReg a)
    let pb := s.p (predReg b)
    let ga := (s.g a).toNat
    let gb := (s.g b).toNat
    let wi := formatWidth (immFormat u)
    let z := lane (s.v d) wi
    let c (k : Nat) : Nat := if u = 2#2 then bits imm.toNat (8 * (k % 2)) 8 else imm.toNat
    let every (f : Nat → Nat → Nat × Flags) : Out := .next (s.putLanes d 0 wi fun k => f (z k) (c k)).retire
    let comp (f : Fp → Fp → Fp × Flags) (g : Int → Int → Int) : Out := every fun j k =>
      if u = 3#2 then (pattern 16 (g (signed 16 j) (signed 16 k)), {})
      else s.ctl.out (immFormat u) (f (fpDecode (immFormat u) j) (fpDecode (immFormat u) k))
    exec (.vcmpeq d a b m t) s = rel false false fpEq (fun j k => j == k) ∧
    exec (.vcmpne d a b m t) s = rel false true (fun j k => !fpEq j k) (fun j k => j != k) ∧
    exec (.vcmplt d a b m t) s = rel true false fpLt (fun j k => decide (j < k)) ∧
    exec (.vcmple d a b m t) s = rel true false (fun j k => !fpLt k j) (fun j k => decide (j ≤ k)) ∧
    exec (.vcmpltn d a b m t) s = cmp (fun j k => (decide (j < k), {})) ∧
    exec (.vsel d a b m t) s =
      .next (s.setV d (packLanes w ((List.range n).map fun i => if activeLane (s.p m) w i then x i else y i))).retire ∧
    exec (.pand d a b) s = pred (pa &&& pb) ∧ exec (.por d a b) s = pred (pa ||| pb) ∧ exec (.pxor d a b) s = pred (pa ^^^ pb) ∧
    exec (.pnot d a) s = pred (~~~pa) ∧
    exec (.pset d a t) s = pred (predOf w fun i => decide (i < ga)) ∧
    exec (.pcnt d a t) s =
      .next (s.setG d (BitVec.ofNat 64 ((List.range n).countP fun i => activeLane pa w i))).retire ∧
    exec (.pfirst d a t) s = .next (s.setG d (match (List.range n).find? fun i => activeLane pa w i with
      | some i => BitVec.ofNat 64 i
      | none => BitVec.allOnes 64)).retire ∧
    exec (.vpermb d a b m) s = .next (s.putLanes d m 8 fun i =>
      (if lane (s.v b) 8 i < 128 then lane (s.v a) 8 (lane (s.v b) 8 i) else 0, {})).retire ∧
    exec (.vperm d a b m t) s = lanes (fun i => if y i < n then x (y i) else 0) ∧
    exec (.vslideup d a b m t) s = lanes (fun i => if gb ≤ i then x (i - gb) else 0) ∧
    exec (.vslidedn d a b m t) s = lanes (fun i => if i + gb < n then x (i + gb) else 0) ∧
    exec (.vbcast d a m t) s = lanes (fun _ => ga % 2 ^ w) ∧
    exec (.vextr d a b t) s = .next (s.setG d (if 3 ≤ t.toNat && t.toNat ≤ 6 then BitVec.ofInt 64 (signed w (x (gb % n)))
      else BitVec.ofNat 64 (x (gb % n)))).retire ∧
    exec (.vins d a b t) s = .next (s.setV d (setLane (s.v d) w (gb % n) (ga % 2 ^ w))).retire ∧
    exec (.viota d m t) s = lanes (fun i => pattern w i) ∧
    exec (.vzipl d a b m t) s = lanes (fun i => lane (if i % 2 = 0 then s.v a else s.v b) w (i / 2)) ∧
    exec (.vziph d a b m t) s = lanes (fun i => lane (if i % 2 = 0 then s.v a else s.v b) w (512 / w + i / 2)) ∧
    exec (.vmov d a m t) s = lanes x ∧
    exec (.vmovi d u imm) s = every (fun _ k => (k, {})) ∧ exec (.vaddi d u imm) s = comp (fpAdd s.vmode) (fun j k => j + k) ∧
    exec (.vmuli d u imm) s = comp fpMul (fun j k => j * k) ∧
    exec (.vrsubi d u imm) s = comp (fun j k => fpAdd s.vmode k j.neg) (fun j k => k - j) ∧
    exec (.vmini d u imm) s = every (immMinMax u false) ∧ exec (.vmaxi d u imm) s = every (immMinMax u true) ∧
    exec (.vandi d u imm) s = every (fun j k => (j &&& k, {})) ∧ exec (.vori d u imm) s = every (fun j k => (j ||| k, {}))

/-- With no word before it in the sequencer, VCVT and VCVTS convert the lanes both formats fill, VQUANT and VDEQUANT
act by MX blocks of 32, VCBLOAD loads the 256 entries of the core's magnitude table, VCBDEC decodes by it (if no entry
it uses is poisoned), the reductions combine the active elements over the canonical tree, VTOLOG and VFROMLOG convert
to and from the log form, and VRAND draws eight Philox blocks whatever the predicate holds; then the word has retired.
VQUANT leaves every v register but d and b, VCBLOAD every v register and VRAND every one but d; they leave the lanes
beyond those written, g, p, FSTAT, the other threads and memory, and clear no flag. (R119, R120, R121, R122, R123,
R125, R45, R46, R55.) -/
def Obligations.VectorConversionAndReductionForms : Prop :=
  ∀ (s : State) (d a b f : Reg) (m t : BitVec 3), vectorIdle s →
    let w := typeWidth t
    let n := 1024 / w
    let x := lane (s.v a) w
    let on := activeLane (s.p m) w
    let lanes (v : Nat) (h : Nat → Nat × Flags) : Out := .next (s.putLanes d m v h).retire
    let conv (clamp : Bool) (src dst : Nat) (i : Nat) : Nat × Flags :=
      if i < 1024 / max (formatWidth src) (formatWidth dst) then
        convertCode s.ctl clamp src dst (lane (s.v a) (formatWidth src) i)
      else (lane (s.v d) (formatWidth dst) i, {})
    let active (h : Nat → Nat) : List (Option Nat) := (List.range n).map fun i => if on i then some (h (x i)) else none
    let same (u : State) (ds : List Reg) : Prop := Retired s u ∧ (∀ r, r ∉ ds → u.v r = s.v r) ∧ (∀ r, u.g r = s.g r) ∧
      (∀ r, u.p r = s.p r) ∧ u.me.fstat = s.me.fstat ∧ (∀ k, k ≠ s.meKey → u.threadAt k = s.threadAt k) ∧
      ∀ y, u.memByte y = s.memByte y
    let wq := formatWidth s.me.vctl.qfmt.toNat
    let least (wantMax : Bool) (h : Nat → Nat) (none_ : Nat) : Out := .next (s.reduceMinMax d a m t wantMax h none_).retire
    exec (.vcvt d a f m t) s = .next (s.putLanes d m (formatWidth t.toNat) (conv false f.toNat t.toNat)).retire ∧
    exec (.vcvts d a f m t) s = .next (s.putLanes d m (formatWidth f.toNat) (conv true t.toNat f.toNat)).retire ∧
    (∃ u, exec (.vquant d a b m t) s = .next u ∧ same u [d, b] ∧ (∀ k, s.me.vstat.getLsbD k = true → u.me.vstat.getLsbD k = true) ∧
      (d ≠ b → Machine.isF t = true → s.me.vctl.qfmt.toNat ∈ [11, 12, 13, 14, 15] →
      (∀ i, n ≤ i → i < 1024 / wq → lane (u.v d) wq i = lane (s.v d) wq i) ∧
      (∀ k, n / 32 ≤ k → k < 128 → lane (u.v b) 8 k = lane (s.v b) 8 k) ∧ ∀ k, k < n / 32 →
      let q := mxQuantise s.me.vctl.qfmt.toNat s.vsat ((List.range 32).map fun i =>
        if on (32 * k + i) then some (fpDecode t.toNat (x (32 * k + i))) else none)
      lane (u.v b) 8 k = q.1 % 256 ∧ ∀ i, i < 32 →
        lane (u.v d) wq (32 * k + i) = q.2.1.getD i 0 % 2 ^ wq)) ∧
    exec (.vdequant d a b m t) s = lanes w (fun i => s.ctl.out t.toNat
      (mxValue s.me.vctl.qfmt.toNat (lane (s.v b) 8 (i / 32)) (lane (s.v a) (formatWidth s.me.vctl.qfmt.toNat) i), {})) ∧
    (a.toNat % 8 = 0 → ∃ u, exec (.vcbload a) s = .next u ∧ same u [] ∧ u.me.vstat = s.me.vstat ∧
      (∀ k i, k < 8 → i < 32 → Map.get 0 u.myCore.cb2 (32 * k + i) =
        BitVec.ofNat 32 (lane (s.v (a + BitVec.ofNat 5 k)) 32 i)) ∧ u.myCore.cb2Poison = []) ∧
    (s.myCore.cb2Poison = [] → exec (.vcbdec d a b m t) s = lanes w (fun i => s.ctl.out t.toNat
      (cb2Weight s.myCore.cb2 (lane (s.v b) 8 0) (lane (s.v a) 16 (i / 8)) (i % 8), {}))) ∧
    exec (.vredsum d a m t) s = .next (s.putResult d 32 (combineTree (sumCombine s.ctl t) (active (sumLeaf t))) 0).retire ∧
    exec (.vredmax d a m t) s = least true id (if Machine.isF t then (infCode t.toNat false true).1 else pattern w (typeLo t)) ∧
    exec (.vredmin d a m t) s = least false id (if Machine.isF t then (infCode t.toNat false false).1 else pattern w (typeHi t)) ∧
    exec (.vredamax d a m t) s = least true (· % 2 ^ (w - 1)) 0 ∧
    exec (.vredamin d a m t) s = least false (· % 2 ^ (w - 1)) (infCode t.toNat false false).1 ∧
    exec (.vscan d a m t) s = lanes w (fun i =>
      let r := combineTree (fun j k => if Machine.isF t then fpAddCode t.toNat s.vmode s.vsat j k else ((j + k) % 2 ^ w, {}))
        ((List.range n).map fun j => if j ≤ i then (active id).getD j none else none)
      (r.1.getD 0, r.2)) ∧
    exec (.vtolog d a m) s = lanes 32 (fun i => (pattern 32 (toLog (lane (s.v a) 32 i)).1, (toLog (lane (s.v a) 32 i)).2)) ∧
    exec (.vfromlog d a m) s = lanes 32 (fun i => fromLog s.vmode s.vsat (signed 32 (lane (s.v a) 32 i))) ∧
    (∃ u, exec (.vrand d m t) s = .next u ∧ same u [d] ∧ (∀ k, k ≠ 4 → u.me.vstat.getLsbD k = s.me.vstat.getLsbD k) ∧
      rngAt u.me = (rngAt s.me + 8) % 2 ^ 96 ∧ (2 ^ 96 ≤ rngAt s.me + 8 → u.me.vstat.getLsbD 4 = true) ∧
      ∀ i, i < 32 → lane (u.v d) 32 i = if activeLane (s.p m) 32 i then
        (let k := (philoxBlock s.me.rngkey.toNat s.me.rngstream.toNat (rngAt s.me + i / 4)).getD (i % 4) 0
         if t = 0#3 then (fpRound 0 0 false (.fin false (k / 2 ^ 8) (-24))).1 % 2 ^ 32 else k % 2 ^ 32)
        else lane (s.v d) 32 i)

/-- Writing lanes of width w of vd: an active lane holds its value, an inactive lane is unchanged, VSTAT gains exactly
the flags of active lanes, and no other vector register, no g or p register, no other thread, no core and no byte of
memory changes. A comparison writes, to every bit of the bytes of an element, its result if it is active and 0 if not
(4-bit: that of the even element). (R101, R103, R115, R17.) -/
def Obligations.LaneWrites : Prop :=
  ∀ (s : State) (d a b : Reg) (m t : BitVec 3) (w : Nat), w ∈ [4, 8, 16, 32] →
    (∀ f : Nat → Nat × Flags, (∀ i, (f i).1 < 2 ^ w) →
      let u := s.putLanes d m w f
      (∀ i, i < 1024 / w → lane (u.v d) w i = if activeLane (s.p m) w i then (f i).1 else lane (s.v d) w i) ∧
      (∀ k, u.me.vstat.getLsbD k = (s.me.vstat.getLsbD k ||
        (List.range (1024 / w)).any fun i => activeLane (s.p m) w i && (f i).2.vstat.getLsbD k)) ∧
      (∀ r, r ≠ d → u.v r = s.v r) ∧ (∀ r, u.g r = s.g r) ∧ (∀ r, u.p r = s.p r) ∧ u.me.fstat = s.me.fstat ∧
      u.me.pc = s.me.pc ∧ (∃ th, u = { s with threads := th }) ∧ (∀ k, k ≠ s.meKey → u.threadAt k = s.threadAt k)) ∧
    (∀ l : List Nat, ∀ i, i < 1024 / w → lane (packLanes w l) w i = l.getD i 0 % 2 ^ w) ∧
    (∀ f : Nat → Nat → Bool × Flags, predReg d ≠ 0 →
      let u := s.compareLanes d a b m t f
      let e := typeWidth t
      (∀ k, k < 128 → (u.p (predReg d)).getLsbD k = (activeLane (s.p m) e (8 * k / e) &&
        (f (lane (s.v a) e (8 * k / e)) (lane (s.v b) e (8 * k / e))).1)) ∧
      (∀ r, r ≠ predReg d → u.p r = s.p r) ∧ (∀ r, u.v r = s.v r) ∧ (∀ r, u.g r = s.g r) ∧
      (∃ th, u = { s with threads := th }))

/-- A vector word of majors 0x28 to 0x2E enters the sequencer with the g operands it reads at issue when words stand
before it, another thread's capture whose first pass has not begun among them, and waits while the 16 entries are in
use. A word of major 0x2F does the same once its check has passed; one that the check refuses, or on a paired core,
stands at issue (log 7: the model's choice). The word at the head executes with those operands, after the queued
matrix words and captures that it follows. REPEAT captures the L words that follow, at most 16,777,215 passes, goes on
behind them, and once executed discards a suspended capture; a count of 0 captures nothing. A pass waits for its
thread's words and, before it begins, for what entered before it. A pass of a captured VADD executes it with its
fields advanced by k times the steps modulo 32 (predicates modulo 8), counts it in INSTRET, and goes on to the next
pass or ends the capture. (log 13: when a queued word executes.) (R104, R105, R106, R107, R110.) -/
def Obligations.VectorQueueAndRepeat : Prop :=
  (∀ (s : State) (i : Instr) (ra rb : Reg) (run : Word → Word → Acc Unit), vectorWord none i = some (ra, rb, run) →
    (encode i).extractLsb' 26 6 ≠ 0x2F#6 →
    (s.seqEntries < 16 → (s.defer = true ∨ s.myCore.vq ≠ [] ∨ matrixBefore s.myCore s.curTid i s.myCore.queued = true ∨
        s.captureBefore s.curCore s.curTid.toNat s.myCore.queued = true) →
      exec i s = .next ((s.setMyCore { s.myCore with
        vq := s.myCore.vq ++ [⟨s.curTid, i, s.g ra, s.g rb, s.myCore.queued, s.me.pc, s.me.lane, [], [], none, none⟩]
        queued := s.myCore.queued + 1 }).retire.enqueue (.vectorWordExecute s.curCore))) ∧
    (16 ≤ s.seqEntries → exec i s = .next s)) ∧
  -- a word that accesses memory: behind others it enters once its check has passed
  (∀ (s : State) (i : Instr) (ra rb : Reg) (run : Word → Word → Acc Unit) (f : VmemForm), vectorWord none i = some (ra, rb, run) →
    (encode i).extractLsb' 26 6 = 0x2F#6 → vmemForm s i (s.g rb) = some f →
    (s.myCore.vq ≠ [] ∨ matrixBefore s.myCore s.curTid i s.myCore.queued = true ∨
      s.captureBefore s.curCore s.curTid.toNat s.myCore.queued = true) →
    ((16 ≤ s.seqEntries ∨ s.myCore.paired = true ∨ s.operandsQueued f = true) → exec i s = .next s) ∧
    (s.seqEntries < 16 → s.myCore.paired = false → s.operandsQueued f = false →
      (∀ ls bs u, vmemCheck f (s.g ra) s = (.ok (ls, bs), u) → exec i s = .next ((u.setMyCore { u.myCore with
        vq := u.myCore.vq ++ [⟨u.curTid, i, u.g ra, u.g rb, u.myCore.queued, u.me.pc, u.me.lane, ls, bs, none, none⟩]
        queued := u.myCore.queued + 1 }).retire.enqueue (.vectorWordExecute u.curCore))) ∧
      (∀ x u, vmemCheck f (s.g ra) s = (.error x, u) → exec i s = .next s))) ∧
  (∀ (s s' : State) (core : Nat) (e : VecEntry) (r : List VecEntry) (ra rb : Reg) (run : Word → Word → Acc Unit),
    (s.core core).vq = e :: r → vectorWord none e.instr = some (ra, rb, run) →
    (matrixBefore (s.core core) e.tid e.instr e.stamp = true ∨ s.captureBefore core e.tid.toNat e.stamp = true →
      exec (.vectorWordExecute core) s = .next s) ∧
    -- with the pc and the lane of its issue, through the leaves of its check
    (let c := s.core core
     let at_ := s.asThread core e.tid.toNat
     matrixBefore c e.tid e.instr e.stamp = false → s.captureBefore core e.tid.toNat e.stamp = false →
     run e.ga e.gb ((at_.setMyCore { c with vq := [], l1 := e.leaves ++ c.l1 }).setMe { at_.me with pc := e.pc, lane := e.lane }) =
       (.ok (), s') →
     let v := s'.setMe { s'.me with pc := at_.me.pc, lane := at_.me.lane }
     let v := v.setMyCore { v.myCore with vq := r, l1 := c.l1 }
     let k := clusterOf v.curCore
     let v := if e.leaves = [] then v else v.setCluster k { v.cluster k with l2 := (s.cluster (clusterOf core)).l2 }
     let u := { v with curCore := s.curCore, curTid := s.curTid }.noteUndo core e.tid.toNat c
     s'.curCore = core → s'.curTid = e.tid →
     let t := (if (u.core core).mq = [] then u else u.enqueue (.matrixWordExecute core)).kickCaptures core
     exec (.vectorWordExecute core) s = .next (if r = [] then t else t.enqueue (.vectorWordExecute core)))) ∧
  -- so a queued VADD writes its lanes and leaves the queue
  (∀ (s : State) (core : Nat) (tid : BitVec 2) (d a b : Reg) (m t : BitVec 3) (ga gb pc : Word) (k lane : Nat),
    (s.core core).vq = [⟨tid, .vadd d a b m t, ga, gb, k, pc, lane, [], [], none, none⟩] → (s.core core).mq = [] →
    s.captureBefore core tid.toNat k = false →
    let at_ := s.asThread core tid.toNat
    ∃ u, exec (.vectorWordExecute core) s = .next u ∧ (u.core core).vq = [] ∧
      (u.thread core tid.toNat).v = (at_.mapLanes d a b m t (arith at_.ctl t (fun x y _ => fpAdd at_.vmode x y)
        (fun x y _ => x + y))).me.v) ∧
  (∀ (s s' : State) (a : Reg) (sb sa sd l : BitVec 4) (ws : List (BitVec 32)),
    let n := l.toNat + 1
    let p := min (s.g a).toNat 16777215
    let room : Prop := (s.setMe { s.me with capture := none }).seqEntries + n ≤ 16
    (¬room → exec (.repeat a sb sa sd l) s = .next s) ∧
    -- a REPEAT whose words cannot be fetched has not executed: a suspended capture stays
    (∀ u, room → s.fetchWords n (s.me.pc + 4) [] = (none, u) → exec (.repeat a sb sa sd l) s = .next u) ∧
    (room → s.fetchWords n (s.me.pc + 4) [] = (some ws, s') →
      let t := s'.setMyCore { s'.myCore with queued := s'.myCore.queued + 1 }
      let u := ((t.setMe { t.me with
        capture := if p = 0 then none else some ⟨ws, sd, sa, sb, s.me.pc, p, 0, 0, false, false, s'.myCore.queued⟩
        vseq := { t.me.vseq with act := false } }).setPc (s.me.pc + 4 + BitVec.ofNat 64 (4 * n))).countRetired
      exec (.repeat a sb sa sd l) s = .next (if p = 0 then u else u.enqueue (.repeatPass u.curCore u.curTid.toNat)))) ∧
  (∀ (s : State) (core tid : Nat) (c : Capture) (w : BitVec 32) (d a b : Reg) (m t : BitVec 3), tid < 4 →
    (s.thread core tid).capture = some c → c.suspended = false → c.pass < c.passes → c.words = [w] → c.word = 0 →
    decodeCaptured w = some (.vadd d a b m t) → (s.thread core tid).parked = none → s.passWaits core tid c = false →
    (s.core core).contained = false → (s.asThread core tid).matrixWritesV = false → passLeaves (s.core core) c = false →
    (s.asThread core tid).intervalFull = false →
    ∃ u, exec (.repeatPass core tid) s = .next u ∧
      let t1 := s.thread core tid
      let t2 := u.thread core tid
      let reg (r : Reg) (st : BitVec 4) : Reg := BitVec.ofNat 5 (r.toNat + c.pass * st.toNat)
      let at_ := s.asThread core tid
      t2.v = (at_.mapLanes (reg d c.sd) (reg a c.sa) (reg b c.sb) m t (arith at_.ctl t (fun x y _ => fpAdd at_.vmode x y)
        (fun x y _ => x + y))).me.v ∧ t2.instret = t1.instret + 1 ∧ t2.pc = t1.pc ∧ t2.g = t1.g ∧ t2.p = t1.p ∧
      t2.capture = if c.pass + 1 = c.passes then none else some { c with pass := c.pass + 1, begun := false }) ∧
  -- a pass waits for words that entered before it
  (∀ (s : State) (core tid : Nat) (c : Capture), (s.thread core tid).capture = some c → s.passWaits core tid c = true →
    exec (.repeatPass core tid) s = .next s) ∧
  (∀ (s : State) (core tid : Nat) (c : Capture), s.passWaits core tid c = true ↔
    (∃ e ∈ (s.core core).vq, e.tid.toNat = tid ∨ (c.begun = false ∧ (c.pass = 0 → e.stamp < c.stamp))) ∨
      (c.begun = false ∧ s.captureBefore core tid (if c.pass = 0 then c.stamp else (s.core core).queued) = true)) ∧
  (∀ (kd ka kb d a b : Reg) (m t : BitVec 3),
    advanceWord kd ka kb (.vcmplt d a b m t) = .vcmplt ((d + kd) &&& 7) (a + ka) (b + kb) m t ∧
    advanceWord kd ka kb (.vcbload a) = .vcbload ((a + ka) &&& ~~~7) ∧
    advanceWord kd ka kb (.midx a) = .midx ((a + ka) &&& ~~~1))

/-- A vector memory word first checks g(a): a base misaligned for its elements traps with cause 1 and g(a) in TVAL, a
frame base that is misaligned with cause 1 and one outside the scratchpad with cause 2, at lane 0, before any lane. In
the own scratchpad, with no stream or matrix word to wait for and no poison, every form completes: loads write their
active lanes (VLDB: one element to each), stores write the last active lane's byte or nibble at each place and no
other byte, VSCATADD adds its lanes at distinct places, from the lane that VSRES names if it is valid for this word
and from lane 0 otherwise, and clears VALID; no other register changes. Where an active element of any of these forms
lies outside every region, and the active ones below it lie in the own scratchpad, the word traps with cause 2, the
address in bits 54:0 and the lane in bits 63:56 of TVAL: the active lanes below have been performed, no other has, and
VSCATADD records the lane and its location in VSRES. (R149, R150, R151, R152, R154, R101, R105, R153, R21.) -/
def Obligations.VectorMemoryForms : Prop :=
  ∀ (s : State) (d a b : Reg) (m t : BitVec 3), s.matrixWritesV = false → s.myCore.vq = [] → s.seqEntries < 16 →
    s.captureBefore s.curCore s.curTid.toNat s.myCore.queued = false →
    s.me.lane = 0 →
    let w := typeWidth t
    let n := 1024 / w
    let size := max 1 (w / 8)
    let base := s.g a
    let on := activeLane (s.p m) w
    let lo := padBase s.curCore
    let place (e : Int) : Nat := ((base.toNat + (if w = 4 then e / 2 else e * size)) % 2 ^ 64).toNat
    let i (k : Nat) : Int := k
    let stride (k : Nat) : Int := k * (s.g b).toInt
    let idx (k : Nat) : Int := lane (s.v b) w k
    let row (k : Nat) : Int := (32 * ((s.g b).toNat % 32) + k : Nat)
    let col (k : Nat) : Int := (32 * k + (s.g b).toNat % 32 : Nat)
    let quiet : Prop := s.poison = [] ∧ s.sramPoison = [] ∧ ∀ write off k, s.padHazard s.curCore write off k = false
    let below (hi : Nat) (e : Nat → Int) : Prop := ∀ k, k < hi → on k = true → place (e k) + size ≤ 0x40000
    let inPad (e : Nat → Int) : Prop := below n e
    let outside (x : Nat) : Prop := (0x40000 ≤ x ∧ x < 0x1000000) ∨ (0x2000000 ≤ x ∧ x < 0x4000000000) ∨ 2 ^ 55 ≤ x
    let tval (e : Nat → Int) (k : Nat) : Word := BitVec.ofNat 64 (place (e k) % 2 ^ 55 + k * 2 ^ 56)
    let get (e : Int) : Nat :=
      let x := ofLe (s.padRead s.curCore (place e) size)
      if w = 4 then (if e % 2 = 1 then x / 16 else x % 16) else x
    let regs (u : State) : Prop := (∀ r, u.g r = s.g r) ∧ (∀ r, u.p r = s.p r) ∧ (∀ r, r ≠ d → u.v r = s.v r) ∧
      u.me.vstat = s.me.vstat ∧ u.me.fstat = s.me.fstat
    let same (u : State) : Prop := regs u ∧ Retired s u ∧ ∀ k, k ≠ s.meKey → u.threadAt k = s.threadAt k
    let stopped (e : Nat → Int) (k : Nat) (u : State) : Prop := regs u ∧ u.me.instret = s.me.instret ∧
      (State.midPass s.me = false → Trapped 2 (tval e k) s u) ∧ (State.midPass s.me = true → Pends 2 (tval e k) s u)
    -- what the active lanes below one have done
    let loaded (e : Nat → Int) (hi : Nat) (u : State) : Prop := u.mem = s.mem ∧
      ∀ k, k < n → lane (u.v d) w k = if on k && decide (k < hi) then get (e k) else lane (s.v d) w k
    let written (e : Nat → Int) (hi : Nat) (u : State) : Prop :=
      let last (f : Nat → Bool) : Option Nat := (List.range hi).reverse.find? fun k => on k && f k
      u.v d = s.v d ∧ (∀ y, (y < lo ∨ lo + 0x40000 ≤ y) → u.memByte y = s.memByte y) ∧
        ∀ x, x < 0x40000 →
          (w ≠ 4 → u.memByte (lo + x) = match last fun k => place (e k) ≤ x && x < place (e k) + size with
            | some k => BitVec.ofNat 8 (lane (s.v d) w k / 256 ^ (x - place (e k)))
            | none => s.memByte (lo + x)) ∧
          (w = 4 → ∀ h, h < 2 → (u.memByte (lo + x)).toNat / 16 ^ h % 16 =
            match last fun k => place (e k) = x && (e k % 2).toNat = h with
            | some k => lane (s.v d) 4 k
            | none => (s.memByte (lo + x)).toNat / 16 ^ h % 16)
    let form (did : (Nat → Int) → Nat → State → Prop) (j : Instr) (e : Nat → Int) : Prop :=
      base.toNat % size = 0 → quiet →
        (inPad e → ∃ u, exec j s = .next u ∧ same u ∧ did e n u) ∧
        (∀ k, k < n → on k = true → below k e → outside (place (e k)) →
          ∃ u, exec j s = .next u ∧ stopped e k u ∧ did e k u)
    let loads := form loaded
    let stores := form written
    let bad (j : Instr) : Prop := base.toNat % size ≠ 0 → ∃ u, exec j s = .next u ∧ Traps 1 base s u
    let frame (j : Instr) : Prop :=
      (base.toNat % 4096 ≠ 0 → ∃ u, exec j s = .next u ∧ Traps 1 (base &&& 0x7FFFFFFFFFFFFF) s u) ∧
      (base.toNat % 4096 = 0 → 0x40000 ≤ base.toNat →
        ∃ u, exec j s = .next u ∧ Traps 2 (base &&& 0x7FFFFFFFFFFFFF) s u)
    loads (.vld d a m t) i ∧ loads (.vlds d a b m t) stride ∧ loads (.vldx d a b m t) idx ∧
    loads (.vldb d a m t) (fun _ => 0) ∧
    (base.toNat % 4096 = 0 → base.toNat < 0x40000 → loads (.vldrow d a b m t) row ∧ loads (.vldcol d a b m t) col ∧
      stores (.vstrow d a b m t) row ∧ stores (.vstcol d a b m t) col) ∧
    stores (.vst d a m t) i ∧ stores (.vsts d a b m t) stride ∧ stores (.vstx d a b m t) idx ∧
    bad (.vld d a m t) ∧ bad (.vst d a m t) ∧ bad (.vlds d a b m t) ∧ bad (.vsts d a b m t) ∧ bad (.vldx d a b m t) ∧
    bad (.vstx d a b m t) ∧ bad (.vldb d a m t) ∧ frame (.vldrow d a b m t) ∧ frame (.vldcol d a b m t) ∧
    frame (.vstrow d a b m t) ∧ frame (.vstcol d a b m t) ∧
    (w = 32 → base.toNat % 4 = 0 → quiet →
      (∀ j k, j < n → k < n → on j = true → on k = true → idx j = idx k → j = k) →
      let loc : BitVec 53 := s.me.pc.extractLsb' 2 53
      let from_ := if s.me.vsres.valid && !s.me.vsres.cap && s.me.vsres.widx = 0 && s.me.vsres.loc = loc
        then s.me.vsres.lane.toNat else 0
      let adds (hi : Nat) (u : State) : Prop := u.v d = s.v d ∧
        (∀ k, from_ ≤ k → k < hi → on k = true → ofLe (u.padRead s.curCore (place (idx k)) 4) =
          (let old := ofLe (s.padRead s.curCore (place (idx k)) 4)
           if t = 0#3 then fpAddRne 0 old (lane (s.v d) 32 k) else (old + lane (s.v d) 32 k) % 2 ^ 32)) ∧
        (∀ y, (∀ k, from_ ≤ k → k < hi → on k = true → ¬ (lo + place (idx k) ≤ y ∧ y < lo + place (idx k) + 4)) →
          u.memByte y = s.memByte y)
      ((∀ k, from_ ≤ k → k < n → on k = true → place (idx k) + 4 ≤ 0x40000) →
        ∃ u, exec (.vscatadd d a b m t) s = .next u ∧ same u ∧ adds n u ∧ u.me.vsres.valid = false) ∧
      (∀ k, from_ ≤ k → k < n → on k = true → (∀ j, from_ ≤ j → j < k → on j = true → place (idx j) + 4 ≤ 0x40000) →
        outside (place (idx k)) → ∃ u, exec (.vscatadd d a b m t) s = .next u ∧ stopped idx k u ∧ adds k u ∧
          u.me.vsres = ⟨true, BitVec.ofNat 5 k, false, 0, loc⟩))

/-- With the matrix queue idle: MMA leaves each element of the M by N region at the ascending k-steps of R52 over the
captured operands, from 0 if z = 1; MMD adds the terms of the path; MZERO clears the tile; MLOAD and MSTORE move
4-byte patterns (or rounded 16-bit codes) between rows at g(a) + i * g(b) and the tile; MSLICE and MQUANT write their
slice to vd; elements outside the region and every other tile keep their values. MSHAPE writes a legal shape and its
result code, MIDX the index list, MWAIT the number of pending words. (R130, R131, R132, R133, R135, R136, R141, R143,
R144, R145, R52, R53.) -/
def Obligations.MatrixFormsComplete : Prop :=
  ∀ (s : State) (d a b c : Reg) (n z x y : BitVec 1) (t : BitVec 2) (f : BitVec 6),
    let sh := s.me.shape
    let e (i : Instr) (ra rb rc : Reg) : MatEntry := s.matEntry i ra rb rc
    let src : MatSrc := ⟨s.padCopy s.curCore, s.myCore.cb2⟩
    let p := matPair f
    let opA (tr : Bool) : MatOperand := operandA src sh (s.g a) (s.g c) p (x = 1#1) tr s.me.idx
    let opB : MatOperand := operandB src sh (s.g b) (s.g c) p (trB t)
    let tile := d.toNat % 2
    let inside (i j : Nat) : Prop := i < shM sh ∧ j < shN sh
    let acc (u : State) (q i j : Nat) : Nat := u.myCore.elem q i j
    let keeps (u : State) (q : Nat) : Prop := ∀ r i j, i < 128 → j < 128 → r < 2 → ¬(r = q ∧ inside i j) → acc u r i j = acc s r i j
    let retired (u : State) : Prop := u.me.pc = (s.me.pc + 4) &&& ~~~3#64 ∧ u.me.instret = s.me.instret + 1
    let row (i : Nat) : Nat := ((((s.g a).toNat : Int) + i * (s.g b).toInt) % 2 ^ 64).toNat
    exec (.mshape d a) s = .next (((if shapeCode (s.g a) = 0 then s.setMe { s.me with shape := s.g a } else s).setG d
      (BitVec.ofNat 64 (shapeCode (s.g a)))).retire) ∧
    (s.matrixWritesV = false → (∀ e ∈ s.myCore.vq, e.tid ≠ s.curTid) → a.toNat % 2 = 0 →
      ∃ u, exec (.midx a) s = .next u ∧ retired u ∧ ∀ i, i < 128 →
        lane u.me.idx 16 i = if i < 64 then lane (s.v a) 16 i else lane (s.v (a + 1)) 16 (i - 64)) ∧
    (let k := s.pendingMatrix s.curCore s.curTid.toNat
     exec (.mwait d a) s = .next (if k ≤ (s.g a).toNat then (s.setG d (BitVec.ofNat 64 k)).retire else s.block (.mwait d a))) ∧
    (matrixIdle s → 1 ≤ shM sh → shM sh ≤ 128 → shN sh ≤ 128 →
      ((s.g a).toNat % 16 = 0 → (s.g b).toNat % 16 = 0 →
        ownRuns s false ((opA (trA t)).runs (shM sh) (shK sh) ++ opB.runs (shN sh) (shK sh)) →
        ∃ u, exec (.mma n z x t a b c f) s = .next u ∧ retired u ∧ keeps u n.toNat ∧ ∀ i j, inside i j →
          acc u n.toNat i j = ksteps p (opA (trA t)) opB (tensorScale c (s.g c)) i j 0 (shK sh)
            (if z = 1#1 then 0 else acc s n.toNat i j)) ∧
      (∀ path, mmdCheck x y f (e (.mmd n z x y a b c f) a b c) s = (.ok path, s) →
        ∃ u, exec (.mmd n z x y a b c f) s = .next u ∧ retired u ∧ keeps u n.toNat ∧ ∀ i j, inside i j →
          acc u n.toNat i j = path.foldl (termStep p (opA (y = 1#1)) ⟨formatWidth p.b, 1, 1, 1, 1⟩ ((s.g c).toNat % 2 ^ 32)
            ((s.g c).toNat / 2 ^ 32) (shK sh) i j) (if z = 1#1 then 0 else acc s n.toNat i j)) ∧
      ((s.g a).toNat % 4 = 0 → (s.g b).toNat % 4 = 0 → ownRuns s false (moveRuns sh (s.g a) (s.g b) 4) →
        ∃ u, exec (.mload d a b) s = .next u ∧ retired u ∧ keeps u tile ∧ ∀ i j, inside i j →
          acc u tile i j = ofLe (s.padRead s.curCore (row i + 4 * j) 4)) ∧
      (∀ g : Reg, let size := if g = 1#5 ∨ g = 2#5 then 2 else 4
        (s.g a).toNat % size = 0 → (s.g b).toNat % size = 0 → ownRuns s true (moveRuns sh (s.g a) (s.g b) size) →
        (∀ i j, i < j → j < shM sh → row i + size * shN sh ≤ row j ∨ row j + size * shN sh ≤ row i) →
        ∃ u, exec (.mstore d a b g) s = .next u ∧ retired u ∧ (∀ q i j, acc u q i j = acc s q i j) ∧
          (∀ i j, inside i j → ofLe (u.padRead s.curCore (row i + size * j) size) =
            if size = 2 then (fpConvert 0 g.toNat 0 s.vsat (acc s tile i j)).1 else acc s tile i j) ∧
          ∀ k, (∀ i, i < shM sh → ¬(padBase s.curCore + row i ≤ k ∧ k < padBase s.curCore + row i + size * shN sh)) →
            u.memByte k = s.memByte k)) ∧
    (matrixIdle s → ∃ u, exec (.mzero d) s = .next u ∧ retired u ∧
      (∀ i j, i < 128 → j < 128 → acc u tile i j = 0) ∧ ∀ r i j, r < 2 → r ≠ tile → acc u r i j = acc s r i j) ∧
    (matrixIdle s → 1 ≤ shM sh →
      let q := (s.g a).toNat / 2 ^ 7 % 4
      let elt (i : Nat) : Nat := acc s ((s.g a).toNat / 2 ^ 9 % 2) ((s.g a).toNat % 128) (32 * q + i)
      (∃ u, exec (.mslice d a) s = .next u ∧ retired u ∧ (∀ i, i < 32 → lane (u.v d) 32 i = elt i) ∧ ∀ r, r ≠ d → u.v r = s.v r) ∧
      (∃ u, exec (.mquant d a b) s = .next u ∧ retired u ∧ (d ≠ b →
        let fmt := s.me.vctl.qfmt.toNat
        let k := mxQuantise fmt s.vsat ((List.range 32).map fun i => some (fpDecode 0 (elt i)))
        let w := formatWidth fmt
        fmt ∈ [11, 12, 13, 14, 15] → lane (u.v b) 8 q = k.1 % 256 ∧
          ∀ i, i < 1024 / w → lane (u.v d) w i = if 32 * q ≤ i ∧ i < 32 * q + 32 then k.2.1.getD (i - 32 * q) 0 % 2 ^ w
            else lane (s.v d) w i)))

/-- A matrix word whose check passes enters the queue, when words stand before it or it is an MMS, with the shape,
index list, operands and scratchpad it captures (log 15: the scratchpad is captured at issue), and retires; it waits
at issue while both entries are taken; with M = 0 every one but MZERO retires with no effect. MATRIX_WORD_EXECUTE
performs the word at the head, each form with its own effect on the captured operands: MMA, MMD, MZERO and MLOAD on
their tile, MSTORE on its rows, MSLICE and MQUANT on v registers of its thread; and the word leaves the queue; an
MSTORE of a paired core waits until the interval of its thread has matched (log 11). MWAIT_RELEASE ends an MWAIT whose
limit is met. In a group of one member each MMS_PANEL sums the next k-panel into the member's tile, and after the last
panel the MMS leaves the queue. (R127, R128, R130, R137, R138, R139, R145, R98.) -/
def Obligations.MatrixQueueAndGroups : Prop :=
  (∀ (s : State) (i : Instr) (ra rb rc : Reg) (check : MatEntry → Acc (List PathTerm)) (path : List PathTerm),
    matrixWord i = some (ra, rb, rc, check) →
    let e := s.matEntry i ra rb rc
    let t := s.retire
    let u := t.setMyCore { t.myCore with mq := t.myCore.mq ++ [{ e with path := path }], queued := t.myCore.queued + 1 }
    (2 ≤ s.myCore.mq.length → exec i s = .next s) ∧
    (s.myCore.mq.length < 2 → shM s.me.shape = 0 → (∀ d, i ≠ .mzero d) → exec i s = .next s.retire) ∧
    (s.myCore.mq.length < 2 → (shM s.me.shape ≠ 0 ∨ ∃ d, i = .mzero d) → check e s = (.ok path, s) →
      (s.myCore.mq ≠ [] → exec i s = .next u) ∧
      (s.myCore.mq = [] → (s.defer = true ∨ isMms i = true ∨ State.vectorBefore s.myCore e = true) →
        exec i s = .next (u.kickMatrix s.curCore)))) ∧
  (∀ (s : State) (core : Nat) (e : MatEntry) (r : List MatEntry) (d a b c : Reg) (n z x y : BitVec 1) (t : BitVec 2)
      (f : BitVec 6),
    (s.core core).mq = e :: r → isMms e.instr = false → State.vectorBefore (s.core core) e = false →
    (s.core core).accPoison = [] → (s.core core).cb2Poison = [] → shM e.shape ≤ 128 → shN e.shape ≤ 128 →
    (storesPad e.instr = true → s.pairHolds core e.tid.toNat = true →
      exec (.matrixWordExecute core) s = .next ((s.enqueue (.pairIntervalEnd core e.tid.toNat true)).enqueue
        (.matrixWordExecute core))) ∧
    ((storesPad e.instr = true → s.pairHolds core e.tid.toNat = false) → ∃ u, exec (.matrixWordExecute core) s = .next u ∧ (u.core core).mq.map (·.instr) = r.map (·.instr) ∧
      let src : MatSrc := ⟨e.pad, (s.core core).cb2⟩
      let p := matPair f
      let A (tr : Bool) := operandA src e.shape e.ga e.gc p (x = 1#1) tr e.idx
      let B := operandB src e.shape e.gb e.gc p (trB t)
      let old (q i j : Nat) : Nat := (s.core core).elem q i j
      let new (q i j : Nat) : Nat := (u.core core).elem q i j
      let inside (i j : Nat) : Prop := i < shM e.shape ∧ j < shN e.shape
      let accSame : Prop := ∀ q i j, new q i j = old q i j
      let th := s.thread core e.tid.toNat
      let th' := u.thread core e.tid.toNat
      let padSame : Prop := ∀ k, u.memByte k = s.memByte k
      let row (i : Nat) : Nat := (((e.ga.toNat : Int) + i * e.gb.toInt) % 2 ^ 64).toNat
      let tile := d.toNat % 2
      let q := e.ga.toNat / 2 ^ 7 % 4
      let elt (i : Nat) : Nat := old (e.ga.toNat / 2 ^ 9 % 2) (e.ga.toNat % 128) (32 * q + i)
      (e.instr = .mma n z x t a b c f → padSame ∧ ∀ i j, inside i j →
        new n.toNat i j = ksteps p (A (trA t)) B (tensorScale c e.gc) i j 0 (shK e.shape)
          (if z = 1#1 then 0 else old n.toNat i j)) ∧
      (e.instr = .mmd n z x y a b c f → padSame ∧ ∀ i j, inside i j →
        new n.toNat i j = e.path.foldl (termStep p (A (y = 1#1)) ⟨formatWidth p.b, 1, 1, 1, 1⟩ (e.gc.toNat % 2 ^ 32)
          (e.gc.toNat / 2 ^ 32) (shK e.shape) i j) (if z = 1#1 then 0 else old n.toNat i j)) ∧
      (e.instr = .mzero d → padSame ∧ ∀ i j, i < 128 → j < 128 → new tile i j = 0) ∧
      (e.instr = .mload d a b → padSame ∧ ∀ i j, inside i j → new tile i j =
        ofLe ((List.range 4).map fun k => Map.get (0 : Byte) e.pad (row i + 4 * j + k))) ∧
      (∀ g : Reg, e.instr = .mstore d a b g → let size := if g = 1#5 ∨ g = 2#5 then 2 else 4
        outsidePad (moveRuns e.shape e.ga e.gb size) = none →
        (∀ i j, i < j → j < shM e.shape → row i + size * shN e.shape ≤ row j ∨ row j + size * shN e.shape ≤ row i) →
        accSame ∧
        (∀ i j, inside i j → ofLe (u.padRead core (row i + size * j) size) =
          if size = 2 then (fpConvert 0 g.toNat 0 th.vctl.sat (old tile i j)).1 else old tile i j) ∧
        ∀ k, (∀ i, i < shM e.shape → ¬(padBase core + row i ≤ k ∧ k < padBase core + row i + size * shN e.shape)) →
          u.memByte k = s.memByte k) ∧
      (e.instr = .mslice d a → accSame ∧ padSame ∧ (∀ i, i < 32 → lane th'.v[d.toNat] 32 i = elt i) ∧
        ∀ r : Reg, r ≠ d → th'.v[r.toNat] = th.v[r.toNat]) ∧
      (e.instr = .mquant d a b → accSame ∧ padSame ∧ (d ≠ b →
        let fmt := th.vctl.qfmt.toNat
        let k := mxQuantise fmt th.vctl.sat ((List.range 32).map fun i => some (fpDecode 0 (elt i)))
        let w := formatWidth fmt
        fmt ∈ [11, 12, 13, 14, 15] → lane th'.v[b.toNat] 8 q = k.1 % 256 ∧
          ∀ i, i < 1024 / w → lane th'.v[d.toNat] w i = if 32 * q ≤ i ∧ i < 32 * q + 32 then k.2.1.getD (i - 32 * q) 0 % 2 ^ w
            else lane th.v[d.toNat] w i)))) ∧
  (∀ (s : State) (core tid : Nat) (d a : Reg), tid < 4 → (s.thread core tid).wait = some (.mwait d a) →
    let k := s.pendingMatrix core tid
    (k ≤ ((s.asThread core tid).g a).toNat →
      exec (.mwaitRelease core tid) s = .next (s.within core tid fun u => (u.setG d (BitVec.ofNat 64 k)).retire)) ∧
    (((s.asThread core tid).g a).toNat < k → exec (.mwaitRelease core tid) s = .next s)) ∧
  (∀ (s : State) (core : Nat) (e : MatEntry) (r : List MatEntry) (n z : BitVec 1) (t : BitVec 2) (a b c : Reg) (f : BitVec 6),
    (s.core core).mq = e :: r → e.instr = .mms n z t a b c f → (s.core core).accPoison = [] → (s.core core).cb2Poison = [] →
    (s.core core).contained = false → s.pairHolds core e.tid.toNat = false → shGW e.shape = 1 → shGH e.shape = 1 →
    s.memberCore core (s.thread core e.tid.toNat).spanix.toNat = some core →
    let p := matPair f
    let src : MatSrc := ⟨e.pad, (s.core core).cb2⟩
    let A := operandA src e.shape e.ga e.gc p false (trA t) e.idx
    let B := operandB src e.shape e.gb e.gc p (trB t)
    let total := (shK e.shape + p.kp - 1) / p.kp
    (e.panel < total → ∃ u, exec (.mmsPanel core) s = .next u ∧ (u.core core).mq.head?.map (·.panel) = some (e.panel + 1) ∧
      ∀ i j, i < shM e.shape → j < shN e.shape → shM e.shape ≤ 128 → shN e.shape ≤ 128 →
        (u.core core).elem n.toNat i j = ksteps p A B (tensorScale c e.gc) i j (e.panel * p.kp)
          (min (shK e.shape) (e.panel * p.kp + p.kp))
          (if z = 1#1 ∧ e.panel = 0 then 0 else (s.core core).elem n.toNat i j)) ∧
    (e.panel = total → ∃ u, exec (.mmsPanel core) s = .next u ∧ (u.core core).mq.map (·.instr) = r.map (·.instr)))

/-- COPY and COPYT write the first refusal code that holds of REQUEST, FORMAT, SHAPE, COMPLETION and ALIGN, 2^63 + k
for k from 1 to 5, and do nothing else (COPYT also while its FIFO is full: log 16; the index list is read at
acceptance: log 36); an accepted request enters the FIFO and gives 0; a full FIFO makes COPY wait and COPYT give 1, or
2 when all 16 slots hold parked streams. With idle engines, in an instance that is not being stopped (R197), a
one-dimensional copy of bytes in the own scratchpad has moved its bytes. RINGINIT sets a ring, gives 1 for a bad image
and 2 while a claimed slot is not filled (in that order: log 16); AWAIT returns the oldest filled slot, or blocks at
its place in the order of issue; BFREE counts a release of a member of the fixed rectangle, and is discarded
otherwise; RELSLOT frees it; RINGQ reports; each traps with cause 14 on a ring that is not set. CDRAIN gives its
result once the streams before it are done. (R187, R189, R192, R193, R196, R200, R201, R203, R12.) -/
def Obligations.CopyAndRingForms : Prop :=
  ∀ (s : State) (d a c q : Reg),
    let core := s.curCore
    let r0 := s.quad a
    let full := 8 ≤ s.myCore.fifo.length
    let idle : Prop := s.myCore.fifo = [] ∧ s.myCore.streams = [] ∧ s.myCore.mq = [] ∧ s.defer = false ∧
      s.myCore.contained = false ∧ s.stopsOn core = false ∧ s.poison = [] ∧ s.sramPoison = []
    let refuses (k : Nat) : Prop := (¬full → exec (.copy d a) s = .next (s.setG d (BitVec.ofNat 64 (2 ^ 63 + k))).retire) ∧
      exec (.copyt d a) s = .next (s.setG d (BitVec.ofNat 64 (2 ^ 63 + k))).retire
    let ring := s.ring core c.toNat
    let set : Prop := ring.slots ≠ 0 ∧ s.myCore.ringPoison = 0
    let trap14 : Out := .next (s.takeTrap 14 (c.setWidth 64))
    (full → exec (.copy d a) s = .next s) ∧
    (r0.badRequest = true → refuses 1) ∧ (r0.badRequest = false → r0.formatsOk = false → refuses 2) ∧
    (r0.badRequest = false → r0.formatsOk = true → r0.badPlace = true → refuses 3) ∧
    (padQuiet s core → r0.badRequest = false → r0.formatsOk = true → r0.badPlace = false →
      let r1 : CopyRequest := if r0.needsDesc then { r0 with desc := s.padRead core (r0.shp * 16) 64 } else r0
      let r2 : CopyRequest := if r1.kind = 3 ∨ r1.kind = 4 then { r1 with
        idx := (List.range r1.len).map fun k => BitVec.ofNat 32 (ofLe (((s.padRead core r1.idxAddr (4 * r1.len)).drop (4 * k)).take 4)) } else r1
      (r1.badShape = true → refuses 3) ∧
      (r1.badShape = false → s.myCore.ringPoison = 0 → (s.badCompletion r2 = true → refuses 4) ∧
        (s.badCompletion r2 = false → r2.badAlign = true → refuses 5))) ∧
    (∀ r s', parseCopy a s = (.ok (.ok r), s') → s'.defer = true →
      (¬full → ∃ u, exec (.copy d a) s = .next u ∧ (u.core core).fifo = (s'.core core).fifo ++ [r] ∧
        (d ≠ 0 → u.g d = 0) ∧ Retired s' u) ∧
      ((s'.core core).fifo.length < 8 → ∃ u, exec (.copyt d a) s = .next u ∧ (u.core core).fifo = (s'.core core).fifo ++ [r] ∧
        (d ≠ 0 → u.g d = 0) ∧ Retired s' u) ∧
      (8 ≤ (s'.core core).fifo.length → exec (.copyt d a) s = .next (s'.setG d
        (if 16 ≤ (s'.core core).streams.length ∧ ∀ e ∈ (s'.core core).streams, e.2.parked.isSome then 2 else 1)).retire)) ∧
    (∀ n, idle → 0 < n → s.g a = BitVec.ofNat 64 (9 * 2 ^ 4 + 9 * 2 ^ 9 + n * 2 ^ 24) → s.g (a + 3) = 0 →
      (s.g (a + 1)).toNat + n ≤ 0x40000 → (s.g (a + 2)).toNat + n ≤ 0x40000 →
      ∃ u, exec (.copy d a) s = .next u ∧ (d ≠ 0 → u.g d = 0) ∧ Retired s u ∧
        let lo := padBase core + (s.g (a + 2)).toNat
        ∀ x, u.memByte x = if lo ≤ x ∧ x < lo + n then s.memByte (padBase core + (s.g (a + 1)).toNat + (x - lo))
          else s.memByte x) ∧
    (let at_ := (s.g a).toNat
     let bytes := s.padRead core at_ 16
     (at_ % 16 ≠ 0 ∨ 0x40000 < at_ + 16 → exec (.ringinit d a c) s = .next (s.setG d 1).retire) ∧
     (at_ % 16 = 0 → at_ + 16 ≤ 0x40000 → padQuiet s core →
       (ringImage bytes = none → exec (.ringinit d a c) s = .next (s.setG d 1).retire) ∧
       (∀ g, ringImage bytes = some g → (∃ x ∈ ring.claims, x.done = false) →
         exec (.ringinit d a c) s = .next (s.setG d 2).retire) ∧
       (∀ g, ringImage bytes = some g → (∀ x ∈ ring.claims, x.done = true) →
         (∀ e ∈ s.cores, e.2.streams = []) → ∃ u, exec (.ringinit d a c) s = .next u ∧ u.ring core c.toNat = g ∧
           (d ≠ 0 → u.g d = 0) ∧ Retired s u))) ∧
    (ring.slots = 0 → s.myCore.ringPoison = 0 → exec (.await d c) s = trap14 ∧ exec (.relslot c) s = trap14 ∧
      exec (.ringq d q c) s = trap14) ∧
    (set → (ring.filled ≤ ring.awaited ∨ s.awaitedBefore c = true) →
      (s.me.wait = none → exec (.await d c) s = .next
        (let b := s.setMyCore { s.myCore with queued := s.myCore.queued + 1 }
         (b.setMe { b.me with awaitSeq := s.myCore.queued }).block (.await d c))) ∧
      (s.me.wait ≠ none → exec (.await d c) s = .next s)) ∧
    (set → ring.awaited < ring.filled → s.awaitedBefore c = false → ∃ u, exec (.await d c) s = .next u ∧ Retired s u ∧
      (d ≠ 0 → u.g d = ring.base + BitVec.ofNat 64 (ring.read.toNat * ring.slotSize.toNat)) ∧
      u.ring core c.toNat = { ring with
        awaited := ring.awaited + 1, read := BitVec.ofNat 16 ((ring.read.toNat + 1) % ring.slots.toNat) }) ∧
    (set → ring.awaited = 0 → exec (.relslot c) s = trap14) ∧
    (set → ring.awaited ≠ 0 → (∀ e ∈ s.cores, e.2.streams = []) → s.myCore.fifo = [] →
      ∃ u, exec (.relslot c) s = .next u ∧ Retired s u ∧ u.ring core c.toNat =
        { ring with filled := ring.filled - 1, free := ring.free + 1, awaited := ring.awaited - 1 }) ∧
    (set → exec (.ringq d q c) s = .next (s.setG d (if q = 0 then
        BitVec.ofNat 64 (ring.read.toNat + ring.write.toNat * 2 ^ 16 + ring.free.toNat * 2 ^ 32 + ring.filled.toNat * 2 ^ 48)
      else if q = 1 then ring.base else BitVec.ofNat 64 (ring.slotSize.toNat + ring.slots.toNat * 2 ^ 16))).retire) ∧
    (s.me.spansz.toNat % 2 ^ 16 ≤ (s.g a).toNat % 64 → exec (.bfree a) s = .next s.retire) ∧
    (∀ sender f, (s.g a).toNat % 64 < s.me.spansz.toNat % 2 ^ 16 →
      s.memberCore core ((s.g a).toNat % 64) = some sender →
      Map.get ⟨none, [], 0⟩ (s.core sender).freeMbs ((s.g a).toNat / 2 ^ 8 % 16) = f →
      let inside : Prop := ∀ w h origin, f.rect = some (w, h, origin) → s.me.spanix.toNat ≠ (s.g a).toNat % 64 ∧
        ∃ i j, i < h ∧ j < w ∧ origin + i * State.spanW s.me + j = s.me.spanix.toNat
      (¬ inside → exec (.bfree a) s = .next s.retire) ∧
      (inside → ∃ u, exec (.bfree a) s = .next u ∧ Retired s u ∧
        (Map.get ⟨none, [], 0⟩ (u.core sender).freeMbs ((s.g a).toNat / 2 ^ 8 % 16)).counts =
          Map.insert f.counts s.me.spanix.toNat (Map.get 0 f.counts s.me.spanix.toNat + 1))) ∧
    (let s1 := s.setMe { s.me with drainSeq := s.myCore.copySeq }
     exec (.cdrain d) s = .next (if s1.drained s.myCore.copySeq
       then (s1.setG d (s1.drainResult s.myCore.copySeq)).retire else s1.block (.cdrain d)))

/-- STREAM_START moves the head of the FIFO into the lowest free context slot (log 18: R194 says a free one), and does
nothing while all 16 are taken. A stream whose elements are all performed and acknowledged completes: with CMODE 1 the
named mailbox is incremented, saturating, and its slot is free. A stream that meets a fault fails: CERR records cause
and address if CERR.VALID was 0. One that meets a page that is not there parks with its address, one that finds no
lineage space likewise (on a service core in its context slot alone: log 36). A multicast notes the receiver it has
served. AWAIT_RELEASE and CDRAIN_RELEASE do what the word does, for a thread that waits. (R193, R194, R197, R198,
R199, R200, R201, R202, R286.) -/
def Obligations.CopyStreamEvents : Prop :=
  (∀ (s : State) (core : Nat) (r : CopyRequest) (rest : List CopyRequest), (s.core core).fifo = r :: rest →
    (s.core core).contained = false →
    (16 ≤ State.firstGap (Map.keys (s.core core).streams) 0 → exec (.streamStart core) s = .next s) ∧
    (State.firstGap (Map.keys (s.core core).streams) 0 < 16 → r.cmode ≠ 2 → ∃ u, exec (.streamStart core) s = .next u ∧
      (u.core core).fifo = rest ∧
      u.stream core (State.firstGap (Map.keys (s.core core).streams) 0) = some ⟨r, 0, none, none, [], 0, false, none, false, none, [], false⟩)) ∧
  (∀ (s s' : State) (core slot c : Nat) (x y : Stream), s.stream core slot = some x → x.parked = none → x.stopped = false →
    s.runStream core slot false x = (.moved, s') → s'.stream core slot = some y → y.unacked = 0 → y.req.cmode = 1 →
    y.req.kind ≠ 5 → s'.completionCore core y.req = some c → (s'.core c).contained = false → y.req.num < 16 →
    ∃ u, exec (.streamComplete core slot) s = .next u ∧ u.stream core slot = none ∧
      let n := BitVec.ofNat 4 y.req.num
      let v := (s'.core c).mb[n.toNat]'n.isLt
      (u.core c).mb[n.toNat]'n.isLt = if v = BitVec.allOnes 32 then v else v + 1) ∧
  (∀ (s s' : State) (core slot : Nat) (x : Stream) (cause : BitVec 8) (addr : Nat), s.stream core slot = some x →
    x.parked = none → x.stopped = false → s.runStream core slot false x = (.fail cause addr, s') →
    ∃ u, exec (.streamFail core slot) s = .next u ∧ u.stream core slot = none ∧
      (u.core core).cerr = if (s'.core core).cerr.valid then (s'.core core).cerr
        else ⟨true, cause.setWidth 5, BitVec.ofNat 55 addr⟩) ∧
  (∀ (s s' : State) (core slot : Nat) (x y : Stream) (va : Word) (w p : Bool), s.stream core slot = some x →
    x.parked = none → x.stopped = false → s.runStream core slot false x = (.park va w p, s') →
    s'.stream core slot = some y → ∃ u k, exec (.streamPark core slot) s = .next u ∧
      u.stream core slot = some { y with parked := some ⟨va, w, none, k⟩, linkAt := none, pathSince := none }) ∧
  (∀ (s s' : State) (core slot : Nat) (x y : Stream) (va : Word), s.stream core slot = some x →
    x.parked = none → x.stopped = false → s.runStream core slot false x = (.space va, s') → s'.stream core slot = some y →
    ∃ u, exec (.streamPark core slot) s = .next u ∧
      u.stream core slot = some { y with parked := some ⟨va, true, none, none⟩, linkAt := none, pathSince := none }) ∧
  (∀ (s s' : State) (core slot m : Nat) (x : Stream), s.stream core slot = some x → x.parked = none → x.stopped = false →
    x.req.kind = 5 → m ∈ s.unserved core x → s.multicastOne core slot x m = (.moved, s') →
    exec (.mcastReceiverComplete core slot m) s = .next (s'.enqueue (.streamComplete core slot))) ∧
  (∀ (s : State) (core tid : Nat) (d c : Reg), (s.thread core tid).wait = some (.await d c) →
    exec (.awaitRelease core tid) s = .next (s.within core tid (awaitBody d c))) ∧
  (∀ (s : State) (core tid : Nat) (d : Reg), tid < 4 → (s.thread core tid).wait = some (.cdrain d) →
    let seq := (s.thread core tid).drainSeq
    exec (.cdrainRelease core tid) s = .next (s.within core tid fun u =>
      if u.drained seq then (u.setG d (u.drainResult seq)).retire else u.block (.cdrain d)))

/-- BBINIT sets pointer, limit and direction and clears the buffer, or gives 1 with no change; BBPOS gives the bit
address of the next bit. A read form that has not enough bits refills, a byte at a time from BBPTR while the count is
at most 120 and BBPTR < BBLIM; BBGET, BBPEEK, BBSKIP and BBLZ then act on the buffer or give NONE. BBAPP appends,
after a flush where the bits do not fit: whole bytes are stored from BBPTR as far as BBLIM; BBFLUSH stores whole bytes
and a last partial byte. Where BBLIM is reached first both give NONE, and the bits that are left stay (what the flush
has stored stays stored: log 36). A form in the other direction gives NONE and changes nothing else. (R204, R205,
09_copy_and_bitstream.md.) -/
def Obligations.BitStreamForms : Prop :=
  ∀ (s : State) (d a b c : Reg), padQuiet s s.curCore → s.me.bb.cnt.toNat ≤ 128 →
    let bb := s.me.bb
    let n := if c = 0 then min ((s.g b).toNat % 64) 32 else c.toNat
    let lo := padBase s.curCore
    let none_ : Word := BitVec.allOnes 64
    let put (x : BitBuffer) (v : Word) : Out := .next (((s.setMe { s.me with bb := x }).setG d v).retire)
    -- the buffer x after a refill to at least k bits where that is possible
    let refilled (k : Nat) (x : BitBuffer) : Prop :=
      let m := if bb.cnt.toNat < k then min ((128 - bb.cnt.toNat) / 8) (bb.lim.toNat - bb.ptr.toNat) else 0
      x.cnt.toNat = bb.cnt.toNat + 8 * m ∧ x.ptr.toNat = bb.ptr.toNat + m ∧ x.lim = bb.lim ∧ x.dir = false ∧
        (∀ i, i < bb.cnt.toNat → x.buf.getLsbD i = bb.buf.getLsbD i) ∧
        ∀ i, i < 8 * m → x.buf.getLsbD (bb.cnt.toNat + i) = (s.memByte (lo + bb.ptr.toNat + i / 8)).getLsbD (i % 8)
    let uninit : Prop := bb.ptr = 0 ∧ bb.lim = 0 ∧ bb.cnt = 0
    let low (x : BitBuffer) (k : Nat) : Word := BitVec.ofNat 64 (x.buf.toNat % 2 ^ k)
    let drop (x : BitBuffer) (k : Nat) : BitBuffer := { x with buf := x.buf >>> k, cnt := x.cnt - BitVec.ofNat 8 k }
    exec (.bbinit d a b c) s = (if (s.g b).toNat < (s.g a).toNat ∨ 0x40000 ≤ (s.g a).toNat ∨ 0x40000 ≤ (s.g b).toNat
      then .next (s.setG d 1).retire else put ⟨0, 0, c = 1, (s.g a).setWidth 18, (s.g b).setWidth 18⟩ 0) ∧
    exec (.bbpos d) s = .next (s.setG d (if bb.dir then bb.ptr.setWidth 64 * 8 + bb.cnt.setWidth 64
      else bb.ptr.setWidth 64 * 8 - bb.cnt.setWidth 64)).retire ∧
    (bb.dir = true → exec (.bbget d b c) s = put bb none_ ∧ exec (.bbpeek d b c) s = put bb none_ ∧
      exec (.bbskip d b c) s = put bb none_ ∧ exec (.bblz d) s = put bb none_) ∧
    (bb.dir = false → exec (.bbapp d a b c) s = put bb none_ ∧ exec (.bbflush d) s = put bb none_) ∧
    (bb.dir = false → ¬uninit → ∃ x, refilled n x ∧
      (x.cnt.toNat < n → exec (.bbget d b c) s = put x none_ ∧ exec (.bbpeek d b c) s = put x none_ ∧
        exec (.bbskip d b c) s = put x none_) ∧
      (n ≤ x.cnt.toNat → exec (.bbget d b c) s = put (drop x n) (low x n) ∧ exec (.bbpeek d b c) s = put x (low x n) ∧
        exec (.bbskip d b c) s = put (drop x n) 0)) ∧
    (bb.dir = false → ¬uninit → ∃ x, refilled 32 x ∧
      (∀ z, z < min x.cnt.toNat 32 → x.buf.getLsbD z = true → (∀ i, i < z → x.buf.getLsbD i = false) →
        exec (.bblz d) s = put x (BitVec.ofNat 64 z)) ∧
      ((∀ i, i < min x.cnt.toNat 32 → x.buf.getLsbD i = false) →
        exec (.bblz d) s = put x (if 32 ≤ x.cnt.toNat then 32 else none_))) ∧
    (uninit → bb.dir = false → exec (.bbget d b c) s = put bb none_ ∧ exec (.bblz d) s = put bb none_) ∧
    (bb.dir = true → bb.cnt.toNat + n ≤ 128 → ∃ x, exec (.bbapp d a b c) s = put x 0 ∧
      x.cnt.toNat = bb.cnt.toNat + n ∧ x.ptr = bb.ptr ∧ x.lim = bb.lim ∧ x.dir = true ∧
      (∀ i, i < bb.cnt.toNat → x.buf.getLsbD i = bb.buf.getLsbD i) ∧
      ∀ i, i < n → x.buf.getLsbD (bb.cnt.toNat + i) = (s.g a).getLsbD i) ∧
    (let m := min (bb.cnt.toNat / 8) (bb.lim.toNat - bb.ptr.toNat)
     let left := bb.cnt.toNat - 8 * m
     -- whole bytes are stored as far as the limit, and the bits left stay in front
     let flushed (u : State) : Prop := Retired s u ∧ u.me.bb.ptr.toNat = bb.ptr.toNat + m ∧ u.me.bb.lim = bb.lim ∧
       u.me.bb.dir = true ∧ (∀ i, i < left → u.me.bb.buf.getLsbD i = bb.buf.getLsbD (8 * m + i)) ∧
       ∀ y, u.memByte y = if lo + bb.ptr.toNat ≤ y ∧ y < lo + bb.ptr.toNat + m then
         BitVec.ofNat 8 (bb.buf.toNat / 256 ^ (y - (lo + bb.ptr.toNat))) else s.memByte y
     (bb.dir = true → 128 < bb.cnt.toNat + n → left + n ≤ 128 → ∃ u, exec (.bbapp d a b c) s = .next u ∧ flushed u ∧
       (d ≠ 0 → u.g d = 0) ∧ u.me.bb.cnt.toNat = left + n ∧
       ∀ i, i < n → u.me.bb.buf.getLsbD (left + i) = (s.g a).getLsbD i) ∧
     (bb.dir = true → 128 < bb.cnt.toNat + n → 128 < left + n → ∃ u, exec (.bbapp d a b c) s = .next u ∧ flushed u ∧
       (d ≠ 0 → u.g d = none_) ∧ u.me.bb.cnt.toNat = left) ∧
     (bb.dir = true → bb.cnt ≠ 0 → bb.lim.toNat < bb.ptr.toNat + (bb.cnt.toNat + 7) / 8 →
       ∃ u, exec (.bbflush d) s = .next u ∧ flushed u ∧ (d ≠ 0 → u.g d = none_) ∧ u.me.bb.cnt.toNat = left)) ∧
    (let k := (bb.cnt.toNat + 7) / 8
     bb.dir = true → bb.cnt = 0 ∨ bb.ptr.toNat + k ≤ bb.lim.toNat → ∃ u, exec (.bbflush d) s = .next u ∧ Retired s u ∧
       u.me.bb.cnt = 0 ∧ u.me.bb.ptr.toNat = bb.ptr.toNat + k ∧ (d ≠ 0 → u.g d = u.me.bb.ptr.setWidth 64) ∧
       ∀ y, u.memByte y = if lo + bb.ptr.toNat ≤ y ∧ y < lo + bb.ptr.toNat + k then
         BitVec.ofNat 8 (bb.buf.toNat % 2 ^ bb.cnt.toNat / 256 ^ (y - (lo + bb.ptr.toNat))) else s.memByte y)

/-- Every form that names a node traps with cause 7 on a handle that is not valid. TNEW makes a live root with the
next generation of its slot, FORK a live child one deeper under a node that is then sealed (a bound root from depth
7), TSEAL the same for a list entry, whose bits 63:32 get the child's handle. REBASE, FLATTEN, TDEL, TMAP, TUNMAP,
TADD, TWAIT and TINFO give the codes of their tables, in their order, with their effects on nodes and mappings; REBASE
traps on its second handle, TSEAL on an entry of its list, and a REBASE without the blocks it needs gives NOSPACE;
TADD waits while no path leads to the home of its node, and crosses to it as a numbered write, performed and
acknowledged at once (R253, R324; that it is at once is the model's choice, log 23). A TWAIT that waits gives 0 once
the flatten has completed and 2 once the node has been freed. A flatten step leaves every resolved block of its node
unchanged; a finished flatten is a root. (log 18, 19: which free slot, base and generation.) (R168, R170, R171, R173,
R175, R177, R178, R180, R181, R182, R183, R324.) -/
def Obligations.LineageForms : Prop :=
  ∀ (s : State) (d a b c q : Reg),
    let code (k : Nat) : Word := BitVec.ofNat 64 (2 ^ 63 + k)
    let gives (i : Instr) (x : Word) : Prop := exec i s = .next (s.deliver d x)
    let h := (s.g a).toNat % 2 ^ 32
    let still : Prop := ∀ e ∈ s.threads, e.2.wait = none
    (s.nodeOf h = none → ∀ i ∈ ([.fork d a, .rebase d a b, .flatten d a, .tdel d a, .tmap d a b, .tadd d a b c, .twait d a] :
      List Instr), exec i s = .next (s.takeTrap 7 (BitVec.ofNat 64 h))) ∧
    (s.nodeOf h = none → q.toNat < 7 → exec (.tinfo d a q) s = .next (s.takeTrap 7 (BitVec.ofNat 64 h))) ∧
    (newShape (s.g a) (s.g b) (s.g c) = none → gives (.tnew d a b c) (code 3)) ∧
    (∀ t, newShape (s.g a) (s.g b) (s.g c) = some t → s.freeSlot = none → gives (.tnew d a b c) (code 1)) ∧
    (∀ t k, newShape (s.g a) (s.g b) (s.g c) = some t → s.freeSlot = some k → ∃ u n, exec (.tnew d a b c) s = .next u ∧
      Retired s u ∧ (d ≠ 0 → u.g d = BitVec.ofNat 64 (n.gen.toNat * 2 ^ 20 + k)) ∧ u.node k = some n ∧ n.shape = t ∧
      n.gen = s.nextGen k ∧ n.home = s.myDie ∧ n.key = s.myCore.ptbase.key ∧ n.st = .live ∧ n.parent = none ∧ n.depth = 0 ∧
      n.elems = [] ∧ n.scales = [] ∧ ∀ j, j ≠ k → u.node j = s.node j) ∧
    (match s.mappingAt s.mapOwner (s.g a).toNat with
      | none => gives (.tunmap d a) 1
      | some m => exec (.tunmap d a) s = .next (State.deliver { s with mappings := s.mappings.filter fun x => x ≠ m } d 0)) ∧
    gives (.tinfo d a 7) (BitVec.ofNat 64 s.freeSlots) ∧ gives (.tinfo d a 8) (BitVec.ofNat 64 s.freeBlocks) ∧
    (let at_ := (s.g a).toNat
     (at_ % 8 ≠ 0 → exec (.tseal d a b) s = .next (s.takeTrap 1 (s.g a))) ∧
     (at_ % 8 = 0 → (s.g b = 0 ∨ 256 < (s.g b).toNat) → gives (.tseal d a b) (code 3)) ∧
     (let m := (s.g b).toNat
      let entry (j : Nat) : Nat := ofLe (s.padRead s.curCore (at_ + 8 * j) 4)
      let node (j : Nat) : Option (Nat × Node) := s.nodeOf (entry j)
      at_ % 8 = 0 → 1 ≤ m → m ≤ 256 → at_ + 8 * m ≤ 0x40000 → padQuiet s s.curCore →
        (∀ j, j < m → node j = none → (∀ i, i < j → node i ≠ none) →
          exec (.tseal d a b) s = .next (s.takeTrap 7 (BitVec.ofNat 64 (entry j)))) ∧
        ((∀ j, j < m → node j ≠ none) →
          (¬ ((List.range m).map entry).Nodup → gives (.tseal d a b) (code 3)) ∧
          (((List.range m).map entry).Nodup →
            ((∃ j n, j < m ∧ node j = some n ∧ n.2.bound = true) → exec (.tseal d a b) s = .next (s.block (.tseal d a b))) ∧
            ((∀ j n, j < m → node j = some n → n.2.bound = false) → s.freeSlots < m → gives (.tseal d a b) (code 1))))) ∧
     (∀ k n f, at_ % 8 = 0 → s.g b = 1 → at_ + 8 ≤ 0x40000 → padQuiet s s.curCore → 1 ≤ s.freeSlots → s.freeSlot = some f →
       s.nodeOf (ofLe (s.padRead s.curCore at_ 4)) = some (k, n) → n.bound = false → n.depth < 7 → f ≠ k →
       ∃ u m, exec (.tseal d a b) s = .next u ∧ Retired s u ∧ (d ≠ 0 → u.g d = 0) ∧ u.node f = some m ∧ m.parent = some k ∧
         m.depth = n.depth + 1 ∧ u.padRead s.curCore at_ 4 = s.padRead s.curCore at_ 4 ∧
         ofLe (u.padRead s.curCore (at_ + 4) 4) = m.gen.toNat * 2 ^ 20 + f ∧
         ∀ x, ¬(padBase s.curCore + at_ + 4 ≤ x ∧ x < padBase s.curCore + at_ + 8) → u.memByte x = s.memByte x)) ∧
    (∀ k n, s.nodeOf h = some (k, n) →
      (n.bound = true → exec (.fork d a) s = .next (s.block (.fork d a))) ∧
      (n.bound = false → s.freeSlot = none → gives (.fork d a) (code 1)) ∧
      (∀ f, n.bound = false → s.freeSlot = some f → f ≠ k → ∃ u m, exec (.fork d a) s = .next u ∧ Retired s u ∧
        (d ≠ 0 → u.g d = BitVec.ofNat 64 (m.gen.toNat * 2 ^ 20 + f)) ∧ u.node f = some m ∧ m.gen = s.nextGen f ∧
        m.shape = n.shape ∧ m.home = s.myDie ∧ m.key = n.key ∧ m.elems = [] ∧ m.scales = [] ∧
        (n.depth < 7 → m.st = .live ∧ m.parent = some k ∧ m.depth = n.depth + 1) ∧
        (7 ≤ n.depth → m.st = .flattening ∧ m.parent = none ∧ m.pendingOn = some k ∧ m.depth = 0) ∧
        u.node k = some (if n.st = .live then { n with st := .sealed } else n)) ∧
      ((∃ j ∈ s.children k, ∃ m, s.node j = some m ∧ m.st = .flattening) ∨ (n.st = .flattening ∧ s.children k ≠ []) →
        gives (.tdel d a) (code 4)) ∧
      (s.nodeOf ((s.g b).toNat % 2 ^ 32) = none → exec (.rebase d a b) s =
        .next (s.takeTrap 7 (BitVec.ofNat 64 ((s.g b).toNat % 2 ^ 32)))) ∧
      (n.st ≠ .flattening → gives (.twait d a) 1) ∧ (n.st = .flattening → exec (.twait d a) s = .next (s.block (.twait d a))) ∧
      (n.st = .flattening → gives (.flatten d a) 2) ∧
      (n.st ≠ .flattening → n.parent = none → gives (.flatten d a) 1) ∧
      (n.st ≠ .flattening → n.parent ≠ none → s.freeBlocks < State.unmaterialised n →
        exec (.flatten d a) s = .next (s.noSpace d n.home)) ∧
      (n.st ≠ .flattening → n.parent ≠ none → State.unmaterialised n ≤ s.freeBlocks → ∃ u m, exec (.flatten d a) s = .next u ∧
        Retired s u ∧ (d ≠ 0 → u.g d = 0) ∧ u.node k = some m ∧ m.st = .flattening ∧ m.flatAt = 0 ∧ m.parent = n.parent ∧
        m.elems = n.elems ∧ (.flattenMaterialise k) ∈ u.agenda) ∧
      (s.children k = [] → n.st ≠ .flattening → still → ∃ u, exec (.tdel d a) s = .next u ∧ Retired s u ∧
        (d ≠ 0 → u.g d = 0) ∧ u.node k = none) ∧
      (∀ j m, s.children k = [j] → j ≠ k → s.node j = some m → m.st ≠ .flattening → n.st ≠ .flattening → still →
        ∃ u v, exec (.tdel d a) s = .next u ∧ Retired s u ∧ (d ≠ 0 → u.g d = 1) ∧ u.node k = none ∧ u.node j = some v ∧
          v.parent = n.parent) ∧
      (2 ≤ (s.children k).length → (∀ j ∈ s.children k, ∀ m, s.node j = some m → m.st ≠ .flattening) → n.st ≠ .flattening →
        ∃ u, exec (.tdel d a) s = .next u ∧ Retired s u ∧ (d ≠ 0 → u.g d = 2) ∧
          u.node k = some { n with st := .retired }) ∧
      (let o := s.g b
       let ms := s.mappingsOf s.mapOwner
       let plane := n.shape.plane (o.getLsbD 0)
       (o &&& ~~~3#64 ≠ 0 → gives (.tmap d a b) (code 3)) ∧
       (o &&& ~~~3#64 = 0 → o.getLsbD 0 = true → n.shape.sp = false → gives (.tmap d a b) (code 6)) ∧
       (o &&& ~~~3#64 = 0 → (o.getLsbD 0 = false ∨ n.shape.sp = true) → 4096 ≤ ms.length → gives (.tmap d a b) (code 8)) ∧
       (o &&& ~~~3#64 = 0 → (o.getLsbD 0 = false ∨ n.shape.sp = true) → ms.length < 4096 → ∃ u base, exec (.tmap d a b) s = .next u ∧
         Retired s u ∧ (d ≠ 0 → u.g d = BitVec.ofNat 64 base) ∧
         u.mappings = s.mappings ++ [⟨s.mapOwner, base, (plane.blocks * 4096 + 0xFFFF) / 0x10000 * 0x10000, k, n.gen,
           o.getLsbD 0, o.getLsbD 1⟩] ∧
         ∀ m ∈ ms, base + (plane.blocks * 4096 + 0xFFFF) / 0x10000 * 0x10000 ≤ m.base ∨ m.base + m.len ≤ base)) ∧
      (let at_ := s.g b
       let j := (s.g c).toNat
       let fits : Prop := at_.toNat % 128 = 0 ∧ at_.toNat + 4096 ≤ 0x40000
       (at_.toNat % 128 ≠ 0 → exec (.tadd d a b c) s = .next (s.takeTrap 1 at_)) ∧
       (at_.toNat % 128 = 0 → 0x40000 < at_.toNat + 4096 → exec (.tadd d a b c) s = .next (s.takeTrap 2 at_)) ∧
       (fits → 5 < n.shape.fmt.toNat → gives (.tadd d a b c) (code 6)) ∧
       (fits → n.shape.fmt.toNat ≤ 5 → n.shape.elemPlane.blocks ≤ j → gives (.tadd d a b c) (code 7)) ∧
       (fits → n.shape.fmt.toNat ≤ 5 → j < n.shape.elemPlane.blocks → s.storable k n = false → gives (.tadd d a b c) (code 4)) ∧
       (fits → n.shape.fmt.toNat ≤ 5 → j < n.shape.elemPlane.blocks → s.storable k n = true → s.hasPath s.myDie n.home = false →
         exec (.tadd d a b c) s = .next (s.waitsPath n.home)) ∧
       (fits → n.shape.fmt.toNat ≤ 5 → j < n.shape.elemPlane.blocks → s.storable k n = true → s.hasPath s.myDie n.home = true →
         padQuiet s s.curCore →
         let codes := State.deltaCodes n.shape.elemPlane j (s.padRead s.curCore at_.toNat 4096)
         (taddEffect k n j codes s = none → exec (.tadd d a b c) s = .next (s.noSpace d n.home)) ∧
         ∀ u, taddEffect k n j codes s = some u → exec (.tadd d a b c) s = .next ((u.numberAtOnce s.curCore n.home).deliver d 0))) ∧
      (q.toNat < 7 → gives (.tinfo d a q) (BitVec.ofNat 64 (tinfoNode s k n q.toNat))) ∧
      tinfoNode s k n 3 = n.shape.n0 + n.shape.n1 * 2 ^ 32 ∧ tinfoNode s k n 4 = n.shape.n2 + n.shape.n3 * 2 ^ 32 ∧
      (∀ j m sk, s.nodeOf ((s.g b).toNat % 2 ^ 32) = some (j, m) → s.hasChild k = false → n.st ≠ .flattening →
        s.between 20 j k [] = some sk → sk ≠ [] →
        s.freeBlocks < (s.rebaseBlocks n false sk).length + (s.rebaseBlocks n true sk).length →
        exec (.rebase d a b) s = .next (s.noSpace d n.home)) ∧
      (∀ j m, s.nodeOf ((s.g b).toNat % 2 ^ 32) = some (j, m) →
        ((s.hasChild k = true ∨ n.st = .flattening) → gives (.rebase d a b) (code 4)) ∧
        (s.hasChild k = false → n.st ≠ .flattening → s.between 20 j k [] = none → gives (.rebase d a b) (code 5)) ∧
        (s.hasChild k = false → n.st ≠ .flattening → s.between 20 j k [] = some [] → gives (.rebase d a b) 1) ∧
        (∀ p pn sk, s.hasChild k = false → n.st ≠ .flattening → s.between 20 j k [] = some sk → sk ≠ [] → j ≠ k →
          s.rebaseBlocks n false sk = [] → s.rebaseBlocks n true sk = [] → n.parent = some p → p ≠ k → s.node p = some pn →
          pn.st ≠ .retired → still → ∃ u v, exec (.rebase d a b) s = .next u ∧ Retired s u ∧ (d ≠ 0 → u.g d = 0) ∧
            u.node k = some v ∧ v.parent = some j ∧ v.depth = m.depth + 1 ∧ v.elems = n.elems ∧ v.scales = n.scales))) ∧
    (∀ k n, s.node k = some n → n.st = .flattening → k ∈ (s.die n.home).flattens.take 64 → State.flattenDone n = false →
      ∃ u, exec (.flattenMaterialise k) s = .next u ∧ ∀ scale j, u.resolve k scale j = s.resolve k scale j) ∧
    -- a TWAIT that waits looks again when a flatten completes or a node is freed
    twaitAgain d a s = (match s.nodeOf h with
      | none => s.deliver d 2
      | some e => if e.2.st = .flattening then s else s.deliver d 0) ∧
    (∀ k n, s.node k = some n → State.flattenDone n = true → exec (.flattenComplete k) s =
      .next ((s.completeFlatten k).wakeLineage.runNextFlatten n.home)) ∧
    (∀ k n p pn, s.node k = some n → State.flattenDone n = true → n.source = some p → p ≠ k → s.node p = some pn →
      pn.st ≠ .retired → still →
      ∃ u m, exec (.flattenComplete k) s = .next u ∧ u.node k = some m ∧ m.parent = none ∧ m.depth = 0 ∧ m.elems = n.elems ∧
        m.st = if s.hasChild k then .sealed else .live)

/-- A handle that is not valid gives code 4 (a vector form: 0xFFFFFFFD in every lane). EQNEW makes a forest of n
singletons in the lowest free slot (log 18: R211 leaves the slot open). In a forest whose parents are smaller than
their children: FIND gives the root and no class changes; UNITE gives the smaller root, with bit 32 set if two classes
merged, and exactly those two become one; EQSIZE reads the size at the root; an element out of range gives code 3.
MILESTONE, UNDO and UNDO.KEEP act on the log, and undoing a UNITE restores every parent and size. RELABEL numbers the
classes by ascending root and writes each element's label. VUNITE and VFIND do their lanes at once, or, while engine
work is deferred, one in each cycle with the thread blocked, so that words of other threads fall between them. (That
UNDO.KEEP which removes the last milestone empties the log is the model's choice, log 36.) (log 33: lostmax before any
loss.) (R207, R209, R211, R212, R214, R215, R216, R217, R219, R221, R326.) -/
def Obligations.EquivalenceForms : Prop :=
  (∀ (s : State) (d a b c q : Reg),
    let code (k : Nat) : Word := BitVec.ofNat 64 (2 ^ 63 + k)
    let gives (i : Instr) (x : Word) : Prop := exec i s = .next (s.deliver d x)
    let h := (s.g a).toNat % 2 ^ 32
    let x := (s.g b).toNat % 2 ^ 32
    let y := (s.g c).toNat % 2 ^ 32
    let die := s.myDie
    let slot := State.firstGap (Map.keys (s.die die).forests) 0
    let all (v : Nat) : Out := .next (s.setV d (packLanes 32 (List.replicate 32 v))).retire
    ((h = 0 ∨ 2 ^ 30 < h) → gives (.eqnew d a) (code 3)) ∧
    (1 ≤ h → h ≤ 2 ^ 30 → 64 ≤ slot → gives (.eqnew d a) (code 1)) ∧
    (1 ≤ h → h ≤ 2 ^ 30 → slot < 64 → s.engineSpace die < (s.die die).seresv.toNat + (8 * h + 524288) →
      gives (.eqnew d a) (code 2)) ∧
    (1 ≤ h → h ≤ 2 ^ 30 → slot < 64 → (s.die die).seresv.toNat + (8 * h + 524288) ≤ s.engineSpace die →
      ∃ u f, exec (.eqnew d a) s = .next u ∧ Retired s u ∧ Map.find (u.die die).forests slot = some f ∧
        (d ≠ 0 → u.g d = BitVec.ofNat 64 (f.gen.toNat * 256 + die * 64 + slot)) ∧ f.n = h ∧ f.parent = [] ∧ f.size = [] ∧
        f.log = [] ∧ f.milestones = [] ∧ f.owner = s.myGraph ∧ f.gen ≠ 0) ∧
    (s.forestOf h = none → (∀ i ∈ ([.eqfree d a, .unite d a b c, .find d a b, .eqsize d a b, .eqstat d a q, .milestone d a,
        .undo d a b, .undoKeep d a b] : List Instr), gives i (code 4)) ∧
      ((s.g b).toNat % 8 = 0 → (s.g b).toNat + 32 ≤ 0x40000 → gives (.relabel d a b) (code 4)) ∧
      (s.vectorPending = false → exec (.vunite d a b c) s = all 0xFFFFFFFD ∧ exec (.vfind d a b) s = all 0xFFFFFFFD)) ∧
    (∀ die slot f, s.forestOf h = some (die, slot, f) → f.poisoned = false → (∀ e ∈ f.parent, e.2 < e.1) →
      let now (u : State) : Option Forest := Map.find (u.die die).forests slot
      exec (.eqfree d a) s = .next ((s.dropForest die slot f).deliver d 0) ∧
      (f.n ≤ x → gives (.find d a b) (code 3) ∧ gives (.eqsize d a b) (code 3) ∧ gives (.unite d a b c) (code 3)) ∧
      (f.n ≤ y → gives (.unite d a b c) (code 3)) ∧
      (x < f.n → f.up (f.rootOf x) = f.rootOf x ∧ f.rootOf x ≤ x ∧
        ∃ u v g, exec (.find d a b) s = .next u ∧ exec (.eqsize d a b) s = .next v ∧ Retired s u ∧ Retired s v ∧
          (d ≠ 0 → u.g d = BitVec.ofNat 64 (f.rootOf x) ∧ v.g d = BitVec.ofNat 64 (f.sizeOf' (f.rootOf x))) ∧
          now u = some g ∧ (∀ e, g.rootOf e = f.rootOf e) ∧ g.size = f.size) ∧
      (x < f.n → y < f.n → ∃ u g, exec (.unite d a b c) s = .next u ∧ Retired s u ∧ now u = some g ∧
        let rx := f.rootOf x
        let ry := f.rootOf y
        (d ≠ 0 → u.g d = BitVec.ofNat 64 (min rx ry + if rx = ry then 0 else 2 ^ 32)) ∧
        (∀ e, g.rootOf e = if f.rootOf e = rx ∨ f.rootOf e = ry then min rx ry else f.rootOf e) ∧
        (rx ≠ ry → g.sizeOf' (min rx ry) = f.sizeOf' rx + f.sizeOf' ry)) ∧
      gives (.eqstat d a 0) (BitVec.ofNat 64 (f.n - f.parent.length)) ∧ gives (.eqstat d a 1) (BitVec.ofNat 64 f.n) ∧
      gives (.eqstat d a 2) (BitVec.ofNat 64 (f.milestones.length + f.log.length * 2 ^ 32)) ∧
      gives (.eqstat d a 3) (BitVec.ofNat 64 f.largest) ∧
      (16 ≤ f.milestones.length → gives (.milestone d a) (code 6)) ∧
      (f.milestones.length < 16 → exec (.milestone d a) s = .next ((s.setForest die slot { f with
        milestones := f.milestones ++ [(f.nextMile.toNat, f.log.length)],
        nextMile := if f.nextMile + 1 = 0 then 1 else f.nextMile + 1 }).deliver d (f.nextMile.setWidth 64))) ∧
      ((∀ e ∈ f.milestones, e.1 ≠ x) → gives (.undo d a b) (if x ≤ f.lostMax.toNat then code 5 else code 7) ∧
        gives (.undoKeep d a b) (if x ≤ f.lostMax.toNat then code 5 else code 7)) ∧
      (∀ p, f.milestones.find? (fun e => e.1 = x) = some (x, p) →
        exec (.undo d a b) s = .next ((s.setForest die slot (cutMilestones (Forest.restore (f.log.drop p).reverse f) x p)).deliver d
          (BitVec.ofNat 64 (f.log.length - p))) ∧
        exec (.undoKeep d a b) s = .next ((s.setForest die slot (cutMilestones f x f.log.length)).deliver d 0)) ∧
      -- the lanes at once, or one at a time with the thread blocked
      (s.vectorPending = false → s.defer = true →
        exec (.vunite d a b c) s = .next (s.setMe { s.me with forest := some ⟨true, d, a, b, c⟩, lane := 0 }) ∧
        exec (.vfind d a b) s = .next (s.setMe { s.me with forest := some ⟨false, d, a, b, b⟩, lane := 0 })) ∧
      (s.vectorPending = false → s.defer = false → ∃ u v, exec (.vfind d a b) s = .next u ∧ exec (.vunite d a b c) s = .next v ∧ Retired s u ∧
        Retired s v ∧ (∀ i, i < 32 → let e := lane (s.v b) 32 i
          lane (u.v d) 32 i = if 2 ^ 31 ≤ e then 0xFFFFFFFF else if f.n ≤ e then 0xFFFFFFFE else f.rootOf e % 2 ^ 32) ∧
        let r := forestLanes (fun j k g => ((g.unite j k).1, (g.unite j k).2.2)) ((lanes (s.v b) 32).zip (lanes (s.v c) 32)) f []
        now v = some r.2 ∧ v.v d = packLanes 32 r.1) ∧
      (let at_ := (s.g b).toNat
       let field (k : Nat) : Nat := ofLe (s.padRead s.curCore (at_ + 8 * k) 8)
       (at_ % 8 = 0 → at_ + 32 ≤ 0x40000 → padQuiet s s.curCore → (8 ≤ field 3 ∨ (field 1 = 0 ∧ field 3 % 4 ≠ 3)) →
         gives (.relabel d a b) (code 3)) ∧
       (at_ % 8 = 0 → at_ + 32 ≤ 0x40000 → padQuiet s s.curCore → field 0 ≠ 0 → field 0 % 4 = 0 → field 0 + 4 * f.n ≤ 0x40000 →
       field 2 = 0 → field 3 = 3 → ∃ u, exec (.relabel d a b) s = .next u ∧ Retired s u ∧
         let roots := (List.range f.n).filter fun e => f.up e = e
         (d ≠ 0 → u.g d = BitVec.ofNat 64 roots.length) ∧ ∀ e, e < f.n →
           ofLe (u.padRead s.curCore (field 0 + 4 * e) 4) = (roots.idxOf (f.rootOf e)) % 2 ^ 32))) ∧
    ((s.g b).toNat % 8 ≠ 0 → exec (.relabel d a b) s = .next (s.takeTrap 1 (s.g b))) ∧
    ((s.g b).toNat % 8 = 0 → 0x40000 < (s.g b).toNat + 32 → exec (.relabel d a b) s = .next (s.takeTrap 2 (s.g b)))) ∧
  -- a lane of a blocked VUNITE or VFIND, which a cycle takes
  (∀ (s : State) (core tid die slot : Nat) (x : ForestForm) (f : Forest), (s.thread core tid).forest = some x →
    (s.asThread core tid).forestOf ((s.asThread core tid).handleOperand x.a) = some (die, slot, f) → f.poisoned = false →
    s.forestTick core tid = s.within core tid fun v =>
      let i := v.me.lane
      let p := lane (v.v x.b) 32 i
      let q := lane (v.v x.c) 32 i
      let r := forestLane f p q (if x.unite then uniteLane p q else findLane p q)
      let w := (v.setForest die slot r.2).setV x.d (setLane (v.v x.d) 32 i r.1)
      if i = 31 then w.retire else w.setMe { w.me with lane := i + 1 }) ∧
  (∀ (f : Forest) (m x y : Nat), (∀ e ∈ f.parent, e.2 < e.1) → f.log.length + 2 * f.parent.length + 3 ≤ 65536 →
    let f1 := { f with milestones := f.milestones ++ [(m, f.log.length)] }
    let f2 := (f1.unite x y).2.2
    let f3 := Forest.restore (f2.log.drop f.log.length).reverse f2
    ∀ e, f3.up e = f.up e ∧ f3.sizeOf' e = f.sizeOf' e)

/-- A handle that is not valid gives code 4. DRINIT traps on a bad descriptor address, gives its codes, or arms the
slot that has been free longest. A contribution to an armed slot before its deadline is on time, and the last one
completes the slot, which writes the tree of all to DST; later ones to a partial slot are late (1); to a closed slot
they are dropped and counted (code 9). The reduction does not depend on the order of arrival. The deadline turns an
armed slot partial. DRWAIT gives the status word, once what the slot writes to DST has been performed; DRSCALE and
DRFIX close a partial slot, once DST can be written, their waiting for a path timed; DRFIX reads its mask once (its
codes before the mask's address, and cause 2 for a mask outside the own scratchpad, are the model's choice: log 36); a
contribution that meets a poisoned slot consumes the poison; DRSTAT reads; the release events do what the word does.
(log 33.) (R222, R224, R225, R226, R227, R228, R229, R230, R231, R328, R350.) -/
def Obligations.DeadlineReductionForms : Prop :=
  (∀ (s : State) (d a b c k : Reg),
    let code (k : Nat) : Word := BitVec.ofNat 64 (2 ^ 63 + k)
    let gives (i : Instr) (x : Word) : Prop := exec i s = .next (s.deliver d x)
    let h := (s.g a).toNat % 2 ^ 32
    let mine := s.myDie
    ((s.g a).toNat % 8 ≠ 0 → exec (.drinit d a) s = .next (s.takeTrap 1 (s.g a))) ∧
    ((s.g a).toNat % 8 = 0 → 0x40000 < (s.g a).toNat + 32 → exec (.drinit d a) s = .next (s.takeTrap 2 (s.g a))) ∧
    ((s.g a).toNat % 8 = 0 → (s.g a).toNat + 32 ≤ 0x40000 → padQuiet s s.curCore →
      let x := drDesc (s.padRead s.curCore (s.g a).toNat 32)
      let need := (x.n + 1) * 4 * x.e
      -- the walks of DST count, so that the answer is given in the state that they leave
      let pinned := (s.dstPinned x).1
      let v := (s.dstPinned x).2
      let answers (k : Nat) : Prop := exec (.drinit d a) s = .next (v.deliver d (code k))
      (x.ok = false → gives (.drinit d a) (code 3)) ∧ (x.ok = true → pinned = false → answers 11) ∧
      (x.ok = true → pinned = true → (v.die mine).slotFree = [] → answers 1) ∧
      (x.ok = true → pinned = true → (v.die mine).slotFree ≠ [] → v.engineSpace mine < (v.die mine).seresv.toNat + need →
        answers 2) ∧
      (∀ j r, x.ok = true → pinned = true → (v.die mine).slotFree = j :: r →
        (v.die mine).seresv.toNat + need ≤ v.engineSpace mine → ∃ u y, exec (.drinit d a) s = .next u ∧ Retired v u ∧
          Map.find (u.die mine).slots j = some y ∧ (u.die mine).slotFree = r ∧
          (d ≠ 0 → u.g d = BitVec.ofNat 64 (y.gen.toNat * 2 ^ 16 + mine * 256 + j)) ∧ y.st = .armed ∧ y.e = x.e ∧ y.n = x.n ∧
          y.dst = BitVec.ofNat 64 x.dst ∧ y.deadline = x.deadline ∧ y.t0 = v.cycle ∧ y.contribs = [] ∧ y.dropped = 0)) ∧
    (s.slotOf h = none → ∀ i ∈ ([.drsend d a b c, .drwait d a, .drscale d a, .drfix d a b, .drstat d a b k] : List Instr),
      gives i (code 4)) ∧
    -- a slot whose deadline has come is PARTIAL for every form
    (∀ die slot x, s.slotOf h = some (die, slot, x) → x.poisoned = false → x.st = .armed → s.deadlinePassed x = true →
      let y := { x with st := .partial_, part := x.reduce x.onTime }
      let v := s.expireSlot die slot x
      exec (.drwait d a) s = .next (if v.dstOut die slot then v.block (.drwait d a) else v.deliver d y.status) ∧ exec (.drstat d a b 2) s = .next (v.deliver d y.status) ∧
      (x.onTime = [] → exec (.drscale d a) s = .next (v.deliver d 1)) ∧
      (x.onTime ≠ [] → exec (.drscale d a) s = .next (if v.dstWaits die slot y then v.waitsDst die y
        else (closeSlot die slot y y.late.length (v.writeDst die slot true y (scaled y))).deliver d 0))) ∧
    (∀ die slot x, s.slotOf h = some (die, slot, x) → x.poisoned = false → (x.st = .armed → s.deadlinePassed x = false) →
      let i := (s.g c).toNat % 1024
      ((1024 ≤ (s.g c).toNat ∨ x.n ≤ i) → gives (.drsend d a b c) (code 3)) ∧
      ((s.g c).toNat < 1024 → i < x.n → x.hasSent i = true → gives (.drsend d a b c) (code 10)) ∧
      ((s.g c).toNat < 1024 → i < x.n → x.hasSent i = false → s.drFlights = [] → x.st = .closed →
        exec (.drsend d a b c) s = .next ((s.dropContributions die slot x 1).deliver d (code 9))) ∧
      (∀ data s', (s.g c).toNat < 1024 → i < x.n → x.hasSent i = false → s.drFlights = [] → x.st ≠ .closed →
        drSource (s.agent 5) x (s.g b) s = (.ok data, s') → s'.defer = false → s'.hasPath s'.myDie die = true →
        exec (.drsend d a b c) s = .next ((s'.arrive die slot i data).2.deliver d (s'.arrive die slot i data).1)) ∧
      (x.st = .armed → exec (.drwait d a) s = .next (s.block (.drwait d a))) ∧
      (x.st ≠ .armed → x.st ≠ .closed → s.dstOut die slot = true → exec (.drwait d a) s = .next (s.block (.drwait d a))) ∧
      (x.st = .closed ∨ (x.st ≠ .armed ∧ s.dstOut die slot = false) → gives (.drwait d a) x.status) ∧
      ((x.st = .armed ∨ x.st = .complete) → gives (.drscale d a) (code 8) ∧ gives (.drfix d a b) (code 8)) ∧
      (x.st = .closed → gives (.drscale d a) (code 9) ∧ gives (.drfix d a b) (code 9)) ∧
      (x.st = .partial_ → x.onTime = [] → gives (.drscale d a) 1) ∧
      (x.st = .partial_ → x.onTime ≠ [] → exec (.drscale d a) s = .next (if s.dstWaits die slot x then s.waitsDst die x
        else (closeSlot die slot x x.late.length (s.writeDst die slot true x (scaled x))).deliver d 0)) ∧
      (x.st = .partial_ → s.me.fixMask = none → (s.g b).toNat % 8 ≠ 0 → exec (.drfix d a b) s = .next (s.takeTrap 1 (s.g b))) ∧
      (x.st = .partial_ → s.me.fixMask = none → (s.g b).toNat % 8 = 0 → 0x40000 < (s.g b).toNat + 128 →
        exec (.drfix d a b) s = .next (s.takeTrap 2 (s.g b))) ∧
      -- the mask is read once; a DRFIX that waits keeps it
      (x.st = .partial_ → (s.me.fixMask ≠ none ∨
          ((s.g b).toNat % 8 = 0 ∧ (s.g b).toNat + 128 ≤ 0x40000 ∧ padQuiet s s.curCore)) →
        let mask := s.me.fixMask.getD (ofLe (s.padRead s.curCore (s.g b).toNat 128))
        let keeps (u : State) : State := (u.setMe { u.me with fixMask := some mask }).block (.drfix d a b)
        let named := (List.range 1024).filter fun j => mask.testBit j
        let ready := named.all fun j => x.late.any fun e => e.i = j
        ((∃ j ∈ named, x.n ≤ j ∨ ∃ e ∈ x.onTime, e.i = j) → gives (.drfix d a b) (code 3)) ∧
        ((∀ j ∈ named, j < x.n ∧ ∀ e ∈ x.onTime, e.i ≠ j) → ready = false →
          exec (.drfix d a b) s = .next (keeps s)) ∧
        ((∀ j ∈ named, j < x.n ∧ ∀ e ∈ x.onTime, e.i ≠ j) → ready = true →
          let l := x.reduce (x.late.filter fun e => named.contains e.i)
          let xs := if named = [] then x.part else if x.onTime = [] then l
            else (x.part.zip l).map fun e => BitVec.ofNat 32 (DrSlot.combine x.op.toNat e.1.toNat e.2.toNat)
          (named = [] → x.onTime = [] → gives (.drfix d a b) 1) ∧
          (named ≠ [] ∨ x.onTime ≠ [] → exec (.drfix d a b) s = .next (if s.dstWaits die slot x then keeps (s.waitsDst die x)
            else (closeSlot die slot x (x.late.length - named.length) (s.writeDst die slot true x xs)).deliver d 0)))) ∧
      gives (.drstat d a b 2) x.status ∧ gives (.drstat d a b 3) x.dropped ∧
      (15 < (s.g b).toNat → gives (.drstat d a b 0) (code 3) ∧ gives (.drstat d a b 1) (code 3)) ∧
      ((s.g b).toNat ≤ 15 → gives (.drstat d a b 0) (contributorWord x.onTime (s.g b).toNat) ∧
        gives (.drstat d a b 1) (contributorWord x.late (s.g b).toNat)))) ∧
  (∀ (s : State) (die slot i : Nat) (data : List (BitVec 32)) (x : DrSlot), Map.find (s.die die).slots slot = some x →
    let y := { x with contribs := x.contribs ++ [⟨i, data, true⟩] }
    let r := s.arrive die slot i data
    (x.st = .armed → s.deadlinePassed x = false → y.onTime.length ≠ x.n → r = (0, s.setSlot die slot y)) ∧
    (x.st = .armed → s.deadlinePassed x = false → y.onTime.length = x.n → r.1 = 0 ∧ r.2 = ((((s.setSlot die slot { y with
      st := .complete }).writeDst die slot false { y with st := .complete } (y.reduce y.onTime)).freeSlotOf die slot
        { y with st := .complete }).notifySlots)) ∧
    (x.st = .partial_ → r.1 = 1 ∧ Map.find (r.2.die die).slots slot = some { x with
      contribs := x.contribs ++ [⟨i, data, false⟩] }) ∧
    (x.st = .closed → r.1 = BitVec.ofNat 64 (2 ^ 63 + 9) ∧ (r.2.die die).sedrop = (s.die die).sedrop + 1) ∧
    (x.st = .armed → s.deadlinePassed x = true → exec (.deadlineExpiry die slot) s = .next (s.expireSlot die slot x)) ∧
    (x.st ≠ .armed → exec (.deadlineExpiry die slot) s = .next s)) ∧
  (∀ (s : State) (die slot i : Nat) (f : DrFlight) (d a b c : Reg),
    s.drFlights = [f] → f.die = die → f.slot = slot → f.i = i → s.hasPath (dieOf f.core) die = true →
    let s1 := { s with drFlights := [] }
    let gone : Word × State := (BitVec.ofNat 64 (2 ^ 63 + 9), s1)
    let r := match Map.find (s.die die).slots slot with
      | some x => if x.gen = f.gen then s1.arrive die slot i f.data else gone
      | none => gone
    ((∀ x, Map.find (s.die die).slots slot = some x → x.gen = f.gen → x.poisoned = false) →
      (r.2.thread f.core f.tid.toNat).wait = some (.drsend d a b c) →
      exec (.contributionArrive die slot i) s = .next (r.2.within f.core f.tid.toNat fun u => u.deliver d r.1)) ∧
    (∀ x, Map.find (s.die die).slots slot = some x → x.gen = f.gen → x.poisoned = true →
      (s.thread f.core f.tid.toNat).wait = some (.drsend d a b c) →
      exec (.contributionArrive die slot i) s = .next (s1.within f.core f.tid.toNat fun u => u.consume 5 0))) ∧
  (∀ (s : State) (core tid : Nat) (d a b : Reg),
    ((s.thread core tid).wait = some (.drwait d a) →
      exec (.drwaitRelease core tid) s = .next (s.within core tid (drwaitBody d a))) ∧
    ((s.thread core tid).wait = some (.drfix d a b) →
      exec (.drfixRelease core tid) s = .next (s.within core tid (drfixBody d a b)))) ∧
  (∀ (x : DrSlot) (cs ds : List Contribution), cs.Perm ds → (cs.map (·.i)).Nodup → x.reduce cs = x.reduce ds)

/-- PLACE_INSTANCE of a READY or EARLY instance notes that it waits if no rectangle fits, and else places the head of
the queues, or a later instance, which counts a bypass of the head; a RESERVING one is placed when its reserved
rectangle is free, and chooses another where a core of its own has been withdrawn; the 16th bypass makes the head
RESERVING: it takes the rectangle that would fit with all instances gone and holds the most idle cores, then the
lowest CID, then the lowest die. Placing reads the arguments of a restarted instance afresh, and waits while that read
waits for a path or a link (log 20: it keeps the old ones where the read fails). The chosen rectangle lies in the
grid, all its cores are idle and placeable, and no rectangle with a lower top-left CID on its die, and none on a die
preferred to it, fits. A placed instance is RESIDENT with a fresh quantum (ENDING, if it was stopped after its last
TASKEND: R302). A member starts with g2 at its stack, g4 to g11 the arguments, every other g register 0, pc at ENTRY,
its launch block at scratchpad 0. QUANTUM_EXPIRY stops the instance for a ready one of equal or higher priority that
could use its cores, else renews the quantum; PRIORITY_PREEMPTION stops instances of lower priority after 1,024
cycles; PREEMPTION_STOP saves the instance once every core has drained, and until then asks the handlers and closes
the intervals of pairs. The partner core of a pair is held with none of its threads running (logs 11, 20: R98 and R304
do not say it). Every core of the rectangle receives PTBASE, TVEC and DOMAIN. (R24, R31, R303, R304, R305, R306, R307,
R308, R309, R99, R352.) -/
def Obligations.PlacementAndStops : Prop :=
  (∀ (s : State) (k : Nat) (i : Inst) (t : Task), Map.find s.insts k = some i → s.taskOf i = some t →
    (State.waitsForCores i = false → exec (.placeInstance k) s = .next s) ∧
    -- a placement reads the arguments first, and waits while that read waits
    let placed (u : State) (j : Inst) (r : Rect) (next : State → State) : Out := match u.placementArgs k j t r.die with
      | none => .next (u.waitLink (.placeInstance k))
      | some (args, v) => .next (next ((v.placeOn k j t r args).endLinkWait (.placeInstance k)))
    (∀ die, i.predsDone = false ∨ i.ctx ≠ none → s.placementArgs k i t die = some (t.args, s)) ∧
    (∀ die b u, i.predsDone = true → i.ctx = none →
      readVirtual (s.linkLate (.placeInstance k)) die (s.ptOf i) 40 t.desc.toNat 256 s = (.ok b, u) →
      s.placementArgs k i t die = some (argsOf b, u)) ∧
    ((i.st = .ready ∨ i.st = .early) →
      (s.bestRect k i t State.noneFreed = none → exec (.placeInstance k) s = .next (s.noteStuck k i)) ∧
      (∀ (r : Rect) (h : Nat) (hi : Inst), s.bestRect k i t State.noneFreed = some r → s.queueHead = some (h, hi) →
        (h = k → exec (.placeInstance k) s = placed s i r id) ∧
        (∀ ht, h ≠ k → s.taskOf hi = some ht → s.bestRect h hi ht State.noneFreed = none →
          exec (.placeInstance k) s = placed s i r fun u => u.countBypass h hi ht) ∧
        (∀ ht, h ≠ k → s.taskOf hi = some ht → s.bestRect h hi ht State.noneFreed ≠ none →
          exec (.placeInstance k) s = .next (s.enqueue (.placeInstance h))))) ∧
    (i.st = .reserving →
      let choice := (i.reserved.filter fun r => s.rectFits k t r State.allFreed).or (s.reserveRect k i t)
      (choice = none → exec (.placeInstance k) s = .next (s.setInst k { i with reserved := none })) ∧
      (∀ r : Rect, choice = some r →
        let j : Inst := { i with reserved := some r }
        let u := s.setInst k j
        exec (.placeInstance k) s = if u.rectFits k t r State.noneFreed = true ∧ u.mayHold i.graph t r.die = true
          then placed u j r id else .next (u.noteStuck k j))) ∧
    (∀ r : Rect, s.reserveRect k i t = some r → s.rectFits k t r State.allFreed = true ∧ s.mayHold i.graph t r.die = true ∧
      ∀ d x y, d < 4 → s.mayHold i.graph t d = true → s.rectFits k t ⟨d, x, y⟩ State.allFreed = true →
        x + rectCols t ≤ 64 → y + t.h ≤ 32 →
        s.idleIn t ⟨d, x, y⟩ < s.idleIn t r ∨ (s.idleIn t ⟨d, x, y⟩ = s.idleIn t r ∧
          (r.y * 64 + r.x < y * 64 + x ∨ (r.y * 64 + r.x = y * 64 + x ∧ r.die ≤ d)))) ∧
    (s.noteStuck k i = if i.stuckAt = none then s.setInst k { i with stuckAt := some s.cycle } else s) ∧
    (i.bypass < 15 → s.countBypass k i t = s.setInst k { i with bypass := i.bypass + 1 }) ∧
    (i.bypass = 15 → s.countBypass k i t =
      s.setInst k { i with bypass := 16, st := .reserving, reserved := s.reserveRect k i t }) ∧
    (∀ r : Rect, s.bestRect k i t State.noneFreed = some r →
      r.die < 4 ∧ r.x + rectCols t ≤ 64 ∧ r.y + t.h ≤ 32 ∧ s.mayHold i.graph t r.die = true ∧
      (∀ c ∈ rectCores t r, (s.core c).inst = none ∧ s.placeable k c = true) ∧
      (∀ x y, y * 64 + x < r.y * 64 + r.x → x + rectCols t ≤ 64 → y + t.h ≤ 32 →
        s.rectFits k t ⟨r.die, x, y⟩ State.noneFreed = false) ∧
      (∀ d x y, d < 4 → s.mayHold i.graph t d = true →
        (s.tensorsAt t r.die < s.tensorsAt t d ∨ (s.tensorsAt t r.die = s.tensorsAt t d ∧ d < r.die)) →
        x + rectCols t ≤ 64 → y + t.h ≤ 32 → s.rectFits k t ⟨d, x, y⟩ State.noneFreed = false)) ∧
    (∀ (r : Rect) (args : List Word), ∃ j, Map.find (s.placeOn k i t r args).insts k = some j ∧
      (i.ctx = none → j.st = .resident) ∧
      (∀ xs, i.ctx = some xs → j.st = if xs.any State.savedRuns then .resident else .ending) ∧
      j.rect = some r ∧ j.reserved = none ∧
      j.bypass = 0 ∧ j.ctx = none ∧ j.quantum = s.quantumOf t r.die) ∧
    (∀ since, i.stuckAt = some since → State.waitsForCores i = true → s.bestRect k i t State.noneFreed = none →
      exec (.priorityPreemption k) s = .next
        (if 1024 ≤ (s.cycle - since).toNat then s.stopUntilFits k i t (s.victims (s.prioOf i)) else s)) ∧
    (∀ p, ∀ v ∈ s.victims p, ∃ x, (v, x) ∈ s.insts ∧ x.st = .resident ∧ s.prioOf x < p) ∧
    (∀ r : Rect, i.rect = some r →
      let wanted : Prop := ∃ e ∈ s.queue, s.prioOf i ≤ s.prioOf e.2 ∧
        ∃ u, s.taskOf e.2 = some u ∧ s.couldUse k e.1 e.2 u = true
      ((i.st ≠ .resident ∨ i.quantum ≠ 0) → exec (.quantumExpiry k) s = .next s) ∧
      (i.st = .resident → i.quantum = 0 → wanted →
        exec (.quantumExpiry k) s = .next ((s.setInst k { i with st := .stopping }).enqueue (.preemptionStop k))) ∧
      (i.st = .resident → i.quantum = 0 → ¬wanted →
        exec (.quantumExpiry k) s = .next (s.setInst k { i with quantum := s.quantumOf t r.die })))) ∧
  (∀ (s : State) (k : Nat) (i : Inst), Map.find s.insts k = some i →
    (i.st ≠ .stopping → exec (.preemptionStop k) s = .next s) ∧
    (i.st = .stopping →
      ((∀ c ∈ s.coresHeld k, s.coreDrained c = true ∧ ∀ tid < 4, s.threadStops c tid = true) →
        exec (.preemptionStop k) s = .next (s.saveInst k i)) ∧
      ((∃ c ∈ s.coresHeld k, s.coreDrained c = false ∨ ∃ tid < 4, s.threadStops c tid = false) →
        exec (.preemptionStop k) s = .next ((s.askHandlers k).closeIntervals k))) ∧
    (∃ j xs, Map.find (s.saveInst k i).insts k = some j ∧ (j.st = .ready ∨ j.st = .early) ∧ j.rect = none ∧ j.ctx = some xs ∧
      xs.length = (s.coresHeld k).length)) ∧
  (∀ (s : State) (k : Nat) (t : Task) (pt : PtBase) (args : List Word) (r : Rect) (m c : Nat),
    let u := s.zeroFill k t pt args r m c
    let p := s.holdPartner k t pt r c
    (∀ w ∈ [u, p], (w.core c).inst = some k ∧ (w.core c).ptbase = pt ∧
      (w.core c).tvec = (s.die r.die).dtvec.setWidth 64 <<< 2 ∧ ∀ tid < 4, (w.thread c tid).domain = State.placedDomain t r) ∧
    (∀ tid < 4, (p.thread c tid).running = false) ∧
    (Inv s → u.padRead c 0 160 = State.launchBlock t args) ∧
    (∀ tid < 4,
      let th := u.thread c tid
      th.running = decide (tid < t.threads) ∧ th.pc = t.entry ∧ th.mode = .task ∧ th.taskid = BitVec.ofNat 48 k ∧
      th.spanix = BitVec.ofNat 6 m ∧ th.launch = t.desc ∧
      (∀ j : Fin 32, th.g[j] = if j.val = 2 then BitVec.ofNat 64 (0x3D000 + tid * 0x1000)
        else if 4 ≤ j.val ∧ j.val ≤ 11 then args.getD (j.val - 4) 0 else 0)))

/-- MEMBER_END marks a member whose threads have ended and whose work has drained; once all have, and the DEVENT queue
has room, the instance is ENDED, holds no rectangle, and an event with FAIL 0 stands in the queue. INSTANCE_FAIL stops
a FAILED instance, which appends its event with FAIL 1 when there is room. RESTART_APPLY makes a FAILED instance that
has let go READY again, or fails its task for good. An instance of a task that has failed for good stays FAILED when
RESTART is written with FAIL 0 (log 20: R319 and R352 do not say it). A write of RESTART or DFAIL that its thread
waits in takes effect once a path leads to its die, its waiting for it timed, as a numbered write if it crosses a
bridge, performed and acknowledged at once (R253, R324; that it is at once is the model's choice, log 23), and the
word retires; on a paired core its interval closes after it (log 11); DEVENT_READ gives the waiting load the oldest
event, with VALID in bit 63 and FAIL in bit 62, or 0. (R91, R298, R299, R300, R302, R319, R352, R376, R378, R324.) -/
def Obligations.InstanceEndsFailsRestarts : Prop :=
  (∀ (s : State) (k : Nat) (i : Inst), Map.find s.insts k = some i →
    (∀ m c, (m, c) ∈ s.membersOf i →
      exec (.memberEnd k m) s = .next
        (if (i.st = .resident ∨ i.st = .ending) ∧ s.memberDrained c = true then
          (s.setInst k { i with membersEnded := setInsert i.membersEnded m }).endInst k else s)) ∧
    (∀ r : Rect, i.rect = some r →
      (i.st = .ending → (∀ e ∈ s.membersOf i, e.1 ∈ i.membersEnded) →
        (s.eventRoom r.die = false → s.endInst k = s) ∧
        (s.eventRoom r.die = true →
          ((s.endInst k).die r.die).devents = (s.die r.die).devents ++ [(false, BitVec.ofNat 48 k)] ∧
          ∃ j, Map.find (s.endInst k).insts k = some j ∧ j.st = .ended ∧ j.rect = none)) ∧
      exec (.instanceFail k) s = .next (if i.st = .failed ∧ i.released = false then s.stopFailed k i r else s) ∧
      (s.eventRoom r.die = true →
        ((s.stopFailed k i r).die r.die).devents = (s.die r.die).devents ++ [(true, BitVec.ofNat 48 k)] ∧
        (i.st = .failed → ∃ j, Map.find (s.stopFailed k i r).insts k = some j ∧ j.st = .failed ∧ j.rect = none ∧ j.released = true))) ∧
    (i.restart = none → exec (.restartApply k) s = .next s) ∧
    (∀ f, i.restart = some f → i.st = .failed → i.released = true →
      exec (.restartApply k) s = .next (s.applyRestart k i f)) ∧
    ((∀ t, s.taskOf i = some t → t.failed = false) →
      ∃ j, Map.find (s.applyRestart k i false).insts k = some j ∧ j.st = .ready ∧ j.restart = none ∧ j.ctx = none) ∧
    (∀ t, s.taskOf i = some t → t.failed = true → s.applyRestart k i false = s.setInst k { i with restart := none }) ∧
    (∀ (g : Graph) (t : Task), Map.find s.graphs i.graph = some g → g.tasks[i.task]? = some t →
      ∃ g' t', Map.find (s.applyRestart k i true).graphs i.graph = some g' ∧ g'.tasks[i.task]? = some t' ∧ t'.failed = true)) ∧
  (∀ (s : State) (core tid die : Nat) (x : Word),
    (∀ e ∈ [(Instr.restartInstance core tid die x, fun u : State => u.writeRestart x), (.failTask core tid die x, fun u => u.writeRestart x),
        (.dfailWrite core tid die x, fun u => u.writeDfail x)],
      ((s.thread core tid).op = some e.1 → s.hasPath (dieOf core) die = true → exec e.1 s =
        .next ((s.within core tid fun u => ((e.2 u).numberAtOnce core die).retire).afterLeaving core tid)) ∧
      ((s.thread core tid).op ≠ some e.1 → exec e.1 s = .next s) ∧
      ((s.thread core tid).op = some e.1 → s.hasPath (dieOf core) die = false →
        exec e.1 s = .next (s.within core tid (·.waitsPath die)))) ∧
    ((∀ i, Map.find s.insts (x.toNat % 2 ^ 48) = some i → i.st ≠ .failed) → s.writeRestart x = s) ∧
    (∀ i, Map.find s.insts (x.toNat % 2 ^ 48) = some i → i.st = .failed → i.released = false →
      s.writeRestart x = s.setInst (x.toNat % 2 ^ 48) { i with restart := some (x.getLsbD 63) }) ∧
    ((∀ i, Map.find s.insts (x.toNat % 2 ^ 48) = some i → State.holdsCores i.st = false) → s.writeDfail x = s) ∧
    (∀ i, Map.find s.insts (x.toNat % 2 ^ 48) = some i → State.holdsCores i.st = true →
      ∃ j, Map.find (s.writeDfail x).insts (x.toNat % 2 ^ 48) = some j ∧ j.st = .failed ∧ j.rect = i.rect) ∧
    ((s.thread core tid).op = some (.deventRead core tid die) →
      exec (.deventRead core tid die) s = .next ((s.within core tid fun u =>
        (u.readDevent die).2.deliver (loadDest u.me.wait) (u.readDevent die).1).afterLeaving core tid)) ∧
    ((s.die die).devents = [] → s.readDevent die = (0, s)) ∧
    (∀ f id rest, (s.die die).devents = (f, id) :: rest →
      (s.readDevent die).1 = BitVec.ofNat 64 (2 ^ 63 + (if f then 2 ^ 62 else 0) + id.toNat) ∧
      ((s.readDevent die).2.die die).devents = rest))

/-- A write of a service register that its thread waits in takes effect once a path leads to its die, its waiting for
it timed, as a numbered write if it crosses a bridge, performed and acknowledged at once (R253, R324; that it is at
once is the model's choice, log 23), and the word retires; a write that no thread waits in does nothing.
MIGRATION_POOL_WRITE waits while a modified piece cannot be written back, GSUBMIT while a read of its graph waits for
a path or a link. The plain registers of a die then read as written in their fields. DELIVER of a fault-buffer entry
reads as written, of one that is not valid too (log 36: R271 names no value there). KEYLOAD loads the slot with
KEYWORD0 to KEYWORD7 and clears them. A migration-pool write, of base or of size, releases every piece and leaves size
0 for a pool outside the die's GDDR7. A lineage-pool write is ignored while a block is allocated, an overflow-region
write while a forest exists. ERRBASE or ERRSIZE clears head and tail. GSUBMIT reads its header as the bytes stand,
without a key slot (log 20: R296 and R298 do not say it), and refuses one that breaks R296 with reason 1, an
unreadable list with reason 5 (or 4), a graph with reasons with the lowest, and else accepts it, numbering it from
GLAST on. (R257, R260, R271, R274, R283, R284, R296, R298, R299, R329, R324.) -/
def Obligations.ServiceRegisterWrites : Prop :=
  (∀ (s : State) (core tid die off : Nat) (cl : Option Nat) (x : Word),
    let e : List (Instr × (State → State)) :=
      [(.keyload core tid die x, fun u => u.writeKeyload die x),
       (.lineagePoolWrite core tid die off x, fun u => u.writePool die off x),
       (.overflowRegionWrite core tid die off x, fun u => u.writeOverflow die off x),
       (.errorLogWrite core tid die off x, fun u => u.writeErrorLog die off x),
       (.serviceRegisterWrite core tid die cl off x, fun u =>
         match cl with
         | some c => u.writeClusterReg (die * 128 + c) off x
         | none => u.writeDieReg die off x)]
    let done (f : State → State) : Out :=
      .next ((s.within core tid fun u => ((f u).numberAtOnce core die).retire).afterLeaving core tid)
    let waits : Out := .next (s.within core tid (·.waitsPath die))
    (∀ p ∈ e, ((s.thread core tid).op = some p.1 → s.hasPath (dieOf core) die = true → exec p.1 s = done p.2) ∧
      ((s.thread core tid).op ≠ some p.1 → exec p.1 s = .next s) ∧
      ((s.thread core tid).op = some p.1 → s.hasPath (dieOf core) die = false → exec p.1 s = waits)) ∧
    (let m : Instr := .migrationPoolWrite core tid die off x
     (s.piecesCanGo die = false ∨ (s.thread core tid).op ≠ some m → exec m s = .next s) ∧
     (s.piecesCanGo die = true → (s.thread core tid).op = some m → s.hasPath (dieOf core) die = false → exec m s = waits) ∧
     (s.piecesCanGo die = true → (s.thread core tid).op = some m → s.hasPath (dieOf core) die = true →
       exec m s = done fun u => u.writeMigration die off x)) ∧
    -- GSUBMIT waits while a read of its graph waits
    (let g : Instr := .gsubmitWrite core tid die x
     ((s.thread core tid).op ≠ some g → exec g s = .next (s.endLinkWait g)) ∧
     ((s.thread core tid).op = some g → s.submitGraph (s.linkLate g) die x = none → exec g s = .next (s.waitLink g)) ∧
     (∀ y, (s.thread core tid).op = some g → s.submitGraph (s.linkLate g) die x = some y →
       (s.hasPath (dieOf core) die = false → exec g s = waits) ∧
       (s.hasPath (dieOf core) die = true →
         exec g s = done fun u => ((u.submitGraph (u.linkLate g) die x).getD u).endLinkWait g)))) ∧
  (∀ (s : State) (die : Nat) (x : Word),
    (∀ p ∈ [((0x010 : Nat), (0x1F7 : Word)), (0x220, 0x3FFFFFF), (0x228, 0x1F7), (0x310, 0xFFFFFFFFFFFF), (0x318, 0x1F7),
        (0x338, 0x7FFFFFFFFFFFFC), (0x700, 0xFFFFFFFFFFFE0), (0x708, 0x1FFF), (0x710, 0xFFFFFFFFFFFF0), (0x718, 0xFFFF),
        (0x810, 0xFFFF), (0x828, 0x1F7), (0x25C0, 0xFFFFFFFFFFFFFFFF), (0x25C8, 0xFFFF0000FFFFFFFF), (0x25D0, 0xFFFFFFFF)],
      (s.writeDieReg die p.1 x).readDieReg die p.1 = x &&& p.2) ∧
    (∀ j < 32, (s.writeDieReg die (0x400 + 8 * j) x).readDieReg die (0x400 + 8 * j) = x) ∧
    (let t := s.writeKeyload die x
     Map.find (t.die die).keys (x.toNat % 2 ^ 11) =
        some (.loaded (BitVec.ofNat 512 ((List.range 8).map fun k => ((s.die die).keywords.toList.getD k 0).toNat * 2 ^ (64 * k)).sum)) ∧
      (t.die die).keywords = Vector.replicate 8 0) ∧
    ((s.writeMigration die 0x020 x).readDieReg die 0x020 = x &&& 0xFFFFFFFFF0000 ∧
      (s.writeMigration die 0x020 x).readDieReg die 0x028 =
        (if State.inOwnGddr die (x.toNat / 2 ^ 16 % 2 ^ 36) ((s.die die).migsize.toNat * 2 ^ 16) then (s.die die).migsize else 0) ∧
      ((s.writeMigration die 0x020 x).die die).pieces = [] ∧
      (s.writeMigration die 0x028 x).readDieReg die 0x028 =
        (if State.inOwnGddr die (s.die die).migbase.toNat (x.toNat * 2 ^ 16) then x else 0) ∧
      ((s.writeMigration die 0x028 x).die die).pieces = []) ∧
    (∀ off, State.poolUsed (s.die die) = true → s.writePool die off x = s) ∧
    (∀ off, (s.die die).forests ≠ [] → s.writeOverflow die off x = s) ∧
    -- DELIVER is read as written, of an entry that is valid and of one that is not
    (∀ k < 8, ((s.writeClusterReg die (0x100 + 16 * k) x).readClusterReg die (0x100 + 16 * k)).getLsbD 15 = x.getLsbD 15) ∧
    (∀ off, (∀ o ∈ s.owed, o.1 ≠ die) →
      ((s.writeErrorLog die off x).die die).errhead = 0 ∧ ((s.writeErrorLog die off x).die die).errtail = 0)) ∧
  (∀ (s : State) (late : Bool) (die : Nat) (x : Word),
    let pa := x.toNat / 32 % 2 ^ 47 * 32
    let hdr := s.rawRead pa 32
    let count := fieldOf hdr 0 8
    let ptw : Word := BitVec.ofNat 64 (fieldOf hdr 0x10 8)
    let full := if 256 ≤ s.liveGraphs.length then [4] else []
    let bad : Prop := count = 0 ∨ 4096 < count ∨ fieldOf hdr 0x18 8 ≠ 0 ∨ ptw &&& 0x000FFFFFFFFF07FF#64 ≠ ptw
    (2 ^ 39 ≤ pa → s.submitGraph late die x = some (s.refuseGraph die (full.headD 5))) ∧
    (pa < 2 ^ 39 → bad → s.submitGraph late die x = some (s.refuseGraph die 1)) ∧
    (pa < 2 ^ 39 → ¬bad →
      let list := orNone (readList late die (ptbaseOf ptw) (fieldOf hdr 8 8) count) s
      (∀ e u, list = (.error e, u) → s.submitGraph late die x = none) ∧
      (∀ u, list = (.ok none, u) → s.submitGraph late die x = some (u.refuseGraph die (full.headD 5))) ∧
      (∀ vas u, list = (.ok (some vas), u) →
        let tasks := readTasks late die (ptbaseOf ptw) vas vas 0 ⟨full, []⟩ u
        (∀ e v, tasks = (.error e, v) → s.submitGraph late die x = none) ∧
        (∀ r v, tasks = (.ok r, v) →
          (r.reasons = [] → s.submitGraph late die x = some (v.acceptGraph die ptw r.tasks)) ∧
          (∀ m ∈ r.reasons, (∀ k ∈ r.reasons, m ≤ k) → s.submitGraph late die x = some (v.refuseGraph die m))))) ∧
    (∀ m, ((s.refuseGraph die m).die die).glast =
      BitVec.ofNat 64 (2 ^ 63 + m * 2 ^ 56 + (s.die die).glast.toNat % 2 ^ 20)) ∧
    (∀ pw ts, ((s.acceptGraph die pw ts).die die).glast = BitVec.ofNat 64 (s.nextNumber 257 s.nextGraph.toNat)))

/-- In service mode REPLAY gives the number of entries that the cluster's fault buffer holds, with bit 32 set if one
was dropped, and retries or delivers every parked access, entry by entry, whose DELIVER reads on as written (log 36);
TESTC gives bit 63 on a cluster that holds an instance or is under test and else waits, its cluster withheld, until
TEST_COMPLETE gives the failing cores in bits 15:0 and a failing shared unit in bit 16 and withdraws them; a bad
operand gives bit 62 to both. SCRUB_LINE counts corrections and poisons and records what cannot be corrected, in a
pool what stands there too (which of what the pool holds is the device's own: log 36). FETCH_BLOCK begins the block of
a running thread's pc: cause 5 where the leaf or the admission bit forbids it, cached or not. A due watchdog takes
trap 12 outside a cover, also from a blocked word and from a RELABEL wherever it stands (a WFI retires first), and,
with WDEXIT 0, fails the instance. PAIR_INTERVAL_END names a thread of a pair and whether the fingerprints agree (log
11: the model computes none): an interval that agrees closes for that thread alone; a first mismatch takes the thread
back to the end of its last matched interval, WDOG and a due trap 12 too (log 11: the model's choice), with a record
of KIND 6, a second of the same interval contains both cores with records of KIND 7, both with UNIT 5 (log 28: R354
and R356 give no unit). (R15, R68, R94, R98, R270, R314, R348, R349, R354, R355, R376.) -/
def Obligations.ReplayTestScrubAndFetch : Prop :=
  (∀ (s : State) (d a : Reg), s.me.mode = .service →
    ((s.g a &&& ~~~0x37F#64) ≠ 0 → exec (.replay d a) s = .next (s.deliver d (BitVec.ofNat 64 (2 ^ 62))) ∧
      exec (.testc d a) s = .next (s.deliver d (BitVec.ofNat 64 (2 ^ 62)))) ∧
    ((s.g a &&& ~~~0x37F#64) = 0 →
      let k := (s.g a).toNat / 256 % 4 * 128 + (s.g a).toNat % 128
      let c := s.cluster k
      exec (.replay d a) s = .next ((s.replay k).2.deliver d (s.replay k).1) ∧
      (s.replay k).1 = BitVec.ofNat 64 (c.fb.length + (if c.dropped then 2 ^ 32 else 0)) ∧
      -- nothing parked: REPLAY retires with 0
      (c.fb = [] → s.waiters k none = [] → c.dropped = false → ∃ t, exec (.replay d a) s = .next t ∧ Retired s t ∧
        (d ≠ 0 → t.g d = 0) ∧ (∀ r, r ≠ d → t.g r = s.g r) ∧ (∀ x, t.memByte x = s.memByte x)) ∧
      -- else every entry, and then what is parked on none
      (let u := c.fb.foldl (State.replayEntry k) (s.setCluster k { c with dropped := false })
       let v := (s.waiters k none).foldl (State.replayOne none false) u
       let e := v.cluster k
       let cl := k / 128
       ((e.fb ≠ [] ∨ e.dropped = true) → (s.replay k).2 = v) ∧
       (e.fb = [] → e.dropped = false → (s.replay k).2 =
         v.setDie cl { v.die cl with fbpend := (v.die cl).fbpend &&& ~~~(1#128 <<< (k % 128)) })) ∧
      let busy : Prop := c.testing = true ∨ ∃ x ∈ State.coresOf k, (s.core x).inst ≠ none
      (busy → exec (.testc d a) s = .next (s.deliver d (BitVec.ofNat 64 (2 ^ 63)))) ∧
      (¬busy → ∃ t, exec (.testc d a) s = .next t ∧ (t.cluster k).testing = true ∧ t.me.wait = some (.testc d a) ∧
        t.me.op = some (.testComplete (k / 128) (k % 128) 0 false)))) ∧
  (∀ (s : State) (k e : Nat) (x : FaultEntry),
    let c := s.cluster k
    State.replayEntry k s (e, x) = (s.waiters k (some e)).foldl (State.replayOne (some e) x.deliver)
      (s.setCluster k { c with
        fb := Map.erase c.fb e
        deliver := if x.deliver = true then c.deliver ||| (1#8 <<< e) else c.deliver &&& ~~~(1#8 <<< e) })) ∧
  (∀ (s : State) (taken : Option Nat) (core tid : Nat) (p : Parked), (s.thread core tid).parked = some p →
    let u := s.countUnparked core
    -- what the word does with its bytes: an atomic and an element of VSCATADD read and write
    let kind := State.kindOfWord (s.thread core tid).wait p.write
    (p.write = false → kind = .load) ∧
    State.replayOne taken true s (.thread core tid) = u.within core tid (fun u =>
      u.takeTrapFrom (State.waitsCaptured (s.thread core tid)) (if p.write then 4 else 3) p.va) ∧
    (∀ v, u.retranslate taken ((u.asThread core tid).agent 5) kind p = (none, v) →
      State.replayOne taken false s (.thread core tid) = v.retryThread core tid) ∧
    (∀ q v, u.retranslate taken ((u.asThread core tid).agent 5) kind p = (some q, v) →
      State.replayOne taken false s (.thread core tid) = v.setThread core tid { v.thread core tid with parked := some q })) ∧
  (∀ (s : State) (taken : Option Nat) (core slot : Nat) (x : Stream) (p : Parked), s.stream core slot = some x →
    x.parked = some p →
    let u := s.countUnparked core
    State.replayOne taken true s (.stream core slot) = u.failStream core slot 2 p.va.toNat ∧
    let kind : Kind := if p.write = false then .load else if x.req.kind = 6 then .both else .store
    (∀ v, u.retranslate taken (u.streamAgent core x.req) kind p = (none, v) →
      State.replayOne taken false s (.stream core slot) =
        (v.setStream core slot { x with parked := none }).enqueue (.streamComplete core slot))) ∧
  (∀ (s : State) (die cl : Nat) (failed : BitVec 16) (shared : Bool), die < 4 → cl < 128 →
    let k := die * 128 + cl
    let waits : Instr := .testComplete die cl 0 false
    ((s.cluster k).testing = false → exec (.testComplete die cl failed shared) s = .next s) ∧
    ((s.cluster k).testing = true → ∃ t, exec (.testComplete die cl failed shared) s = .next t ∧ (t.cluster k).testing = false ∧
      (∀ i < 16, failed.getLsbD i = true ∨ shared = true →
        (t.die die).wdrawn.getLsbD (cidOf (coreOfCluster k i)) = true) ∧
      (∀ (key : Nat) (d a : Reg), d ≠ 0 → (∃ e ∈ s.threads, e.2.op = some waits) →
        (∀ e ∈ s.threads, e.2.op = some waits → e.1 = key ∧ e.2.wait = some (.testc d a)) →
        (t.threadAt key).wait = none ∧ (t.threadAt key).g[d.toNat] = BitVec.ofNat 64 (failed.toNat + (if shared then 2 ^ 16 else 0))))) ∧
  (∀ (s : State) (die line : Nat), die < 4 → line < 2 ^ 30 →
    let pa := die * 2 ^ 37 + line * 128
    exec (.scrubLine die line .clean) s = .next s ∧ exec (.scrubLine die line .sramCorrected) s = .next s ∧
    (∀ dev pin bank row, dev < 18 → pin < 8 → exec (.scrubLine die line (.corrected dev pin bank row)) s =
      .next ((s.countSymbol die dev pin).countRow die dev bank row)) ∧
    (∀ half synd, exec (.scrubLine die line (.uncorrectable half synd)) s = .next
      (((s.setPoison (pa + 64 * (half % 2))).poisonPool die (pa + 64 * (half % 2)) false).errorRecord die 2 4 0 0 0 0
        (pa + 64 * (half % 2)) synd.toNat)) ∧
    (∀ w synd, exec (.scrubLine die line (.sramUncorrectable w synd)) s = .next
      (let at_ := pa + 8 * (w % 16)
       let cid := Config.sramSlice pa % 2048
       ({ s with sramPoison := setInsert s.sramPoison at_ }.poisonPool die at_ true).errorRecord die 2 3 0 0 cid
         (clusterOf (die * 2048 + cid) % 128) at_ synd.toNat)) ∧
    -- in a pool what stands there is poisoned too; elsewhere nothing more
    (∀ x fine, State.meetsLp (s.die die) x 1 = false → State.meetsMig (s.die die) x 1 = false →
      State.meetsSeo (s.die die) x 1 = false → s.poisonPool die x fine = s) ∧
    (∀ half data, exec (.scrubLine die line (.miscorrected half data)) s =
      .next (s.putBytes (pa + 64 * (half % 2)) (data.take 64)))) ∧
  (∀ (s : State) (core tid : Nat), (s.thread core tid).running = true → (s.thread core tid).wait = none →
    (s.core core).contained = false → State.inHand (s.thread core tid) (s.thread core tid).pc = none →
    exec (.fetchBlock core tid) s = .next (s.within core tid fun u => (u.beginBlock u.me.pc).1)) ∧
  (∀ (s : State) (pc : Word),
    (∀ u, s.fetchLeaf s.curCore pc.toNat = (none, u) → s.beginBlock pc = (u.takeTrap 5 pc, false)) ∧
    (∀ l u, s.fetchLeaf s.curCore pc.toNat = (some l, u) →
      ((Pte.x l.pte = false ∨ Pte.w l.pte = true ∨ l.phys pc.toNat / 0x10000 ∉ u.admitted) →
        s.beginBlock pc = (u.takeTrap 5 pc, false)) ∧
      (Pte.x l.pte = true → Pte.w l.pte = false → l.phys pc.toNat / 0x10000 ∈ u.admitted →
        u.poisonIn (l.phys (State.blockOf pc).toNat) 64 = none →
        s.beginBlock pc = (u.setMe { u.me with fetched := some ⟨State.blockOf pc,
          State.beginBlock.wordsFrom (u.physRead (l.phys (State.blockOf pc).toNat) 64 (Pte.key l.pte))⟩ }, true)) ∧
      (Pte.x l.pte = true → Pte.w l.pte = false → l.phys pc.toNat / 0x10000 ∈ u.admitted →
        u.poisonIn (l.phys (State.blockOf pc).toNat) 64 ≠ none → s.beginBlock pc = (u.consume 5 pc, false))) ∧
    -- a cached leaf serves no fetch once the leaf in memory has lost X or gained W
    (∀ e, inDeviceMemory pc.toNat = true → s.tlbLookup s.curCore s.myCore.ptbase.root pc.toNat = some e → Pte.x e.pte = true →
      s.stillExecutable s.curCore pc.toNat = false →
        s.beginBlock pc = ((s.beginWalk (dieOf s.curCore) s.myCore.ptbase pc.toNat).2.takeTrap 5 pc, false))) ∧
  (∀ (s : State) (core tid : Nat),
    let w := s.thread core tid
    ((w.running = false ∨ w.wdogDue = false ∨ w.cover ≠ 0) → exec (.watchdogExpiry core tid) s = .next s) ∧
    -- a RELABEL that stands parked or at a link is abandoned
    let open_ : Prop := (w.parked = none ∧ w.op = none ∧ w.forest = none) ∨ ∃ d a b, w.wait = some (.relabel d a b)
    (w.running = true → w.wdogDue = true → w.cover = 0 → open_ → (s.core core).contained = false →
      exec (.watchdogExpiry core tid) s = .next ((s.abandon core (State.parkedOf w)).within core tid fun u =>
        (if w.wait = some .wfi then u.retire else u).watchdogTrap)) ∧
    (¬open_ → exec (.watchdogExpiry core tid) s = .next s)) ∧
  (∀ s : State,
    let u := (s.setMe { s.me with wdogDue := false }).takeTrap 12 0
    (u.myCore.inst = none → s.watchdogTrap = u) ∧
    (∀ k i t, u.myCore.inst = some k → u.instOf u.curCore = some i → u.taskOf i = some t →
      s.watchdogTrap = if t.wdexit = 0 then u.failInstance k else u)) ∧
  (∀ (s : State) (core : Nat) (tid : Fin 4) (agree : Bool),
    let c := s.core core
    ((c.paired = false ∨ c.contained = true) → exec (.pairIntervalEnd core tid agree) s = .next s) ∧
    (c.paired = true → c.contained = false →
      exec (.pairIntervalEnd core tid true) s = .next ((s.agreeInterval core tid true).kickCaptures core) ∧
      ((s.agreeInterval core tid true).core core).interval = c.interval.set tid 0 ∧
      (c.mismatched.getLsbD tid = true → exec (.pairIntervalEnd core tid false) s = .next
        (let u := ((s.coreRecord core 7 5 16 0 0 0).coreRecord (State.partner core) 7 5 16 0 0 0)
         (u.contain core).contain (State.partner core))) ∧
      (∀ x, c.mismatched.getLsbD tid = false → Map.find s.checkpoints (threadKey core tid) = some x →
        let u := (s.rollback core tid x).kickCaptures core
        let u := u.setCore core { u.core core with mismatched := State.markThread (u.core core).mismatched tid true }
        let u := u.setDie (dieOf core) { u.die (dieOf core) with pairfix := (u.die (dieOf core)).pairfix + 1 }
        exec (.pairIntervalEnd core tid false) s = .next (u.coreRecord core 6 5 0 tid 0 0))))

/-- A copy of a numbered write that reaches its home is performed (bytes stored, a nibble replaced, elements added)
and its number recorded, if the home has not performed that number and no earlier write of its thread to one of the
same bytes, or of an earlier word to the same 4 KiB block (log 7: for two locations R238 leaves more open), goes
before it; performed already, it is discarded; both are acknowledged. An acknowledgement removes a performed write and
counts for the stream that sent it alone, a peer's refusal fails its stream. 4,096 cycles without an acknowledgement
send it again, unless its source, which numbers its writes for itself alone (log 23: R324 names die and virtual
channel), holds it back with 65,536 unacknowledged; every 65,536 cycles without a path make a record of KIND 10. A
lane group that fails counts a retrain on both dies; when its bridge is down everything unacknowledged that crosses a
bridge is sent again, one copy more. A packet with a recorded number is discarded and counted, one that its window
refuses performs nothing and is not recorded, one that comes before its turn under ordered delivery is not taken (log
24 for both), any other waits while no path leads to the die of what it writes (the model's choice, log 24) and is
then performed and recorded. A record of the error log holds its fields at ERRTAIL, or counts in ERRLOST. A CXL link
that falls counts and makes a record of KIND 11; a read that waited 1,250,000 cycles returns poison. An Ethernet lane
counts its retrain. (R190, R253, R323, R324, R332, R333, R335, R350, R358, R238, R356, R357.) -/
def Obligations.NetworkForms : Prop :=
  (∀ (s : State) (k : Nat) (f : Flight), s.flight k = some f →
    let w := Map.get ⟨0, []⟩ (s.die f.home).windows f.src
    let again := (s.setFlight k fun f => { f with copies := f.copies - 1 }).enqueue (.writeAcknowledged k false)
    -- the place of a reduction slot's write may wait for a CXL link
    (State.ofSlot f = false → s.reachHome f = some s) ∧
    ((f.copies = 0 ∨ s.flightReaches f = false ∨ (f.performed = false ∧ (s.inOrder f = false ∨ s.reachHome f = none))) →
      exec (.bridgeWriteReceive k) s = .next s) ∧
    -- an earlier write of the same thread to one of the same bytes goes first, one of an earlier word of it to the same 4 KiB
    -- block, and an earlier packet where delivery is ordered
    (f.stream = none → (s.inOrder f = false ↔ ∃ g ∈ s.flights, g.performed = false ∧ g.seq < f.seq ∧ g.src = f.src ∧
      g.core = f.core ∧ g.stream = none ∧ g.gone = f.gone ∧ g.tid = f.tid ∧
      (State.rangesMeet g.addr g.data.length f.addr f.data.length = true ∨ (g.word ≠ f.word ∧ g.va / 4096 = f.va / 4096)))) ∧
    (∀ slot, f.stream = some slot → (s.inOrder f = false ↔ ∃ g ∈ s.flights, g.performed = false ∧ g.seq < f.seq ∧
      g.src = f.src ∧ g.core = f.core ∧ g.stream = some slot ∧ g.gone = f.gone ∧ 4 ≤ f.home ∧
      s.endpointOrdered f.src (f.home - 4) = true)) ∧
    (f.copies ≠ 0 → s.flightReaches f = true → (f.performed = true ∨ (s.inOrder f = true ∧ s.reachHome f ≠ none)) →
      ((f.performed = true ∨ (f.home < 4 ∧ State.numberSeen w f.seq = true)) → exec (.bridgeWriteReceive k) s = .next again) ∧
      (f.performed = false → (4 ≤ f.home ∨ State.numberSeen w f.seq = false) →
        exec (.bridgeWriteReceive k) s = .next (s.performFlight k f))) ∧
    (f.home < 4 →
      let u := (s.reachHome f).getD s
      (s.performFlight k f).mem = (match f.kind with
        | .bytes => u.physWrite f.addr f.key.toNat f.data
        | .nibble odd => u.physWrite f.addr f.key.toNat [nibbleInto odd (ofLe f.data) (ofLe (u.physRead f.addr 1 f.key.toNat))]
        | .reduce fmt => u.reducePacket f.addr f.key.toNat fmt.toNat f.data.length f.data).mem ∧
      State.numberSeen (Map.get ⟨0, []⟩ ((s.performFlight k f).die f.home).windows f.src) f.seq = true) ∧
    exec (.writeAcknowledged k false) s = .next (if f.performed then s.acknowledge k f else s) ∧
    -- an acknowledgement counts for the stream that sent the packet, and for no later one in its context slot
    (let u : State := { s with flights := s.flights.filter fun x => State.flightKey x.src x.seq ≠ k }
     ((f.stream = none ∨ f.gone = true) → s.acknowledge k f = u) ∧
     (∀ slot x, f.stream = some slot → f.gone = false → s.stream f.core slot = some x → s.acknowledge k f =
       (u.setStream f.core slot { x with unacked := x.unacked - 1 }).enqueue (.streamComplete f.core slot))) ∧
    (f.stream = none → exec (.writeAcknowledged k true) s = .next s) ∧
    (∀ slot, f.stream = some slot → exec (.writeAcknowledged k true) s = .next
      (if 4 ≤ f.home ∧ f.performed = false then s.refuseFlight f slot else s)) ∧
    -- a write held at a source with 65,536 writes unacknowledged is not sent
    exec (.resendTimeout k) s = .next (if 4096 ≤ (s.cycle - f.sentAt).toNat ∧
        ¬(f.copies = 0 ∧ f.performed = false ∧ s.sourceFull f.src = true) then
      (s.setFlight k fun f => { f with copies := f.copies + 1, sentAt := s.cycle }).enqueue (.bridgeWriteReceive k) else s) ∧
    ((f.performed = true ∨ s.flightReaches f = true ∨ (s.cycle - f.since).toNat < 65536) →
      exec (.writeUnreachable k) s = .next s) ∧
    (f.performed = false → s.flightReaches f = false → 65536 ≤ (s.cycle - f.since).toNat →
      exec (.writeUnreachable k) s = .next
        ((s.setFlight k fun f => { f with since := f.since + 65536 }).errorRecord f.src 10 10 0 0 0 0 0 0))) ∧
  (∀ (s : State) (k : Nat) (i : Instr), s.flight k = none →
    i ∈ [Instr.bridgeWriteReceive k, .writeAcknowledged k false, .writeAcknowledged k true, .resendTimeout k, .writeUnreachable k] →
    exec i s = .next s) ∧
  (∀ (s : State) (b g : Nat), b < 4 → g < 8 →
    (b * 8 + g ∈ s.groupsDown → exec (.laneGroupFail b g) s = .next s ∧
      exec (.laneGroupRetrained b g) s = .next { s with groupsDown := setErase s.groupsDown (b * 8 + g) }.wakePaths) ∧
    (b * 8 + g ∉ s.groupsDown → exec (.laneGroupRetrained b g) s = .next s ∧
      ∃ t, exec (.laneGroupFail b g) s = .next t ∧ t.groupsDown = setInsert s.groupsDown (b * 8 + g) ∧
        -- a retrain counts on both dies
        (∀ die, die ∈ [[0, 1], [2, 3], [0, 2], [1, 3]].getD b [] →
          let lane := (if b < 2 then 32 else 40) + g
          (State.laneOf (t.die die) lane).retrain =
            BitVec.ofNat 16 (min ((State.laneOf (s.die die) lane).retrain.toNat + 1) 65535)) ∧
        -- a bridge that carries nothing more: every unacknowledged write that crosses a bridge is sent again
        (t.bridgeUp b = true → t.flights = s.flights) ∧
        (t.bridgeUp b = false → (s.flights.map fun f => State.flightKey f.src f.seq).Nodup →
          t.flights = (s.flights.map fun f =>
            if f.home < 4 ∧ f.home ≠ f.src then { f with copies := f.copies + 1, sentAt := s.cycle } else f) ∧
          ∀ f ∈ s.flights, f.home < 4 → f.home ≠ f.src → Instr.bridgeWriteReceive (State.flightKey f.src f.seq) ∈ t.agenda))) ∧
  (∀ (s : State) (p : Packet), p.die < 4 → p.ctx < 65536 → p.data.length ≤ 4096 →
    let v := s.endLinkWait (.packetReceive p)
    let seen := Map.get [] (v.die p.die).netSeen p.ctx
    (p.seq ∈ seen → exec (.packetReceive p) s =
      .next (v.setDie p.die { v.die p.die with netdup := (v.die p.die).netdup + 1 })) ∧
    -- under ordered delivery a packet is performed only in its turn
    let next := Map.get 0 (v.die p.die).netNext p.ctx
    let early : Prop := p.rod = true ∧ p.seq ≠ next
    (p.seq ∉ seen → early → exec (.packetReceive p) s = .next v) ∧
    (p.seq ∉ seen → ¬early → v.inboundWindow p = none → exec (.packetReceive p) s = .next
      (if p.rod then v.setDie p.die { v.die p.die with netNext := Map.insert (v.die p.die).netNext p.ctx (p.seq + 1) } else v)) ∧
    -- what it writes may lie on another die: it waits at the receiving die while no path leads there
    (∀ base slot, p.seq ∉ seen → ¬early → v.inboundWindow p = some (base, slot) →
      (v.hasPath p.die (homeOfPhys (base + p.off)) = false → exec (.packetReceive p) s =
        .next (v.waitPathOf (.packetReceive p) p.die (homeOfPhys (base + p.off)))) ∧
      (v.hasPath p.die (homeOfPhys (base + p.off)) = true → ∃ t, exec (.packetReceive p) s = .next t ∧
        Map.get 0 (t.die p.die).netNext p.ctx = (if p.rod then p.seq + 1 else next) ∧
        t.mem = (if p.reduce then v.reducePacket (base + p.off) slot p.fmt.toNat p.data.length p.data
          else v.physWrite (base + p.off) slot p.data).mem ∧
        Map.get [] (t.die p.die).netSeen p.ctx = (seen ++ [p.seq]).drop (seen.length + 1 - 65536)))) ∧
  (∀ (s : State) (port : Nat), port < 8 →
    (s.cxlUp.getLsbD port = true → ∃ t, exec (.cxlLinkDown port) s = .next t ∧ t.cxlUp = s.cxlUp &&& ~~~(1#8 <<< port) ∧
      let x := State.cxlOf (s.die (port / 2)) (port % 2)
      let y : CxlCount := { x with linkdown := BitVec.ofNat 16 (min (x.linkdown.toNat + 1) 65535) }
      State.cxlOf (t.die (port / 2)) (port % 2) = y ∧
      t = ({ s with cxlUp := s.cxlUp &&& ~~~(1#8 <<< port) }.setCxl (port / 2) (port % 2) y).errorRecord
        (port / 2) 11 12 0 0 (port % 2) 0 0 0) ∧
    (s.cxlUp.getLsbD port = false → exec (.cxlLinkDown port) s = .next s) ∧
    (s.cxlPopulated.getLsbD port = true → s.cxlUp.getLsbD port = false →
      ∃ t, exec (.cxlLinkUp port) s = .next t ∧ t.cxlUp.getLsbD port = true ∧ t = { s with cxlUp := s.cxlUp ||| (1#8 <<< port) }.wakeLinks) ∧
    ((s.cxlPopulated.getLsbD port = false ∨ s.cxlUp.getLsbD port = true) → exec (.cxlLinkUp port) s = .next s)) ∧
  (∀ (s : State) (core tid c q : Nat) (p : Parked), tid < 4 → (s.thread core tid).op = some (.cxlReadTimeout c q) →
    (s.thread core tid).parked = some p →
    let w := s.thread core tid
    ((p.write = true ∨ (s.cycle - w.wfiAt).toNat < 1250000) → exec (.cxlReadTimeout core tid) s = .next s) ∧
    (p.write = false → 1250000 ≤ (s.cycle - w.wfiAt).toNat →
      let u := s.lateRead (s.portOf core (p.va.toNat % 2 ^ 55))
      let done (u : State) : State := u.setMe { u.me with wait := none, op := none, parked := none }
      let unit := if (w.wait.bind (vectorWord none)).isSome then 6 else 5
      exec (.cxlReadTimeout core tid) s = .next (u.within core tid fun u =>
        if u.me.mode = .service then (done u).takeTrapFrom (State.waitsCaptured w) 17 p.va else (done u).consume unit p.va))) ∧
  (∀ (s : State) (core slot : Nat) (x : Stream), s.stream core slot = some x → x.parked = none → x.stopped = false →
    (x.linkAt = none → exec (.cxlReadTimeout core (slot + 4)) s = .next s) ∧
    (∀ from_, x.linkAt = some from_ →
      ((s.cycle - from_).toNat < 1250000 → exec (.cxlReadTimeout core (slot + 4)) s = .next s) ∧
      (∀ va s1, 1250000 ≤ (s.cycle - from_).toNat → s.runStream core slot false x = (.link va false, s1) →
        let u := s.lateRead (s.portOf core va.toNat)
        let r := u.runStream core slot true { x with linkAt := none }
        (r.1 = .moved → exec (.cxlReadTimeout core (slot + 4)) s = .next (r.2.concludeStream core slot)) ∧
        (∀ c v, r.1 = .fail c v → exec (.cxlReadTimeout core (slot + 4)) s = .next (r.2.failStream core slot c v)) ∧
        (∀ v w m, r.1 = .park v w m → exec (.cxlReadTimeout core (slot + 4)) s =
          .next (r.2.parkStream core slot x (.park v w m))) ∧
        (∀ v, r.1 = .space v → exec (.cxlReadTimeout core (slot + 4)) s = .next (r.2.parkStream core slot x (.space v))) ∧
        -- it has taken what came late; it waits on at once for a write or for its place, and anew for another read
        (∀ v, r.1 = .link v false → exec (.cxlReadTimeout core (slot + 4)) s =
          .next ((if v = va then r.2.lateStream core slot else r.2).waitStreamEnd core slot r.1)) ∧
        ((r.1 = .waits ∨ (∃ v, r.1 = .link v true) ∨ ∃ d, r.1 = .path d) → exec (.cxlReadTimeout core (slot + 4)) s =
          .next (r.2.waitStreamEnd core slot r.1))))) ∧
  -- a late read counts as a poisoned read received from its port
  (∀ s : State, s.lateRead none = s ∧ ∀ port, (State.cxlOf ((s.lateRead (some port)).die (port / 2)) (port % 2)).poison =
    BitVec.ofNat 16 (min ((State.cxlOf (s.die (port / 2)) (port % 2)).poison.toNat + 1) 65535)) ∧
  -- a record of the error log, with the fields of R356
  (∀ (s : State) (die kind unit code sub loc cluster addr synd : Nat),
    let d := s.die die
    let n := d.errsize.toNat
    let full : Prop := n ≤ 1 ∨ (d.errtail.toNat + 1) % n = d.errhead.toNat
    let t := s.errorRecord die kind unit code sub loc cluster addr synd
    (full → t = s.setDie die { d with errlost := d.errlost + 1 }) ∧
    (¬full → (t.die die).errtail = BitVec.ofNat 16 ((d.errtail.toNat + 1) % n) ∧ t.mem = (s.physWrite
      (d.errbase.toNat * 2 ^ 16 + d.errtail.toNat * 32) d.errkey.toNat (leBytes 8 s.cycle.toNat ++
        leBytes 8 (kind % 256 * 2 ^ 56 + unit % 256 * 2 ^ 48 + code % 256 * 2 ^ 40 + 2 ^ 32 + sub % 32 * 2 ^ 24 +
          loc % 4096 * 2 ^ 12 + cluster % 128 * 2 ^ 4 + die % 4) ++ leBytes 8 addr ++ leBytes 8 synd)).mem)) ∧
  (∀ (s : State) (die lane : Nat), die < 4 → lane < 32 → exec (.ethernetLaneRetrain die lane) s = .next (s.countRetrain die lane))

/-- At boot step 7 a request of a client that is not in the list is answered with STATUS 6, and nothing else changes;
before it nothing happens. A listed client's requests are served in order of arrival, a malformed one with STATUS 1.
An access of Ubelo waits for a path or a CXL link, and a read that has waited 1,250,000 cycles returns poison and
answers 7 (log 21: R335 names no agent). Load image answers 0 with the three section bases, or 1 or 3 and leaves no
node and no byte of it. Create tensor answers 2 for an unknown job, 1 for a bad shape, 3 without a slot, else 0 with
the handle. Write data and read data answer 2, 7, 3 or 0, a read with the data. Submit graph answers 1, 2 for a tree
of no job (a PTBASE with a reserved bit goes to the dispatchers), 4 or 0 with GLAST, its header crossing to its home
as a numbered write (log 23). Open delivery ring answers 2, 1, 3 or 0 with the ring's address, which a second request
of the stream gets too (log 36). Checkpoint waits for a boundary between two graphs, seals the tensors, gives the
job's later tasks and handle words the new handles, and once the store has answered gives 2, 5, 3, 0 or 7; a failed
store leaves the earlier manifest and snapshots, and so does a flatten that is busy with a snapshot keep it (log 22:
the boundary, the handle words, the store's answer as an operand and the snapshots kept are the model's choice).
Restore makes the tensors of the manifest anew, or answers 2 for a name not found; no number is used again (R291).
Telemetry reads states, DEVENT, registers and MTHROT, and closes a ring once it is empty; the records of an open ring
are sent in order while an Ethernet port is up, and HEAD advances over those whose packets the transport has
acknowledged (log 21). Test starts the self-tests of idle clusters and answers when all are done, in the order asked
(log 21, log 36). (R171, R290, R291, R298, R299, R316, R336, R337, R338, R355, R377.) -/
def Obligations.QuocoRequests : Prop :=
  (∀ (s : State) (q : Request) (job off len cap stream : Nat) (img : Image) (shape : TensorShape) (tgt : DataTarget)
      (data : List Byte) (hdr : GraphHeader) (o : StoreOutcome) (m : StoredManifest) (sel : TelemetrySel) (cs : List (Nat × Nat)),
    -- each request with its code and its service: whether it is done, and the state that it leaves
    let ops : List (Instr × Nat × (Bool × State)) :=
      [(.loadImage q job img, 1, s.loadRequest (.loadImage q job img) q job img),
       (.createTensor q job shape, 2, (true, s.createTensor q job shape)),
       (.writeData q tgt off data, 3, s.writeData (.writeData q tgt off data) q tgt off data),
       (.readData q tgt off len, 4, s.readData (.readData q tgt off len) q tgt off len),
       (.submitGraph q hdr, 5, s.submitRequest (.submitGraph q hdr) q hdr),
       (.openDeliveryRing q job cap stream, 6, (true, s.openRing q job cap stream)),
       (.checkpoint q job o, 7, s.checkpointRequest q job o), (.restore q job m, 8, (true, s.restoreJob q job m)),
       (.telemetry q sel, 9, s.telemetry (.telemetry q sel) q sel), (.test q cs, 10, s.runTests q cs)]
    ∀ e ∈ ops,
      let done := e.2.2.1
      let u := e.2.2.2
      ((s.running = false ∨ s.mgmt.step ≠ 7) → exec e.1 s = .next s) ∧
      (s.running = true → s.mgmt.step = 7 → q.client ∉ s.clients → exec e.1 s = .next (s.respond q e.2.1 6 [])) ∧
      (s.running = true → s.mgmt.step = 7 → q.client ∈ s.clients →
        -- another request of the client goes first: this one waits behind it
        (∀ h, s.inboxHead q.client = some h → h ≠ e.1 →
          exec e.1 s = .next (if e.1 ∈ s.inbox then s else { s with inbox := s.inbox ++ [e.1] })) ∧
        (q.formed = false → s.inboxHead q.client = none → exec e.1 s = .next (s.respond q e.2.1 1 [])) ∧
        (q.formed = true → s.inboxHead q.client = none →
          exec e.1 s = .next (if done then u else { u with inbox := u.inbox ++ [e.1] })) ∧
        (q.formed = true → s.inboxHead q.client = some e.1 →
          exec e.1 s = .next (if done then { u with inbox := u.inbox.erase e.1 }.wakeClient q.client else u)))) ∧
  (∀ (s : State) (q : Request) (code status : Nat) (data : List Word),
    s.respond q code status data =
      { s with responses := s.responses ++ [⟨q.client, q.id, BitVec.ofNat 8 (0x80 + code), BitVec.ofNat 16 status, data⟩] }) ∧
  (∀ (s : State) (i : Instr) (q : Request) (job : Nat) (img : Image),
    (img.ends = none → s.loadRequest i q job img = (true, s.loadImage q job img)) ∧
    (∀ stream, img.ends = some stream → s.loadRequest i q job img = (match s.closeRing i q.client stream with
      | (.waits, u) => (false, u)
      | (_, u) => (true, u.loadImage q job img))) ∧
    (∀ e u, (s.undoRoots e u).nodes = s.nodes ∧ (s.undoRoots e u).mem = s.mem ∧ (s.undoRoots e u).jobs = s.jobs) ∧
    (s.loadImage q job img = s.respond q 1 3 [] ∨ s.loadImage q job img = s.respond q 1 1 [] ∨
      (∃ e u, s.loadImage q job img = (s.undoRoots e u).respond q 1 e.status []) ∨
      ∃ (t : State) (text dat bss : Nat), s.loadImage q job img = t.respond q 1 0 [BitVec.ofNat 64 text, BitVec.ofNat 64 dat, BitVec.ofNat 64 bss] ∧
        t.responses = s.responses ∧ (Map.find t.jobs job).isSome = true)) ∧
  (∀ (s : State) (q : Request) (job : Nat) (shape : TensorShape),
    (Map.find s.jobs job = none → s.createTensor q job shape = s.respond q 2 2 []) ∧
    (∀ j, Map.find s.jobs job = some j →
      (State.shapeOk shape = false → s.createTensor q job shape = s.respond q 2 1 []) ∧
      (State.shapeOk shape = true → s.freeSlot = none → s.createTensor q job shape = s.respond q 2 3 []) ∧
      (∀ k, State.shapeOk shape = true → s.freeSlot = some k →
        let u := s.newRoot k 0 shape j.key
        let h := BitVec.ofNat 32 (u.handleOf k)
        s.createTensor q job shape = (u.setJob job { j with tensors := j.tensors ++ [h] }).respond q 2 0 [h.setWidth 64]))) ∧
  (∀ (s : State) (i : Instr) (q : Request) (h : BitVec 32) (off len : Nat) (data : List Byte),
    (s.nodeOf h.toNat = none → s.writeData i q (.node h) off data = (true, s.respond q 3 2 []) ∧
      s.readData i q (.node h) off len = (true, s.respond q 4 2 [])) ∧
    (∀ k n, s.nodeOf h.toNat = some (k, n) →
      let room := n.shape.elemPlane.blocks * 4096
      let away : Prop := s.hasPath 0 n.home = false
      let v := s.endLinkWait i
      ((s.storable k n = false ∨ room < off + data.length) → s.writeData i q (.node h) off data = (true, s.respond q 3 7 [])) ∧
      (s.storable k n = true → off + data.length ≤ room →
        (away → s.writeData i q (.node h) off data = (false, s.waitPathOf i 0 n.home)) ∧
        (¬away → v.writeNodeBytes k (data.length / 4096 + 2) off data = none →
          s.writeData i q (.node h) off data = (true, (v.refuseSpace n.home).respond q 3 3 [])) ∧
        (∀ u, ¬away → v.writeNodeBytes k (data.length / 4096 + 2) off data = some u →
          s.writeData i q (.node h) off data = (true, (u.numberFrom 0 n.home).respond q 3 0 []))) ∧
      (room < off + len → s.readData i q (.node h) off len = (true, s.respond q 4 7 [])) ∧
      (off + len ≤ room →
        (away → s.readData i q (.node h) off len = (false, s)) ∧
        (¬away → s.nodePoisoned k off len = true → s.readData i q (.node h) off len = (true, s.respond q 4 7 [])) ∧
        (¬away → s.nodePoisoned k off len = false → s.readData i q (.node h) off len =
          (true, s.respond q 4 0 (State.packWords (len + 1) (s.readNodeBytes k (len / 4096 + 2) off len))))))) ∧
  (∀ (s : State) (i : Instr) (q : Request) (job off len : Nat) (va : Word) (data : List Byte),
    (Map.find s.jobs job = none → s.writeData i q (.device job va) off data = (true, s.respond q 3 2 []) ∧
      s.readData i q (.device job va) off len = (true, s.respond q 4 2 [])) ∧
    (∀ j, Map.find s.jobs job = some j →
      let pt := ptbaseOf j.ptbase
      -- an access of Ubelo: it is done, waits for a path or a link, or fails
      let put := State.writeVirtual pt (State.pageFuel data.length) (va.toNat + off) data s
      let got := State.readPages (s.linkLate i) pt (State.pageFuel len) (va.toNat + off) len s
      (s.mappedAll pt (va.toNat + off) data.length = false →
        s.writeData i q (.device job va) off data = (true, s.respond q 3 2 [])) ∧
      (s.mappedAll pt (va.toNat + off) data.length = true →
        (∀ x u, put = (.error x, u) → s.writeData i q (.device job va) off data =
          if x.waits = true then (false, s.waitFor i x) else (true, (s.endLinkWait i).respond q 3 7 [])) ∧
        (∀ y u, put = (.ok y, u) → s.writeData i q (.device job va) off data = (true, (u.endLinkWait i).respond q 3 0 []))) ∧
      (s.mappedAll pt (va.toNat + off) len = false → s.readData i q (.device job va) off len = (true, s.respond q 4 2 [])) ∧
      (s.mappedAll pt (va.toNat + off) len = true →
        (∀ x u, got = (.error x, u) → s.readData i q (.device job va) off len =
          if x.waits = true then (false, s.waitFor i x) else (true, (s.endLinkWait i).respond q 4 7 [])) ∧
        (∀ bs u, got = (.ok bs, u) → s.readData i q (.device job va) off len =
          (true, (u.endLinkWait i).respond q 4 0 (State.packWords (len + 1) bs)))))) ∧
  (∀ (s : State) (i : Instr) (q : Request) (h : GraphHeader),
    ((h.addr % 32 ≠ 0 ∨ 2 ^ 39 ≤ h.addr ∨ 4 ≤ h.die) → s.submitRequest i q h = (true, s.respond q 5 1 [])) ∧
    let unknown : Prop := State.ptbaseOk h.ptbase = true ∧ ∀ e ∈ s.jobs, e.2.ptbase ≠ h.ptbase
    let placed : Prop := h.addr % 32 = 0 ∧ h.addr < 2 ^ 39 ∧ h.die < 4
    (placed → unknown → s.submitRequest i q h = (true, s.respond q 5 2 [])) ∧
    (placed → ¬unknown → s.hasPath h.die (homeOfPhys h.addr) = false →
      s.submitRequest i q h = (false, s.waitPathOf i h.die (homeOfPhys h.addr))) ∧
    -- the whole header of 32 bytes stands at its place, then GSUBMIT is written: it refuses a PTBASE with a reserved bit
    (placed → ¬unknown → s.hasPath h.die (homeOfPhys h.addr) = true →
      let sent := ((s.physWrite h.addr 0 (leBytes 8 h.count.toNat ++ leBytes 8 h.list.toNat ++ leBytes 8 h.ptbase.toNat ++
        leBytes 8 h.reserved.toNat)).numberFrom h.die (homeOfPhys h.addr)).submitGraph (s.linkLate i) h.die (BitVec.ofNat 64 h.addr)
      (sent = none → s.submitRequest i q h = (false, s.waitLink i)) ∧
      (∀ u, sent = some u → s.submitRequest i q h = (true, (u.endLinkWait i).respond q 5
        (if (u.die h.die).glast.getLsbD 63 then 4 else 0) [(u.die h.die).glast])))) ∧
  (∀ (s : State) (q : Request) (job cap stream : Nat),
    (Map.find s.jobs job = none → s.openRing q job cap stream = s.respond q 6 2 []) ∧
    (∀ j, Map.find s.jobs job = some j →
      ((cap = 0 ∨ 65536 < cap) → s.openRing q job cap stream = s.respond q 6 1 []) ∧
      -- one ring for each client stream: a second request gets its address
      (∀ g, 0 < cap → cap ≤ 65536 → s.rings.find? (fun g => g.client = q.client && g.stream = stream) = some g →
        s.openRing q job cap stream = s.respond q 6 0 [g.addr]) ∧
      (0 < cap → cap ≤ 65536 → (∀ g ∈ s.rings, ¬(g.client = q.client ∧ g.stream = stream)) →
        let placed := s.placeSection (ptbaseOf j.ptbase) State.dataFlags (0x40 + cap * 16) (leBytes 16 0 ++ leBytes 8 cap)
        (placed = none → s.openRing q job cap stream = s.respond q 6 3 []) ∧
        (∀ va u, placed = some (va, u) → s.openRing q job cap stream =
          { u with rings := u.rings ++ [(⟨job, BitVec.ofNat 64 va, cap, q.client, stream, 0, 0⟩ : DeliveryRing)] }.respond q 6 0 [BitVec.ofNat 64 va])))) ∧
  (∀ (s : State) (q : Request) (job : Nat) (j : Job) (o : StoreOutcome),
    (Map.find s.jobs job = none → s.checkpointRequest q job o = (true, s.respond q 7 2 [])) ∧
    (Map.find s.jobs job = some j → s.checkpointRequest q job o = s.takeCheckpoint q job j o) ∧
    (∀ w, j.waiting = some w → w.1 ≠ q → s.takeCheckpoint q job j o = (true, s.respond q 7 5 [])) ∧
    ((∀ w, j.waiting = some w → w.1 = q) → j.sealing = none →
      ((s.jobPlaced j = true ∨ ∃ h ∈ j.tensors, ∃ k n, s.nodeOf h.toNat = some (k, n) ∧ n.bound = true) →
        s.takeCheckpoint q job j o = (false, s.setJob job { j with waiting := some (q, o) })) ∧
      (s.jobPlaced j = false → (∀ h ∈ j.tensors, ∀ k n, s.nodeOf h.toNat = some (k, n) → n.bound = false) →
      (s.freeSlots < j.tensors.length →
        s.takeCheckpoint q job j o = (true, (s.setJob job { j with waiting := none }).respond q 7 3 [])) ∧
      (j.tensors.length ≤ s.freeSlots →
        let hs := (s.sealTensors j.tensors).1
        let u := ((s.sealTensors j.tensors).2).giveHandles j hs
        s.takeCheckpoint q job j o = (false, u.setJob job { j with
          tensors := hs, seq := j.seq + 1, sealing := some (j.seq + 1, j.tensors), waiting := some (q, o) })))) ∧
    -- the tasks of the job's graphs name the new handles, and its handle words hold them
    (∀ (hs : List (BitVec 32)) (n : Nat) (g : Graph), Map.find s.graphs n = some g →
      Map.find (s.giveHandles j hs).graphs n = some (if g.ptbase = j.ptbase then { g with tasks := g.tasks.map fun t =>
        { t with tens := t.tens.map fun e => (((j.tensors.zip hs).find? fun x => x.1 = e.1).elim e.1 Prod.snd, e.2) } } else g)) ∧
    (∀ (hs : List (BitVec 32)) (ws : List (Nat × Nat)) (w : Nat × Nat) (h : BitVec 32) (u : State), j.words = ws ++ [w] →
      hs[w.2]? = some h → State.writeVirtual (ptbaseOf j.ptbase) 2 w.1 (leBytes 4 h.toNat)
        (s.giveHandles { j with words := ws } hs) = (.ok (), u) → s.giveHandles j hs = u) ∧
    -- the objects and the manifest are written: the snapshots before are deleted, or the earlier manifest stands
    (∀ seq snaps, (∀ w, j.waiting = some w → w.1 = q) → j.sealing = some (seq, snaps) →
      (let r := s.releaseSnapshots j.snapshots
       o = .durable → s.takeCheckpoint q job j o = (true, (r.2.setJob job { j with
         snapshots := r.1 ++ snaps, manifest := some (s.manifestOf job seq snaps), sealing := none, waiting := none }).respond q 7 0 [])) ∧
      (o = .failed → s.takeCheckpoint q job j o = (true, (s.setJob job { j with
        snapshots := j.snapshots ++ snaps, sealing := none, waiting := none }).respond q 7 7 [])))) ∧
  (∀ (s : State) (q : Request) (job : Nat) (m : StoredManifest),
    (m.found = false → s.restoreJob q job m = s.respond q 8 2 []) ∧
    (m.found = true → s.openJob job = none → s.restoreJob q job m = s.respond q 8 3 []) ∧
    (∀ j u, m.found = true → s.openJob job = some (j, u) →
      let made := u.makeRoots j.key (m.tensors.map fun t => (t.shape, t.codes.map (·.toNat), t.scales.map (·.toNat)))
      (∀ e v, made = .error (e, v) → s.restoreJob q job m = (s.undoRoots e v).respond q 8 e.status []) ∧
      -- a number that a checkpoint has used is not used again, and the latest manifest stays the latest
      (∀ hs v, made = .ok (hs, v) → ∃ latest, s.restoreJob q job m = (v.setJob job { j with
          tensors := hs, seq := max j.seq m.seq, manifest := some latest }).respond q 8 0 (hs.map (·.setWidth 64)) ∧
        (∀ old, j.manifest = some old → m.seq < old.seq → latest = old) ∧
        ((∀ old, j.manifest = some old → old.seq ≤ m.seq) → latest = v.manifestOf job m.seq hs)))) ∧
  (∀ (s : State) (i : Instr) (q : Request) (id die off stream : Nat),
    s.tell q (.instance_ id) = (match Map.find s.insts id with
      | none => s.respond q 9 2 []
      | some i => s.respond q 9 0 [BitVec.ofNat 64 (State.instStateNumber i.st)]) ∧
    (die < 4 → s.tell q (.devent die) = (s.readDevent die).2.respond q 9 0 [(s.readDevent die).1]) ∧
    (die < 4 → off % 8 = 0 → off < 0x10000 → off ≠ 0x320 →
      s.tell q (.register die off) = s.respond q 9 0 [s.readDieReg die off]) ∧
    (∀ k, die < 4 → k < 128 → off % 8 = 0 → off < 0x10000 →
      s.tell q (.cluster die k off) = s.respond q 9 0 [s.readClusterReg (die * 128 + k) off]) ∧
    s.tell q .throttled = s.respond q 9 0 [s.mgmt.mthrot] ∧
    (∀ sel, (∀ n, sel ≠ .closeRing n) → s.telemetry i q sel = (true, s.tell q sel)) ∧
    ((∀ g ∈ s.rings, ¬(g.client = q.client ∧ g.stream = stream)) →
      s.telemetry i q (.closeRing stream) = (true, s.respond q 9 2 [])) ∧
    -- the ring of an ended stream closes once HEAD equals TAIL and all that was sent is acknowledged
    (∀ g, s.rings.find? (fun g => g.client = q.client && g.stream = stream) = some g →
      let gone (u : State) : State := { u with rings := u.rings.filter fun x => !(x.client = q.client && x.stream = stream) }
      (∀ x u, State.readRing (s.linkLate i) g s = (.error x, u) → s.telemetry i q (.closeRing stream) =
        if x.waits = true then (false, s.waitFor i x) else (true, (gone (s.endLinkWait i)).respond q 9 7 [])) ∧
      (∀ head tail bs u, State.readRing (s.linkLate i) g s = (.ok (head, tail, bs), u) →
        s.telemetry i q (.closeRing stream) =
          if head = tail ∧ head = g.sent then (true, (gone (u.endLinkWait i)).respond q 9 0 []) else (false, u.endLinkWait i)))) ∧
  -- Ubelo sends the records of an open ring in order while a port is up, and advances HEAD over those acknowledged
  (∀ (s u : State) (g : DeliveryRing) (j : Job) (head tail : Nat) (bs : List Byte),
    State.readRing false g s = (.ok (head, tail, bs), u) → Map.find s.jobs g.job = some j →
    let n := min ((tail + 2 ^ 64 - g.sent) % 2 ^ 64) g.cap
    let up : Prop := u.ethUp ≠ 0
    let put := State.writeVirtual (ptbaseOf j.ptbase) 2 g.addr.toNat (leBytes 8 g.acked) u
    (¬up → s.serveDelivery g = u) ∧
    (up → head ≠ g.acked → (∀ x v, put = (.ok x, v) → s.serveDelivery g = v) ∧
      (∀ x v, put = (.error x, v) → s.serveDelivery g = u)) ∧
    (up → head = g.acked → n = 0 → s.serveDelivery g = u) ∧
    (up → head = g.acked → n ≠ 0 → (s.serveDelivery g).mem = u.mem ∧ (s.serveDelivery g).responses = u.responses ++
      ((List.range n).map fun i => (⟨g.client, BitVec.ofNat 64 g.stream, 0, 0,
        State.packWords 4 ((bs.drop ((g.sent + i) % g.cap * 16)).take 16)⟩ : Response)) ∧
      (s.serveDelivery g).rings = (u.setDelivery { g with sent := (g.sent + n) % 2 ^ 64 }).rings)) ∧
  -- the transport acknowledges the oldest record sent
  (∀ (s : State) (ring : Nat), (s.rings[ring]? = none → s.acknowledgeRecord ring = s) ∧
    (∀ g, s.rings[ring]? = some g → s.acknowledgeRecord ring =
      if s.ethUp = 0 ∨ g.acked = g.sent then s else s.setDelivery { g with acked := (g.acked + 1) % 2 ^ 64 })) ∧
  (∀ (s : State) (q : Request) (cs : List (Nat × Nat)),
    let key (c : Nat × Nat) : Nat := c.1 * 128 + c.2
    let held (k : Nat) : Prop := ∃ x ∈ State.coresOf k, (s.core x).inst ≠ none
    let mine (t : TestReq) : Bool := t.client = q.client && t.id = q.id
    (∀ t : TestReq, s.tests.find? mine = some t → (t.left ≠ [] → s.runTests q cs = (false, s)) ∧
      (t.left = [] → s.runTests q cs =
        (true, { s with tests := s.tests.filter fun t => !mine t }.respond q 10 0
          (cs.filterMap fun c => (t.results.find? fun (e : Nat × Word) => decide (e.1 = key c)).map Prod.snd)))) ∧
    (s.tests.find? mine = none →
      ((∃ c ∈ cs, 4 ≤ c.1 ∨ 128 ≤ c.2) → s.runTests q cs = (true, s.respond q 10 1 [])) ∧
      ((∀ c ∈ cs, c.1 < 4 ∧ c.2 < 128) → (∃ c ∈ cs, (s.cluster (key c)).testing = true) →
        s.runTests q cs = (true, s.respond q 10 5 [])) ∧
      ((∀ c ∈ cs, c.1 < 4 ∧ c.2 < 128 ∧ (s.cluster (key c)).testing = false) →
        ((∀ c ∈ cs, held (key c)) → s.runTests q cs =
          (true, s.respond q 10 0 (cs.map fun _ => BitVec.ofNat 64 (2 ^ 63)))) ∧
        (∀ c ∈ cs, ¬held (key c) → (s.runTests q cs).1 = false ∧ ((s.runTests q cs).2.cluster (key c)).testing = true ∧
          (s.runTests q cs).2.responses = s.responses))))

/-- POWER_ON of a module without power, or of one that stands at step 1, and MODULE_RESET of a powered one clear every
piece of running state and begin the boot at step 1; without power only what the expanders hold is left of memory
(R273). Each step does its work and MSTAT shows the next: bad rails stop step 1 with reason 1; the ROM loads new keys;
slot A, or slot B if A fails, verifies by the fused digest of its key, its version and its signature, which covers the
whole image, else step 3 stops with reason 2; bad GDDR7 stops step 4 with reason 3, else the CXL ports with an
expander of 768,000,000,000 bytes come up, and Ubelo is copied, its pages admitted, and every service core stands at
its first word; a port left down makes a record of KIND 11, at once or once its die's log is set; step 5 waits for
Ubelo, where UBELO_START_TIMEOUT fails it with reason 4; step 6 takes ports, IPv6 addresses and clients; step 7 is the
last. MPLIM, MTLIM and MTHROT keep their values over a reset, POWER_ON counts at step 1, and MRESET does nothing
without power (log 26: R362 to R364 do not say it). POWER_OFF, a write of MRESET with OFF and MAIN_POWER_LOSS remove
power and every running state; THERMAL_SHUTDOWN (reason 5) removes that of the core rails alone, so that MRESET can
reset the module, and MSTAT shows a boot stopped at step 1 until then (STEP and FAILED are the model's choice, log
26). The throttles come and end. A management write sets MPLIM in 4000 to 10000 and MTLIM in 60 to 105, else their
reset value; the registers read as listed. Boundary scan is served after step 1, debug only if the verified image
allows it; the model notes each command (log 29). (Logs 36 and 37.) (R274, R359, R360, R362, R363, R364, R365, R366.)
-/
def Obligations.PowerBootAndManagement : Prop :=
  (∀ (s : State) (inp : BootInput),
    ((s.powered = false ∨ (s.mgmt.step = 1 ∧ s.mgmt.failed = false)) → exec (.powerOn inp) s = .next (s.railsLost.startBoot inp)) ∧
    (s.powered = true → (s.mgmt.step ≠ 1 ∨ s.mgmt.failed = true) → exec (.powerOn inp) s = .next s) ∧
    (s.powered = true → exec (.moduleReset inp) s = .next (s.keptMemory.startBoot inp)) ∧
    (s.powered = false → exec (.moduleReset inp) s = .next s) ∧
    (∀ t : State, (t = s.railsLost.startBoot inp ∨ t = s.keptMemory.startBoot inp) →
      t.powered = true ∧ t.mgmt.step = 1 ∧ t.mgmt.failed = false ∧ t.mgmt.reason = 0 ∧ t.booting = some inp ∧
      t.threads = [] ∧ t.cores = [] ∧ t.clusters = [] ∧ t.dies = [] ∧ t.insts = [] ∧ t.graphs = [] ∧ t.nodes = [] ∧
      t.mappings = [] ∧ t.admitted = [] ∧ t.flights = [] ∧ t.agenda = [] ∧ t.inbox = [] ∧ t.cycle = 0 ∧ t.throttled = false ∧
      t.hotDies = 0 ∧ t.mgmt.mplim = s.mgmt.mplim ∧ t.mgmt.mtlim = s.mgmt.mtlim ∧ t.mgmt.mthrot = s.mgmt.mthrot) ∧
    (∀ c ∈ (s.railsLost.startBoot inp).mem, c ∈ s.mem ∧ ∃ p, physRegion c.1 = .tier2 p) ∧ (∀ c ∈ (s.keptMemory.startBoot inp).mem, c ∈ s.mem ∧ c.1 < 2 ^ 52)) ∧
  -- a boot in progress: the work of the step that MSTAT shows
  (∀ (s : State) (inp : BootInput),
    let u := s.bootStep
    let ok (x : FlashSlot) : Bool := slotVerifies inp.fusedKey inp.fusedVersion x
    (s.booting = none → u = s) ∧ (s.powered = false → u = s) ∧ (s.mgmt.failed = true → u = s) ∧
    (s.booting = some inp → s.powered = true → s.mgmt.failed = false →
      (s.mgmt.step = 1 → u = if inp.railsOk then s.atStep 2 else s.bootFails 1 1) ∧
      (s.mgmt.step = 2 → u.mgmt.step = 3 ∧ u.sramPoison = [] ∧ ∀ d < 4, (u.die d).keys = []) ∧
      (s.mgmt.step = 3 → (ok inp.slotA = true → u = { s with image := some (false, inp.slotA.debugFlag) }.atStep 4) ∧
        (ok inp.slotA = false → ok inp.slotB = true → u = { s with image := some (true, inp.slotB.debugFlag) }.atStep 4) ∧
        (ok inp.slotA = false → ok inp.slotB = false → u = s.bootFails 3 2)) ∧
      (s.mgmt.step = 4 → (inp.gddrOk = false → u = s.bootFails 4 3) ∧
        (inp.gddrOk = true → u.mgmt.step = 5 ∧ u.mgmt.failed = false ∧ u.running = true ∧
          -- a port comes up with its link trained and an expander of 768,000,000,000 bytes
          (∀ p < 8, u.cxlUp.getLsbD p = (inp.cxl.getLsbD p && decide (768000000000 ≤ inp.cxlBytes.getD p 0))) ∧
          ((∀ d < 4, (s.die d).errsize.toNat ≤ 1) → u.owed = s.owed ++
            (((List.range 8).filter fun p => !(inp.cxl.getLsbD p && decide (768000000000 ≤ inp.cxlBytes.getD p 0))).map
              fun p => (p / 2, 12, p % 2))) ∧
          -- the root of Ubelo's tree, and its first page
          (let ws := (s.bootedSlot inp).ubelo
           let root := s.freeFrame 8 s.nextFrame
           let f := s.freeFrame 8 (root + 1)
           (root < 2 ^ 21 → ∀ k < 32, (u.core (8192 + k)).ptbase = ⟨BitVec.ofNat 36 root, 0⟩ ∧
             ∀ tid < 4, (u.thread (8192 + k) tid).pc = 0x4000000000) ∧
           (0 < ws.length → ws.length ≤ 0x4000 → firstRefused (wordsOf ((State.textBytes ws).take 0x10000)) 0 = none →
             f < 2 ^ 21 → f ∈ u.admitted)))) ∧
      (s.mgmt.step = 5 → u = if inp.ubeloStarts then s.atStep 6 else s) ∧
      (s.mgmt.step = 6 → ((∀ d < 4, (s.die d).errsize.toNat ≤ 1) → u.owed = s.owed ++
          (((List.range 16).filter fun p => !inp.eth.getLsbD p).map fun p => (p / 4, 11, 8 * (p % 4)))) ∧
        u.mgmt.step = 7 ∧ u.ethUp = inp.eth ∧ u.clients = (s.bootedSlot inp).clients.map (·.toNat) ∧
        ∀ d < 4, (u.die d).ipv6 = (s.bootedSlot inp).ipv6.getD d 0) ∧
      (7 ≤ s.mgmt.step.toNat → u = s)) ∧
    -- a port left down is recorded at once where its die's log is set
    (∀ o : Nat × Nat × Nat, 1 < (s.die o.1).errsize.toNat → s.recordPortDown o = s.errorRecord o.1 11 o.2.1 0 0 o.2.2 0 0 0) ∧
    (∀ k r, (s.bootFails k r).mgmt = { s.mgmt with step := k, failed := true, reason := r })) ∧
  -- a slot verifies with the fused digest of its key, a version that is not below the minimum, and its signature
  (∀ (fused least : Nat) (x : FlashSlot), slotVerifies fused least x = true ↔
    sha384 (Sha.beBytes 48 x.keyX ++ Sha.beBytes 48 x.keyY) = fused ∧ least ≤ x.version.toNat ∧
      ecdsaVerify x.keyX x.keyY x.sigR x.sigS (sha384 (imageBytes x)) = true) ∧
  -- the signature covers the whole image: another debug flag or another Ubelo is another image
  (∀ x y : FlashSlot, x.ubelo.length = y.ubelo.length → imageBytes x = imageBytes y →
    x.debugFlag = y.debugFlag ∧ x.ubelo = y.ubelo) ∧
  (∀ s : State,
    (s.powered = true → s.mgmt.step = 5 → s.mgmt.failed = false → exec .ubeloStartTimeout s = .next
      { s with mgmt := { s.mgmt with step := 5, failed := true, reason := 4 } }) ∧
    ((s.powered = false ∨ s.mgmt.step ≠ 5 ∨ s.mgmt.failed = true) → exec .ubeloStartTimeout s = .next s) ∧
    exec .powerOff s = .next s.unpowered ∧ exec .mainPowerLoss s = .next s.unpowered ∧
    (s.powered = true → exec .thermalShutdown s = .next s.shutDown) ∧ (s.powered = false → exec .thermalShutdown s = .next s) ∧
    (∀ t : State, (t = s.unpowered ∨ t = s.shutDown) →
      t.threads = [] ∧ t.cores = [] ∧ t.dies = [] ∧ t.nodes = [] ∧ t.insts = [] ∧ t.running = false ∧
        (∀ c ∈ t.mem, c ∈ s.mem ∧ ∃ p, physRegion c.1 = .tier2 p) ∧
        t.mgmt.mplim = s.mgmt.mplim ∧ t.mgmt.mtlim = s.mgmt.mtlim) ∧
    -- main power goes, or only that of the core rails
    s.unpowered.powered = false ∧ s.unpowered.mgmt = s.mgmt ∧
    s.shutDown.powered = true ∧ s.shutDown.mgmt = { s.mgmt with reason := 5, failed := true, step := 1 } ∧
    (s.powered = true → exec .powerThrottle s = .next { s with throttled := true }) ∧
    (∀ die, s.powered = true → die < 4 → exec (.thermalThrottle die) s = .next { s with hotDies := s.hotDies ||| (1#4 <<< die) }) ∧
    exec .throttleEnd s = .next { s with throttled := false, hotDies := 0 } ∧
    (∀ x : Word,
      let p := x.toNat % 2 ^ 14
      let q := x.toNat % 2 ^ 7
      exec (.managementRegisterWrite 0x10 x) s = .next { s with mgmt := { s.mgmt with
        mplim := BitVec.ofNat 14 (if 4000 ≤ p ∧ p ≤ 10000 then p else 10000) } } ∧
      exec (.managementRegisterWrite 0x18 x) s = .next { s with mgmt := { s.mgmt with
        mtlim := BitVec.ofNat 7 (if 60 ≤ q ∧ q ≤ 105 then q else 105) } } ∧
      -- MRESET: OFF removes power, whatever RESET holds
      exec (.managementRegisterWrite 0x08 x) s = .next (if x.getLsbD 1 then s.unpowered
        else if x.getLsbD 0 ∧ s.powered = true then s.keptMemory else s) ∧
      (∀ i, i ≠ 0x08 → i ≠ 0x10 → i ≠ 0x18 → exec (.managementRegisterWrite i x) s = .next s)) ∧
    s.mgmtRead 0 = BitVec.ofNat 64 (s.mgmt.step.toNat + (if s.mgmt.failed then 128 else 0) + 256 * s.mgmt.reason.toNat) ∧
    s.mgmtRead 0x08 = 0 ∧ s.mgmtRead 0x10 = s.mgmt.mplim.setWidth 64 ∧ s.mgmtRead 0x18 = s.mgmt.mtlim.setWidth 64 ∧
    s.mgmtRead 0x20 = s.mgmt.mthrot ∧
    exec (.jtagAccess .boundaryScan) s = .next { s with jtag := s.jtag ++ [(.boundaryScan,
      s.powered && decide (1 < s.mgmt.step.toNat))] } ∧
    exec (.jtagAccess .debug) s = .next { s with jtag := s.jtag ++ [(.debug,
      s.powered && decide (∃ b, s.image = some (b, true)))] })

/-- At reset every thread reads 1 in DOMAIN, QFMT 11, SAT 1 and RND 0 in VCTL, 0 in VSTAT, FSTAT, FCTL and WDOG, AIE
1, PMODE 0 and MODE as its core's kind gives it in STATUS. DQUANT and the thresholds hold their Reset values, no core
is withdrawn, the counters, sizes and notifications of the service registers that the statement lists are 0; MPLIM is
10,000 and MTLIM 105. There is no task state, no lineage node, no forest, no admitted frame. Memory lists nothing and
so is in its canonical form. (Where the spec states no value at reset it is the model's, log 2; of those this
statement holds WDOG alone: R31 sets it to 0 at task start.) (R16, R18, R19, R31, R272, R283, R299, R329, R357, R358,
R362, R363.) -/
def Obligations.ResetState : Prop :=
  (∀ core tid : Nat, tid < 4 → core < 8224 →
    let s := State.reset.asThread core tid
    s.sysRead 0x008 = 1 ∧ s.sysRead 0x010 = 0 ∧ s.sysRead 0x011 = 0xB8 ∧ s.sysRead 0x012 = 0 ∧ s.sysRead 0x013 = 0 ∧
      s.sysRead 0x038 = 0 ∧ s.sysRead 0x100 = (if core < 8192 then 4 else 5) ∧ s.sysRead 0x000 = BitVec.ofNat 64 tid) ∧
  (∀ die < 4,
    (∀ off ∈ [0x000, 0x008, 0x010, 0x028, 0x030, 0x038, 0x040, 0x048, 0x208, 0x210, 0x218, 0x220, 0x228, 0x230, 0x240, 0x248, 0x250, 0x258,
        0x318, 0x328, 0x608, 0x618, 0x620, 0x708, 0x718, 0x720, 0x808, 0x820, 0x828, 0x2590, 0x2598],
      State.reset.readDieReg die off = 0) ∧
    State.reset.readDieReg die 0x310 = 2500000 ∧
    (∀ k < 32, State.reset.readDieReg die (0x400 + 8 * k) = 0) ∧
    State.reset.readDieReg die 0x25C0 = 16 * 2 ^ 32 + 1024 ∧ State.reset.readDieReg die 0x25C8 = 4 * 2 ^ 48 + 16777216 ∧
    State.reset.readDieReg die 0x25D0 = 65536) ∧
  State.reset.mgmt.mplim = 10000 ∧ State.reset.mgmt.mtlim = 105 ∧ State.reset.insts = [] ∧ State.reset.graphs = [] ∧
  State.reset.nodes = [] ∧ State.reset.admitted = [] ∧ State.reset.mem = [] ∧ (∀ d, (State.reset.die d).forests = [])

/-- Memory of the reset state is in its canonical form: addresses strictly rising, and no entry equal to what an
unlisted address reads as. (23_package_power_boot.md, R363.) -/
def Obligations.ResetHoldsInvariant : Prop :=
  Inv State.reset

/-- For every state whose memory is in canonical form (addresses strictly rising, no entry equal to what an unlisted
address reads as), a step that answers a next state leaves memory in that form: whatever the word, the event or the
move. (12_memory_and_translation.md.) -/
def Obligations.StepKeepsInvariant : Prop :=
  ∀ s t : State, Inv s → step s = .next t → Inv t

/-- For every well-formed instruction that is no event, decoding its word gives the instruction with every operand.
Every word that the decoder takes is the word of the well-formed instruction that it gives. (R57, R62, R63, R64, R65,
R67.) -/
def Obligations.WordsAndInstructionsAgree : Prop :=
  (∀ i : Instr, i.isEvent = false → i.wf = true → decode (encode i) = .ok i) ∧
  (∀ (w : BitVec 32) (i : Instr), decode w = .ok i → i.isEvent = false ∧ i.wf = true ∧ encode i = w)

/-- A word of each family, its fields written out from the formats and the code tables of the spec, decodes to the
instruction that it stands for; a word of major 0, a word with a reserved bit set and a word with a function code
above the last are refused. (R57, R62, R63, R64, R65.) -/
def Obligations.SampleWordsDecode : Prop :=
  decode (0b000001#6 ++ 0b00011#5 ++ 0b00001#5 ++ 0b00010#5 ++ 0b00000000001#11) = .ok (.sub 3 1 2) ∧
  decode (0b000010#6 ++ 0b00100#5 ++ 0b00101#5 ++ 0b1111111111111111#16) = .ok (.addi 4 5 0xFFFF) ∧
  decode (0b001000#6 ++ 0b00001#5 ++ 0b00010#5 ++ 0b01#2 ++ 0b00000000#8 ++ 0b100000#6) = .ok (.srli 1 2 32) ∧
  decode (0b001011#6 ++ 0b00001#5 ++ 0b00010#5 ++ 0b00011#5 ++ 0b00#2 ++ 0b111#3 ++ 0b000001#6) = .ok (.fsub 1 2 3 7) ∧
  decode (0b010010#6 ++ 0b00111#5 ++ 0b01000#5 ++ 0b0000000000001000#16) = .ok (.ld 7 8 8) ∧
  decode (0b010110#6 ++ 0b00111#5 ++ 0b01000#5 ++ 0b1111111111111000#16) = .ok (.sd 7 8 0xFFF8) ∧
  decode (0b010111#6 ++ 0b00001#5 ++ 0b00010#5 ++ 0b00000000#8 ++ 0b10#2 ++ 0b000001#6) = .ok (.ldah 1 2 2) ∧
  decode (0b011000#6 ++ 0b00001#5 ++ 0b00010#5 ++ 0b00011#5 ++ 0b1#1 ++ 0b10#2 ++ 0b11#2 ++ 0b000001#6) = .ok (.amoand 1 2 3 1 2 3) ∧
  decode (0b011001#6 ++ 0b00001#5 ++ 0b00010#5 ++ 0b1111111111111110#16) = .ok (.beq 1 2 0xFFFE) ∧
  decode (0b100001#6 ++ 0b000000000000000#15 ++ 0b00101#5 ++ 0b000001#6) = .ok (.brk 5) ∧
  decode (0b100010#6 ++ 0b00001#5 ++ 0b00000#5 ++ 0b0000#4 ++ 0b000100000000#12) = .ok (.sysr 1 0x100) ∧
  decode (0b100100#6 ++ 0b00000#5 ++ 0b01001#5 ++ 0b0000000000000001#16) = .ok (.wait 9) ∧
  decode (0b101000#6 ++ 0b00001#5 ++ 0b00010#5 ++ 0b00011#5 ++ 0b101#3 ++ 0b011#3 ++ 0b00001#5) = .ok (.vsub 1 2 3 5 3) ∧
  decode (0b101110#6 ++ 0b00001#5 ++ 0b001#3 ++ 0b01#2 ++ 0b1000000000000000#16) = .ok (.vaddi 1 1 0x8000) ∧
  decode (0b101111#6 ++ 0b00001#5 ++ 0b00010#5 ++ 0b00000#5 ++ 0b111#3 ++ 0b000#3 ++ 0b00001#5) = .ok (.vst 1 2 7 0) ∧
  decode (0b110000#6 ++ 0b1#1 ++ 0b0#1 ++ 0b0#1 ++ 0b01#2 ++ 0b00011#5 ++ 0b00100#5 ++ 0b00101#5 ++ 0b000010#6) =
    .ok (.mma 1 0 0 1 3 4 5 2) ∧
  decode (0b110100#6 ++ 0b00001#5 ++ 0b00100#5 ++ 0b0000000000000001#16) = .ok (.copyt 1 4) ∧
  decode (0b110101#6 ++ 0b00001#5 ++ 0b00000#5 ++ 0b00010#5 ++ 0b00000#5 ++ 0b000001#6) = .ok (.bbget 1 2 0) ∧
  decode (0b110110#6 ++ 0b00001#5 ++ 0b00010#5 ++ 0b0000000000000001#16) = .ok (.fork 1 2) ∧
  decode (0b110111#6 ++ 0b00001#5 ++ 0b00010#5 ++ 0b0000000000000001#16) = .ok (.eqfree 1 2) ∧
  decode (0b111000#6 ++ 0b00001#5 ++ 0b00010#5 ++ 0b00011#5 ++ 0b00100#5 ++ 0b000001#6) = .ok (.drsend 1 2 3 4) ∧
  decode 0x00000000#32 = .error .noMajor ∧
  decode (0b000001#6 ++ 0b00011#5 ++ 0b00001#5 ++ 0b00010#5 ++ 0b00001#5 ++ 0b000001#6) = .error .reservedField ∧
  decode (0b000001#6 ++ 0b00011#5 ++ 0b00001#5 ++ 0b00010#5 ++ 0b00000#5 ++ 0b011100#6) = .error .functionCode

/-- Where the schedule and the agenda are empty and the thread whose turn it is on the current core has no trap due
and no convoy, a step fetches the word at its pc and runs exec of the instruction that the word decodes to, unless the
thread's capture, its own unperformed writes, queued accesses before an FACQ or a COPY, or an arrival that it still
owes (log 32) hold the word back or the interval of its pair closes first (log 11: an interval closes, agreeing,
before a word that leaves the pair, and after it); then the cycles of the issue pass (one, or three under a cover).
Where the schedule names the core, it is the same without the cycles. A trap that is due is taken instead. A thread
whose word stalls is passed over, and the next in turn issues; without a ready thread a cycle passes. A word that does
not decode stops the step as a fault (log 12: the spec has no such word). The word is the four bytes that the leaf's
frame holds at the pc. (Who issues is the model's schedule, log 3.) (R56, R65, R67, R68, R310.) -/
def Obligations.StepRunsDecodedInstruction : Prop :=
  (∀ (s : State) (core tid : Nat) (rest : List Nat),
    let u := { s with free := s.free + 1, plan := s.plan.drop 1 }
    let c := { u with defer := false }
    let v := (c.chosen core tid).asThread core tid
    let after (o : Out) : Out := onNext (fun t => { t with defer := false }) o
    -- a thread whose word stalls is passed over
    let turned (o : Out) : Out := match o with
      | .next t => if c.stalled t core tid then issueTurn core rest (c.passOver t core) else .next t
      | o => o
    -- the step when the core issues and what its first thread issues answers o: with nothing scheduled, and scheduled
    let issues (o : Out) : Prop :=
      (s.plan = [] → s.agenda = [] → core = s.curCore →
        step s = onNext (fun t => State.ticks (issueCycles u t) t) (after (turned o))) ∧
      (∀ r, s.plan = .issue core :: r → step s = after (turned o))
    u.turn core = tid :: rest →
    (State.trapDue v.me = true → issues (.next v.takeDue)) ∧
    (∀ w x, State.trapDue v.me = false → v.me.convoy = none → v.fetchWord v.me.pc = (some w, x) →
      (∀ e, decode w = .error e →
        (s.plan = [] → s.agenda = [] → core = s.curCore → step s = .fault (.notAnInstruction w)) ∧
        (∀ r, s.plan = .issue core :: r → step s = .fault (.notAnInstruction w))) ∧
      (∀ i, decode w = .ok i →
        let held : Prop := x.issuesBeside w = false ∨ (ordersWrites i = true ∧ x.writesOut i = true) ∨ x.heldBack i = true
        let leaves : Prop := x.myCore.paired = true ∧ x.leavesNow w = true
        -- a paired core notes what the word changes in the state that its threads share
        let noted (o : Out) : Out :=
          if x.myCore.paired then onNext (fun t => t.noteUndo x.curCore x.curTid.toNat x.myCore) o else o
        (held → issues (.next x)) ∧
        (¬held → x.intervalFirst w = true →
          issues (.next (x.propose (.pairIntervalEnd x.curCore x.curTid.toNat true)))) ∧
        (¬held → x.intervalFirst w = false → (x.upsets = [] ∨ x.me.cover = 0) →
          (¬leaves → issues (noted (exec i x))) ∧
          -- after a word that leaves the pair its thread's interval is closed
          (leaves → issues (onNext (fun t => if t.thread x.curCore x.curTid.toNat = x.me then t
            else t.afterLeaving x.curCore x.curTid.toNat) (noted (exec i x)))))))) ∧
  -- no thread is ready
  (∀ (s : State) (core : Nat),
    let u := { s with free := s.free + 1, plan := s.plan.drop 1 }
    u.turn core = [] →
      (s.plan = [] → s.agenda = [] → core = s.curCore → step s = .next (State.ticks 1 { u with defer := false })) ∧
      (∀ r, s.plan = .issue core :: r → step s = .next { u with defer := false })) ∧
  (∀ (s u x : State) (pc : Word) (l : Leaf) (w : BitVec 32), State.inHand s.me pc = none → pc.toNat % 4 = 0 →
    s.fetchLeaf s.curCore pc.toNat = (some l, u) → s.fetchWord pc = (some w, x) →
    w.toNat = ofLe (u.physRead (l.phys pc.toNat) 4 (Pte.key l.pte)))

/-- Every word and every event answers a next state in every state, with every operand. A step is never refused, and a
fault names a word that is no instruction. (What R69 admits holds none; log 12.) (R65, R66, R67, R69.) -/
def Obligations.EveryInstructionAnswers : Prop :=
  (∀ (i : Instr) (s : State), ∃ t, exec i s = .next t) ∧
  (∀ (s : State) (r : Refusal), step s ≠ .refused r) ∧
  (∀ (s : State) (f : Fault), step s = .fault f → ∃ w e, f = .notAnInstruction w ∧ decode w = .error e)
end

