-- ==== Sys2Proof/Laws/State.lean ====
section
/-! SUPPORT. The record laws: what each update of the state leaves in every field, by key for the maps, and what the
register accessors read after a write. -/

namespace Sys2Proof.Machine

/-! ### Maps -/

theorem Map.find_insert_self {α : Type} (m : Map α) (k : Nat) (x : α) : Map.find (Map.insert m k x) k = some x := by
  induction m with
  | nil => simp [Map.insert, Map.find]
  | cons e r ih =>
    obtain ⟨k', v⟩ := e
    by_cases h1 : k < k' <;> by_cases h2 : k' = k <;> simp [Map.insert, Map.find, h1, h2, ih]

theorem Map.find_insert_of_ne {α : Type} (m : Map α) (k j : Nat) (x : α) (h : j ≠ k) :
    Map.find (Map.insert m k x) j = Map.find m j := by
  induction m with
  | nil => simp [Map.insert, Map.find, Ne.symm h]
  | cons e r ih =>
    obtain ⟨k', v⟩ := e
    by_cases h1 : k < k'
    · simp [Map.insert, Map.find, h1, Ne.symm h]
    · by_cases h2 : k' = k
      · subst h2; simp [Map.insert, Map.find, Ne.symm h]
      · have h4 : ¬ k < k' := h1
        by_cases h3 : k' = j <;> simp [Map.insert, Map.find, h2, h3, h4, ih, h]
        subst h3; simp [h4, Map.find]

theorem Map.find_erase_self {α : Type} (m : Map α) (k : Nat) : Map.find (Map.erase m k) k = none := by
  induction m with
  | nil => rfl
  | cons e r ih =>
    obtain ⟨k', v⟩ := e
    by_cases h : k' = k <;> simp [Map.erase, Map.find, h, ih]

theorem Map.find_erase_of_ne {α : Type} (m : Map α) (k j : Nat) (h : j ≠ k) :
    Map.find (Map.erase m k) j = Map.find m j := by
  induction m with
  | nil => rfl
  | cons e r ih =>
    obtain ⟨k', v⟩ := e
    by_cases h1 : k' = k
    · subst h1; simp [Map.erase, Map.find, Ne.symm h, ih]
    · by_cases h2 : k' = j <;> simp_all [Map.erase, Map.find]

@[simp] theorem Map.get_insert_self {α : Type} (d : α) (m : Map α) (k : Nat) (x : α) :
    Map.get d (Map.insert m k x) k = x := by simp [Map.get, Map.find_insert_self]

theorem Map.get_insert_of_ne {α : Type} (d : α) (m : Map α) (k j : Nat) (x : α) (h : j ≠ k) :
    Map.get d (Map.insert m k x) j = Map.get d m j := by simp [Map.get, Map.find_insert_of_ne, h]

theorem Map.get_insert {α : Type} (d : α) (m : Map α) (k j : Nat) (x : α) :
    Map.get d (Map.insert m k x) j = if j = k then x else Map.get d m j := by
  by_cases h : j = k
  · subst h; simp
  · simp [h, Map.get_insert_of_ne]

theorem Map.get_put {α : Type} [DecidableEq α] (d : α) (m : Map α) (k j : Nat) (x : α) :
    Map.get d (Map.put d m k x) j = if j = k then x else Map.get d m j := by
  unfold Map.put
  by_cases hx : x = d
  · subst hx
    by_cases h : j = k
    · subst h; simp [Map.get, Map.find_erase_self]
    · simp [h, Map.get, Map.find_erase_of_ne]
  · simp [hx, Map.get_insert]

theorem Map.insert_insert {α : Type} (m : Map α) (k : Nat) (x y : α) :
    Map.insert (Map.insert m k x) k y = Map.insert m k y := by
  induction m with
  | nil => simp [Map.insert]
  | cons e r ih =>
    obtain ⟨k', v⟩ := e
    by_cases h1 : k < k'
    · simp [Map.insert, h1]
    · by_cases h2 : k' = k
      · subst h2; simp [Map.insert]
      · simp [Map.insert, h1, h2, ih]

/-! ### Fields after an update -/

namespace State

@[simp] theorem setThreadAt_mem (s : State) (k : Nat) (t : Thread) : (s.setThreadAt k t).mem = s.mem := rfl
@[simp] theorem setThreadAt_poison (s : State) (k : Nat) (t : Thread) : (s.setThreadAt k t).poison = s.poison := rfl
@[simp] theorem setThreadAt_tags (s : State) (k : Nat) (t : Thread) : (s.setThreadAt k t).tags = s.tags := rfl
@[simp] theorem setThreadAt_blurred (s : State) (k : Nat) (t : Thread) : (s.setThreadAt k t).blurred = s.blurred := rfl
@[simp] theorem setThreadAt_sramPoison (s : State) (k : Nat) (t : Thread) : (s.setThreadAt k t).sramPoison = s.sramPoison := rfl
@[simp] theorem setThreadAt_inbox (s : State) (k : Nat) (t : Thread) : (s.setThreadAt k t).inbox = s.inbox := rfl
@[simp] theorem setThreadAt_linkWaits (s : State) (k : Nat) (t : Thread) : (s.setThreadAt k t).linkWaits = s.linkWaits := rfl
@[simp] theorem setThreadAt_pathWaits (s : State) (k : Nat) (t : Thread) : (s.setThreadAt k t).pathWaits = s.pathWaits := rfl
@[simp] theorem setThreadAt_booting (s : State) (k : Nat) (t : Thread) : (s.setThreadAt k t).booting = s.booting := rfl
@[simp] theorem setThreadAt_admitted (s : State) (k : Nat) (t : Thread) : (s.setThreadAt k t).admitted = s.admitted := rfl
@[simp] theorem setThreadAt_cores (s : State) (k : Nat) (t : Thread) : (s.setThreadAt k t).cores = s.cores := rfl
@[simp] theorem setThreadAt_clusters (s : State) (k : Nat) (t : Thread) : (s.setThreadAt k t).clusters = s.clusters := rfl
@[simp] theorem setThreadAt_dies (s : State) (k : Nat) (t : Thread) : (s.setThreadAt k t).dies = s.dies := rfl
@[simp] theorem setThreadAt_nodes (s : State) (k : Nat) (t : Thread) : (s.setThreadAt k t).nodes = s.nodes := rfl
@[simp] theorem setThreadAt_nodeGen (s : State) (k : Nat) (t : Thread) : (s.setThreadAt k t).nodeGen = s.nodeGen := rfl
@[simp] theorem setThreadAt_mappings (s : State) (k : Nat) (t : Thread) : (s.setThreadAt k t).mappings = s.mappings := rfl
@[simp] theorem setThreadAt_graphs (s : State) (k : Nat) (t : Thread) : (s.setThreadAt k t).graphs = s.graphs := rfl
@[simp] theorem setThreadAt_insts (s : State) (k : Nat) (t : Thread) : (s.setThreadAt k t).insts = s.insts := rfl
@[simp] theorem setThreadAt_nextGraph (s : State) (k : Nat) (t : Thread) : (s.setThreadAt k t).nextGraph = s.nextGraph := rfl
@[simp] theorem setThreadAt_stamp (s : State) (k : Nat) (t : Thread) : (s.setThreadAt k t).stamp = s.stamp := rfl
@[simp] theorem setThreadAt_pkgChans (s : State) (k : Nat) (t : Thread) : (s.setThreadAt k t).pkgChans = s.pkgChans := rfl
@[simp] theorem setThreadAt_pkgHolder (s : State) (k : Nat) (t : Thread) : (s.setThreadAt k t).pkgHolder = s.pkgHolder := rfl
@[simp] theorem setThreadAt_checkpoints (s : State) (k : Nat) (t : Thread) : (s.setThreadAt k t).checkpoints = s.checkpoints := rfl
@[simp] theorem setThreadAt_xblocks (s : State) (k : Nat) (t : Thread) : (s.setThreadAt k t).xblocks = s.xblocks := rfl
@[simp] theorem setThreadAt_drFlights (s : State) (k : Nat) (t : Thread) : (s.setThreadAt k t).drFlights = s.drFlights := rfl
@[simp] theorem setThreadAt_flights (s : State) (k : Nat) (t : Thread) : (s.setThreadAt k t).flights = s.flights := rfl
@[simp] theorem setThreadAt_groupsDown (s : State) (k : Nat) (t : Thread) : (s.setThreadAt k t).groupsDown = s.groupsDown := rfl
@[simp] theorem setThreadAt_cxlUp (s : State) (k : Nat) (t : Thread) : (s.setThreadAt k t).cxlUp = s.cxlUp := rfl
@[simp] theorem setThreadAt_cxlPopulated (s : State) (k : Nat) (t : Thread) : (s.setThreadAt k t).cxlPopulated = s.cxlPopulated := rfl
@[simp] theorem setThreadAt_ethUp (s : State) (k : Nat) (t : Thread) : (s.setThreadAt k t).ethUp = s.ethUp := rfl
@[simp] theorem setThreadAt_clients (s : State) (k : Nat) (t : Thread) : (s.setThreadAt k t).clients = s.clients := rfl
@[simp] theorem setThreadAt_jobs (s : State) (k : Nat) (t : Thread) : (s.setThreadAt k t).jobs = s.jobs := rfl
@[simp] theorem setThreadAt_rings (s : State) (k : Nat) (t : Thread) : (s.setThreadAt k t).rings = s.rings := rfl
@[simp] theorem setThreadAt_tests (s : State) (k : Nat) (t : Thread) : (s.setThreadAt k t).tests = s.tests := rfl
@[simp] theorem setThreadAt_responses (s : State) (k : Nat) (t : Thread) : (s.setThreadAt k t).responses = s.responses := rfl
@[simp] theorem setThreadAt_nextFrame (s : State) (k : Nat) (t : Thread) : (s.setThreadAt k t).nextFrame = s.nextFrame := rfl
@[simp] theorem setThreadAt_mgmt (s : State) (k : Nat) (t : Thread) : (s.setThreadAt k t).mgmt = s.mgmt := rfl
@[simp] theorem setThreadAt_powered (s : State) (k : Nat) (t : Thread) : (s.setThreadAt k t).powered = s.powered := rfl
@[simp] theorem setThreadAt_throttled (s : State) (k : Nat) (t : Thread) : (s.setThreadAt k t).throttled = s.throttled := rfl
@[simp] theorem setThreadAt_hotDies (s : State) (k : Nat) (t : Thread) : (s.setThreadAt k t).hotDies = s.hotDies := rfl
@[simp] theorem setThreadAt_image (s : State) (k : Nat) (t : Thread) : (s.setThreadAt k t).image = s.image := rfl
@[simp] theorem setThreadAt_jtag (s : State) (k : Nat) (t : Thread) : (s.setThreadAt k t).jtag = s.jtag := rfl
@[simp] theorem setThreadAt_owed (s : State) (k : Nat) (t : Thread) : (s.setThreadAt k t).owed = s.owed := rfl
@[simp] theorem setThreadAt_cycle (s : State) (k : Nat) (t : Thread) : (s.setThreadAt k t).cycle = s.cycle := rfl
@[simp] theorem setThreadAt_plan (s : State) (k : Nat) (t : Thread) : (s.setThreadAt k t).plan = s.plan := rfl
@[simp] theorem setThreadAt_agenda (s : State) (k : Nat) (t : Thread) : (s.setThreadAt k t).agenda = s.agenda := rfl
@[simp] theorem setThreadAt_defer (s : State) (k : Nat) (t : Thread) : (s.setThreadAt k t).defer = s.defer := rfl
@[simp] theorem setThreadAt_curCore (s : State) (k : Nat) (t : Thread) : (s.setThreadAt k t).curCore = s.curCore := rfl
@[simp] theorem setThreadAt_curTid (s : State) (k : Nat) (t : Thread) : (s.setThreadAt k t).curTid = s.curTid := rfl
@[simp] theorem setThreadAt_free (s : State) (k : Nat) (t : Thread) : (s.setThreadAt k t).free = s.free := rfl
@[simp] theorem setThreadAt_upsets (s : State) (k : Nat) (t : Thread) : (s.setThreadAt k t).upsets = s.upsets := rfl

@[simp] theorem setThread_mem (s : State) (core tid : Nat) (t : Thread) : (s.setThread core tid t).mem = s.mem := rfl
@[simp] theorem setThread_poison (s : State) (core tid : Nat) (t : Thread) : (s.setThread core tid t).poison = s.poison := rfl
@[simp] theorem setThread_tags (s : State) (core tid : Nat) (t : Thread) : (s.setThread core tid t).tags = s.tags := rfl
@[simp] theorem setThread_blurred (s : State) (core tid : Nat) (t : Thread) : (s.setThread core tid t).blurred = s.blurred := rfl
@[simp] theorem setThread_sramPoison (s : State) (core tid : Nat) (t : Thread) : (s.setThread core tid t).sramPoison = s.sramPoison := rfl
@[simp] theorem setThread_inbox (s : State) (core tid : Nat) (t : Thread) : (s.setThread core tid t).inbox = s.inbox := rfl
@[simp] theorem setThread_linkWaits (s : State) (core tid : Nat) (t : Thread) : (s.setThread core tid t).linkWaits = s.linkWaits := rfl
@[simp] theorem setThread_pathWaits (s : State) (core tid : Nat) (t : Thread) : (s.setThread core tid t).pathWaits = s.pathWaits := rfl
@[simp] theorem setThread_booting (s : State) (core tid : Nat) (t : Thread) : (s.setThread core tid t).booting = s.booting := rfl
@[simp] theorem setThread_admitted (s : State) (core tid : Nat) (t : Thread) : (s.setThread core tid t).admitted = s.admitted := rfl
@[simp] theorem setThread_cores (s : State) (core tid : Nat) (t : Thread) : (s.setThread core tid t).cores = s.cores := rfl
@[simp] theorem setThread_clusters (s : State) (core tid : Nat) (t : Thread) : (s.setThread core tid t).clusters = s.clusters := rfl
@[simp] theorem setThread_dies (s : State) (core tid : Nat) (t : Thread) : (s.setThread core tid t).dies = s.dies := rfl
@[simp] theorem setThread_nodes (s : State) (core tid : Nat) (t : Thread) : (s.setThread core tid t).nodes = s.nodes := rfl
@[simp] theorem setThread_nodeGen (s : State) (core tid : Nat) (t : Thread) : (s.setThread core tid t).nodeGen = s.nodeGen := rfl
@[simp] theorem setThread_mappings (s : State) (core tid : Nat) (t : Thread) : (s.setThread core tid t).mappings = s.mappings := rfl
@[simp] theorem setThread_graphs (s : State) (core tid : Nat) (t : Thread) : (s.setThread core tid t).graphs = s.graphs := rfl
@[simp] theorem setThread_insts (s : State) (core tid : Nat) (t : Thread) : (s.setThread core tid t).insts = s.insts := rfl
@[simp] theorem setThread_nextGraph (s : State) (core tid : Nat) (t : Thread) : (s.setThread core tid t).nextGraph = s.nextGraph := rfl
@[simp] theorem setThread_stamp (s : State) (core tid : Nat) (t : Thread) : (s.setThread core tid t).stamp = s.stamp := rfl
@[simp] theorem setThread_pkgChans (s : State) (core tid : Nat) (t : Thread) : (s.setThread core tid t).pkgChans = s.pkgChans := rfl
@[simp] theorem setThread_pkgHolder (s : State) (core tid : Nat) (t : Thread) : (s.setThread core tid t).pkgHolder = s.pkgHolder := rfl
@[simp] theorem setThread_checkpoints (s : State) (core tid : Nat) (t : Thread) : (s.setThread core tid t).checkpoints = s.checkpoints := rfl
@[simp] theorem setThread_xblocks (s : State) (core tid : Nat) (t : Thread) : (s.setThread core tid t).xblocks = s.xblocks := rfl
@[simp] theorem setThread_drFlights (s : State) (core tid : Nat) (t : Thread) : (s.setThread core tid t).drFlights = s.drFlights := rfl
@[simp] theorem setThread_flights (s : State) (core tid : Nat) (t : Thread) : (s.setThread core tid t).flights = s.flights := rfl
@[simp] theorem setThread_groupsDown (s : State) (core tid : Nat) (t : Thread) : (s.setThread core tid t).groupsDown = s.groupsDown := rfl
@[simp] theorem setThread_cxlUp (s : State) (core tid : Nat) (t : Thread) : (s.setThread core tid t).cxlUp = s.cxlUp := rfl
@[simp] theorem setThread_cxlPopulated (s : State) (core tid : Nat) (t : Thread) : (s.setThread core tid t).cxlPopulated = s.cxlPopulated := rfl
@[simp] theorem setThread_ethUp (s : State) (core tid : Nat) (t : Thread) : (s.setThread core tid t).ethUp = s.ethUp := rfl
@[simp] theorem setThread_clients (s : State) (core tid : Nat) (t : Thread) : (s.setThread core tid t).clients = s.clients := rfl
@[simp] theorem setThread_jobs (s : State) (core tid : Nat) (t : Thread) : (s.setThread core tid t).jobs = s.jobs := rfl
@[simp] theorem setThread_rings (s : State) (core tid : Nat) (t : Thread) : (s.setThread core tid t).rings = s.rings := rfl
@[simp] theorem setThread_tests (s : State) (core tid : Nat) (t : Thread) : (s.setThread core tid t).tests = s.tests := rfl
@[simp] theorem setThread_responses (s : State) (core tid : Nat) (t : Thread) : (s.setThread core tid t).responses = s.responses := rfl
@[simp] theorem setThread_nextFrame (s : State) (core tid : Nat) (t : Thread) : (s.setThread core tid t).nextFrame = s.nextFrame := rfl
@[simp] theorem setThread_mgmt (s : State) (core tid : Nat) (t : Thread) : (s.setThread core tid t).mgmt = s.mgmt := rfl
@[simp] theorem setThread_powered (s : State) (core tid : Nat) (t : Thread) : (s.setThread core tid t).powered = s.powered := rfl
@[simp] theorem setThread_throttled (s : State) (core tid : Nat) (t : Thread) : (s.setThread core tid t).throttled = s.throttled := rfl
@[simp] theorem setThread_hotDies (s : State) (core tid : Nat) (t : Thread) : (s.setThread core tid t).hotDies = s.hotDies := rfl
@[simp] theorem setThread_image (s : State) (core tid : Nat) (t : Thread) : (s.setThread core tid t).image = s.image := rfl
@[simp] theorem setThread_jtag (s : State) (core tid : Nat) (t : Thread) : (s.setThread core tid t).jtag = s.jtag := rfl
@[simp] theorem setThread_owed (s : State) (core tid : Nat) (t : Thread) : (s.setThread core tid t).owed = s.owed := rfl
@[simp] theorem setThread_cycle (s : State) (core tid : Nat) (t : Thread) : (s.setThread core tid t).cycle = s.cycle := rfl
@[simp] theorem setThread_plan (s : State) (core tid : Nat) (t : Thread) : (s.setThread core tid t).plan = s.plan := rfl
@[simp] theorem setThread_agenda (s : State) (core tid : Nat) (t : Thread) : (s.setThread core tid t).agenda = s.agenda := rfl
@[simp] theorem setThread_defer (s : State) (core tid : Nat) (t : Thread) : (s.setThread core tid t).defer = s.defer := rfl
@[simp] theorem setThread_curCore (s : State) (core tid : Nat) (t : Thread) : (s.setThread core tid t).curCore = s.curCore := rfl
@[simp] theorem setThread_curTid (s : State) (core tid : Nat) (t : Thread) : (s.setThread core tid t).curTid = s.curTid := rfl
@[simp] theorem setThread_free (s : State) (core tid : Nat) (t : Thread) : (s.setThread core tid t).free = s.free := rfl
@[simp] theorem setThread_upsets (s : State) (core tid : Nat) (t : Thread) : (s.setThread core tid t).upsets = s.upsets := rfl

@[simp] theorem setMe_mem (s : State) (t : Thread) : (s.setMe t).mem = s.mem := rfl
@[simp] theorem setMe_poison (s : State) (t : Thread) : (s.setMe t).poison = s.poison := rfl
@[simp] theorem setMe_tags (s : State) (t : Thread) : (s.setMe t).tags = s.tags := rfl
@[simp] theorem setMe_blurred (s : State) (t : Thread) : (s.setMe t).blurred = s.blurred := rfl
@[simp] theorem setMe_sramPoison (s : State) (t : Thread) : (s.setMe t).sramPoison = s.sramPoison := rfl
@[simp] theorem setMe_inbox (s : State) (t : Thread) : (s.setMe t).inbox = s.inbox := rfl
@[simp] theorem setMe_linkWaits (s : State) (t : Thread) : (s.setMe t).linkWaits = s.linkWaits := rfl
@[simp] theorem setMe_pathWaits (s : State) (t : Thread) : (s.setMe t).pathWaits = s.pathWaits := rfl
@[simp] theorem setMe_booting (s : State) (t : Thread) : (s.setMe t).booting = s.booting := rfl
@[simp] theorem setMe_admitted (s : State) (t : Thread) : (s.setMe t).admitted = s.admitted := rfl
@[simp] theorem setMe_cores (s : State) (t : Thread) : (s.setMe t).cores = s.cores := rfl
@[simp] theorem setMe_clusters (s : State) (t : Thread) : (s.setMe t).clusters = s.clusters := rfl
@[simp] theorem setMe_dies (s : State) (t : Thread) : (s.setMe t).dies = s.dies := rfl
@[simp] theorem setMe_nodes (s : State) (t : Thread) : (s.setMe t).nodes = s.nodes := rfl
@[simp] theorem setMe_nodeGen (s : State) (t : Thread) : (s.setMe t).nodeGen = s.nodeGen := rfl
@[simp] theorem setMe_mappings (s : State) (t : Thread) : (s.setMe t).mappings = s.mappings := rfl
@[simp] theorem setMe_graphs (s : State) (t : Thread) : (s.setMe t).graphs = s.graphs := rfl
@[simp] theorem setMe_insts (s : State) (t : Thread) : (s.setMe t).insts = s.insts := rfl
@[simp] theorem setMe_nextGraph (s : State) (t : Thread) : (s.setMe t).nextGraph = s.nextGraph := rfl
@[simp] theorem setMe_stamp (s : State) (t : Thread) : (s.setMe t).stamp = s.stamp := rfl
@[simp] theorem setMe_pkgChans (s : State) (t : Thread) : (s.setMe t).pkgChans = s.pkgChans := rfl
@[simp] theorem setMe_pkgHolder (s : State) (t : Thread) : (s.setMe t).pkgHolder = s.pkgHolder := rfl
@[simp] theorem setMe_checkpoints (s : State) (t : Thread) : (s.setMe t).checkpoints = s.checkpoints := rfl
@[simp] theorem setMe_xblocks (s : State) (t : Thread) : (s.setMe t).xblocks = s.xblocks := rfl
@[simp] theorem setMe_drFlights (s : State) (t : Thread) : (s.setMe t).drFlights = s.drFlights := rfl
@[simp] theorem setMe_flights (s : State) (t : Thread) : (s.setMe t).flights = s.flights := rfl
@[simp] theorem setMe_groupsDown (s : State) (t : Thread) : (s.setMe t).groupsDown = s.groupsDown := rfl
@[simp] theorem setMe_cxlUp (s : State) (t : Thread) : (s.setMe t).cxlUp = s.cxlUp := rfl
@[simp] theorem setMe_cxlPopulated (s : State) (t : Thread) : (s.setMe t).cxlPopulated = s.cxlPopulated := rfl
@[simp] theorem setMe_ethUp (s : State) (t : Thread) : (s.setMe t).ethUp = s.ethUp := rfl
@[simp] theorem setMe_clients (s : State) (t : Thread) : (s.setMe t).clients = s.clients := rfl
@[simp] theorem setMe_jobs (s : State) (t : Thread) : (s.setMe t).jobs = s.jobs := rfl
@[simp] theorem setMe_rings (s : State) (t : Thread) : (s.setMe t).rings = s.rings := rfl
@[simp] theorem setMe_tests (s : State) (t : Thread) : (s.setMe t).tests = s.tests := rfl
@[simp] theorem setMe_responses (s : State) (t : Thread) : (s.setMe t).responses = s.responses := rfl
@[simp] theorem setMe_nextFrame (s : State) (t : Thread) : (s.setMe t).nextFrame = s.nextFrame := rfl
@[simp] theorem setMe_mgmt (s : State) (t : Thread) : (s.setMe t).mgmt = s.mgmt := rfl
@[simp] theorem setMe_powered (s : State) (t : Thread) : (s.setMe t).powered = s.powered := rfl
@[simp] theorem setMe_throttled (s : State) (t : Thread) : (s.setMe t).throttled = s.throttled := rfl
@[simp] theorem setMe_hotDies (s : State) (t : Thread) : (s.setMe t).hotDies = s.hotDies := rfl
@[simp] theorem setMe_image (s : State) (t : Thread) : (s.setMe t).image = s.image := rfl
@[simp] theorem setMe_jtag (s : State) (t : Thread) : (s.setMe t).jtag = s.jtag := rfl
@[simp] theorem setMe_owed (s : State) (t : Thread) : (s.setMe t).owed = s.owed := rfl
@[simp] theorem setMe_cycle (s : State) (t : Thread) : (s.setMe t).cycle = s.cycle := rfl
@[simp] theorem setMe_plan (s : State) (t : Thread) : (s.setMe t).plan = s.plan := rfl
@[simp] theorem setMe_agenda (s : State) (t : Thread) : (s.setMe t).agenda = s.agenda := rfl
@[simp] theorem setMe_defer (s : State) (t : Thread) : (s.setMe t).defer = s.defer := rfl
@[simp] theorem setMe_curCore (s : State) (t : Thread) : (s.setMe t).curCore = s.curCore := rfl
@[simp] theorem setMe_curTid (s : State) (t : Thread) : (s.setMe t).curTid = s.curTid := rfl
@[simp] theorem setMe_free (s : State) (t : Thread) : (s.setMe t).free = s.free := rfl
@[simp] theorem setMe_upsets (s : State) (t : Thread) : (s.setMe t).upsets = s.upsets := rfl

@[simp] theorem setCore_mem (s : State) (k : Nat) (c : Core) : (s.setCore k c).mem = s.mem := rfl
@[simp] theorem setCore_poison (s : State) (k : Nat) (c : Core) : (s.setCore k c).poison = s.poison := rfl
@[simp] theorem setCore_tags (s : State) (k : Nat) (c : Core) : (s.setCore k c).tags = s.tags := rfl
@[simp] theorem setCore_blurred (s : State) (k : Nat) (c : Core) : (s.setCore k c).blurred = s.blurred := rfl
@[simp] theorem setCore_sramPoison (s : State) (k : Nat) (c : Core) : (s.setCore k c).sramPoison = s.sramPoison := rfl
@[simp] theorem setCore_inbox (s : State) (k : Nat) (c : Core) : (s.setCore k c).inbox = s.inbox := rfl
@[simp] theorem setCore_linkWaits (s : State) (k : Nat) (c : Core) : (s.setCore k c).linkWaits = s.linkWaits := rfl
@[simp] theorem setCore_pathWaits (s : State) (k : Nat) (c : Core) : (s.setCore k c).pathWaits = s.pathWaits := rfl
@[simp] theorem setCore_booting (s : State) (k : Nat) (c : Core) : (s.setCore k c).booting = s.booting := rfl
@[simp] theorem setCore_admitted (s : State) (k : Nat) (c : Core) : (s.setCore k c).admitted = s.admitted := rfl
@[simp] theorem setCore_threads (s : State) (k : Nat) (c : Core) : (s.setCore k c).threads = s.threads := rfl
@[simp] theorem setCore_clusters (s : State) (k : Nat) (c : Core) : (s.setCore k c).clusters = s.clusters := rfl
@[simp] theorem setCore_dies (s : State) (k : Nat) (c : Core) : (s.setCore k c).dies = s.dies := rfl
@[simp] theorem setCore_nodes (s : State) (k : Nat) (c : Core) : (s.setCore k c).nodes = s.nodes := rfl
@[simp] theorem setCore_nodeGen (s : State) (k : Nat) (c : Core) : (s.setCore k c).nodeGen = s.nodeGen := rfl
@[simp] theorem setCore_mappings (s : State) (k : Nat) (c : Core) : (s.setCore k c).mappings = s.mappings := rfl
@[simp] theorem setCore_graphs (s : State) (k : Nat) (c : Core) : (s.setCore k c).graphs = s.graphs := rfl
@[simp] theorem setCore_insts (s : State) (k : Nat) (c : Core) : (s.setCore k c).insts = s.insts := rfl
@[simp] theorem setCore_nextGraph (s : State) (k : Nat) (c : Core) : (s.setCore k c).nextGraph = s.nextGraph := rfl
@[simp] theorem setCore_stamp (s : State) (k : Nat) (c : Core) : (s.setCore k c).stamp = s.stamp := rfl
@[simp] theorem setCore_pkgChans (s : State) (k : Nat) (c : Core) : (s.setCore k c).pkgChans = s.pkgChans := rfl
@[simp] theorem setCore_pkgHolder (s : State) (k : Nat) (c : Core) : (s.setCore k c).pkgHolder = s.pkgHolder := rfl
@[simp] theorem setCore_checkpoints (s : State) (k : Nat) (c : Core) : (s.setCore k c).checkpoints = s.checkpoints := rfl
@[simp] theorem setCore_xblocks (s : State) (k : Nat) (c : Core) : (s.setCore k c).xblocks = s.xblocks := rfl
@[simp] theorem setCore_drFlights (s : State) (k : Nat) (c : Core) : (s.setCore k c).drFlights = s.drFlights := rfl
@[simp] theorem setCore_flights (s : State) (k : Nat) (c : Core) : (s.setCore k c).flights = s.flights := rfl
@[simp] theorem setCore_groupsDown (s : State) (k : Nat) (c : Core) : (s.setCore k c).groupsDown = s.groupsDown := rfl
@[simp] theorem setCore_cxlUp (s : State) (k : Nat) (c : Core) : (s.setCore k c).cxlUp = s.cxlUp := rfl
@[simp] theorem setCore_cxlPopulated (s : State) (k : Nat) (c : Core) : (s.setCore k c).cxlPopulated = s.cxlPopulated := rfl
@[simp] theorem setCore_ethUp (s : State) (k : Nat) (c : Core) : (s.setCore k c).ethUp = s.ethUp := rfl
@[simp] theorem setCore_clients (s : State) (k : Nat) (c : Core) : (s.setCore k c).clients = s.clients := rfl
@[simp] theorem setCore_jobs (s : State) (k : Nat) (c : Core) : (s.setCore k c).jobs = s.jobs := rfl
@[simp] theorem setCore_rings (s : State) (k : Nat) (c : Core) : (s.setCore k c).rings = s.rings := rfl
@[simp] theorem setCore_tests (s : State) (k : Nat) (c : Core) : (s.setCore k c).tests = s.tests := rfl
@[simp] theorem setCore_responses (s : State) (k : Nat) (c : Core) : (s.setCore k c).responses = s.responses := rfl
@[simp] theorem setCore_nextFrame (s : State) (k : Nat) (c : Core) : (s.setCore k c).nextFrame = s.nextFrame := rfl
@[simp] theorem setCore_mgmt (s : State) (k : Nat) (c : Core) : (s.setCore k c).mgmt = s.mgmt := rfl
@[simp] theorem setCore_powered (s : State) (k : Nat) (c : Core) : (s.setCore k c).powered = s.powered := rfl
@[simp] theorem setCore_throttled (s : State) (k : Nat) (c : Core) : (s.setCore k c).throttled = s.throttled := rfl
@[simp] theorem setCore_hotDies (s : State) (k : Nat) (c : Core) : (s.setCore k c).hotDies = s.hotDies := rfl
@[simp] theorem setCore_image (s : State) (k : Nat) (c : Core) : (s.setCore k c).image = s.image := rfl
@[simp] theorem setCore_jtag (s : State) (k : Nat) (c : Core) : (s.setCore k c).jtag = s.jtag := rfl
@[simp] theorem setCore_owed (s : State) (k : Nat) (c : Core) : (s.setCore k c).owed = s.owed := rfl
@[simp] theorem setCore_cycle (s : State) (k : Nat) (c : Core) : (s.setCore k c).cycle = s.cycle := rfl
@[simp] theorem setCore_plan (s : State) (k : Nat) (c : Core) : (s.setCore k c).plan = s.plan := rfl
@[simp] theorem setCore_agenda (s : State) (k : Nat) (c : Core) : (s.setCore k c).agenda = s.agenda := rfl
@[simp] theorem setCore_defer (s : State) (k : Nat) (c : Core) : (s.setCore k c).defer = s.defer := rfl
@[simp] theorem setCore_curCore (s : State) (k : Nat) (c : Core) : (s.setCore k c).curCore = s.curCore := rfl
@[simp] theorem setCore_curTid (s : State) (k : Nat) (c : Core) : (s.setCore k c).curTid = s.curTid := rfl
@[simp] theorem setCore_free (s : State) (k : Nat) (c : Core) : (s.setCore k c).free = s.free := rfl
@[simp] theorem setCore_upsets (s : State) (k : Nat) (c : Core) : (s.setCore k c).upsets = s.upsets := rfl

@[simp] theorem setMyCore_mem (s : State) (c : Core) : (s.setMyCore c).mem = s.mem := rfl
@[simp] theorem setMyCore_poison (s : State) (c : Core) : (s.setMyCore c).poison = s.poison := rfl
@[simp] theorem setMyCore_tags (s : State) (c : Core) : (s.setMyCore c).tags = s.tags := rfl
@[simp] theorem setMyCore_blurred (s : State) (c : Core) : (s.setMyCore c).blurred = s.blurred := rfl
@[simp] theorem setMyCore_sramPoison (s : State) (c : Core) : (s.setMyCore c).sramPoison = s.sramPoison := rfl
@[simp] theorem setMyCore_inbox (s : State) (c : Core) : (s.setMyCore c).inbox = s.inbox := rfl
@[simp] theorem setMyCore_linkWaits (s : State) (c : Core) : (s.setMyCore c).linkWaits = s.linkWaits := rfl
@[simp] theorem setMyCore_pathWaits (s : State) (c : Core) : (s.setMyCore c).pathWaits = s.pathWaits := rfl
@[simp] theorem setMyCore_booting (s : State) (c : Core) : (s.setMyCore c).booting = s.booting := rfl
@[simp] theorem setMyCore_admitted (s : State) (c : Core) : (s.setMyCore c).admitted = s.admitted := rfl
@[simp] theorem setMyCore_threads (s : State) (c : Core) : (s.setMyCore c).threads = s.threads := rfl
@[simp] theorem setMyCore_clusters (s : State) (c : Core) : (s.setMyCore c).clusters = s.clusters := rfl
@[simp] theorem setMyCore_dies (s : State) (c : Core) : (s.setMyCore c).dies = s.dies := rfl
@[simp] theorem setMyCore_nodes (s : State) (c : Core) : (s.setMyCore c).nodes = s.nodes := rfl
@[simp] theorem setMyCore_nodeGen (s : State) (c : Core) : (s.setMyCore c).nodeGen = s.nodeGen := rfl
@[simp] theorem setMyCore_mappings (s : State) (c : Core) : (s.setMyCore c).mappings = s.mappings := rfl
@[simp] theorem setMyCore_graphs (s : State) (c : Core) : (s.setMyCore c).graphs = s.graphs := rfl
@[simp] theorem setMyCore_insts (s : State) (c : Core) : (s.setMyCore c).insts = s.insts := rfl
@[simp] theorem setMyCore_nextGraph (s : State) (c : Core) : (s.setMyCore c).nextGraph = s.nextGraph := rfl
@[simp] theorem setMyCore_stamp (s : State) (c : Core) : (s.setMyCore c).stamp = s.stamp := rfl
@[simp] theorem setMyCore_pkgChans (s : State) (c : Core) : (s.setMyCore c).pkgChans = s.pkgChans := rfl
@[simp] theorem setMyCore_pkgHolder (s : State) (c : Core) : (s.setMyCore c).pkgHolder = s.pkgHolder := rfl
@[simp] theorem setMyCore_checkpoints (s : State) (c : Core) : (s.setMyCore c).checkpoints = s.checkpoints := rfl
@[simp] theorem setMyCore_xblocks (s : State) (c : Core) : (s.setMyCore c).xblocks = s.xblocks := rfl
@[simp] theorem setMyCore_drFlights (s : State) (c : Core) : (s.setMyCore c).drFlights = s.drFlights := rfl
@[simp] theorem setMyCore_flights (s : State) (c : Core) : (s.setMyCore c).flights = s.flights := rfl
@[simp] theorem setMyCore_groupsDown (s : State) (c : Core) : (s.setMyCore c).groupsDown = s.groupsDown := rfl
@[simp] theorem setMyCore_cxlUp (s : State) (c : Core) : (s.setMyCore c).cxlUp = s.cxlUp := rfl
@[simp] theorem setMyCore_cxlPopulated (s : State) (c : Core) : (s.setMyCore c).cxlPopulated = s.cxlPopulated := rfl
@[simp] theorem setMyCore_ethUp (s : State) (c : Core) : (s.setMyCore c).ethUp = s.ethUp := rfl
@[simp] theorem setMyCore_clients (s : State) (c : Core) : (s.setMyCore c).clients = s.clients := rfl
@[simp] theorem setMyCore_jobs (s : State) (c : Core) : (s.setMyCore c).jobs = s.jobs := rfl
@[simp] theorem setMyCore_rings (s : State) (c : Core) : (s.setMyCore c).rings = s.rings := rfl
@[simp] theorem setMyCore_tests (s : State) (c : Core) : (s.setMyCore c).tests = s.tests := rfl
@[simp] theorem setMyCore_responses (s : State) (c : Core) : (s.setMyCore c).responses = s.responses := rfl
@[simp] theorem setMyCore_nextFrame (s : State) (c : Core) : (s.setMyCore c).nextFrame = s.nextFrame := rfl
@[simp] theorem setMyCore_mgmt (s : State) (c : Core) : (s.setMyCore c).mgmt = s.mgmt := rfl
@[simp] theorem setMyCore_powered (s : State) (c : Core) : (s.setMyCore c).powered = s.powered := rfl
@[simp] theorem setMyCore_throttled (s : State) (c : Core) : (s.setMyCore c).throttled = s.throttled := rfl
@[simp] theorem setMyCore_hotDies (s : State) (c : Core) : (s.setMyCore c).hotDies = s.hotDies := rfl
@[simp] theorem setMyCore_image (s : State) (c : Core) : (s.setMyCore c).image = s.image := rfl
@[simp] theorem setMyCore_jtag (s : State) (c : Core) : (s.setMyCore c).jtag = s.jtag := rfl
@[simp] theorem setMyCore_owed (s : State) (c : Core) : (s.setMyCore c).owed = s.owed := rfl
@[simp] theorem setMyCore_cycle (s : State) (c : Core) : (s.setMyCore c).cycle = s.cycle := rfl
@[simp] theorem setMyCore_plan (s : State) (c : Core) : (s.setMyCore c).plan = s.plan := rfl
@[simp] theorem setMyCore_agenda (s : State) (c : Core) : (s.setMyCore c).agenda = s.agenda := rfl
@[simp] theorem setMyCore_defer (s : State) (c : Core) : (s.setMyCore c).defer = s.defer := rfl
@[simp] theorem setMyCore_curCore (s : State) (c : Core) : (s.setMyCore c).curCore = s.curCore := rfl
@[simp] theorem setMyCore_curTid (s : State) (c : Core) : (s.setMyCore c).curTid = s.curTid := rfl
@[simp] theorem setMyCore_free (s : State) (c : Core) : (s.setMyCore c).free = s.free := rfl
@[simp] theorem setMyCore_upsets (s : State) (c : Core) : (s.setMyCore c).upsets = s.upsets := rfl

@[simp] theorem setCluster_mem (s : State) (k : Nat) (c : Cluster) : (s.setCluster k c).mem = s.mem := rfl
@[simp] theorem setCluster_poison (s : State) (k : Nat) (c : Cluster) : (s.setCluster k c).poison = s.poison := rfl
@[simp] theorem setCluster_tags (s : State) (k : Nat) (c : Cluster) : (s.setCluster k c).tags = s.tags := rfl
@[simp] theorem setCluster_blurred (s : State) (k : Nat) (c : Cluster) : (s.setCluster k c).blurred = s.blurred := rfl
@[simp] theorem setCluster_sramPoison (s : State) (k : Nat) (c : Cluster) : (s.setCluster k c).sramPoison = s.sramPoison := rfl
@[simp] theorem setCluster_inbox (s : State) (k : Nat) (c : Cluster) : (s.setCluster k c).inbox = s.inbox := rfl
@[simp] theorem setCluster_linkWaits (s : State) (k : Nat) (c : Cluster) : (s.setCluster k c).linkWaits = s.linkWaits := rfl
@[simp] theorem setCluster_pathWaits (s : State) (k : Nat) (c : Cluster) : (s.setCluster k c).pathWaits = s.pathWaits := rfl
@[simp] theorem setCluster_booting (s : State) (k : Nat) (c : Cluster) : (s.setCluster k c).booting = s.booting := rfl
@[simp] theorem setCluster_admitted (s : State) (k : Nat) (c : Cluster) : (s.setCluster k c).admitted = s.admitted := rfl
@[simp] theorem setCluster_threads (s : State) (k : Nat) (c : Cluster) : (s.setCluster k c).threads = s.threads := rfl
@[simp] theorem setCluster_cores (s : State) (k : Nat) (c : Cluster) : (s.setCluster k c).cores = s.cores := rfl
@[simp] theorem setCluster_dies (s : State) (k : Nat) (c : Cluster) : (s.setCluster k c).dies = s.dies := rfl
@[simp] theorem setCluster_nodes (s : State) (k : Nat) (c : Cluster) : (s.setCluster k c).nodes = s.nodes := rfl
@[simp] theorem setCluster_nodeGen (s : State) (k : Nat) (c : Cluster) : (s.setCluster k c).nodeGen = s.nodeGen := rfl
@[simp] theorem setCluster_mappings (s : State) (k : Nat) (c : Cluster) : (s.setCluster k c).mappings = s.mappings := rfl
@[simp] theorem setCluster_graphs (s : State) (k : Nat) (c : Cluster) : (s.setCluster k c).graphs = s.graphs := rfl
@[simp] theorem setCluster_insts (s : State) (k : Nat) (c : Cluster) : (s.setCluster k c).insts = s.insts := rfl
@[simp] theorem setCluster_nextGraph (s : State) (k : Nat) (c : Cluster) : (s.setCluster k c).nextGraph = s.nextGraph := rfl
@[simp] theorem setCluster_stamp (s : State) (k : Nat) (c : Cluster) : (s.setCluster k c).stamp = s.stamp := rfl
@[simp] theorem setCluster_pkgChans (s : State) (k : Nat) (c : Cluster) : (s.setCluster k c).pkgChans = s.pkgChans := rfl
@[simp] theorem setCluster_pkgHolder (s : State) (k : Nat) (c : Cluster) : (s.setCluster k c).pkgHolder = s.pkgHolder := rfl
@[simp] theorem setCluster_checkpoints (s : State) (k : Nat) (c : Cluster) : (s.setCluster k c).checkpoints = s.checkpoints := rfl
@[simp] theorem setCluster_xblocks (s : State) (k : Nat) (c : Cluster) : (s.setCluster k c).xblocks = s.xblocks := rfl
@[simp] theorem setCluster_drFlights (s : State) (k : Nat) (c : Cluster) : (s.setCluster k c).drFlights = s.drFlights := rfl
@[simp] theorem setCluster_flights (s : State) (k : Nat) (c : Cluster) : (s.setCluster k c).flights = s.flights := rfl
@[simp] theorem setCluster_groupsDown (s : State) (k : Nat) (c : Cluster) : (s.setCluster k c).groupsDown = s.groupsDown := rfl
@[simp] theorem setCluster_cxlUp (s : State) (k : Nat) (c : Cluster) : (s.setCluster k c).cxlUp = s.cxlUp := rfl
@[simp] theorem setCluster_cxlPopulated (s : State) (k : Nat) (c : Cluster) : (s.setCluster k c).cxlPopulated = s.cxlPopulated := rfl
@[simp] theorem setCluster_ethUp (s : State) (k : Nat) (c : Cluster) : (s.setCluster k c).ethUp = s.ethUp := rfl
@[simp] theorem setCluster_clients (s : State) (k : Nat) (c : Cluster) : (s.setCluster k c).clients = s.clients := rfl
@[simp] theorem setCluster_jobs (s : State) (k : Nat) (c : Cluster) : (s.setCluster k c).jobs = s.jobs := rfl
@[simp] theorem setCluster_rings (s : State) (k : Nat) (c : Cluster) : (s.setCluster k c).rings = s.rings := rfl
@[simp] theorem setCluster_tests (s : State) (k : Nat) (c : Cluster) : (s.setCluster k c).tests = s.tests := rfl
@[simp] theorem setCluster_responses (s : State) (k : Nat) (c : Cluster) : (s.setCluster k c).responses = s.responses := rfl
@[simp] theorem setCluster_nextFrame (s : State) (k : Nat) (c : Cluster) : (s.setCluster k c).nextFrame = s.nextFrame := rfl
@[simp] theorem setCluster_mgmt (s : State) (k : Nat) (c : Cluster) : (s.setCluster k c).mgmt = s.mgmt := rfl
@[simp] theorem setCluster_powered (s : State) (k : Nat) (c : Cluster) : (s.setCluster k c).powered = s.powered := rfl
@[simp] theorem setCluster_throttled (s : State) (k : Nat) (c : Cluster) : (s.setCluster k c).throttled = s.throttled := rfl
@[simp] theorem setCluster_hotDies (s : State) (k : Nat) (c : Cluster) : (s.setCluster k c).hotDies = s.hotDies := rfl
@[simp] theorem setCluster_image (s : State) (k : Nat) (c : Cluster) : (s.setCluster k c).image = s.image := rfl
@[simp] theorem setCluster_jtag (s : State) (k : Nat) (c : Cluster) : (s.setCluster k c).jtag = s.jtag := rfl
@[simp] theorem setCluster_owed (s : State) (k : Nat) (c : Cluster) : (s.setCluster k c).owed = s.owed := rfl
@[simp] theorem setCluster_cycle (s : State) (k : Nat) (c : Cluster) : (s.setCluster k c).cycle = s.cycle := rfl
@[simp] theorem setCluster_plan (s : State) (k : Nat) (c : Cluster) : (s.setCluster k c).plan = s.plan := rfl
@[simp] theorem setCluster_agenda (s : State) (k : Nat) (c : Cluster) : (s.setCluster k c).agenda = s.agenda := rfl
@[simp] theorem setCluster_defer (s : State) (k : Nat) (c : Cluster) : (s.setCluster k c).defer = s.defer := rfl
@[simp] theorem setCluster_curCore (s : State) (k : Nat) (c : Cluster) : (s.setCluster k c).curCore = s.curCore := rfl
@[simp] theorem setCluster_curTid (s : State) (k : Nat) (c : Cluster) : (s.setCluster k c).curTid = s.curTid := rfl
@[simp] theorem setCluster_free (s : State) (k : Nat) (c : Cluster) : (s.setCluster k c).free = s.free := rfl
@[simp] theorem setCluster_upsets (s : State) (k : Nat) (c : Cluster) : (s.setCluster k c).upsets = s.upsets := rfl

@[simp] theorem setDie_mem (s : State) (k : Nat) (d : Die) : (s.setDie k d).mem = s.mem := rfl
@[simp] theorem setDie_poison (s : State) (k : Nat) (d : Die) : (s.setDie k d).poison = s.poison := rfl
@[simp] theorem setDie_tags (s : State) (k : Nat) (d : Die) : (s.setDie k d).tags = s.tags := rfl
@[simp] theorem setDie_blurred (s : State) (k : Nat) (d : Die) : (s.setDie k d).blurred = s.blurred := rfl
@[simp] theorem setDie_sramPoison (s : State) (k : Nat) (d : Die) : (s.setDie k d).sramPoison = s.sramPoison := rfl
@[simp] theorem setDie_inbox (s : State) (k : Nat) (d : Die) : (s.setDie k d).inbox = s.inbox := rfl
@[simp] theorem setDie_linkWaits (s : State) (k : Nat) (d : Die) : (s.setDie k d).linkWaits = s.linkWaits := rfl
@[simp] theorem setDie_pathWaits (s : State) (k : Nat) (d : Die) : (s.setDie k d).pathWaits = s.pathWaits := rfl
@[simp] theorem setDie_booting (s : State) (k : Nat) (d : Die) : (s.setDie k d).booting = s.booting := rfl
@[simp] theorem setDie_admitted (s : State) (k : Nat) (d : Die) : (s.setDie k d).admitted = s.admitted := rfl
@[simp] theorem setDie_threads (s : State) (k : Nat) (d : Die) : (s.setDie k d).threads = s.threads := rfl
@[simp] theorem setDie_cores (s : State) (k : Nat) (d : Die) : (s.setDie k d).cores = s.cores := rfl
@[simp] theorem setDie_clusters (s : State) (k : Nat) (d : Die) : (s.setDie k d).clusters = s.clusters := rfl
@[simp] theorem setDie_nodes (s : State) (k : Nat) (d : Die) : (s.setDie k d).nodes = s.nodes := rfl
@[simp] theorem setDie_nodeGen (s : State) (k : Nat) (d : Die) : (s.setDie k d).nodeGen = s.nodeGen := rfl
@[simp] theorem setDie_mappings (s : State) (k : Nat) (d : Die) : (s.setDie k d).mappings = s.mappings := rfl
@[simp] theorem setDie_graphs (s : State) (k : Nat) (d : Die) : (s.setDie k d).graphs = s.graphs := rfl
@[simp] theorem setDie_insts (s : State) (k : Nat) (d : Die) : (s.setDie k d).insts = s.insts := rfl
@[simp] theorem setDie_nextGraph (s : State) (k : Nat) (d : Die) : (s.setDie k d).nextGraph = s.nextGraph := rfl
@[simp] theorem setDie_stamp (s : State) (k : Nat) (d : Die) : (s.setDie k d).stamp = s.stamp := rfl
@[simp] theorem setDie_pkgChans (s : State) (k : Nat) (d : Die) : (s.setDie k d).pkgChans = s.pkgChans := rfl
@[simp] theorem setDie_pkgHolder (s : State) (k : Nat) (d : Die) : (s.setDie k d).pkgHolder = s.pkgHolder := rfl
@[simp] theorem setDie_checkpoints (s : State) (k : Nat) (d : Die) : (s.setDie k d).checkpoints = s.checkpoints := rfl
@[simp] theorem setDie_xblocks (s : State) (k : Nat) (d : Die) : (s.setDie k d).xblocks = s.xblocks := rfl
@[simp] theorem setDie_drFlights (s : State) (k : Nat) (d : Die) : (s.setDie k d).drFlights = s.drFlights := rfl
@[simp] theorem setDie_flights (s : State) (k : Nat) (d : Die) : (s.setDie k d).flights = s.flights := rfl
@[simp] theorem setDie_groupsDown (s : State) (k : Nat) (d : Die) : (s.setDie k d).groupsDown = s.groupsDown := rfl
@[simp] theorem setDie_cxlUp (s : State) (k : Nat) (d : Die) : (s.setDie k d).cxlUp = s.cxlUp := rfl
@[simp] theorem setDie_cxlPopulated (s : State) (k : Nat) (d : Die) : (s.setDie k d).cxlPopulated = s.cxlPopulated := rfl
@[simp] theorem setDie_ethUp (s : State) (k : Nat) (d : Die) : (s.setDie k d).ethUp = s.ethUp := rfl
@[simp] theorem setDie_clients (s : State) (k : Nat) (d : Die) : (s.setDie k d).clients = s.clients := rfl
@[simp] theorem setDie_jobs (s : State) (k : Nat) (d : Die) : (s.setDie k d).jobs = s.jobs := rfl
@[simp] theorem setDie_rings (s : State) (k : Nat) (d : Die) : (s.setDie k d).rings = s.rings := rfl
@[simp] theorem setDie_tests (s : State) (k : Nat) (d : Die) : (s.setDie k d).tests = s.tests := rfl
@[simp] theorem setDie_responses (s : State) (k : Nat) (d : Die) : (s.setDie k d).responses = s.responses := rfl
@[simp] theorem setDie_nextFrame (s : State) (k : Nat) (d : Die) : (s.setDie k d).nextFrame = s.nextFrame := rfl
@[simp] theorem setDie_mgmt (s : State) (k : Nat) (d : Die) : (s.setDie k d).mgmt = s.mgmt := rfl
@[simp] theorem setDie_powered (s : State) (k : Nat) (d : Die) : (s.setDie k d).powered = s.powered := rfl
@[simp] theorem setDie_throttled (s : State) (k : Nat) (d : Die) : (s.setDie k d).throttled = s.throttled := rfl
@[simp] theorem setDie_hotDies (s : State) (k : Nat) (d : Die) : (s.setDie k d).hotDies = s.hotDies := rfl
@[simp] theorem setDie_image (s : State) (k : Nat) (d : Die) : (s.setDie k d).image = s.image := rfl
@[simp] theorem setDie_jtag (s : State) (k : Nat) (d : Die) : (s.setDie k d).jtag = s.jtag := rfl
@[simp] theorem setDie_owed (s : State) (k : Nat) (d : Die) : (s.setDie k d).owed = s.owed := rfl
@[simp] theorem setDie_cycle (s : State) (k : Nat) (d : Die) : (s.setDie k d).cycle = s.cycle := rfl
@[simp] theorem setDie_plan (s : State) (k : Nat) (d : Die) : (s.setDie k d).plan = s.plan := rfl
@[simp] theorem setDie_agenda (s : State) (k : Nat) (d : Die) : (s.setDie k d).agenda = s.agenda := rfl
@[simp] theorem setDie_defer (s : State) (k : Nat) (d : Die) : (s.setDie k d).defer = s.defer := rfl
@[simp] theorem setDie_curCore (s : State) (k : Nat) (d : Die) : (s.setDie k d).curCore = s.curCore := rfl
@[simp] theorem setDie_curTid (s : State) (k : Nat) (d : Die) : (s.setDie k d).curTid = s.curTid := rfl
@[simp] theorem setDie_free (s : State) (k : Nat) (d : Die) : (s.setDie k d).free = s.free := rfl
@[simp] theorem setDie_upsets (s : State) (k : Nat) (d : Die) : (s.setDie k d).upsets = s.upsets := rfl

@[simp] theorem enqueue_mem (s : State) (i : Instr) : (s.enqueue i).mem = s.mem := rfl
@[simp] theorem enqueue_poison (s : State) (i : Instr) : (s.enqueue i).poison = s.poison := rfl
@[simp] theorem enqueue_tags (s : State) (i : Instr) : (s.enqueue i).tags = s.tags := rfl
@[simp] theorem enqueue_blurred (s : State) (i : Instr) : (s.enqueue i).blurred = s.blurred := rfl
@[simp] theorem enqueue_sramPoison (s : State) (i : Instr) : (s.enqueue i).sramPoison = s.sramPoison := rfl
@[simp] theorem enqueue_inbox (s : State) (i : Instr) : (s.enqueue i).inbox = s.inbox := rfl
@[simp] theorem enqueue_linkWaits (s : State) (i : Instr) : (s.enqueue i).linkWaits = s.linkWaits := rfl
@[simp] theorem enqueue_pathWaits (s : State) (i : Instr) : (s.enqueue i).pathWaits = s.pathWaits := rfl
@[simp] theorem enqueue_booting (s : State) (i : Instr) : (s.enqueue i).booting = s.booting := rfl
@[simp] theorem enqueue_admitted (s : State) (i : Instr) : (s.enqueue i).admitted = s.admitted := rfl
@[simp] theorem enqueue_threads (s : State) (i : Instr) : (s.enqueue i).threads = s.threads := rfl
@[simp] theorem enqueue_cores (s : State) (i : Instr) : (s.enqueue i).cores = s.cores := rfl
@[simp] theorem enqueue_clusters (s : State) (i : Instr) : (s.enqueue i).clusters = s.clusters := rfl
@[simp] theorem enqueue_dies (s : State) (i : Instr) : (s.enqueue i).dies = s.dies := rfl
@[simp] theorem enqueue_nodes (s : State) (i : Instr) : (s.enqueue i).nodes = s.nodes := rfl
@[simp] theorem enqueue_nodeGen (s : State) (i : Instr) : (s.enqueue i).nodeGen = s.nodeGen := rfl
@[simp] theorem enqueue_mappings (s : State) (i : Instr) : (s.enqueue i).mappings = s.mappings := rfl
@[simp] theorem enqueue_graphs (s : State) (i : Instr) : (s.enqueue i).graphs = s.graphs := rfl
@[simp] theorem enqueue_insts (s : State) (i : Instr) : (s.enqueue i).insts = s.insts := rfl
@[simp] theorem enqueue_nextGraph (s : State) (i : Instr) : (s.enqueue i).nextGraph = s.nextGraph := rfl
@[simp] theorem enqueue_stamp (s : State) (i : Instr) : (s.enqueue i).stamp = s.stamp := rfl
@[simp] theorem enqueue_pkgChans (s : State) (i : Instr) : (s.enqueue i).pkgChans = s.pkgChans := rfl
@[simp] theorem enqueue_pkgHolder (s : State) (i : Instr) : (s.enqueue i).pkgHolder = s.pkgHolder := rfl
@[simp] theorem enqueue_checkpoints (s : State) (i : Instr) : (s.enqueue i).checkpoints = s.checkpoints := rfl
@[simp] theorem enqueue_xblocks (s : State) (i : Instr) : (s.enqueue i).xblocks = s.xblocks := rfl
@[simp] theorem enqueue_drFlights (s : State) (i : Instr) : (s.enqueue i).drFlights = s.drFlights := rfl
@[simp] theorem enqueue_flights (s : State) (i : Instr) : (s.enqueue i).flights = s.flights := rfl
@[simp] theorem enqueue_groupsDown (s : State) (i : Instr) : (s.enqueue i).groupsDown = s.groupsDown := rfl
@[simp] theorem enqueue_cxlUp (s : State) (i : Instr) : (s.enqueue i).cxlUp = s.cxlUp := rfl
@[simp] theorem enqueue_cxlPopulated (s : State) (i : Instr) : (s.enqueue i).cxlPopulated = s.cxlPopulated := rfl
@[simp] theorem enqueue_ethUp (s : State) (i : Instr) : (s.enqueue i).ethUp = s.ethUp := rfl
@[simp] theorem enqueue_clients (s : State) (i : Instr) : (s.enqueue i).clients = s.clients := rfl
@[simp] theorem enqueue_jobs (s : State) (i : Instr) : (s.enqueue i).jobs = s.jobs := rfl
@[simp] theorem enqueue_rings (s : State) (i : Instr) : (s.enqueue i).rings = s.rings := rfl
@[simp] theorem enqueue_tests (s : State) (i : Instr) : (s.enqueue i).tests = s.tests := rfl
@[simp] theorem enqueue_responses (s : State) (i : Instr) : (s.enqueue i).responses = s.responses := rfl
@[simp] theorem enqueue_nextFrame (s : State) (i : Instr) : (s.enqueue i).nextFrame = s.nextFrame := rfl
@[simp] theorem enqueue_mgmt (s : State) (i : Instr) : (s.enqueue i).mgmt = s.mgmt := rfl
@[simp] theorem enqueue_powered (s : State) (i : Instr) : (s.enqueue i).powered = s.powered := rfl
@[simp] theorem enqueue_throttled (s : State) (i : Instr) : (s.enqueue i).throttled = s.throttled := rfl
@[simp] theorem enqueue_hotDies (s : State) (i : Instr) : (s.enqueue i).hotDies = s.hotDies := rfl
@[simp] theorem enqueue_image (s : State) (i : Instr) : (s.enqueue i).image = s.image := rfl
@[simp] theorem enqueue_jtag (s : State) (i : Instr) : (s.enqueue i).jtag = s.jtag := rfl
@[simp] theorem enqueue_owed (s : State) (i : Instr) : (s.enqueue i).owed = s.owed := rfl
@[simp] theorem enqueue_cycle (s : State) (i : Instr) : (s.enqueue i).cycle = s.cycle := rfl
@[simp] theorem enqueue_plan (s : State) (i : Instr) : (s.enqueue i).plan = s.plan := rfl
@[simp] theorem enqueue_defer (s : State) (i : Instr) : (s.enqueue i).defer = s.defer := rfl
@[simp] theorem enqueue_curCore (s : State) (i : Instr) : (s.enqueue i).curCore = s.curCore := rfl
@[simp] theorem enqueue_curTid (s : State) (i : Instr) : (s.enqueue i).curTid = s.curTid := rfl
@[simp] theorem enqueue_free (s : State) (i : Instr) : (s.enqueue i).free = s.free := rfl
@[simp] theorem enqueue_upsets (s : State) (i : Instr) : (s.enqueue i).upsets = s.upsets := rfl

@[simp] theorem asThread_mem (s : State) (core tid : Nat) : (s.asThread core tid).mem = s.mem := rfl
@[simp] theorem asThread_poison (s : State) (core tid : Nat) : (s.asThread core tid).poison = s.poison := rfl
@[simp] theorem asThread_tags (s : State) (core tid : Nat) : (s.asThread core tid).tags = s.tags := rfl
@[simp] theorem asThread_blurred (s : State) (core tid : Nat) : (s.asThread core tid).blurred = s.blurred := rfl
@[simp] theorem asThread_sramPoison (s : State) (core tid : Nat) : (s.asThread core tid).sramPoison = s.sramPoison := rfl
@[simp] theorem asThread_inbox (s : State) (core tid : Nat) : (s.asThread core tid).inbox = s.inbox := rfl
@[simp] theorem asThread_linkWaits (s : State) (core tid : Nat) : (s.asThread core tid).linkWaits = s.linkWaits := rfl
@[simp] theorem asThread_pathWaits (s : State) (core tid : Nat) : (s.asThread core tid).pathWaits = s.pathWaits := rfl
@[simp] theorem asThread_booting (s : State) (core tid : Nat) : (s.asThread core tid).booting = s.booting := rfl
@[simp] theorem asThread_admitted (s : State) (core tid : Nat) : (s.asThread core tid).admitted = s.admitted := rfl
@[simp] theorem asThread_threads (s : State) (core tid : Nat) : (s.asThread core tid).threads = s.threads := rfl
@[simp] theorem asThread_cores (s : State) (core tid : Nat) : (s.asThread core tid).cores = s.cores := rfl
@[simp] theorem asThread_clusters (s : State) (core tid : Nat) : (s.asThread core tid).clusters = s.clusters := rfl
@[simp] theorem asThread_dies (s : State) (core tid : Nat) : (s.asThread core tid).dies = s.dies := rfl
@[simp] theorem asThread_nodes (s : State) (core tid : Nat) : (s.asThread core tid).nodes = s.nodes := rfl
@[simp] theorem asThread_nodeGen (s : State) (core tid : Nat) : (s.asThread core tid).nodeGen = s.nodeGen := rfl
@[simp] theorem asThread_mappings (s : State) (core tid : Nat) : (s.asThread core tid).mappings = s.mappings := rfl
@[simp] theorem asThread_graphs (s : State) (core tid : Nat) : (s.asThread core tid).graphs = s.graphs := rfl
@[simp] theorem asThread_insts (s : State) (core tid : Nat) : (s.asThread core tid).insts = s.insts := rfl
@[simp] theorem asThread_nextGraph (s : State) (core tid : Nat) : (s.asThread core tid).nextGraph = s.nextGraph := rfl
@[simp] theorem asThread_stamp (s : State) (core tid : Nat) : (s.asThread core tid).stamp = s.stamp := rfl
@[simp] theorem asThread_pkgChans (s : State) (core tid : Nat) : (s.asThread core tid).pkgChans = s.pkgChans := rfl
@[simp] theorem asThread_pkgHolder (s : State) (core tid : Nat) : (s.asThread core tid).pkgHolder = s.pkgHolder := rfl
@[simp] theorem asThread_checkpoints (s : State) (core tid : Nat) : (s.asThread core tid).checkpoints = s.checkpoints := rfl
@[simp] theorem asThread_xblocks (s : State) (core tid : Nat) : (s.asThread core tid).xblocks = s.xblocks := rfl
@[simp] theorem asThread_drFlights (s : State) (core tid : Nat) : (s.asThread core tid).drFlights = s.drFlights := rfl
@[simp] theorem asThread_flights (s : State) (core tid : Nat) : (s.asThread core tid).flights = s.flights := rfl
@[simp] theorem asThread_groupsDown (s : State) (core tid : Nat) : (s.asThread core tid).groupsDown = s.groupsDown := rfl
@[simp] theorem asThread_cxlUp (s : State) (core tid : Nat) : (s.asThread core tid).cxlUp = s.cxlUp := rfl
@[simp] theorem asThread_cxlPopulated (s : State) (core tid : Nat) : (s.asThread core tid).cxlPopulated = s.cxlPopulated := rfl
@[simp] theorem asThread_ethUp (s : State) (core tid : Nat) : (s.asThread core tid).ethUp = s.ethUp := rfl
@[simp] theorem asThread_clients (s : State) (core tid : Nat) : (s.asThread core tid).clients = s.clients := rfl
@[simp] theorem asThread_jobs (s : State) (core tid : Nat) : (s.asThread core tid).jobs = s.jobs := rfl
@[simp] theorem asThread_rings (s : State) (core tid : Nat) : (s.asThread core tid).rings = s.rings := rfl
@[simp] theorem asThread_tests (s : State) (core tid : Nat) : (s.asThread core tid).tests = s.tests := rfl
@[simp] theorem asThread_responses (s : State) (core tid : Nat) : (s.asThread core tid).responses = s.responses := rfl
@[simp] theorem asThread_nextFrame (s : State) (core tid : Nat) : (s.asThread core tid).nextFrame = s.nextFrame := rfl
@[simp] theorem asThread_mgmt (s : State) (core tid : Nat) : (s.asThread core tid).mgmt = s.mgmt := rfl
@[simp] theorem asThread_powered (s : State) (core tid : Nat) : (s.asThread core tid).powered = s.powered := rfl
@[simp] theorem asThread_throttled (s : State) (core tid : Nat) : (s.asThread core tid).throttled = s.throttled := rfl
@[simp] theorem asThread_hotDies (s : State) (core tid : Nat) : (s.asThread core tid).hotDies = s.hotDies := rfl
@[simp] theorem asThread_image (s : State) (core tid : Nat) : (s.asThread core tid).image = s.image := rfl
@[simp] theorem asThread_jtag (s : State) (core tid : Nat) : (s.asThread core tid).jtag = s.jtag := rfl
@[simp] theorem asThread_owed (s : State) (core tid : Nat) : (s.asThread core tid).owed = s.owed := rfl
@[simp] theorem asThread_cycle (s : State) (core tid : Nat) : (s.asThread core tid).cycle = s.cycle := rfl
@[simp] theorem asThread_plan (s : State) (core tid : Nat) : (s.asThread core tid).plan = s.plan := rfl
@[simp] theorem asThread_agenda (s : State) (core tid : Nat) : (s.asThread core tid).agenda = s.agenda := rfl
@[simp] theorem asThread_defer (s : State) (core tid : Nat) : (s.asThread core tid).defer = s.defer := rfl
@[simp] theorem asThread_free (s : State) (core tid : Nat) : (s.asThread core tid).free = s.free := rfl
@[simp] theorem asThread_upsets (s : State) (core tid : Nat) : (s.asThread core tid).upsets = s.upsets := rfl

@[simp] theorem setPc_mem (s : State) (pc : Word) : (s.setPc pc).mem = s.mem := rfl
@[simp] theorem setPc_poison (s : State) (pc : Word) : (s.setPc pc).poison = s.poison := rfl
@[simp] theorem setPc_tags (s : State) (pc : Word) : (s.setPc pc).tags = s.tags := rfl
@[simp] theorem setPc_blurred (s : State) (pc : Word) : (s.setPc pc).blurred = s.blurred := rfl
@[simp] theorem setPc_sramPoison (s : State) (pc : Word) : (s.setPc pc).sramPoison = s.sramPoison := rfl
@[simp] theorem setPc_inbox (s : State) (pc : Word) : (s.setPc pc).inbox = s.inbox := rfl
@[simp] theorem setPc_linkWaits (s : State) (pc : Word) : (s.setPc pc).linkWaits = s.linkWaits := rfl
@[simp] theorem setPc_pathWaits (s : State) (pc : Word) : (s.setPc pc).pathWaits = s.pathWaits := rfl
@[simp] theorem setPc_booting (s : State) (pc : Word) : (s.setPc pc).booting = s.booting := rfl
@[simp] theorem setPc_admitted (s : State) (pc : Word) : (s.setPc pc).admitted = s.admitted := rfl
@[simp] theorem setPc_cores (s : State) (pc : Word) : (s.setPc pc).cores = s.cores := rfl
@[simp] theorem setPc_clusters (s : State) (pc : Word) : (s.setPc pc).clusters = s.clusters := rfl
@[simp] theorem setPc_dies (s : State) (pc : Word) : (s.setPc pc).dies = s.dies := rfl
@[simp] theorem setPc_nodes (s : State) (pc : Word) : (s.setPc pc).nodes = s.nodes := rfl
@[simp] theorem setPc_nodeGen (s : State) (pc : Word) : (s.setPc pc).nodeGen = s.nodeGen := rfl
@[simp] theorem setPc_mappings (s : State) (pc : Word) : (s.setPc pc).mappings = s.mappings := rfl
@[simp] theorem setPc_graphs (s : State) (pc : Word) : (s.setPc pc).graphs = s.graphs := rfl
@[simp] theorem setPc_insts (s : State) (pc : Word) : (s.setPc pc).insts = s.insts := rfl
@[simp] theorem setPc_nextGraph (s : State) (pc : Word) : (s.setPc pc).nextGraph = s.nextGraph := rfl
@[simp] theorem setPc_stamp (s : State) (pc : Word) : (s.setPc pc).stamp = s.stamp := rfl
@[simp] theorem setPc_pkgChans (s : State) (pc : Word) : (s.setPc pc).pkgChans = s.pkgChans := rfl
@[simp] theorem setPc_pkgHolder (s : State) (pc : Word) : (s.setPc pc).pkgHolder = s.pkgHolder := rfl
@[simp] theorem setPc_checkpoints (s : State) (pc : Word) : (s.setPc pc).checkpoints = s.checkpoints := rfl
@[simp] theorem setPc_xblocks (s : State) (pc : Word) : (s.setPc pc).xblocks = s.xblocks := rfl
@[simp] theorem setPc_drFlights (s : State) (pc : Word) : (s.setPc pc).drFlights = s.drFlights := rfl
@[simp] theorem setPc_flights (s : State) (pc : Word) : (s.setPc pc).flights = s.flights := rfl
@[simp] theorem setPc_groupsDown (s : State) (pc : Word) : (s.setPc pc).groupsDown = s.groupsDown := rfl
@[simp] theorem setPc_cxlUp (s : State) (pc : Word) : (s.setPc pc).cxlUp = s.cxlUp := rfl
@[simp] theorem setPc_cxlPopulated (s : State) (pc : Word) : (s.setPc pc).cxlPopulated = s.cxlPopulated := rfl
@[simp] theorem setPc_ethUp (s : State) (pc : Word) : (s.setPc pc).ethUp = s.ethUp := rfl
@[simp] theorem setPc_clients (s : State) (pc : Word) : (s.setPc pc).clients = s.clients := rfl
@[simp] theorem setPc_jobs (s : State) (pc : Word) : (s.setPc pc).jobs = s.jobs := rfl
@[simp] theorem setPc_rings (s : State) (pc : Word) : (s.setPc pc).rings = s.rings := rfl
@[simp] theorem setPc_tests (s : State) (pc : Word) : (s.setPc pc).tests = s.tests := rfl
@[simp] theorem setPc_responses (s : State) (pc : Word) : (s.setPc pc).responses = s.responses := rfl
@[simp] theorem setPc_nextFrame (s : State) (pc : Word) : (s.setPc pc).nextFrame = s.nextFrame := rfl
@[simp] theorem setPc_mgmt (s : State) (pc : Word) : (s.setPc pc).mgmt = s.mgmt := rfl
@[simp] theorem setPc_powered (s : State) (pc : Word) : (s.setPc pc).powered = s.powered := rfl
@[simp] theorem setPc_throttled (s : State) (pc : Word) : (s.setPc pc).throttled = s.throttled := rfl
@[simp] theorem setPc_hotDies (s : State) (pc : Word) : (s.setPc pc).hotDies = s.hotDies := rfl
@[simp] theorem setPc_image (s : State) (pc : Word) : (s.setPc pc).image = s.image := rfl
@[simp] theorem setPc_jtag (s : State) (pc : Word) : (s.setPc pc).jtag = s.jtag := rfl
@[simp] theorem setPc_owed (s : State) (pc : Word) : (s.setPc pc).owed = s.owed := rfl
@[simp] theorem setPc_cycle (s : State) (pc : Word) : (s.setPc pc).cycle = s.cycle := rfl
@[simp] theorem setPc_plan (s : State) (pc : Word) : (s.setPc pc).plan = s.plan := rfl
@[simp] theorem setPc_agenda (s : State) (pc : Word) : (s.setPc pc).agenda = s.agenda := rfl
@[simp] theorem setPc_defer (s : State) (pc : Word) : (s.setPc pc).defer = s.defer := rfl
@[simp] theorem setPc_curCore (s : State) (pc : Word) : (s.setPc pc).curCore = s.curCore := rfl
@[simp] theorem setPc_curTid (s : State) (pc : Word) : (s.setPc pc).curTid = s.curTid := rfl
@[simp] theorem setPc_free (s : State) (pc : Word) : (s.setPc pc).free = s.free := rfl
@[simp] theorem setPc_upsets (s : State) (pc : Word) : (s.setPc pc).upsets = s.upsets := rfl

@[simp] theorem block_mem (s : State) (i : Instr) : (s.block i).mem = s.mem := rfl
@[simp] theorem block_poison (s : State) (i : Instr) : (s.block i).poison = s.poison := rfl
@[simp] theorem block_tags (s : State) (i : Instr) : (s.block i).tags = s.tags := rfl
@[simp] theorem block_blurred (s : State) (i : Instr) : (s.block i).blurred = s.blurred := rfl
@[simp] theorem block_sramPoison (s : State) (i : Instr) : (s.block i).sramPoison = s.sramPoison := rfl
@[simp] theorem block_inbox (s : State) (i : Instr) : (s.block i).inbox = s.inbox := rfl
@[simp] theorem block_linkWaits (s : State) (i : Instr) : (s.block i).linkWaits = s.linkWaits := rfl
@[simp] theorem block_pathWaits (s : State) (i : Instr) : (s.block i).pathWaits = s.pathWaits := rfl
@[simp] theorem block_booting (s : State) (i : Instr) : (s.block i).booting = s.booting := rfl
@[simp] theorem block_admitted (s : State) (i : Instr) : (s.block i).admitted = s.admitted := rfl
@[simp] theorem block_cores (s : State) (i : Instr) : (s.block i).cores = s.cores := rfl
@[simp] theorem block_clusters (s : State) (i : Instr) : (s.block i).clusters = s.clusters := rfl
@[simp] theorem block_dies (s : State) (i : Instr) : (s.block i).dies = s.dies := rfl
@[simp] theorem block_nodes (s : State) (i : Instr) : (s.block i).nodes = s.nodes := rfl
@[simp] theorem block_nodeGen (s : State) (i : Instr) : (s.block i).nodeGen = s.nodeGen := rfl
@[simp] theorem block_mappings (s : State) (i : Instr) : (s.block i).mappings = s.mappings := rfl
@[simp] theorem block_graphs (s : State) (i : Instr) : (s.block i).graphs = s.graphs := rfl
@[simp] theorem block_insts (s : State) (i : Instr) : (s.block i).insts = s.insts := rfl
@[simp] theorem block_nextGraph (s : State) (i : Instr) : (s.block i).nextGraph = s.nextGraph := rfl
@[simp] theorem block_stamp (s : State) (i : Instr) : (s.block i).stamp = s.stamp := rfl
@[simp] theorem block_pkgChans (s : State) (i : Instr) : (s.block i).pkgChans = s.pkgChans := rfl
@[simp] theorem block_pkgHolder (s : State) (i : Instr) : (s.block i).pkgHolder = s.pkgHolder := rfl
@[simp] theorem block_checkpoints (s : State) (i : Instr) : (s.block i).checkpoints = s.checkpoints := rfl
@[simp] theorem block_xblocks (s : State) (i : Instr) : (s.block i).xblocks = s.xblocks := rfl
@[simp] theorem block_drFlights (s : State) (i : Instr) : (s.block i).drFlights = s.drFlights := rfl
@[simp] theorem block_flights (s : State) (i : Instr) : (s.block i).flights = s.flights := rfl
@[simp] theorem block_groupsDown (s : State) (i : Instr) : (s.block i).groupsDown = s.groupsDown := rfl
@[simp] theorem block_cxlUp (s : State) (i : Instr) : (s.block i).cxlUp = s.cxlUp := rfl
@[simp] theorem block_cxlPopulated (s : State) (i : Instr) : (s.block i).cxlPopulated = s.cxlPopulated := rfl
@[simp] theorem block_ethUp (s : State) (i : Instr) : (s.block i).ethUp = s.ethUp := rfl
@[simp] theorem block_clients (s : State) (i : Instr) : (s.block i).clients = s.clients := rfl
@[simp] theorem block_jobs (s : State) (i : Instr) : (s.block i).jobs = s.jobs := rfl
@[simp] theorem block_rings (s : State) (i : Instr) : (s.block i).rings = s.rings := rfl
@[simp] theorem block_tests (s : State) (i : Instr) : (s.block i).tests = s.tests := rfl
@[simp] theorem block_responses (s : State) (i : Instr) : (s.block i).responses = s.responses := rfl
@[simp] theorem block_nextFrame (s : State) (i : Instr) : (s.block i).nextFrame = s.nextFrame := rfl
@[simp] theorem block_mgmt (s : State) (i : Instr) : (s.block i).mgmt = s.mgmt := rfl
@[simp] theorem block_powered (s : State) (i : Instr) : (s.block i).powered = s.powered := rfl
@[simp] theorem block_throttled (s : State) (i : Instr) : (s.block i).throttled = s.throttled := rfl
@[simp] theorem block_hotDies (s : State) (i : Instr) : (s.block i).hotDies = s.hotDies := rfl
@[simp] theorem block_image (s : State) (i : Instr) : (s.block i).image = s.image := rfl
@[simp] theorem block_jtag (s : State) (i : Instr) : (s.block i).jtag = s.jtag := rfl
@[simp] theorem block_owed (s : State) (i : Instr) : (s.block i).owed = s.owed := rfl
@[simp] theorem block_cycle (s : State) (i : Instr) : (s.block i).cycle = s.cycle := rfl
@[simp] theorem block_plan (s : State) (i : Instr) : (s.block i).plan = s.plan := rfl
@[simp] theorem block_agenda (s : State) (i : Instr) : (s.block i).agenda = s.agenda := rfl
@[simp] theorem block_defer (s : State) (i : Instr) : (s.block i).defer = s.defer := rfl
@[simp] theorem block_curCore (s : State) (i : Instr) : (s.block i).curCore = s.curCore := rfl
@[simp] theorem block_curTid (s : State) (i : Instr) : (s.block i).curTid = s.curTid := rfl
@[simp] theorem block_free (s : State) (i : Instr) : (s.block i).free = s.free := rfl
@[simp] theorem block_upsets (s : State) (i : Instr) : (s.block i).upsets = s.upsets := rfl

@[simp] theorem setG_mem (s : State) (r : Reg) (x : Word) : (s.setG r x).mem = s.mem := by unfold setG; split <;> rfl
@[simp] theorem setG_poison (s : State) (r : Reg) (x : Word) : (s.setG r x).poison = s.poison := by unfold setG; split <;> rfl
@[simp] theorem setG_tags (s : State) (r : Reg) (x : Word) : (s.setG r x).tags = s.tags := by unfold setG; split <;> rfl
@[simp] theorem setG_blurred (s : State) (r : Reg) (x : Word) : (s.setG r x).blurred = s.blurred := by unfold setG; split <;> rfl
@[simp] theorem setG_sramPoison (s : State) (r : Reg) (x : Word) : (s.setG r x).sramPoison = s.sramPoison := by unfold setG; split <;> rfl
@[simp] theorem setG_inbox (s : State) (r : Reg) (x : Word) : (s.setG r x).inbox = s.inbox := by unfold setG; split <;> rfl
@[simp] theorem setG_linkWaits (s : State) (r : Reg) (x : Word) : (s.setG r x).linkWaits = s.linkWaits := by unfold setG; split <;> rfl
@[simp] theorem setG_pathWaits (s : State) (r : Reg) (x : Word) : (s.setG r x).pathWaits = s.pathWaits := by unfold setG; split <;> rfl
@[simp] theorem setG_booting (s : State) (r : Reg) (x : Word) : (s.setG r x).booting = s.booting := by unfold setG; split <;> rfl
@[simp] theorem setG_admitted (s : State) (r : Reg) (x : Word) : (s.setG r x).admitted = s.admitted := by unfold setG; split <;> rfl
@[simp] theorem setG_cores (s : State) (r : Reg) (x : Word) : (s.setG r x).cores = s.cores := by unfold setG; split <;> rfl
@[simp] theorem setG_clusters (s : State) (r : Reg) (x : Word) : (s.setG r x).clusters = s.clusters := by unfold setG; split <;> rfl
@[simp] theorem setG_dies (s : State) (r : Reg) (x : Word) : (s.setG r x).dies = s.dies := by unfold setG; split <;> rfl
@[simp] theorem setG_nodes (s : State) (r : Reg) (x : Word) : (s.setG r x).nodes = s.nodes := by unfold setG; split <;> rfl
@[simp] theorem setG_nodeGen (s : State) (r : Reg) (x : Word) : (s.setG r x).nodeGen = s.nodeGen := by unfold setG; split <;> rfl
@[simp] theorem setG_mappings (s : State) (r : Reg) (x : Word) : (s.setG r x).mappings = s.mappings := by unfold setG; split <;> rfl
@[simp] theorem setG_graphs (s : State) (r : Reg) (x : Word) : (s.setG r x).graphs = s.graphs := by unfold setG; split <;> rfl
@[simp] theorem setG_insts (s : State) (r : Reg) (x : Word) : (s.setG r x).insts = s.insts := by unfold setG; split <;> rfl
@[simp] theorem setG_nextGraph (s : State) (r : Reg) (x : Word) : (s.setG r x).nextGraph = s.nextGraph := by unfold setG; split <;> rfl
@[simp] theorem setG_stamp (s : State) (r : Reg) (x : Word) : (s.setG r x).stamp = s.stamp := by unfold setG; split <;> rfl
@[simp] theorem setG_pkgChans (s : State) (r : Reg) (x : Word) : (s.setG r x).pkgChans = s.pkgChans := by unfold setG; split <;> rfl
@[simp] theorem setG_pkgHolder (s : State) (r : Reg) (x : Word) : (s.setG r x).pkgHolder = s.pkgHolder := by unfold setG; split <;> rfl
@[simp] theorem setG_checkpoints (s : State) (r : Reg) (x : Word) : (s.setG r x).checkpoints = s.checkpoints := by unfold setG; split <;> rfl
@[simp] theorem setG_xblocks (s : State) (r : Reg) (x : Word) : (s.setG r x).xblocks = s.xblocks := by unfold setG; split <;> rfl
@[simp] theorem setG_drFlights (s : State) (r : Reg) (x : Word) : (s.setG r x).drFlights = s.drFlights := by unfold setG; split <;> rfl
@[simp] theorem setG_flights (s : State) (r : Reg) (x : Word) : (s.setG r x).flights = s.flights := by unfold setG; split <;> rfl
@[simp] theorem setG_groupsDown (s : State) (r : Reg) (x : Word) : (s.setG r x).groupsDown = s.groupsDown := by unfold setG; split <;> rfl
@[simp] theorem setG_cxlUp (s : State) (r : Reg) (x : Word) : (s.setG r x).cxlUp = s.cxlUp := by unfold setG; split <;> rfl
@[simp] theorem setG_cxlPopulated (s : State) (r : Reg) (x : Word) : (s.setG r x).cxlPopulated = s.cxlPopulated := by unfold setG; split <;> rfl
@[simp] theorem setG_ethUp (s : State) (r : Reg) (x : Word) : (s.setG r x).ethUp = s.ethUp := by unfold setG; split <;> rfl
@[simp] theorem setG_clients (s : State) (r : Reg) (x : Word) : (s.setG r x).clients = s.clients := by unfold setG; split <;> rfl
@[simp] theorem setG_jobs (s : State) (r : Reg) (x : Word) : (s.setG r x).jobs = s.jobs := by unfold setG; split <;> rfl
@[simp] theorem setG_rings (s : State) (r : Reg) (x : Word) : (s.setG r x).rings = s.rings := by unfold setG; split <;> rfl
@[simp] theorem setG_tests (s : State) (r : Reg) (x : Word) : (s.setG r x).tests = s.tests := by unfold setG; split <;> rfl
@[simp] theorem setG_responses (s : State) (r : Reg) (x : Word) : (s.setG r x).responses = s.responses := by unfold setG; split <;> rfl
@[simp] theorem setG_nextFrame (s : State) (r : Reg) (x : Word) : (s.setG r x).nextFrame = s.nextFrame := by unfold setG; split <;> rfl
@[simp] theorem setG_mgmt (s : State) (r : Reg) (x : Word) : (s.setG r x).mgmt = s.mgmt := by unfold setG; split <;> rfl
@[simp] theorem setG_powered (s : State) (r : Reg) (x : Word) : (s.setG r x).powered = s.powered := by unfold setG; split <;> rfl
@[simp] theorem setG_throttled (s : State) (r : Reg) (x : Word) : (s.setG r x).throttled = s.throttled := by unfold setG; split <;> rfl
@[simp] theorem setG_hotDies (s : State) (r : Reg) (x : Word) : (s.setG r x).hotDies = s.hotDies := by unfold setG; split <;> rfl
@[simp] theorem setG_image (s : State) (r : Reg) (x : Word) : (s.setG r x).image = s.image := by unfold setG; split <;> rfl
@[simp] theorem setG_jtag (s : State) (r : Reg) (x : Word) : (s.setG r x).jtag = s.jtag := by unfold setG; split <;> rfl
@[simp] theorem setG_owed (s : State) (r : Reg) (x : Word) : (s.setG r x).owed = s.owed := by unfold setG; split <;> rfl
@[simp] theorem setG_cycle (s : State) (r : Reg) (x : Word) : (s.setG r x).cycle = s.cycle := by unfold setG; split <;> rfl
@[simp] theorem setG_plan (s : State) (r : Reg) (x : Word) : (s.setG r x).plan = s.plan := by unfold setG; split <;> rfl
@[simp] theorem setG_agenda (s : State) (r : Reg) (x : Word) : (s.setG r x).agenda = s.agenda := by unfold setG; split <;> rfl
@[simp] theorem setG_defer (s : State) (r : Reg) (x : Word) : (s.setG r x).defer = s.defer := by unfold setG; split <;> rfl
@[simp] theorem setG_curCore (s : State) (r : Reg) (x : Word) : (s.setG r x).curCore = s.curCore := by unfold setG; split <;> rfl
@[simp] theorem setG_curTid (s : State) (r : Reg) (x : Word) : (s.setG r x).curTid = s.curTid := by unfold setG; split <;> rfl
@[simp] theorem setG_free (s : State) (r : Reg) (x : Word) : (s.setG r x).free = s.free := by unfold setG; split <;> rfl
@[simp] theorem setG_upsets (s : State) (r : Reg) (x : Word) : (s.setG r x).upsets = s.upsets := by unfold setG; split <;> rfl

@[simp] theorem setV_mem (s : State) (r : Reg) (x : VReg) : (s.setV r x).mem = s.mem := rfl
@[simp] theorem setV_poison (s : State) (r : Reg) (x : VReg) : (s.setV r x).poison = s.poison := rfl
@[simp] theorem setV_tags (s : State) (r : Reg) (x : VReg) : (s.setV r x).tags = s.tags := rfl
@[simp] theorem setV_blurred (s : State) (r : Reg) (x : VReg) : (s.setV r x).blurred = s.blurred := rfl
@[simp] theorem setV_sramPoison (s : State) (r : Reg) (x : VReg) : (s.setV r x).sramPoison = s.sramPoison := rfl
@[simp] theorem setV_inbox (s : State) (r : Reg) (x : VReg) : (s.setV r x).inbox = s.inbox := rfl
@[simp] theorem setV_linkWaits (s : State) (r : Reg) (x : VReg) : (s.setV r x).linkWaits = s.linkWaits := rfl
@[simp] theorem setV_pathWaits (s : State) (r : Reg) (x : VReg) : (s.setV r x).pathWaits = s.pathWaits := rfl
@[simp] theorem setV_booting (s : State) (r : Reg) (x : VReg) : (s.setV r x).booting = s.booting := rfl
@[simp] theorem setV_admitted (s : State) (r : Reg) (x : VReg) : (s.setV r x).admitted = s.admitted := rfl
@[simp] theorem setV_cores (s : State) (r : Reg) (x : VReg) : (s.setV r x).cores = s.cores := rfl
@[simp] theorem setV_clusters (s : State) (r : Reg) (x : VReg) : (s.setV r x).clusters = s.clusters := rfl
@[simp] theorem setV_dies (s : State) (r : Reg) (x : VReg) : (s.setV r x).dies = s.dies := rfl
@[simp] theorem setV_nodes (s : State) (r : Reg) (x : VReg) : (s.setV r x).nodes = s.nodes := rfl
@[simp] theorem setV_nodeGen (s : State) (r : Reg) (x : VReg) : (s.setV r x).nodeGen = s.nodeGen := rfl
@[simp] theorem setV_mappings (s : State) (r : Reg) (x : VReg) : (s.setV r x).mappings = s.mappings := rfl
@[simp] theorem setV_graphs (s : State) (r : Reg) (x : VReg) : (s.setV r x).graphs = s.graphs := rfl
@[simp] theorem setV_insts (s : State) (r : Reg) (x : VReg) : (s.setV r x).insts = s.insts := rfl
@[simp] theorem setV_nextGraph (s : State) (r : Reg) (x : VReg) : (s.setV r x).nextGraph = s.nextGraph := rfl
@[simp] theorem setV_stamp (s : State) (r : Reg) (x : VReg) : (s.setV r x).stamp = s.stamp := rfl
@[simp] theorem setV_pkgChans (s : State) (r : Reg) (x : VReg) : (s.setV r x).pkgChans = s.pkgChans := rfl
@[simp] theorem setV_pkgHolder (s : State) (r : Reg) (x : VReg) : (s.setV r x).pkgHolder = s.pkgHolder := rfl
@[simp] theorem setV_checkpoints (s : State) (r : Reg) (x : VReg) : (s.setV r x).checkpoints = s.checkpoints := rfl
@[simp] theorem setV_xblocks (s : State) (r : Reg) (x : VReg) : (s.setV r x).xblocks = s.xblocks := rfl
@[simp] theorem setV_drFlights (s : State) (r : Reg) (x : VReg) : (s.setV r x).drFlights = s.drFlights := rfl
@[simp] theorem setV_flights (s : State) (r : Reg) (x : VReg) : (s.setV r x).flights = s.flights := rfl
@[simp] theorem setV_groupsDown (s : State) (r : Reg) (x : VReg) : (s.setV r x).groupsDown = s.groupsDown := rfl
@[simp] theorem setV_cxlUp (s : State) (r : Reg) (x : VReg) : (s.setV r x).cxlUp = s.cxlUp := rfl
@[simp] theorem setV_cxlPopulated (s : State) (r : Reg) (x : VReg) : (s.setV r x).cxlPopulated = s.cxlPopulated := rfl
@[simp] theorem setV_ethUp (s : State) (r : Reg) (x : VReg) : (s.setV r x).ethUp = s.ethUp := rfl
@[simp] theorem setV_clients (s : State) (r : Reg) (x : VReg) : (s.setV r x).clients = s.clients := rfl
@[simp] theorem setV_jobs (s : State) (r : Reg) (x : VReg) : (s.setV r x).jobs = s.jobs := rfl
@[simp] theorem setV_rings (s : State) (r : Reg) (x : VReg) : (s.setV r x).rings = s.rings := rfl
@[simp] theorem setV_tests (s : State) (r : Reg) (x : VReg) : (s.setV r x).tests = s.tests := rfl
@[simp] theorem setV_responses (s : State) (r : Reg) (x : VReg) : (s.setV r x).responses = s.responses := rfl
@[simp] theorem setV_nextFrame (s : State) (r : Reg) (x : VReg) : (s.setV r x).nextFrame = s.nextFrame := rfl
@[simp] theorem setV_mgmt (s : State) (r : Reg) (x : VReg) : (s.setV r x).mgmt = s.mgmt := rfl
@[simp] theorem setV_powered (s : State) (r : Reg) (x : VReg) : (s.setV r x).powered = s.powered := rfl
@[simp] theorem setV_throttled (s : State) (r : Reg) (x : VReg) : (s.setV r x).throttled = s.throttled := rfl
@[simp] theorem setV_hotDies (s : State) (r : Reg) (x : VReg) : (s.setV r x).hotDies = s.hotDies := rfl
@[simp] theorem setV_image (s : State) (r : Reg) (x : VReg) : (s.setV r x).image = s.image := rfl
@[simp] theorem setV_jtag (s : State) (r : Reg) (x : VReg) : (s.setV r x).jtag = s.jtag := rfl
@[simp] theorem setV_owed (s : State) (r : Reg) (x : VReg) : (s.setV r x).owed = s.owed := rfl
@[simp] theorem setV_cycle (s : State) (r : Reg) (x : VReg) : (s.setV r x).cycle = s.cycle := rfl
@[simp] theorem setV_plan (s : State) (r : Reg) (x : VReg) : (s.setV r x).plan = s.plan := rfl
@[simp] theorem setV_agenda (s : State) (r : Reg) (x : VReg) : (s.setV r x).agenda = s.agenda := rfl
@[simp] theorem setV_defer (s : State) (r : Reg) (x : VReg) : (s.setV r x).defer = s.defer := rfl
@[simp] theorem setV_curCore (s : State) (r : Reg) (x : VReg) : (s.setV r x).curCore = s.curCore := rfl
@[simp] theorem setV_curTid (s : State) (r : Reg) (x : VReg) : (s.setV r x).curTid = s.curTid := rfl
@[simp] theorem setV_free (s : State) (r : Reg) (x : VReg) : (s.setV r x).free = s.free := rfl
@[simp] theorem setV_upsets (s : State) (r : Reg) (x : VReg) : (s.setV r x).upsets = s.upsets := rfl

@[simp] theorem setP_mem (s : State) (r : BitVec 3) (x : Pred) : (s.setP r x).mem = s.mem := by unfold setP; split <;> rfl
@[simp] theorem setP_poison (s : State) (r : BitVec 3) (x : Pred) : (s.setP r x).poison = s.poison := by unfold setP; split <;> rfl
@[simp] theorem setP_tags (s : State) (r : BitVec 3) (x : Pred) : (s.setP r x).tags = s.tags := by unfold setP; split <;> rfl
@[simp] theorem setP_blurred (s : State) (r : BitVec 3) (x : Pred) : (s.setP r x).blurred = s.blurred := by unfold setP; split <;> rfl
@[simp] theorem setP_sramPoison (s : State) (r : BitVec 3) (x : Pred) : (s.setP r x).sramPoison = s.sramPoison := by unfold setP; split <;> rfl
@[simp] theorem setP_inbox (s : State) (r : BitVec 3) (x : Pred) : (s.setP r x).inbox = s.inbox := by unfold setP; split <;> rfl
@[simp] theorem setP_linkWaits (s : State) (r : BitVec 3) (x : Pred) : (s.setP r x).linkWaits = s.linkWaits := by unfold setP; split <;> rfl
@[simp] theorem setP_pathWaits (s : State) (r : BitVec 3) (x : Pred) : (s.setP r x).pathWaits = s.pathWaits := by unfold setP; split <;> rfl
@[simp] theorem setP_booting (s : State) (r : BitVec 3) (x : Pred) : (s.setP r x).booting = s.booting := by unfold setP; split <;> rfl
@[simp] theorem setP_admitted (s : State) (r : BitVec 3) (x : Pred) : (s.setP r x).admitted = s.admitted := by unfold setP; split <;> rfl
@[simp] theorem setP_cores (s : State) (r : BitVec 3) (x : Pred) : (s.setP r x).cores = s.cores := by unfold setP; split <;> rfl
@[simp] theorem setP_clusters (s : State) (r : BitVec 3) (x : Pred) : (s.setP r x).clusters = s.clusters := by unfold setP; split <;> rfl
@[simp] theorem setP_dies (s : State) (r : BitVec 3) (x : Pred) : (s.setP r x).dies = s.dies := by unfold setP; split <;> rfl
@[simp] theorem setP_nodes (s : State) (r : BitVec 3) (x : Pred) : (s.setP r x).nodes = s.nodes := by unfold setP; split <;> rfl
@[simp] theorem setP_nodeGen (s : State) (r : BitVec 3) (x : Pred) : (s.setP r x).nodeGen = s.nodeGen := by unfold setP; split <;> rfl
@[simp] theorem setP_mappings (s : State) (r : BitVec 3) (x : Pred) : (s.setP r x).mappings = s.mappings := by unfold setP; split <;> rfl
@[simp] theorem setP_graphs (s : State) (r : BitVec 3) (x : Pred) : (s.setP r x).graphs = s.graphs := by unfold setP; split <;> rfl
@[simp] theorem setP_insts (s : State) (r : BitVec 3) (x : Pred) : (s.setP r x).insts = s.insts := by unfold setP; split <;> rfl
@[simp] theorem setP_nextGraph (s : State) (r : BitVec 3) (x : Pred) : (s.setP r x).nextGraph = s.nextGraph := by unfold setP; split <;> rfl
@[simp] theorem setP_stamp (s : State) (r : BitVec 3) (x : Pred) : (s.setP r x).stamp = s.stamp := by unfold setP; split <;> rfl
@[simp] theorem setP_pkgChans (s : State) (r : BitVec 3) (x : Pred) : (s.setP r x).pkgChans = s.pkgChans := by unfold setP; split <;> rfl
@[simp] theorem setP_pkgHolder (s : State) (r : BitVec 3) (x : Pred) : (s.setP r x).pkgHolder = s.pkgHolder := by unfold setP; split <;> rfl
@[simp] theorem setP_checkpoints (s : State) (r : BitVec 3) (x : Pred) : (s.setP r x).checkpoints = s.checkpoints := by unfold setP; split <;> rfl
@[simp] theorem setP_xblocks (s : State) (r : BitVec 3) (x : Pred) : (s.setP r x).xblocks = s.xblocks := by unfold setP; split <;> rfl
@[simp] theorem setP_drFlights (s : State) (r : BitVec 3) (x : Pred) : (s.setP r x).drFlights = s.drFlights := by unfold setP; split <;> rfl
@[simp] theorem setP_flights (s : State) (r : BitVec 3) (x : Pred) : (s.setP r x).flights = s.flights := by unfold setP; split <;> rfl
@[simp] theorem setP_groupsDown (s : State) (r : BitVec 3) (x : Pred) : (s.setP r x).groupsDown = s.groupsDown := by unfold setP; split <;> rfl
@[simp] theorem setP_cxlUp (s : State) (r : BitVec 3) (x : Pred) : (s.setP r x).cxlUp = s.cxlUp := by unfold setP; split <;> rfl
@[simp] theorem setP_cxlPopulated (s : State) (r : BitVec 3) (x : Pred) : (s.setP r x).cxlPopulated = s.cxlPopulated := by unfold setP; split <;> rfl
@[simp] theorem setP_ethUp (s : State) (r : BitVec 3) (x : Pred) : (s.setP r x).ethUp = s.ethUp := by unfold setP; split <;> rfl
@[simp] theorem setP_clients (s : State) (r : BitVec 3) (x : Pred) : (s.setP r x).clients = s.clients := by unfold setP; split <;> rfl
@[simp] theorem setP_jobs (s : State) (r : BitVec 3) (x : Pred) : (s.setP r x).jobs = s.jobs := by unfold setP; split <;> rfl
@[simp] theorem setP_rings (s : State) (r : BitVec 3) (x : Pred) : (s.setP r x).rings = s.rings := by unfold setP; split <;> rfl
@[simp] theorem setP_tests (s : State) (r : BitVec 3) (x : Pred) : (s.setP r x).tests = s.tests := by unfold setP; split <;> rfl
@[simp] theorem setP_responses (s : State) (r : BitVec 3) (x : Pred) : (s.setP r x).responses = s.responses := by unfold setP; split <;> rfl
@[simp] theorem setP_nextFrame (s : State) (r : BitVec 3) (x : Pred) : (s.setP r x).nextFrame = s.nextFrame := by unfold setP; split <;> rfl
@[simp] theorem setP_mgmt (s : State) (r : BitVec 3) (x : Pred) : (s.setP r x).mgmt = s.mgmt := by unfold setP; split <;> rfl
@[simp] theorem setP_powered (s : State) (r : BitVec 3) (x : Pred) : (s.setP r x).powered = s.powered := by unfold setP; split <;> rfl
@[simp] theorem setP_throttled (s : State) (r : BitVec 3) (x : Pred) : (s.setP r x).throttled = s.throttled := by unfold setP; split <;> rfl
@[simp] theorem setP_hotDies (s : State) (r : BitVec 3) (x : Pred) : (s.setP r x).hotDies = s.hotDies := by unfold setP; split <;> rfl
@[simp] theorem setP_image (s : State) (r : BitVec 3) (x : Pred) : (s.setP r x).image = s.image := by unfold setP; split <;> rfl
@[simp] theorem setP_jtag (s : State) (r : BitVec 3) (x : Pred) : (s.setP r x).jtag = s.jtag := by unfold setP; split <;> rfl
@[simp] theorem setP_owed (s : State) (r : BitVec 3) (x : Pred) : (s.setP r x).owed = s.owed := by unfold setP; split <;> rfl
@[simp] theorem setP_cycle (s : State) (r : BitVec 3) (x : Pred) : (s.setP r x).cycle = s.cycle := by unfold setP; split <;> rfl
@[simp] theorem setP_plan (s : State) (r : BitVec 3) (x : Pred) : (s.setP r x).plan = s.plan := by unfold setP; split <;> rfl
@[simp] theorem setP_agenda (s : State) (r : BitVec 3) (x : Pred) : (s.setP r x).agenda = s.agenda := by unfold setP; split <;> rfl
@[simp] theorem setP_defer (s : State) (r : BitVec 3) (x : Pred) : (s.setP r x).defer = s.defer := by unfold setP; split <;> rfl
@[simp] theorem setP_curCore (s : State) (r : BitVec 3) (x : Pred) : (s.setP r x).curCore = s.curCore := by unfold setP; split <;> rfl
@[simp] theorem setP_curTid (s : State) (r : BitVec 3) (x : Pred) : (s.setP r x).curTid = s.curTid := by unfold setP; split <;> rfl
@[simp] theorem setP_free (s : State) (r : BitVec 3) (x : Pred) : (s.setP r x).free = s.free := by unfold setP; split <;> rfl
@[simp] theorem setP_upsets (s : State) (r : BitVec 3) (x : Pred) : (s.setP r x).upsets = s.upsets := by unfold setP; split <;> rfl

@[simp] theorem countRetired_mem (s : State) : s.countRetired.mem = s.mem := by
  unfold countRetired countInterval; dsimp only; split <;> rfl
@[simp] theorem countRetired_poison (s : State) : s.countRetired.poison = s.poison := by
  unfold countRetired countInterval; dsimp only; split <;> rfl
@[simp] theorem countRetired_tags (s : State) : s.countRetired.tags = s.tags := by
  unfold countRetired countInterval; dsimp only; split <;> rfl
@[simp] theorem countRetired_blurred (s : State) : s.countRetired.blurred = s.blurred := by
  unfold countRetired countInterval; dsimp only; split <;> rfl
@[simp] theorem countRetired_sramPoison (s : State) : s.countRetired.sramPoison = s.sramPoison := by
  unfold countRetired countInterval; dsimp only; split <;> rfl
@[simp] theorem countRetired_inbox (s : State) : s.countRetired.inbox = s.inbox := by
  unfold countRetired countInterval; dsimp only; split <;> rfl
@[simp] theorem countRetired_linkWaits (s : State) : s.countRetired.linkWaits = s.linkWaits := by
  unfold countRetired countInterval; dsimp only; split <;> rfl
@[simp] theorem countRetired_pathWaits (s : State) : s.countRetired.pathWaits = s.pathWaits := by
  unfold countRetired countInterval; dsimp only; split <;> rfl
@[simp] theorem countRetired_booting (s : State) : s.countRetired.booting = s.booting := by
  unfold countRetired countInterval; dsimp only; split <;> rfl
@[simp] theorem countRetired_admitted (s : State) : s.countRetired.admitted = s.admitted := by
  unfold countRetired countInterval; dsimp only; split <;> rfl
@[simp] theorem countRetired_clusters (s : State) : s.countRetired.clusters = s.clusters := by
  unfold countRetired countInterval; dsimp only; split <;> rfl
@[simp] theorem countRetired_dies (s : State) : s.countRetired.dies = s.dies := by
  unfold countRetired countInterval; dsimp only; split <;> rfl
@[simp] theorem countRetired_nodes (s : State) : s.countRetired.nodes = s.nodes := by
  unfold countRetired countInterval; dsimp only; split <;> rfl
@[simp] theorem countRetired_nodeGen (s : State) : s.countRetired.nodeGen = s.nodeGen := by
  unfold countRetired countInterval; dsimp only; split <;> rfl
@[simp] theorem countRetired_mappings (s : State) : s.countRetired.mappings = s.mappings := by
  unfold countRetired countInterval; dsimp only; split <;> rfl
@[simp] theorem countRetired_graphs (s : State) : s.countRetired.graphs = s.graphs := by
  unfold countRetired countInterval; dsimp only; split <;> rfl
@[simp] theorem countRetired_insts (s : State) : s.countRetired.insts = s.insts := by
  unfold countRetired countInterval; dsimp only; split <;> rfl
@[simp] theorem countRetired_nextGraph (s : State) : s.countRetired.nextGraph = s.nextGraph := by
  unfold countRetired countInterval; dsimp only; split <;> rfl
@[simp] theorem countRetired_stamp (s : State) : s.countRetired.stamp = s.stamp := by
  unfold countRetired countInterval; dsimp only; split <;> rfl
@[simp] theorem countRetired_pkgChans (s : State) : s.countRetired.pkgChans = s.pkgChans := by
  unfold countRetired countInterval; dsimp only; split <;> rfl
@[simp] theorem countRetired_pkgHolder (s : State) : s.countRetired.pkgHolder = s.pkgHolder := by
  unfold countRetired countInterval; dsimp only; split <;> rfl
@[simp] theorem countRetired_checkpoints (s : State) : s.countRetired.checkpoints = s.checkpoints := by
  unfold countRetired countInterval; dsimp only; split <;> rfl
@[simp] theorem countRetired_xblocks (s : State) : s.countRetired.xblocks = s.xblocks := by
  unfold countRetired countInterval; dsimp only; split <;> rfl
@[simp] theorem countRetired_drFlights (s : State) : s.countRetired.drFlights = s.drFlights := by
  unfold countRetired countInterval; dsimp only; split <;> rfl
@[simp] theorem countRetired_flights (s : State) : s.countRetired.flights = s.flights := by
  unfold countRetired countInterval; dsimp only; split <;> rfl
@[simp] theorem countRetired_groupsDown (s : State) : s.countRetired.groupsDown = s.groupsDown := by
  unfold countRetired countInterval; dsimp only; split <;> rfl
@[simp] theorem countRetired_cxlUp (s : State) : s.countRetired.cxlUp = s.cxlUp := by
  unfold countRetired countInterval; dsimp only; split <;> rfl
@[simp] theorem countRetired_cxlPopulated (s : State) : s.countRetired.cxlPopulated = s.cxlPopulated := by
  unfold countRetired countInterval; dsimp only; split <;> rfl
@[simp] theorem countRetired_ethUp (s : State) : s.countRetired.ethUp = s.ethUp := by
  unfold countRetired countInterval; dsimp only; split <;> rfl
@[simp] theorem countRetired_clients (s : State) : s.countRetired.clients = s.clients := by
  unfold countRetired countInterval; dsimp only; split <;> rfl
@[simp] theorem countRetired_jobs (s : State) : s.countRetired.jobs = s.jobs := by
  unfold countRetired countInterval; dsimp only; split <;> rfl
@[simp] theorem countRetired_rings (s : State) : s.countRetired.rings = s.rings := by
  unfold countRetired countInterval; dsimp only; split <;> rfl
@[simp] theorem countRetired_tests (s : State) : s.countRetired.tests = s.tests := by
  unfold countRetired countInterval; dsimp only; split <;> rfl
@[simp] theorem countRetired_responses (s : State) : s.countRetired.responses = s.responses := by
  unfold countRetired countInterval; dsimp only; split <;> rfl
@[simp] theorem countRetired_nextFrame (s : State) : s.countRetired.nextFrame = s.nextFrame := by
  unfold countRetired countInterval; dsimp only; split <;> rfl
@[simp] theorem countRetired_mgmt (s : State) : s.countRetired.mgmt = s.mgmt := by
  unfold countRetired countInterval; dsimp only; split <;> rfl
@[simp] theorem countRetired_powered (s : State) : s.countRetired.powered = s.powered := by
  unfold countRetired countInterval; dsimp only; split <;> rfl
@[simp] theorem countRetired_throttled (s : State) : s.countRetired.throttled = s.throttled := by
  unfold countRetired countInterval; dsimp only; split <;> rfl
@[simp] theorem countRetired_hotDies (s : State) : s.countRetired.hotDies = s.hotDies := by
  unfold countRetired countInterval; dsimp only; split <;> rfl
@[simp] theorem countRetired_image (s : State) : s.countRetired.image = s.image := by
  unfold countRetired countInterval; dsimp only; split <;> rfl
@[simp] theorem countRetired_jtag (s : State) : s.countRetired.jtag = s.jtag := by
  unfold countRetired countInterval; dsimp only; split <;> rfl
@[simp] theorem countRetired_owed (s : State) : s.countRetired.owed = s.owed := by
  unfold countRetired countInterval; dsimp only; split <;> rfl
@[simp] theorem countRetired_cycle (s : State) : s.countRetired.cycle = s.cycle := by
  unfold countRetired countInterval; dsimp only; split <;> rfl
@[simp] theorem countRetired_plan (s : State) : s.countRetired.plan = s.plan := by
  unfold countRetired countInterval; dsimp only; split <;> rfl
@[simp] theorem countRetired_agenda (s : State) : s.countRetired.agenda = s.agenda := by
  unfold countRetired countInterval; dsimp only; split <;> rfl
@[simp] theorem countRetired_defer (s : State) : s.countRetired.defer = s.defer := by
  unfold countRetired countInterval; dsimp only; split <;> rfl
@[simp] theorem countRetired_curCore (s : State) : s.countRetired.curCore = s.curCore := by
  unfold countRetired countInterval; dsimp only; split <;> rfl
@[simp] theorem countRetired_curTid (s : State) : s.countRetired.curTid = s.curTid := by
  unfold countRetired countInterval; dsimp only; split <;> rfl
@[simp] theorem countRetired_free (s : State) : s.countRetired.free = s.free := by
  unfold countRetired countInterval; dsimp only; split <;> rfl
@[simp] theorem countRetired_upsets (s : State) : s.countRetired.upsets = s.upsets := by
  unfold countRetired countInterval; dsimp only; split <;> rfl

@[simp] theorem retire_mem (s : State) : s.retire.mem = s.mem := by simp [retire]
@[simp] theorem retire_poison (s : State) : s.retire.poison = s.poison := by simp [retire]
@[simp] theorem retire_tags (s : State) : s.retire.tags = s.tags := by simp [retire]
@[simp] theorem retire_blurred (s : State) : s.retire.blurred = s.blurred := by simp [retire]
@[simp] theorem retire_sramPoison (s : State) : s.retire.sramPoison = s.sramPoison := by simp [retire]
@[simp] theorem retire_inbox (s : State) : s.retire.inbox = s.inbox := by simp [retire]
@[simp] theorem retire_linkWaits (s : State) : s.retire.linkWaits = s.linkWaits := by simp [retire]
@[simp] theorem retire_pathWaits (s : State) : s.retire.pathWaits = s.pathWaits := by simp [retire]
@[simp] theorem retire_booting (s : State) : s.retire.booting = s.booting := by simp [retire]
@[simp] theorem retire_admitted (s : State) : s.retire.admitted = s.admitted := by simp [retire]
@[simp] theorem retire_clusters (s : State) : s.retire.clusters = s.clusters := by simp [retire]
@[simp] theorem retire_dies (s : State) : s.retire.dies = s.dies := by simp [retire]
@[simp] theorem retire_nodes (s : State) : s.retire.nodes = s.nodes := by simp [retire]
@[simp] theorem retire_nodeGen (s : State) : s.retire.nodeGen = s.nodeGen := by simp [retire]
@[simp] theorem retire_mappings (s : State) : s.retire.mappings = s.mappings := by simp [retire]
@[simp] theorem retire_graphs (s : State) : s.retire.graphs = s.graphs := by simp [retire]
@[simp] theorem retire_insts (s : State) : s.retire.insts = s.insts := by simp [retire]
@[simp] theorem retire_nextGraph (s : State) : s.retire.nextGraph = s.nextGraph := by simp [retire]
@[simp] theorem retire_stamp (s : State) : s.retire.stamp = s.stamp := by simp [retire]
@[simp] theorem retire_pkgChans (s : State) : s.retire.pkgChans = s.pkgChans := by simp [retire]
@[simp] theorem retire_pkgHolder (s : State) : s.retire.pkgHolder = s.pkgHolder := by simp [retire]
@[simp] theorem retire_checkpoints (s : State) : s.retire.checkpoints = s.checkpoints := by simp [retire]
@[simp] theorem retire_xblocks (s : State) : s.retire.xblocks = s.xblocks := by simp [retire]
@[simp] theorem retire_drFlights (s : State) : s.retire.drFlights = s.drFlights := by simp [retire]
@[simp] theorem retire_flights (s : State) : s.retire.flights = s.flights := by simp [retire]
@[simp] theorem retire_groupsDown (s : State) : s.retire.groupsDown = s.groupsDown := by simp [retire]
@[simp] theorem retire_cxlUp (s : State) : s.retire.cxlUp = s.cxlUp := by simp [retire]
@[simp] theorem retire_cxlPopulated (s : State) : s.retire.cxlPopulated = s.cxlPopulated := by simp [retire]
@[simp] theorem retire_ethUp (s : State) : s.retire.ethUp = s.ethUp := by simp [retire]
@[simp] theorem retire_clients (s : State) : s.retire.clients = s.clients := by simp [retire]
@[simp] theorem retire_jobs (s : State) : s.retire.jobs = s.jobs := by simp [retire]
@[simp] theorem retire_rings (s : State) : s.retire.rings = s.rings := by simp [retire]
@[simp] theorem retire_tests (s : State) : s.retire.tests = s.tests := by simp [retire]
@[simp] theorem retire_responses (s : State) : s.retire.responses = s.responses := by simp [retire]
@[simp] theorem retire_nextFrame (s : State) : s.retire.nextFrame = s.nextFrame := by simp [retire]
@[simp] theorem retire_mgmt (s : State) : s.retire.mgmt = s.mgmt := by simp [retire]
@[simp] theorem retire_powered (s : State) : s.retire.powered = s.powered := by simp [retire]
@[simp] theorem retire_throttled (s : State) : s.retire.throttled = s.throttled := by simp [retire]
@[simp] theorem retire_hotDies (s : State) : s.retire.hotDies = s.hotDies := by simp [retire]
@[simp] theorem retire_image (s : State) : s.retire.image = s.image := by simp [retire]
@[simp] theorem retire_jtag (s : State) : s.retire.jtag = s.jtag := by simp [retire]
@[simp] theorem retire_owed (s : State) : s.retire.owed = s.owed := by simp [retire]
@[simp] theorem retire_cycle (s : State) : s.retire.cycle = s.cycle := by simp [retire]
@[simp] theorem retire_plan (s : State) : s.retire.plan = s.plan := by simp [retire]
@[simp] theorem retire_agenda (s : State) : s.retire.agenda = s.agenda := by simp [retire]
@[simp] theorem retire_defer (s : State) : s.retire.defer = s.defer := by simp [retire]
@[simp] theorem retire_curCore (s : State) : s.retire.curCore = s.curCore := by simp [retire]
@[simp] theorem retire_curTid (s : State) : s.retire.curTid = s.curTid := by simp [retire]
@[simp] theorem retire_free (s : State) : s.retire.free = s.free := by simp [retire]
@[simp] theorem retire_upsets (s : State) : s.retire.upsets = s.upsets := by simp [retire]

@[simp] theorem jump_mem (s : State) (x : Word) : (s.jump x).mem = s.mem := by simp [jump]
@[simp] theorem jump_poison (s : State) (x : Word) : (s.jump x).poison = s.poison := by simp [jump]
@[simp] theorem jump_tags (s : State) (x : Word) : (s.jump x).tags = s.tags := by simp [jump]
@[simp] theorem jump_blurred (s : State) (x : Word) : (s.jump x).blurred = s.blurred := by simp [jump]
@[simp] theorem jump_sramPoison (s : State) (x : Word) : (s.jump x).sramPoison = s.sramPoison := by simp [jump]
@[simp] theorem jump_inbox (s : State) (x : Word) : (s.jump x).inbox = s.inbox := by simp [jump]
@[simp] theorem jump_linkWaits (s : State) (x : Word) : (s.jump x).linkWaits = s.linkWaits := by simp [jump]
@[simp] theorem jump_pathWaits (s : State) (x : Word) : (s.jump x).pathWaits = s.pathWaits := by simp [jump]
@[simp] theorem jump_booting (s : State) (x : Word) : (s.jump x).booting = s.booting := by simp [jump]
@[simp] theorem jump_admitted (s : State) (x : Word) : (s.jump x).admitted = s.admitted := by simp [jump]
@[simp] theorem jump_clusters (s : State) (x : Word) : (s.jump x).clusters = s.clusters := by simp [jump]
@[simp] theorem jump_dies (s : State) (x : Word) : (s.jump x).dies = s.dies := by simp [jump]
@[simp] theorem jump_nodes (s : State) (x : Word) : (s.jump x).nodes = s.nodes := by simp [jump]
@[simp] theorem jump_nodeGen (s : State) (x : Word) : (s.jump x).nodeGen = s.nodeGen := by simp [jump]
@[simp] theorem jump_mappings (s : State) (x : Word) : (s.jump x).mappings = s.mappings := by simp [jump]
@[simp] theorem jump_graphs (s : State) (x : Word) : (s.jump x).graphs = s.graphs := by simp [jump]
@[simp] theorem jump_insts (s : State) (x : Word) : (s.jump x).insts = s.insts := by simp [jump]
@[simp] theorem jump_nextGraph (s : State) (x : Word) : (s.jump x).nextGraph = s.nextGraph := by simp [jump]
@[simp] theorem jump_stamp (s : State) (x : Word) : (s.jump x).stamp = s.stamp := by simp [jump]
@[simp] theorem jump_pkgChans (s : State) (x : Word) : (s.jump x).pkgChans = s.pkgChans := by simp [jump]
@[simp] theorem jump_pkgHolder (s : State) (x : Word) : (s.jump x).pkgHolder = s.pkgHolder := by simp [jump]
@[simp] theorem jump_checkpoints (s : State) (x : Word) : (s.jump x).checkpoints = s.checkpoints := by simp [jump]
@[simp] theorem jump_xblocks (s : State) (x : Word) : (s.jump x).xblocks = s.xblocks := by simp [jump]
@[simp] theorem jump_drFlights (s : State) (x : Word) : (s.jump x).drFlights = s.drFlights := by simp [jump]
@[simp] theorem jump_flights (s : State) (x : Word) : (s.jump x).flights = s.flights := by simp [jump]
@[simp] theorem jump_groupsDown (s : State) (x : Word) : (s.jump x).groupsDown = s.groupsDown := by simp [jump]
@[simp] theorem jump_cxlUp (s : State) (x : Word) : (s.jump x).cxlUp = s.cxlUp := by simp [jump]
@[simp] theorem jump_cxlPopulated (s : State) (x : Word) : (s.jump x).cxlPopulated = s.cxlPopulated := by simp [jump]
@[simp] theorem jump_ethUp (s : State) (x : Word) : (s.jump x).ethUp = s.ethUp := by simp [jump]
@[simp] theorem jump_clients (s : State) (x : Word) : (s.jump x).clients = s.clients := by simp [jump]
@[simp] theorem jump_jobs (s : State) (x : Word) : (s.jump x).jobs = s.jobs := by simp [jump]
@[simp] theorem jump_rings (s : State) (x : Word) : (s.jump x).rings = s.rings := by simp [jump]
@[simp] theorem jump_tests (s : State) (x : Word) : (s.jump x).tests = s.tests := by simp [jump]
@[simp] theorem jump_responses (s : State) (x : Word) : (s.jump x).responses = s.responses := by simp [jump]
@[simp] theorem jump_nextFrame (s : State) (x : Word) : (s.jump x).nextFrame = s.nextFrame := by simp [jump]
@[simp] theorem jump_mgmt (s : State) (x : Word) : (s.jump x).mgmt = s.mgmt := by simp [jump]
@[simp] theorem jump_powered (s : State) (x : Word) : (s.jump x).powered = s.powered := by simp [jump]
@[simp] theorem jump_throttled (s : State) (x : Word) : (s.jump x).throttled = s.throttled := by simp [jump]
@[simp] theorem jump_hotDies (s : State) (x : Word) : (s.jump x).hotDies = s.hotDies := by simp [jump]
@[simp] theorem jump_image (s : State) (x : Word) : (s.jump x).image = s.image := by simp [jump]
@[simp] theorem jump_jtag (s : State) (x : Word) : (s.jump x).jtag = s.jtag := by simp [jump]
@[simp] theorem jump_owed (s : State) (x : Word) : (s.jump x).owed = s.owed := by simp [jump]
@[simp] theorem jump_cycle (s : State) (x : Word) : (s.jump x).cycle = s.cycle := by simp [jump]
@[simp] theorem jump_plan (s : State) (x : Word) : (s.jump x).plan = s.plan := by simp [jump]
@[simp] theorem jump_agenda (s : State) (x : Word) : (s.jump x).agenda = s.agenda := by simp [jump]
@[simp] theorem jump_defer (s : State) (x : Word) : (s.jump x).defer = s.defer := by simp [jump]
@[simp] theorem jump_curCore (s : State) (x : Word) : (s.jump x).curCore = s.curCore := by simp [jump]
@[simp] theorem jump_curTid (s : State) (x : Word) : (s.jump x).curTid = s.curTid := by simp [jump]
@[simp] theorem jump_free (s : State) (x : Word) : (s.jump x).free = s.free := by simp [jump]
@[simp] theorem jump_upsets (s : State) (x : Word) : (s.jump x).upsets = s.upsets := by simp [jump]

/-! ### Threads, cores, dies by key -/

theorem threadAt_setThreadAt (s : State) (k j : Nat) (t : Thread) :
    (s.setThreadAt k t).threadAt j = if j = k then t else s.threadAt j := by
  unfold threadAt setThreadAt
  rw [Map.get_insert]

theorem core_setCore (s : State) (k j : Nat) (c : Core) :
    (s.setCore k c).core j = if j = k then c else s.core j := Map.get_insert ..

theorem die_setDie (s : State) (k j : Nat) (d : Die) : (s.setDie k d).die j = if j = k then d else s.die j := Map.get_insert ..

theorem cluster_setCluster (s : State) (k j : Nat) (c : Cluster) :
    (s.setCluster k c).cluster j = if j = k then c else s.cluster j := Map.get_insert ..

/-- Updates that leave the threads leave every thread. -/
theorem threadAt_congr {s t : State} (h : t.threads = s.threads) (k : Nat) : t.threadAt k = s.threadAt k := by
  simp [threadAt, h]

theorem core_congr {s t : State} (h : t.cores = s.cores) (k : Nat) : t.core k = s.core k := by simp [core, h]

theorem die_congr {s t : State} (h : t.dies = s.dies) (k : Nat) : t.die k = s.die k := by simp [die, h]

theorem me_congr {s t : State} (h : t.threads = s.threads) (hc : t.curCore = s.curCore) (ht : t.curTid = s.curTid) :
    t.me = s.me := by simp [me, meKey, threadAt, h, hc, ht]

theorem meKey_congr {s t : State} (hc : t.curCore = s.curCore) (ht : t.curTid = s.curTid) : t.meKey = s.meKey := by
  simp [meKey, hc, ht]

@[simp] theorem me_setMe (s : State) (t : Thread) : (s.setMe t).me = t := by
  simp [me, setMe, meKey, setThreadAt, threadAt]

@[simp] theorem me_setCore (s : State) (k : Nat) (c : Core) : (s.setCore k c).me = s.me := rfl
@[simp] theorem me_setMyCore (s : State) (c : Core) : (s.setMyCore c).me = s.me := rfl
@[simp] theorem me_setDie (s : State) (k : Nat) (d : Die) : (s.setDie k d).me = s.me := rfl
@[simp] theorem me_setCluster (s : State) (k : Nat) (c : Cluster) : (s.setCluster k c).me = s.me := rfl
@[simp] theorem me_enqueue (s : State) (i : Instr) : (s.enqueue i).me = s.me := rfl
@[simp] theorem meKey_setMe (s : State) (t : Thread) : (s.setMe t).meKey = s.meKey := rfl
@[simp] theorem meKey_setMyCore (s : State) (c : Core) : (s.setMyCore c).meKey = s.meKey := rfl
@[simp] theorem setMe_setMe (s : State) (t u : Thread) : (s.setMe t).setMe u = s.setMe u := by
  simp only [setMe, setThreadAt, meKey, Map.insert_insert]
@[simp] theorem myCore_setMe (s : State) (t : Thread) : (s.setMe t).myCore = s.myCore := rfl
@[simp] theorem myCore_setMyCore (s : State) (c : Core) : (s.setMyCore c).myCore = c := by
  simp [myCore, setMyCore, setCore, core]
@[simp] theorem threadAt_setMyCore (s : State) (c : Core) (k : Nat) : (s.setMyCore c).threadAt k = s.threadAt k := rfl
@[simp] theorem threadAt_setCore (s : State) (j : Nat) (c : Core) (k : Nat) : (s.setCore j c).threadAt k = s.threadAt k := rfl
@[simp] theorem threadAt_setDie (s : State) (j : Nat) (d : Die) (k : Nat) : (s.setDie j d).threadAt k = s.threadAt k := rfl
@[simp] theorem core_setMe (s : State) (t : Thread) (k : Nat) : (s.setMe t).core k = s.core k := rfl
@[simp] theorem core_setThreadAt (s : State) (j : Nat) (t : Thread) (k : Nat) : (s.setThreadAt j t).core k = s.core k := rfl
@[simp] theorem die_setMe (s : State) (t : Thread) (k : Nat) : (s.setMe t).die k = s.die k := rfl
theorem threadAt_setMe (s : State) (t : Thread) (k : Nat) :
    (s.setMe t).threadAt k = if k = s.meKey then t else s.threadAt k := threadAt_setThreadAt ..

/-! ### Registers -/

theorem g_zero (s : State) : s.g 0 = 0 := rfl
theorem p_zero (s : State) : s.p 0 = BitVec.allOnes 128 := rfl
@[simp] theorem setG_zero (s : State) (x : Word) : s.setG 0 x = s := rfl
@[simp] theorem setP_zero (s : State) (x : Pred) : s.setP 0 x = s := rfl

theorem g_setG (s : State) (r q : Reg) (x : Word) : (s.setG r x).g q = if q = r ∧ r ≠ 0 then x else s.g q := by
  unfold setG
  by_cases hr : r = 0#5
  · simp [hr]
  · by_cases hq : q = 0#5
    · subst hq; simp [g, hr, Ne.symm hr]
    · by_cases hqr : q = r
      · subst hqr; simp [g, hr]
      · have : r.toNat ≠ q.toNat := fun h => hqr (BitVec.eq_of_toNat_eq h.symm)
        simp [g, hr, hq, hqr, this]

theorem v_setV (s : State) (r q : Reg) (x : VReg) : (s.setV r x).v q = if q = r then x else s.v q := by
  by_cases h : q = r
  · subst h; simp [v, setV]
  · have : r.toNat ≠ q.toNat := fun e => h (BitVec.eq_of_toNat_eq e.symm)
    simp [v, setV, h, this]

theorem p_setP (s : State) (r q : BitVec 3) (x : Pred) : (s.setP r x).p q = if q = r ∧ r ≠ 0 then x else s.p q := by
  unfold setP
  by_cases hr : r = 0#3
  · simp [hr]
  · by_cases hq : q = 0#3
    · subst hq; simp [p, hr, Ne.symm hr]
    · by_cases hqr : q = r
      · subst hqr; simp [p, hr]
      · have : r.toNat ≠ q.toNat := fun h => hqr (BitVec.eq_of_toNat_eq h.symm)
        simp [p, hr, hq, hqr, this]

/-- What a write of a g register leaves of its thread. -/
theorem me_setG (s : State) (r : Reg) (x : Word) :
    (s.setG r x).me = { s.me with g := if r = 0#5 then s.me.g else s.me.g.set r.toNat x } := by
  unfold setG; split <;> simp

@[simp] theorem me_setV (s : State) (r : Reg) (x : VReg) : (s.setV r x).me = { s.me with v := s.me.v.set r.toNat x } := by
  simp [setV]

@[simp] theorem v_setG (s : State) (r q : Reg) (x : Word) : (s.setG r x).v q = s.v q := by simp [v, me_setG]
@[simp] theorem p_setG (s : State) (r : Reg) (q : BitVec 3) (x : Word) : (s.setG r x).p q = s.p q := by simp [p, me_setG]
@[simp] theorem g_setV (s : State) (r q : Reg) (x : VReg) : (s.setV r x).g q = s.g q := by simp [g]
@[simp] theorem p_setV (s : State) (r : Reg) (q : BitVec 3) (x : VReg) : (s.setV r x).p q = s.p q := by simp [p]
@[simp] theorem meKey_setG (s : State) (r : Reg) (x : Word) : (s.setG r x).meKey = s.meKey := by simp [meKey]

theorem threadAt_setG (s : State) (r : Reg) (x : Word) (k : Nat) (h : k ≠ s.meKey) :
    (s.setG r x).threadAt k = s.threadAt k := by
  unfold setG; split
  · rfl
  · simp [threadAt_setMe, h]

/-! ### Retiring -/

/-- What counting a word in its interval can do: it sets one core. -/
theorem countInterval_cases (s : State) : s.countInterval = s ∨ ∃ c, s.countInterval = s.setMyCore c := by
  unfold countInterval; dsimp only; split
  · exact .inr ⟨_, rfl⟩
  · exact .inl rfl

theorem threadAt_countInterval (s : State) (k : Nat) : s.countInterval.threadAt k = s.threadAt k := by
  obtain h | ⟨c, h⟩ := countInterval_cases s <;> simp [h]

@[simp] theorem me_countInterval (s : State) : s.countInterval.me = s.me := by
  obtain h | ⟨c, h⟩ := countInterval_cases s <;> simp [h]

/-- What counting a retired word leaves of the thread. -/
theorem me_countRetired (s : State) : s.countRetired.me =
    { s.me with instret := s.me.instret + 1, cover := s.me.cover - 1, wait := none, op := none, lane := 0,
                forest := none, fixMask := none, pathSince := none } := by
  simp [countRetired]

/-- What retiring leaves of the thread: everything but the pc, INSTRET, the cover remainder and what blocked it. -/
theorem me_retire (s : State) : s.retire.me =
    { s.me with pc := (s.me.pc + 4) &&& ~~~3#64, instret := s.me.instret + 1, cover := s.me.cover - 1, wait := none,
                op := none, lane := 0, forest := none, fixMask := none, pathSince := none } := by
  simp [retire, me_countRetired, setPc]

/-- What retiring with a jump leaves of the thread. -/
theorem me_jump (s : State) (x : Word) : (s.jump x).me =
    { s.me with pc := x &&& ~~~3#64, instret := s.me.instret + 1, cover := s.me.cover - 1, wait := none, op := none,
                lane := 0, forest := none, fixMask := none, pathSince := none, fetched := none } := by
  simp [jump, me_countRetired, setPc]

@[simp] theorem meKey_countRetired (s : State) : s.countRetired.meKey = s.meKey := by simp [meKey]
@[simp] theorem meKey_setPc (s : State) (x : Word) : (s.setPc x).meKey = s.meKey := by simp [meKey]
@[simp] theorem meKey_retire (s : State) : s.retire.meKey = s.meKey := by simp [meKey]
@[simp] theorem g_retire (s : State) (r : Reg) : s.retire.g r = s.g r := by simp [g, me_retire]
@[simp] theorem v_retire (s : State) (r : Reg) : s.retire.v r = s.v r := by simp [v, me_retire]
@[simp] theorem p_retire (s : State) (r : BitVec 3) : s.retire.p r = s.p r := by simp [p, me_retire]
@[simp] theorem g_jump (s : State) (x : Word) (r : Reg) : (s.jump x).g r = s.g r := by simp [g, me_jump]

theorem threadAt_countRetired (s : State) (k : Nat) (h : k ≠ s.meKey) : s.countRetired.threadAt k = s.threadAt k := by
  rw [countRetired, threadAt_countInterval, threadAt_setMe, if_neg h]

theorem threadAt_retire (s : State) (k : Nat) (h : k ≠ s.meKey) : s.retire.threadAt k = s.threadAt k := by
  unfold retire
  rw [threadAt_countRetired _ _ (by simpa using h), setPc, threadAt_setMe, if_neg h]

/-- What retiring leaves of the cores: all but the interval count of a paired core. -/
theorem core_retire (s : State) (k : Nat) (h : s.myCore.paired = false) : s.retire.core k = s.core k := by
  have : (s.setPc (s.me.pc + 4)).myCore.paired = false := h
  simp only [retire, countRetired, countInterval]
  split
  · simp_all [myCore, core]
  · simp [core]


end State

end Sys2Proof.Machine
end

