-- ==== Sys2Proof/Laws/Memory.lean ====
section
/-! SUPPORT. Memory: what a byte reads as after a write, and that every operation that writes memory keeps the
canonical form. -/

namespace Sys2Proof.Machine

/-! ### The canonical form of a map -/

theorem Map.wf_iff {α : Type} [DecidableEq α] (d : α) (m : Map α) :
    Map.wf d m = true ↔ m.Pairwise (fun a b => a.1 < b.1) ∧ ∀ e ∈ m, e.2 ≠ d := by
  simp [Map.wf]

theorem Map.mem_insert {α : Type} {m : Map α} {k : Nat} {x : α} {e : Nat × α} (h : e ∈ Map.insert m k x) :
    e = (k, x) ∨ e ∈ m := by
  induction m with
  | nil => simpa [Map.insert] using h
  | cons a r ih =>
    obtain ⟨k', v⟩ := a
    simp only [Map.insert] at h
    split at h
    · simpa using h
    · split at h
      · rcases List.mem_cons.1 h with h | h <;> simp [h]
      · rcases List.mem_cons.1 h with h | h
        · simp [h]
        · rcases ih h with h | h <;> simp [h]

theorem Map.pairwise_insert {α : Type} {m : Map α} (k : Nat) (x : α) (h : m.Pairwise fun a b => a.1 < b.1) :
    (Map.insert m k x).Pairwise fun a b => a.1 < b.1 := by
  induction m with
  | nil => simp [Map.insert]
  | cons a r ih =>
    obtain ⟨k', v⟩ := a
    rw [List.pairwise_cons] at h
    simp only [Map.insert]
    split
    · rename_i hk
      refine List.pairwise_cons.2 ⟨fun e he => ?_, List.pairwise_cons.2 h⟩
      rcases List.mem_cons.1 he with he | he
      · simpa [he] using hk
      · exact Nat.lt_trans hk (h.1 e he)
    · split
      · rename_i _ hk
        exact List.pairwise_cons.2 ⟨fun e he => by simpa [hk] using h.1 e he, h.2⟩
      · rename_i h1 h2
        refine List.pairwise_cons.2 ⟨fun e he => ?_, ih h.2⟩
        rcases Map.mem_insert he with he | he
        · subst he; simp; omega
        · exact h.1 e he

theorem Map.erase_sublist {α : Type} (m : Map α) (k : Nat) : (Map.erase m k).Sublist m := by
  induction m with
  | nil => exact List.Sublist.refl _
  | cons a r ih =>
    obtain ⟨k', v⟩ := a
    simp only [Map.erase]
    split
    · exact ih.cons _
    · exact ih.cons_cons _

theorem Map.wf_sublist {α : Type} [DecidableEq α] {d : α} {m n : Map α} (hs : n.Sublist m) (h : Map.wf d m = true) :
    Map.wf d n = true := by
  rw [Map.wf_iff] at *
  exact ⟨h.1.sublist hs, fun e he => h.2 e (hs.subset he)⟩

theorem Map.wf_put {α : Type} [DecidableEq α] {d : α} {m : Map α} (k : Nat) (x : α) (h : Map.wf d m = true) :
    Map.wf d (Map.put d m k x) = true := by
  unfold Map.put
  split
  · exact Map.wf_sublist (Map.erase_sublist m k) h
  · rename_i hx
    rw [Map.wf_iff] at *
    refine ⟨Map.pairwise_insert k x h.1, fun e he => ?_⟩
    rcases Map.mem_insert he with he | he
    · simpa [he] using hx
    · exact h.2 e he

theorem Map.find_of_lt {α : Type} {m : Map α} {k : Nat} (h : ∀ e ∈ m, k < e.1) : Map.find m k = none := by
  induction m with
  | nil => rfl
  | cons a r ih =>
    obtain ⟨k', v⟩ := a
    have := h (k', v) (by simp)
    rw [Map.find, if_neg (by simpa using Nat.ne_of_gt this)]
    exact ih fun e he => h e (by simp [he])

theorem Memory.wf_nil : Memory.wf [] = true := rfl

theorem Memory.wf_filter {m : Memory} (f : Host.Cell → Bool) (h : Memory.wf m = true) : Memory.wf (m.filter f) = true :=
  Map.wf_sublist List.filter_sublist h

theorem Memory.wf_putAll {m : Memory} (f : Host.Cell → Nat) (l : List Host.Cell) (h : Memory.wf m = true) :
    Memory.wf (l.foldl (fun m e => Map.put 0 m (f e) e.2) m) = true := by
  induction l generalizing m with
  | nil => exact h
  | cons e r ih => exact ih (Map.wf_put _ _ h)

namespace State

/-! ### Reading after writing -/

theorem memByte_putByte (s : State) (k j : Nat) (b : Byte) : (s.putByte k b).memByte j = if j = k then b else s.memByte j :=
  Map.get_put ..

theorem memByte_congr {s t : State} (h : t.mem = s.mem) (k : Nat) : t.memByte k = s.memByte k := by simp [memByte, h]

theorem memByte_putBytes (s : State) (k : Nat) (bs : List Byte) (j : Nat) :
    (s.putBytes k bs).memByte j = if k ≤ j ∧ j < k + bs.length then bs.getD (j - k) 0 else s.memByte j := by
  induction bs generalizing s k with
  | nil =>
    have : ¬ (k ≤ j ∧ j < k) := by omega
    simp [putBytes, this]
  | cons b r ih =>
    rw [putBytes, ih, memByte_putByte]
    by_cases h : j = k
    · have : ¬ (k + 1 ≤ j) := by omega
      simp [h]
    · by_cases h2 : k + 1 ≤ j ∧ j < k + 1 + r.length
      · have h3 : k ≤ j ∧ j < k + (b :: r).length := by simp; omega
        have h4 : j - k = j - (k + 1) + 1 := by omega
        rw [if_pos h2, if_pos h3, h4, List.getD_cons_succ]
      · have h3 : ¬ (k ≤ j ∧ j < k + (b :: r).length) := by simp; omega
        rw [if_neg h2, if_neg h3, if_neg h]

@[simp] theorem mem_coverPoison (s : State) (f : Nat → Bool) : (s.coverPoison f).mem = s.mem := rfl
@[simp] theorem mem_coverRun (s : State) (k n : Nat) : (s.coverRun k n).mem = s.mem := by unfold coverRun; split <;> rfl
@[simp] theorem mem_tagByte (s : State) (pa : Nat) (key : KeyMat) : (s.tagByte pa key).mem = s.mem := rfl
@[simp] theorem mem_endAdmission (s : State) (pa n : Nat) : (s.endAdmission pa n).mem = s.mem := rfl
@[simp] theorem mem_loseNodes (s : State) (d : Nat) : (s.loseNodes d).mem = s.mem := rfl
@[simp] theorem mem_loseObjects (s : State) (k : Nat) (d : Die) : (s.loseObjects k d).mem = s.mem := rfl
@[simp] theorem mem_losePieces (s : State) (d : Die) : (s.losePieces d).mem = s.mem := rfl

/-- What a write destroys in a pool is no byte of memory. -/
@[simp] theorem mem_disturbPools (s : State) (pa n : Nat) : (s.disturbPools pa n).mem = s.mem := by
  have fold : ∀ (l : Map Die) (u : State), (l.foldl (fun s e =>
      let s := if meetsLp e.2 pa n then s.loseNodes e.1 else s
      let s := if meetsSeo e.2 pa n then s.loseObjects e.1 e.2 else s
      if meetsMig e.2 pa n then s.losePieces e.2 else s) u).mem = u.mem := by
    intro l
    induction l with
    | nil => exact fun u => rfl
    | cons e r ih =>
      intro u
      refine (ih _).trans ?_
      dsimp only
      split <;> split <;> split <;> simp
  exact fold s.dies s
@[simp] theorem mem_carve (s : State) (pa n : Nat) : (s.carve pa n).mem = s.mem := rfl
@[simp] theorem mem_blur (s : State) (pa n : Nat) : (s.blur pa n).mem = s.mem := by
  unfold blur; dsimp only; split
  · rfl
  · split <;> exact mem_endAdmission s pa n
@[simp] theorem mem_setPoison (s : State) (k : Nat) : (s.setPoison k).mem = s.mem := rfl

/-- A write of bytes to a scratchpad is seen in those bytes and nowhere else. -/
theorem memByte_padWrite (s : State) (core off : Nat) (bs : List Byte) (j : Nat) :
    (s.padWrite core off bs).memByte j =
      if padBase core + off ≤ j ∧ j < padBase core + off + bs.length then bs.getD (j - (padBase core + off)) 0
      else s.memByte j := by
  rw [padWrite, memByte_congr (mem_coverRun ..), memByte_putBytes]

theorem memByte_physPut (s : State) (pa : Nat) (key : KeyMat) (bs : List Byte) (j : Nat) :
    (s.physPut pa key bs).memByte j = if pa ≤ j ∧ j < pa + bs.length then bs.getD (j - pa) 0 else s.memByte j := by
  induction bs generalizing s pa with
  | nil =>
    have : ¬ (pa ≤ j ∧ j < pa) := by omega
    simp [physPut, this]
  | cons b r ih =>
    rw [physPut, ih, memByte_congr (mem_tagByte ..), memByte_putByte]
    by_cases h : j = pa
    · have : ¬ (pa + 1 ≤ j) := by omega
      simp [h]
    · by_cases h2 : pa + 1 ≤ j ∧ j < pa + 1 + r.length
      · have h3 : pa ≤ j ∧ j < pa + (b :: r).length := by simp; omega
        have h4 : j - pa = j - (pa + 1) + 1 := by omega
        rw [if_pos h2, if_pos h3, h4, List.getD_cons_succ]
      · have h3 : ¬ (pa ≤ j ∧ j < pa + (b :: r).length) := by simp; omega
        rw [if_neg h2, if_neg h3, if_neg h]

/-- A write of bytes to physical memory is seen in those bytes and nowhere else. -/
theorem memByte_physWrite (s : State) (pa slot : Nat) (bs : List Byte) (j : Nat) :
    (s.physWrite pa slot bs).memByte j = if pa ≤ j ∧ j < pa + bs.length then bs.getD (j - pa) 0 else s.memByte j := by
  cases bs with
  | nil =>
    have : ¬ (pa ≤ j ∧ j < pa) := by omega
    simp [physWrite, this]
  | cons b r =>
    rw [physWrite, memByte_congr (mem_disturbPools ..), memByte_congr (mem_carve ..), memByte_congr (mem_endAdmission ..),
      memByte_congr (mem_coverRun ..), memByte_physPut]
    simp

/-! ### Every operation that writes memory keeps the canonical form -/

theorem wf_putByte {s : State} (k : Nat) (b : Byte) (h : Memory.wf s.mem = true) : Memory.wf (s.putByte k b).mem = true :=
  Map.wf_put k b h

theorem wf_putBytes {s : State} (k : Nat) (bs : List Byte) (h : Memory.wf s.mem = true) :
    Memory.wf (s.putBytes k bs).mem = true := by
  induction bs generalizing s k with
  | nil => exact h
  | cons b r ih => exact ih _ (wf_putByte k b h)

theorem wf_padWrite {s : State} (core off : Nat) (bs : List Byte) (h : Memory.wf s.mem = true) :
    Memory.wf (s.padWrite core off bs).mem = true := by
  rw [padWrite, mem_coverRun]
  exact wf_putBytes _ _ h

theorem wf_physPut {s : State} (pa : Nat) (key : KeyMat) (bs : List Byte) (h : Memory.wf s.mem = true) :
    Memory.wf (s.physPut pa key bs).mem = true := by
  induction bs generalizing s pa with
  | nil => exact h
  | cons b r ih => exact ih _ (s := (s.putByte pa b).tagByte pa key) (by simpa using wf_putByte pa b h)

theorem wf_physWrite {s : State} (pa slot : Nat) (bs : List Byte) (h : Memory.wf s.mem = true) :
    Memory.wf (s.physWrite pa slot bs).mem = true := by
  cases bs with
  | nil => exact h
  | cons b r => simpa [physWrite] using wf_physPut pa _ (b :: r) h

theorem wf_clearPad {s : State} (c : Nat) (h : Memory.wf s.mem = true) : Memory.wf (s.clearPad c).mem = true :=
  Memory.wf_filter _ h

theorem wf_zeroFrame {s : State} (f : Nat) (key : KeyMat) (h : Memory.wf s.mem = true) :
    Memory.wf (s.zeroFrame f key).mem = true := Memory.wf_filter _ h

theorem wf_keptMemory {s : State} (h : Memory.wf s.mem = true) : Memory.wf s.keptMemory.mem = true :=
  Memory.wf_filter _ h

/-- The two loads of a saved scratchpad (R309, R98) put its entries one by one. -/
theorem wf_padLoad {s : State} (c : Nat) (pad : List Host.Cell) (h : Memory.wf s.mem = true) :
    Memory.wf (pad.foldl (fun m (e : Host.Cell) => Map.put 0 m (padBase c + e.1) e.2) (s.clearPad c).mem) = true :=
  Memory.wf_putAll (fun e => padBase c + e.1) pad (wf_clearPad c h)

end State

end Sys2Proof.Machine
end

