-- ==== Sys2Proof/Laws/Ops.lean ====
section
/-! SUPPORT. What the shared operations can do: breaking a convoy, taking a trap, returning from one, jumping. -/

namespace Sys2Proof.Machine

namespace State

/-- A change of threads and of the agenda alone that keeps, of the thread whose word executes, everything but what a convoy
breaks. -/
def ConvoyBreak (s t : State) : Prop :=
  (∃ m g, t = { s with threads := m, agenda := g }) ∧
    ∃ cv cvb pend, t.me = { s.me with convoy := cv, cvb := cvb, pending := pend }

theorem ConvoyBreak.refl (s : State) : ConvoyBreak s s :=
  ⟨⟨s.threads, s.agenda, rfl⟩, s.me.convoy, s.me.cvb, s.me.pending, rfl⟩

theorem ConvoyBreak.trans {s t u : State} (h : ConvoyBreak s t) (k : ConvoyBreak t u) : ConvoyBreak s u := by
  obtain ⟨⟨m, g, rfl⟩, c1, c2, c3, e1⟩ := h
  obtain ⟨⟨n, g', rfl⟩, d1, d2, d3, e2⟩ := k
  exact ⟨⟨n, g', rfl⟩, d1, d2, d3, by rw [e2, e1]⟩

/-- Giving one thread another convoy, CVB and pending trap is such a change. -/
theorem ConvoyBreak.set (s : State) (k : Nat) (cv : Option Convoy) (cvb : Bool) (pend : Option PendingTrap) :
    ConvoyBreak s (s.setThreadAt k { s.threadAt k with convoy := cv, cvb := cvb, pending := pend }) := by
  refine ⟨⟨_, s.agenda, rfl⟩, ?_⟩
  by_cases h : s.meKey = k
  · subst h
    exact ⟨cv, cvb, pend, me_setMe s _⟩
  · refine ⟨s.me.convoy, s.me.cvb, s.me.pending, ?_⟩
    show (s.setThreadAt k _).threadAt s.meKey = _
    rw [threadAt_setThreadAt, if_neg h]
    rfl

/-- A trap that becomes pending for a thread is such a change. -/
theorem pendTrap_break (s : State) (core tid : Nat) (p : PendingTrap) : ConvoyBreak s (s.pendTrap core tid p) := by
  have h := ConvoyBreak.set s (threadKey core tid) (s.thread core tid).convoy (s.thread core tid).cvb
    (some (firstTrap (s.thread core tid).pending p))
  unfold pendTrap
  dsimp only
  split
  · exact h.trans ⟨⟨_, _, rfl⟩, _, _, _, rfl⟩
  · exact h

theorem breakConvoy_break (s : State) : ConvoyBreak s s.breakConvoy := by
  unfold breakConvoy
  cases hc : s.me.convoy with
  | none => exact .refl s
  | some c =>
    dsimp only
    have fold : ∀ (l : List Nat) (x : State), ConvoyBreak s x → ConvoyBreak s (l.foldl (fun s' k =>
        if k = s.me.spanix.toNat then s'
        else
          match s'.memberCore s'.curCore k with
          | none => s'
          | some core =>
            let t := s'.thread core s'.curTid.toNat
            let s' := s'.setThread core s'.curTid.toNat { t with convoy := none, cvb := true }
            if c.strict then s'.pendTrap core s'.curTid.toNat ⟨11, BitVec.ofNat 64 s.me.spanix.toNat, false⟩ else s') x) := by
      intro l
      induction l with
      | nil => exact fun x h => h
      | cons k r ih =>
        intro x h
        refine ih _ ?_
        dsimp only
        split
        · exact h
        · split
          · exact h
          · rename_i core _
            have h1 := h.trans (.set x (threadKey core x.curTid.toNat) none true (x.thread core x.curTid.toNat).pending)
            split
            · exact h1.trans (pendTrap_break ..)
            · exact h1
    have h := fold c.members s (.refl s)
    refine h.trans ?_
    exact .set _ _ none _ _

/-- Entering a trap changes nothing but threads and the agenda (R86). -/
theorem enterTrap_threads (s : State) (f : Bool) (c : BitVec 8) (v : Word) :
    ∃ m g, s.enterTrap f c v = { s with threads := m, agenda := g } := by
  obtain ⟨⟨m, g, h⟩, -⟩ := breakConvoy_break s
  unfold enterTrap
  rw [h]
  exact ⟨_, _, rfl⟩

/-- Where no pass of a capture is under way, or a captured word raises it, a trap is entered at once (R110). -/
theorem takeTrapFrom_enters {s : State} {f : Bool} (c : BitVec 8) (v : Word) (h : (!f && midPass s.me) = false) :
    s.takeTrapFrom f c v = s.enterTrap f c v := by
  simp [takeTrapFrom, h]

/-- Taking a trap changes nothing but threads and the agenda. -/
theorem takeTrapFrom_threads (s : State) (f : Bool) (c : BitVec 8) (v : Word) :
    ∃ m g, s.takeTrapFrom f c v = { s with threads := m, agenda := g } := by
  unfold takeTrapFrom
  split
  · exact ⟨_, s.agenda, rfl⟩
  · exact enterTrap_threads s f c v

/-- What suspending a capture keeps of a thread. -/
theorem suspendCapture_keeps (t : Thread) (f : Bool) :
    ∃ c x, suspendCapture t f = { t with capture := c, vseq := x } := by
  unfold suspendCapture
  split
  · exact ⟨t.capture, _, rfl⟩
  · split
    · exact ⟨t.capture, _, rfl⟩
    · split <;> exact ⟨_, _, rfl⟩

/-- Entering a trap (R86): what the thread holds then. -/
theorem me_enterTrap (s : State) (f : Bool) (c : BitVec 8) (v : Word) :
    ∃ cv cvb pend cap vs, (s.enterTrap f c v).me = { s.me with
      convoy := cv, cvb := cvb, pending := pend, capture := cap, vseq := vs,
      epc := s.me.pc, causeCode := c, causeAsync := c = 15, tval := v, pmode := s.me.mode, mode := .service,
      pc := s.myCore.tvec, keptCover := s.me.cover, cover := 0, wait := none, op := none, lane := 0, forest := none, fetched := none,
      parked := none, fixMask := none, pathSince := none } := by
  obtain ⟨⟨m, g, h⟩, cv, cvb, pend, e⟩ := breakConvoy_break s
  obtain ⟨cap, vs, k⟩ := suspendCapture_keeps s.breakConvoy.me f
  refine ⟨cv, cvb, pend.filter fun p => !p.own, cap, vs, ?_⟩
  unfold enterTrap
  rw [me_setMe, k, e]
  simp [h, myCore, core]

theorem mem_takeTrapFrom (s : State) (f : Bool) (c : BitVec 8) (v : Word) : (s.takeTrapFrom f c v).mem = s.mem := by
  obtain ⟨m, g, h⟩ := takeTrapFrom_threads s f c v
  rw [h]

theorem cores_takeTrapFrom (s : State) (f : Bool) (c : BitVec 8) (v : Word) : (s.takeTrapFrom f c v).cores = s.cores := by
  obtain ⟨m, g, h⟩ := takeTrapFrom_threads s f c v
  rw [h]

/-- A trap leaves the registers that programs compute with. -/
theorem me_takeTrapFrom_keeps (s : State) (f : Bool) (c : BitVec 8) (v : Word) :
    (s.takeTrapFrom f c v).me.g = s.me.g ∧ (s.takeTrapFrom f c v).me.v = s.me.v ∧ (s.takeTrapFrom f c v).me.p = s.me.p := by
  unfold takeTrapFrom
  split
  · simp
  · obtain ⟨_, _, _, _, _, h⟩ := me_enterTrap s f c v
    simp [h]

theorem g_takeTrapFrom (s : State) (f : Bool) (c : BitVec 8) (v : Word) (r : Reg) : (s.takeTrapFrom f c v).g r = s.g r := by
  simp [g, me_takeTrapFrom_keeps s f c v]

theorem v_takeTrapFrom (s : State) (f : Bool) (c : BitVec 8) (v : Word) (r : Reg) : (s.takeTrapFrom f c v).v r = s.v r := by
  simp [State.v, me_takeTrapFrom_keeps s f c v]

theorem p_takeTrapFrom (s : State) (f : Bool) (c : BitVec 8) (v : Word) (r : BitVec 3) :
    (s.takeTrapFrom f c v).p r = s.p r := by
  simp [State.p, me_takeTrapFrom_keeps s f c v]

/-- Outside a convoy no other thread is touched by a trap. -/
theorem threadAt_takeTrapFrom (s : State) (f : Bool) (c : BitVec 8) (v : Word) (k : Nat) (hc : s.me.convoy = none)
    (hk : k ≠ s.meKey) : (s.takeTrapFrom f c v).threadAt k = s.threadAt k := by
  unfold takeTrapFrom
  split
  · rw [threadAt_setMe, if_neg hk]
  · unfold enterTrap breakConvoy
    rw [hc]
    dsimp only
    rw [threadAt_setMe, if_neg hk]

/-- Returning from a trap without a suspended capture (R89): the pc is EPC with its bits 1:0 clear, the mode PMODE, the
cover remainder the kept one. -/
theorem me_returnFromTrap (s : State) (ha : s.me.vseq.act = false) (hc : s.me.capture = none) :
    s.returnFromTrap.me = { s.me with
      pc := s.me.epc &&& ~~~3#64, mode := s.me.pmode, cover := s.me.keptCover, keptCover := 0,
      instret := s.me.instret + 1, wait := none, op := none, lane := 0, forest := none, fixMask := none,
      pathSince := none, fetched := none } := by
  simp [returnFromTrap, resumeCapture, ha, me_jump, hc]

end State

end Sys2Proof.Machine
end

