-- ==== Sys2Proof/Tests/Slice0.lean ====
section
/-! SUPPORT. Tests of the model: words of each family written out from the spec's encodings, what well-formedness
refuses, single steps with values worked out by hand from the spec, and for each statement of the provers a state and
operands that meet its hypotheses. -/

namespace Sys2Proof.Tests

open Machine Safety

set_option Elab.async false
set_option maxRecDepth 100000

/-! ### Small states -/

/-- The g registers given, every other 0. -/
def gs (l : List (Nat × Word)) : Vector Word 32 := Vector.ofFn fun j => Map.get 0 l j.val

/-- A running task thread with some g registers. -/
def task (l : List (Nat × Word)) : Thread :=
  { Thread.idle 0 with running := true, pc := 0x4000000000, g := gs l }

/-- A service thread with some g registers. -/
def service (l : List (Nat × Word)) : Thread := { task l with mode := .service }

/-- Thread 0 of core 0 executes, the module being ready. -/
def on (t : Thread) : State :=
  { State.reset with curCore := 0, curTid := 0, threads := [(0, t)], mgmt := { State.reset.mgmt with step := 7 } }

/-- The state that an instruction leaves. -/
def next (i : Instr) (s : State) : State :=
  match exec i s with
  | .next t => t
  | _ => s

/-! ### Decoding: a word of each major, its fields written out (R57, R62 to R64) -/

theorem test_decode_op : decode (0b000001#6 ++ 0b00011#5 ++ 0b00001#5 ++ 0b00010#5 ++ 0b00000000001#11) = .ok (.sub 3 1 2) := by
  decide +kernel
theorem test_decode_imm : decode (0b000010#6 ++ 0b00100#5 ++ 0b00101#5 ++ 0b1111111111111111#16) = .ok (.addi 4 5 0xFFFF) := by
  decide +kernel
theorem test_decode_shi : decode (0b001000#6 ++ 0b00001#5 ++ 0b00010#5 ++ 0b01#2 ++ 0b00000000#8 ++ 0b100000#6) =
    .ok (.srli 1 2 32) := by decide +kernel
theorem test_decode_lui : decode (0b001001#6 ++ 0b00001#5 ++ 0b00000#5 ++ 0b1000000000000001#16) = .ok (.lui 1 0x8001) := by
  decide +kernel
theorem test_decode_addpc : decode (0b001010#6 ++ 0b11111#5 ++ 0b00000#5 ++ 0b0000000000000001#16) = .ok (.addpc 31 1) := by
  decide +kernel
theorem test_decode_fop : decode (0b001011#6 ++ 0b00001#5 ++ 0b00010#5 ++ 0b00011#5 ++ 0b00#2 ++ 0b111#3 ++ 0b000001#6) =
    .ok (.fsub 1 2 3 7) := by decide +kernel
theorem test_decode_load : decode (0b010010#6 ++ 0b00111#5 ++ 0b01000#5 ++ 0b0000000000001000#16) = .ok (.ld 7 8 8) := by
  decide +kernel
theorem test_decode_store : decode (0b010110#6 ++ 0b00111#5 ++ 0b01000#5 ++ 0b1111111111111000#16) = .ok (.sd 7 8 0xFFF8) := by
  decide +kernel
theorem test_decode_ord : decode (0b010111#6 ++ 0b00001#5 ++ 0b00010#5 ++ 0b00000000#8 ++ 0b10#2 ++ 0b000001#6) =
    .ok (.ldah 1 2 2) := by decide +kernel
theorem test_decode_amo : decode (0b011000#6 ++ 0b00001#5 ++ 0b00010#5 ++ 0b00011#5 ++ 0b1#1 ++ 0b10#2 ++ 0b11#2 ++ 0b000001#6) =
    .ok (.amoand 1 2 3 1 2 3) := by decide +kernel
theorem test_decode_branch : decode (0b011001#6 ++ 0b00001#5 ++ 0b00010#5 ++ 0b1111111111111110#16) = .ok (.beq 1 2 0xFFFE) := by
  decide +kernel
theorem test_decode_jal : decode (0b011111#6 ++ 0b10000000000000000000000001#26) = .ok (.jal 0x2000001) := by decide +kernel
theorem test_decode_sys : decode (0b100001#6 ++ 0b000000000000000#15 ++ 0b00101#5 ++ 0b000001#6) = .ok (.brk 5) := by
  decide +kernel
theorem test_decode_sysr : decode (0b100010#6 ++ 0b00001#5 ++ 0b00000#5 ++ 0b0000#4 ++ 0b000100000000#12) = .ok (.sysr 1 0x100) := by
  decide +kernel
theorem test_decode_sync : decode (0b100100#6 ++ 0b00000#5 ++ 0b01001#5 ++ 0b0000000000000001#16) = .ok (.wait 9) := by
  decide +kernel
theorem test_decode_loop : decode (0b100101#6 ++ 0b00111#5 ++ 0b00000#5 ++ 0b1111111111111111#16) = .ok (.loop 7 0xFFFF) := by
  decide +kernel
theorem test_decode_crit : decode (0b100110#6 ++ 0b0000000000000000000000#22 ++ 0b1111#4) = .ok (.crit 15) := by decide +kernel
theorem test_decode_varith : decode (0b101000#6 ++ 0b00001#5 ++ 0b00010#5 ++ 0b00011#5 ++ 0b101#3 ++ 0b011#3 ++ 0b00001#5) =
    .ok (.vsub 1 2 3 5 3) := by decide +kernel
theorem test_decode_vimm : decode (0b101110#6 ++ 0b00001#5 ++ 0b001#3 ++ 0b01#2 ++ 0b1000000000000000#16) =
    .ok (.vaddi 1 1 0x8000) := by decide +kernel
theorem test_decode_vmem : decode (0b101111#6 ++ 0b00001#5 ++ 0b00010#5 ++ 0b00000#5 ++ 0b111#3 ++ 0b000#3 ++ 0b00001#5) =
    .ok (.vst 1 2 7 0) := by decide +kernel
theorem test_decode_mma : decode (0b110000#6 ++ 0b1#1 ++ 0b0#1 ++ 0b0#1 ++ 0b01#2 ++ 0b00011#5 ++ 0b00100#5 ++ 0b00101#5 ++
    0b000010#6) = .ok (.mma 1 0 0 1 3 4 5 2) := by decide +kernel
theorem test_decode_mctl : decode (0b110011#6 ++ 0b00001#5 ++ 0b000000000000000000001#21) = .ok (.mzero 1) := by decide +kernel
theorem test_decode_copy : decode (0b110100#6 ++ 0b00001#5 ++ 0b00100#5 ++ 0b0000000000000001#16) = .ok (.copyt 1 4) := by
  decide +kernel
theorem test_decode_bits : decode (0b110101#6 ++ 0b00001#5 ++ 0b00000#5 ++ 0b00010#5 ++ 0b00000#5 ++ 0b000001#6) =
    .ok (.bbget 1 2 0) := by decide +kernel
theorem test_decode_lin : decode (0b110110#6 ++ 0b00001#5 ++ 0b00010#5 ++ 0b0000000000000001#16) = .ok (.fork 1 2) := by
  decide +kernel
theorem test_decode_eqv : decode (0b110111#6 ++ 0b00001#5 ++ 0b00010#5 ++ 0b0000000000000001#16) = .ok (.eqfree 1 2) := by
  decide +kernel
theorem test_decode_dred : decode (0b111000#6 ++ 0b00001#5 ++ 0b00010#5 ++ 0b00011#5 ++ 0b00100#5 ++ 0b000001#6) =
    .ok (.drsend 1 2 3 4) := by decide +kernel
theorem test_decode_refuses_major0 : decode 0x00000000#32 = .error .noMajor := by decide +kernel
theorem test_decode_refuses_function : decode 0x0400001C#32 = .error .functionCode := by decide +kernel

/-! ### Well-formedness refuses what R65 refuses: an ill-formed term for each check -/

theorem test_wf_refuses_extend : (Instr.sext 1 2 3).wf = false ∧ (Instr.zext 1 2 3).wf = false := by decide
theorem test_wf_refuses_rounding : ([5, 6].all fun r => [Instr.fadd 1 2 3 r, .fsub 1 2 3 r, .fmul 1 2 3 r, .fdiv 1 2 3 r,
    .fsqrt 1 2 r, .ftoi 1 2 r, .fton 1 2 r, .itof 1 2 r, .ntof 1 2 r, .ftobf 1 2 r, .ftoh 1 2 r].all fun i => !i.wf) = true := by decide
theorem test_wf_refuses_convoy : (Instr.convoy 1 0).wf = false ∧ (Instr.convoyS 1 0).wf = false := by decide
theorem test_wf_refuses_system : (Instr.sysr 1 0x007).wf = false ∧ (Instr.sysw 1 0x007).wf = false ∧ (Instr.sysw 1 0x040).wf = false := by
  decide
theorem test_wf_refuses_sync : ([Instr.barq 1 2 3, .mbwait 1 2 16, .mbsub 1 2 16, .mbread 1 16, .loop 0 1].all fun i => !i.wf) = true := by
  decide
theorem test_wf_refuses_float_only : ([Instr.vdiv 1 2 3 0 3, .vsqrt 1 2 0 3, .vrcp 1 2 0 3, .vrsqrt 1 2 0 3, .vcbdec 1 2 3 0 3,
    .vredamax 1 2 0 3, .vredamin 1 2 0 3, .vexp 1 2 0 3, .vlog 1 2 0 3, .vtanh 1 2 0 3, .vsigm 1 2 0 3, .vsilu 1 2 0 3,
    .vgelu 1 2 0 3, .vquant 1 2 3 0 3, .vdequant 1 2 3 0 3].all fun i => !i.wf) = true := by decide
theorem test_wf_refuses_integer_only : ([Instr.vadds 1 2 3 0 2, .vsubs 1 2 3 0 2, .vmulh 1 2 3 0 2, .vshl 1 2 3 0 2,
    .vshr 1 2 3 0 2, .vsra 1 2 3 0 2, .vcmpltn 1 2 3 0 2, .viota 1 0 2].all fun i => !i.wf) = true := by decide
theorem test_wf_refuses_predicates : ([Instr.vcmpeq 8 1 2 0 0, .vcmpne 8 1 2 0 0, .vcmplt 8 1 2 0 0, .vcmple 8 1 2 0 0,
    .vcmpltn 8 1 2 0 3, .pand 8 1 1, .por 1 8 1, .pxor 1 1 8, .pnot 1 8, .pcnt 1 8 0, .pfirst 1 8 0, .pset 8 1 0].all
      fun i => !i.wf) = true := by decide
theorem test_wf_refuses_types : ([Instr.vcvt 1 2 17 0 0, .vcvts 1 2 17 0 0, .vquant 1 2 1 0 0, .vdequant 1 2 1 0 0, .vcbload 4,
    .vrand 1 0 3, .vldx 1 2 3 0 5, .vstx 1 2 3 0 6, .vldrow 1 2 3 0 1, .vldcol 1 2 3 0 1, .vstrow 1 2 3 0 1, .vstcol 1 2 3 0 1,
    .vscatadd 1 2 3 0 1].all fun i => !i.wf) = true := by decide
theorem test_wf_refuses_matrix : ([Instr.mma 0 0 0 0 1 2 3 14, .mma 0 0 1 2 1 2 3 0, .mma 0 0 0 0 1 2 0 6, .mma 0 0 0 0 1 2 1 12,
    .mmd 0 0 0 0 1 2 3 6, .mmd 0 0 1 1 1 2 3 0, .mms 0 0 0 1 2 0 6, .mzero 2, .mload 2 1 1, .mstore 2 1 1 0, .mstore 1 1 1 4,
    .mquant 1 2 1, .midx 1].all fun i => !i.wf) = true := by decide
theorem test_wf_refuses_engines : ([Instr.copy 1 0, .copyt 1 6, .ringinit 1 2 8, .await 1 8, .relslot 8, .ringq 1 3 0, .ringq 1 0 8,
    .bbinit 1 2 3 2, .bbget 1 1 1, .bbpeek 1 1 1, .bbskip 1 1 1, .bbapp 1 2 1 1, .tinfo 1 2 9, .tinfo 1 2 7, .eqstat 1 2 4,
    .drstat 1 2 3 4].all fun i => !i.wf) = true := by decide

/-! ### Single steps, with values worked out from the rules -/

-- R76: 2^64 - 1 + 1 wraps to 0
theorem test_add_wraps : (next (.add 3 1 2) (on (task [(1, 0xFFFFFFFFFFFFFFFF), (2, 1)]))).g 3 = 0 := by decide +kernel
-- R75, R81: JALR computes its target from the old g(a) though d = a
theorem test_jalr_reads_first : (next (.jalr 5 5 4) (on (task [(5, 0x4000001000)]))).me.pc = 0x4000001004 ∧
    (next (.jalr 5 5 4) (on (task [(5, 0x4000001000)]))).g 5 = 0x4000000004 := by decide +kernel
-- R76: the arithmetic shift takes the low six bits of g(b)
theorem test_sra_amount : (next (.sra 3 1 2) (on (task [(1, 0x8000000000000000), (2, 65)]))).g 3 = 0xC000000000000000 := by
  decide +kernel
-- R77: 7 / 0 is all ones, 7 rem 0 is 7; -7 / 2 is -3
theorem test_div_by_zero : (next (.div 3 1 2) (on (task [(1, 7)]))).g 3 = 0xFFFFFFFFFFFFFFFF ∧
    (next (.rem 3 1 2) (on (task [(1, 7)]))).g 3 = 7 := by decide +kernel
theorem test_div_rounds_to_zero :
    (next (.div 3 1 2) (on (task [(1, 0xFFFFFFFFFFFFFFF9), (2, 2)]))).g 3 = 0xFFFFFFFFFFFFFFFD := by decide +kernel
-- R76: (-1) * (-1) = 1, whose high half is 0; unsigned, the high half of (2^64 - 1)^2 is 2^64 - 2
theorem test_mulh_signs : (next (.mulh 3 1 1) (on (task [(1, 0xFFFFFFFFFFFFFFFF)]))).g 3 = 0 ∧
    (next (.mulhn 3 1 1) (on (task [(1, 0xFFFFFFFFFFFFFFFF)]))).g 3 = 0xFFFFFFFFFFFFFFFE := by decide +kernel
theorem test_lui_sign : (next (.lui 3 0x8000) (on (task []))).g 3 = 0xFFFFFFFF80000000 := by decide +kernel
-- g0 discards
theorem test_g0_discards : (next (.addi 0 0 5) (on (task []))).g 0 = 0 := by decide +kernel
-- R80: 1 + 2^-24 is inexact; toward zero it is 1, up it is 1 + 2^-23
theorem test_fadd_rounds : (next (.fadd 3 1 2 1) (on (task [(1, 0x3F800000), (2, 0x33800000)]))).g 3 = 0x3F800000 ∧
    (next (.fadd 3 1 2 3) (on (task [(1, 0x3F800000), (2, 0x33800000)]))).g 3 = 0x3F800001 := by decide +kernel
theorem test_fadd_flags : (next (.fadd 3 1 2 1) (on (task [(1, 0x3F800000), (2, 0x33800000)]))).me.fstat = 8 := by decide +kernel
-- R81: offset -1 goes back one word
theorem test_beq_back : (next (.beq 0 0 0xFFFF) (on (task []))).me.pc = 0x3FFFFFFFFC := by decide +kernel
-- R83: a count of 0 wraps and branches
theorem test_loop_wraps : (next (.loop 1 2) (on (task []))).me.pc = 0x4000000008 := by decide +kernel
-- R86, R89: SVC saves its own address, and ERET from service mode goes back there
theorem test_svc_saves : (next (.svc 3) (on (task []))).me.epc = 0x4000000000 ∧ (next (.svc 3) (on (task []))).me.causeCode = 9 ∧
    (next (.svc 3) (on (task []))).me.tval = 3 := by decide +kernel
theorem test_eret_restores : (next .eret (on { service [] with epc := 0x4000000010 })).me.pc = 0x4000000010 ∧
    (next .eret (on { service [] with epc := 0x4000000010 })).me.mode = .task := by decide +kernel
-- R18: a rounding code above 4 stores 0; QFMT 3 stores 11
theorem test_sysw_vctl : (next (.sysw 1 0x011) (on (task [(1, 0x3D)]))).sysRead 0x011 = 0xB8 := by decide +kernel
-- R85: CRIT 16 covers sixteen words
theorem test_crit_covers : (next (.crit 15) (on (task []))).me.cover = 16 := by decide +kernel
-- R148: a byte stored as 0x80 loads as -128 and as 128
theorem test_load_signs :
    (next (.lb 3 1 0) (next (.sb 2 1 0) (on (task [(1, 0x100), (2, 0x80)])))).g 3 = 0xFFFFFFFFFFFFFF80 ∧
    (next (.lbn 3 1 0) (next (.sb 2 1 0) (on (task [(1, 0x100), (2, 0x80)])))).g 3 = 0x80 := by decide +kernel
-- R2: the least significant byte lies lowest
theorem test_store_order : (next (.sw 2 1 0) (on (task [(1, 0x100), (2, 0x11223344)]))).padRead 0 0x100 4 = [0x44, 0x33, 0x22, 0x11] := by
  decide +kernel
-- R148: a misaligned load takes cause 1 with the address
theorem test_load_misaligned : (next (.lw 3 1 2) (on (task [(1, 0x100)]))).me.causeCode = 1 ∧
    (next (.lw 3 1 2) (on (task [(1, 0x100)]))).me.tval = 0x102 := by decide +kernel

/-! ### States that meet the hypotheses of the statements -/

theorem test_meets_DivisionRule : (on (task [(1, 0x8000000000000000), (2, 0xFFFFFFFFFFFFFFFF)])).g 0 = 0 ∧
    ((on (task [(1, 0x8000000000000000), (2, 0xFFFFFFFFFFFFFFFF)])).g 1).toInt = -2 ^ 63 ∧
    ((on (task [(1, 0x8000000000000000), (2, 0xFFFFFFFFFFFFFFFF)])).g 2).toInt = -1 ∧
    (on (task [(1, 7), (2, 2)])).g 2 ≠ 0 := by decide +kernel

theorem test_meets_BitCounts : (0x8000000000000001 : Word) ≠ 0 ∧ (1 : Word) ≠ 0 := by decide

/-- A signalling NaN, the canonical NaN, and 1. -/
def nans : State := on (task [(1, 0x7F800001), (2, 0x7FC00000), (3, 0x3F800000)])
/-- Is the low word of a register a NaN? -/
def nanIn (s : State) (q : Reg) : Bool := (s.g q).toNat / 2 ^ 23 % 2 ^ 8 = 255 && (s.g q).toNat % 2 ^ 23 ≠ 0

theorem test_meets_FloatNaN : nanIn nans 1 = true ∧ nanIn nans 2 = true ∧ nanIn nans 3 = false ∧ (4 : Reg) ≠ 0 := by decide +kernel
theorem test_meets_FloatNaN_next : (∃ t, exec (.feq 4 1 3) nans = .next t) ∧ (∃ t, exec (.flt 4 1 3) nans = .next t) ∧
    (∃ t, exec (.fle 4 3 2) nans = .next t) ∧ (∃ t, exec (.fmin 4 1 3) nans = .next t) ∧ (∃ t, exec (.fmax 4 1 2) nans = .next t) ∧
    (∃ t, exec (.fneg 4 1) nans = .next t) ∧ (∃ t, exec (.fabs 4 1) nans = .next t) :=
  ⟨⟨_, rfl⟩, ⟨_, rfl⟩, ⟨_, rfl⟩, ⟨_, rfl⟩, ⟨_, rfl⟩, ⟨_, rfl⟩, ⟨_, rfl⟩⟩
theorem test_meets_RegisterFormsFrame : (∃ t, exec (.addi 1 2 3) nans = .next t) ∧ (∃ t, exec (.beq 1 2 3) nans = .next t) ∧
    (∃ t, exec (.jal 3) nans = .next t) ∧ (∃ t, exec (.loop 1 3) nans = .next t) ∧ (∃ t, exec (.fadd 4 1 2 0) nans = .next t) :=
  ⟨⟨_, rfl⟩, ⟨_, rfl⟩, ⟨_, rfl⟩, ⟨_, rfl⟩, ⟨_, rfl⟩⟩
theorem test_meets_LoopForm : (31 : Reg) ≠ 0 ∧ nans.g 31 = 0 ∧ (0 : BitVec 5) = 0 ∧ (1 : BitVec 5) ≠ 0 := by decide +kernel
theorem test_meets_modes : (on (task [])).me.mode = .task ∧ (on (service [])).me.mode = .service ∧ (on (task [])).me.convoy = none := by
  decide +kernel
theorem test_meets_SystemRegisterMoves : (on (task [])).engineBusy = false ∧ (on (service [])).engineBusy = false ∧
    (on (service [])).defer = false ∧ 0x100 < 0x101 ∧ 0x040 < 0x100 ∧ 0x040 ∉ [0x041, 0x044, 0x045] := by decide +kernel
theorem test_meets_SystemRegisterWriteFrame : 0x101 ≠ 0x008 ∧ 0x101 ∈ sysReadable ∧ (4 : Nat) ≠ (on (task [])).meKey ∧
    (1 : Nat) ≠ (on (task [])).curCore := by decide +kernel

/-- A thread in WFI, with and without a wake event. -/
def sleeping (w : Bool) : State := on { task [] with wait := some .wfi, wake := w }
/-- An instance of one member on core 0. -/
def instance0 : Inst := { Inst.fresh 0 0 0 with st := .resident, rect := some ⟨0, 0, 0⟩ }
/-- Its task, with a predecessor or without. -/
def task0 (preds : List Nat) : Task :=
  ⟨0x5000000000, 0x4000000000, 1, 1, 4, 3, true, false, none, none, 1, 0, preds, [], 0x4000000100, [], false⟩
/-- That instance resident on core 0, its task being task 0 of graph 0; task 1, which it may wait for, has one instance. -/
def placed (t : Thread) (preds : List Nat) (st : InstState) : State :=
  { on t with
    graphs := [(0, ⟨0x100000, [task0 preds, task0 []]⟩)]
    insts := [(0, instance0), (1, { Inst.fresh 0 1 0 with st := st })]
    cores := [(0, { Core.idle with inst := some 0, ptbase := ⟨1, 0⟩ })] }

theorem test_meets_Waits : (sleeping true).me.pending = none ∧ (sleeping true).me.wait = some .wfi ∧ (sleeping true).me.wake = true ∧
    (sleeping false).me.wake = false ∧ (on { task [] with wdogDue := true }).me.wdogDue = true := by decide +kernel
theorem test_meets_TaskEnd : ((placed (task []) [1] .ended).core 0).inst = some 0 ∧
    Map.find (placed (task []) [1] .ended).insts 0 = some instance0 ∧ (placed (task []) [1] .ended).predsEnded instance0 = true ∧
    (placed (task []) [1] .ready).predsEnded instance0 = false ∧ ((on (task [])).core 0).inst = none ∧
    (placed { task [] with wait := some .waitpred } [1] .ended).instOf 0 = some instance0 := by decide +kernel

/-- Two members of an instance, side by side on cores 0 and 1; the first executes. -/
def twoMembers (t u : Thread) (pr : Bool) (c : Core) : State :=
  { on t with
    graphs := [(0, ⟨0x100000, [{ task0 [] with w := 2, paired := pr }]⟩)]
    insts := [(0, { instance0 with chan := ⟨[(0, 0xFF)], [], 0⟩ })]
    cores := [(0, { c with inst := some 0 }), (1, { Core.idle with inst := some 0 })]
    threads := [(0, { t with spansz := 0x01020002 }), (4, { u with spansz := 0x01020002, spanix := 1 })] }
/-- The waits that CONVOY sees of the other member. -/
def otherWaits (s : State) : List (Option (BitVec 2 × Bool)) :=
  ((s.groupCores [0, 1]).filter (· ≠ s.curCore)).map fun c => State.convoyWait (s.thread c s.curTid.toNat)

theorem test_meets_ConvoyForms_refusals : (on (task [])).convoyGroup 1 = none ∧ (placed (task []) [] .ended).groupRuns = true ∧
    (on (task [])).groupRuns = false := by decide +kernel
theorem test_meets_ConvoyForms_clash :
    let s := twoMembers (task []) { task [] with wait := some (.convoy 1 2) } false Core.idle
    s.convoyGroup 1 = some [0, 1] ∧ s.groupRuns = true ∧ otherWaits s = [some (2, false)] := by decide +kernel
theorem test_meets_ConvoyForms_forms :
    let s := twoMembers (task []) { task [] with wait := some (.convoyS 1 1) } false Core.idle
    s.convoyGroup 1 = some [0, 1] ∧ otherWaits s = [some (1, true)] ∧ s.me.convoy = none ∧ s.myCore.paired = false := by decide +kernel
theorem test_meets_ConvoyForms_waits :
    let s := twoMembers (task []) (task []) false Core.idle
    otherWaits s = [none] ∧ s.me.convoy = none ∧ (twoMembers { task [] with convoy := some ⟨false, [0, 1]⟩ } (task []) false Core.idle).me.convoy.isSome ∧
      (twoMembers (task []) (task []) true { Core.idle with paired := true }).myCore.paired = true := by decide +kernel
theorem test_meets_ConvoyForms_release : let s := twoMembers { task [] with wait := some (.convoy 1 1) } (task []) false Core.idle
    (s.thread 0 0).wait = some (.convoy 1 1) ∧ ∃ t, exec (.convoy 1 1) (s.asThread 0 0) = .next t := ⟨by decide +kernel, _, rfl⟩
theorem test_meets_PairAndUnpair :
    let s (p : Bool) (n : Nat) := twoMembers (task []) (task []) true { Core.idle with paired := p, interval := Vector.replicate 4 n }
    (on (task [])).taskPaired = false ∧ (s false 0).taskPaired = true ∧ (s false 0).me.convoy = none ∧ (s false 0).myCore.paired = false ∧
      (s true 0).myCore.paired = true ∧ (s true 0).myCore.interval[0] = 0 ∧ (s true 256).myCore.interval[0] ≠ 0 ∧
      (twoMembers { task [] with convoy := some ⟨false, [0, 1]⟩ } (task []) true Core.idle).me.convoy.isSome = true := by decide +kernel

/-- One 64 KiB page mapped at 0x4000000000 on frame 4 by tables in frames 1 to 3, with the PTE flags given. -/
def mapped (flags : Nat) (t : Thread) : State :=
  let s := on t
  let s := s.physWrite 0x10000 0 (leBytes 8 (1 + 2 * 2 ^ 22))
  let s := s.physWrite (0x20000 + 8 * 512) 0 (leBytes 8 (1 + 3 * 2 ^ 22))
  let s := s.physWrite 0x30000 0 (leBytes 8 (flags + 4 * 2 ^ 22))
  s.setCore 0 { Core.idle with ptbase := ⟨1, 0⟩ }
/-- The PTE that a walk of an address finds. -/
def pteAt (s : State) (va : Nat) : Option Word :=
  match s.walk 0 s.myCore.ptbase va with
  | .leaf l => if l.large then none else some l.pte
  | _ => none

theorem test_meets_Admit_addresses : ((on (service [])).g 1).toNat < 0x4000000000 ∧
    2 ^ 54 ≤ ((on (service [(1, 0x40000000000000)])).g 1).toNat ∧
    (mapped 0x87 (service [(1, 0x4000010000)])).walk 0 ⟨1, 0⟩ 0x4000010000 = .notValid := by decide +kernel
theorem test_meets_Admit_leaves : [0x8F, 0x07, 0x87, 0x83].map (fun f => (pteAt (mapped f (service [(1, 0x4000000000)])) 0x4000000000).map
    fun p => (Pte.r p, Pte.w p, Pte.tier p, Pte.pin p)) =
      [some (true, true, false, true), some (true, false, false, false), some (true, false, false, true),
        some (false, false, false, true)] := by decide +kernel
theorem test_meets_Admit_scan : firstRefused (wordsOf ((mapped 0x87 (service [])).physRead 0x40000 4 0)) 0 = some 0 ∧
    (mapped 0x87 (service [])).defer = false ∧ { mapped 0x87 (service []) with defer := true }.defer = true := by decide +kernel
theorem test_meets_Admit_complete :
    let w (i e : Instr) : Thread := (on { service [(1, 0x4000000000)] with wait := some i, op := some e }).thread 0 0
    (w (.admitPage 2 1) (.admitComplete 0 0)).op = some (.admitComplete 0 0) ∧ (w (.sysw 1 0x107) (.invvaPage 0 0 4)).op = some (.invvaPage 0 0 4) ∧
      (w (.sysw 1 0x107) (.invvaRoot 0 0 1)).op = some (.invvaRoot 0 0 1) ∧ (w (.sysw 1 0x107) (.invvaAll 0 0 2)).op = some (.invvaAll 0 0 2) ∧
      ((on (service [])).thread 0 0).op = none := by decide +kernel

/-! The own scratchpad at its first and last bytes, device memory, and registers of the service block. -/

/-- The place that an access resolves to. -/
def placeOf (s : State) (k : Kind) (va n : Nat) : Option Loc :=
  match resolve (s.agent 5) k va n s with
  | (.ok l, _) => some l
  | _ => none

theorem test_meets_Loads_pad : placeOf (on (task [])) .load 0x3FFFF 1 = some (.pad 0 0x3FFFF) ∧
    placeOf (on (task [])) .load 0x3FFF8 8 = some (.pad 0 0x3FFF8) ∧ readable (on (task [])) 0 (.pad 0 0x3FFF8) 8 = true ∧
    placeOf (on (task [])) .load 0 2 = some (.pad 0 0) ∧ placeOf (on (task [])) .load 0 4 = some (.pad 0 0) := by decide +kernel
theorem test_meets_Loads_device : placeOf (mapped 0x87 (task [])) .load 0x400000FFF8 8 = some (.phys 0x4FFF8 0) ∧
    readable (mapped 0x87 (task [])) 0 (.phys 0x4FFF8 0) 8 = true := by decide +kernel
theorem test_meets_Stores_pad : placeOf (on (task [])) .store 0x3FFF8 8 = some (.pad 0 0x3FFF8) ∧
    (stored (on (task [])) 0 (.pad 0 0x3FFF8) (leBytes 8 1)).isSome = true ∧
    (stored (on (task [])) 0 (.pad 0 0x3FFFF) (leBytes 1 1)).isSome = true ∧
    placeOf (mapped 0x8F (task [])) .store 0x4000000000 8 = some (.phys 0x40000 0) ∧
    (stored (mapped 0x8F (task [])) 0 (.phys 0x40000 0) (leBytes 8 1)).isSome = true := by decide +kernel
theorem test_meets_Atomics : placeOf (on (task [])) .both 0x3FFFC 4 = some (.pad 0 0x3FFFC) ∧
    readable (on (task [])) 0 (.pad 0 0x3FFFC) 4 = true ∧
    placeOf (mapped 0x8F (task [])) .both 0x4000000000 8 = some (.phys 0x40000 0) ∧
    (stored ((mapped 0x8F (task [])).countAtomic 0) 0 (.phys 0x40000 0) (leBytes 8 1)).isSome = true := by decide +kernel
theorem test_meets_Atomics_cas : ofLe (peekLoc (on (task [(3, 5)])) (.pad 0 0x3FFFC) 4) = 0 ∧
    ((on (task [])).g 3).toNat % 2 ^ 32 = 0 ∧ ((on (task [(3, 5)])).g 3).toNat % 2 ^ 32 ≠ 0 := by decide +kernel
theorem test_meets_Misaligned : (0x101 : Word).toNat % 2 ≠ 0 ∧ (0x40000 : Word).toNat % 8 = 0 ∧ 0x40000 ≤ (0x40000 : Word).toNat ∧
    (0xFFFFFF : Word).toNat < 0x1000000 ∧ 2 ^ 55 ≤ (0x80000000000000 : Word).toNat := by decide
theorem test_meets_Frame : let s := on (task [(1, 0x100)])
    placeOf s .store 0x100 8 = some (.pad 0 0x100) ∧ placeOf s .load 0x100 8 = some (.pad 0 0x100) ∧ (s.g 1 + (0 : BitVec 16).signExtend 64).toNat = 0x100 ∧
      (next (.sd 2 1 0) s).me.pc = (s.me.pc + 4) &&& ~~~3#64 ∧ (next (.ld 2 1 0) s).me.instret = s.me.instret + 1 := by decide +kernel
theorem test_meets_ResolveFrame : placeOf (mapped 0x8F (task [])) .store 0x4000000000 8 = some (.phys 0x40000 0) ∧
    placeOf (on (task [])) .load 0x3FFF8 8 = some (.pad 0 0x3FFF8) ∧ 0x3FFF8 + 8 - 1 < 0x2000000 := by decide +kernel

/-! Barrier channels: core 0 with its own channel. -/

/-- Core 0 with a channel at core level, and a thread of an instance. -/
def barrier (t : Thread) (c : Channel) : State :=
  { placed { t with domain := { t.domain with level := 0 } } [] .ended with
    cores := [(0, { Core.idle with inst := some 0, chan := c })] }

theorem test_meets_Arrive : (barrier (task []) ⟨[(0, 1)], [], 7⟩).membership = some (.core 0, 0, 0) ∧
    State.bitmapHas (barrier (task []) ⟨[(0, 1)], [], 7⟩).myCore.chan.arrived 0 0 = false ∧
    State.bitmapHas (barrier (task []) ⟨[(0, 3)], [(0, 1)], 7⟩).myCore.chan.arrived 0 0 = true ∧
    (barrier (task []) Channel.empty).membership = none := by decide +kernel
theorem test_meets_Wait : let s (p : BitVec 32) (x : Word) := barrier (task [(1, x)]) ⟨[(0, 1)], [], p⟩
    (s 7 0).myChannel = some (.core 0) ∧ ((s 7 0).g 1).getLsbD 63 = false ∧ ((s 7 0x8000000000000000).g 1).getLsbD 63 = true ∧
      (((s 1 0).channel (.core 0)).phase - ((s 1 0).g 1).setWidth 32).toNat = 1 ∧
      (((s 0x7FFFFFFF 0).channel (.core 0)).phase - ((s 0 0).g 1).setWidth 32).toNat = 2 ^ 31 - 1 ∧
      (((s 0 0).channel (.core 0)).phase - ((s 0 0).g 1).setWidth 32).toNat = 0 ∧ (s 0 0).containedPeer (.core 0) = none ∧
      (on { task [] with domain := ⟨0, false, false, 0, 0, 2⟩ }).myChannel = none := by decide +kernel
/-- A span channel one of whose members is contained. -/
def brokenSpan : State :=
  let s := twoMembers (task []) (task []) false Core.idle
  { s with cores := [(0, { Core.idle with inst := some 0 }), (1, { Core.idle with inst := some 0, contained := true })] }
theorem test_meets_Wait_contained : brokenSpan.myChannel = some (.span 0) ∧ brokenSpan.containedPeer (.span 0) = some 0x1040000 ∧
    ((brokenSpan.channel (.span 0)).phase - (brokenSpan.g 1).setWidth 32).toNat = 0 := by decide +kernel
theorem test_meets_WaitRelease : let s := barrier { task [] with wait := some (.wait 1) } ⟨[(0, 1)], [], 1⟩
    (s.thread 0 0).wait = some (.wait 1) ∧ ∃ t, exec (.wait 1) (s.asThread 0 0) = .next t := ⟨by decide +kernel, _, rfl⟩
theorem test_meets_Barset : let s (x : Word) (c : Channel) := barrier (task [(2, x)]) c
    (s 1 Channel.empty).myChannel = some (.core 0) ∧ (s 0x8 Channel.empty).bitmapRuns (.core 0) ((s 1 Channel.empty).g 1) ((s 0x8 Channel.empty).g 2) = true ∧
      ((s 1 ⟨[(0, 3)], [(0, 1)], 0⟩).channel (.core 0)).arrived ≠ [] ∧ ((s 1 Channel.empty).channel (.core 0)).arrived = [] ∧
      (twoMembers (task [(2, 0x100)]) (task []) false Core.idle).bitmapRuns (.span 0) 0 0x100 = false := by decide +kernel
theorem test_meets_Phase : (on (task [])).containedMember (.core 0) = none ∧ (⟨[(0, 1)], [(0, 1)], 0⟩ : Channel).members = [(0, 1)] ∧
    (1 : BitVec 64) ≠ 0 := by decide +kernel
theorem test_meets_Mailbox : let s (m : BitVec 16) := { on (task [(1, 5)]) with cores := [(0, { Core.idle with mb := Vector.replicate 16 4, mbMark := m })] }
    (15 : Reg).toNat ≤ 15 ∧ (s 0).mailbox 15 = 4 ∧ ((s 0).g 1).setWidth 32 = (5 : BitVec 32) ∧ (s 0x8000).myCore.mbMark.getLsbD 15 = true ∧
      (s 0).myCore.mbMark.getLsbD 15 = false ∧ (s 0).myCore.contained = false ∧ ((s 0).g 0).setWidth 32 ≤ (s 0).mailbox 15 := by decide +kernel
theorem test_meets_MailboxRelease : let s := on { task [] with wait := some (.mbwait 2 0 3) }
    (s.thread 0 0).wait = some (.mbwait 2 0 3) ∧ ∃ t, exec (.mbwait 2 0 3) (s.asThread 0 0) = .next t := ⟨by decide +kernel, _, rfl⟩

/-! Exchange phases. -/

/-- A member of the core channel of core 0, in a phase or not, its clock at a cycle. -/
def exchange (inPhase : Bool) (now : Word) (l : List (Nat × Word)) (wait : Option Instr) : State :=
  { barrier { task l with spansz := 0x01010001, inPhase := inPhase, xArrived := some 4, cArrived := some 4, wait := wait } ⟨[(0, 1)], [], 5⟩ with cycle := now }

theorem test_meets_Xphase : (exchange true 0 [] none).me.inPhase = true ∧ (exchange false 0 [] none).me.inPhase = false ∧
    (exchange false 0 [] none).membership = some (.core 0, 0, 0) ∧ (exchange false 0 [] none).me.xArrived = some 4 ∧
    passed ((exchange false 0 [] none).channel (.core 0)).phase 4 = true ∧ passed 5 5 = false ∧
    (exchange false 0 [] none).containedPeer (.core 0) = none ∧ (on (task [])).membership = none := by decide +kernel
theorem test_meets_Cphase : (exchange true 0 [] none).blocksUnderWay = false ∧ (exchange true 0 [] none).me.cArrived = some 4 ∧
    { exchange true 0 [] none with xblocks := [⟨0, 0, 0, 0, []⟩] }.blocksUnderWay = true := by decide +kernel
theorem test_meets_Xsend_slots : 8 ≤ ((exchange true 0 [(3, 8)] none).g 3).toNat % 16 ∧
    65536 ≤ ((exchange true 0 [(3, 65536)] none).g 3).toNat := by decide +kernel
theorem test_meets_Xsend : let s (c : Word) := exchange true c [(1, 0x1000000), (2, 0x3FF80), (3, 7)] none
    xsendRefusal ((s 7).g 1) ((s 7).g 2) ((s 7).g 3) (s 7) = none ∧ (((s 7).g 3).toNat : Int) = (s 7).xclk (s 7).me ∧
      (((s 6).g 3).toNat : Int) ≠ (s 6).xclk (s 6).me ∧ xsendRefusal ((s 6).g 1) ((s 6).g 2) ((s 6).g 3) (s 6) = none ∧
      (s 7).padHazard 0 false 0x3FF80 128 = false ∧ (s 7).poisonIn (padBase 0 + 0x3FF80) 128 = none ∧
      (s 7).windowOpen ((s 7).agent 5) 0 = some 0 := by decide +kernel
theorem test_meets_Xrecv : ((exchange true 0 [] none).g 1).toNat ≤ (exchange true 0 [] none).myCore.arrivals ∧
    (exchange true 0 [(1, 1)] none).myCore.arrivals < ((exchange true 0 [(1, 1)] none).g 1).toNat := by decide +kernel
theorem test_meets_Exchange_events : let s := { exchange true 65536 [] none with xblocks := [⟨0, 0, 0, 0, []⟩] }
    s.xblocks[0]? = some ⟨0, 0, 0, 0, []⟩ ∧ (s.core 0).contained = false ∧ (s.thread 0 0).running = true ∧
      65536 ≤ s.xclk (s.thread 0 0) ∧ (s.thread 0 0).inPhase = true ∧ (s.thread 0 0).wait = none := by decide +kernel
theorem test_meets_Exchange_waits : let s (i : Instr) := exchange true 65536 [(1, 0x1000000), (3, 7)] (some i)
    ((s (.xsend 4 1 2 3)).thread 0 0).wait = some (.xsend 4 1 2 3) ∧
      ((((s (.xsend 4 1 2 3)).thread 0 0).g[3]).toNat : Int) ≤ (s (.xsend 4 1 2 3)).xclk ((s (.xsend 4 1 2 3)).thread 0 0) ∧
      ((s (.xrecv 4 1)).thread 0 0).wait = some (.xrecv 4 1) ∧ ((s (.cphase 4)).thread 0 0).wait = some (.cphase 4) := by decide +kernel
theorem test_meets_Exchange_xrecv : ∃ u, exec (.xrecv 4 1) ((exchange true 0 [] (some (.xrecv 4 1))).asThread 0 0) = .next u := ⟨_, rfl⟩

/-! Vector words. -/

theorem test_meets_vectorIdle : vectorIdle (on (task [])) := by unfold vectorIdle; decide +kernel
theorem test_meets_quant : (on (task [])).me.vctl.qfmt.toNat ∈ [11, 12, 13, 14, 15] ∧ Machine.isF 2#3 = true ∧ (1 : Reg) ≠ 2 ∧
    0 < 1024 / typeWidth 0 / 32 ∧ (8 : Reg).toNat % 8 = 0 ∧ (∀ e ∈ (on (task [])).myCore.mq, usesCb2 e.instr = false) ∧
    (on (task [])).myCore.cb2Poison = [] := by decide +kernel
theorem test_meets_vrand_wrap : 2 ^ 96 ≤ rngAt (on { task [] with rngpos := 0xFFFFFFFFFFFFFFFF, rngdraw := 0xFFFFFFFF }).me + 8 := by
  decide +kernel
theorem test_meets_LaneWrites : (4 ∈ [4, 8, 16, 32]) ∧ (32 ∈ [4, 8, 16, 32]) ∧ (∀ i : Nat, ((fun _ : Nat => (1, ({} : Flags))) i).1 < 2 ^ 4) ∧
    predReg 1 ≠ 0 ∧ 255 < 1024 / 4 := ⟨by decide, by decide, fun _ => (by decide : 1 < 2 ^ 4), by decide, by decide⟩
theorem test_meets_VectorQueue : (∃ ra rb run, vectorWord none (.vadd 1 2 3 0 0) = some (ra, rb, run)) ∧
    (encode (.vadd 1 2 3 0 0)).extractLsb' 26 6 ≠ 0x2F#6 ∧ (on (task [])).matrixWritesV = false ∧
    { on (task []) with defer := true }.defer = true ∧ (on (task [])).seqEntries < 16 :=
  ⟨⟨_, _, _, rfl⟩, by decide, by decide +kernel, rfl, by decide +kernel⟩
/-- Core 0 with some vector words queued. -/
def queued (n : Nat) : State :=
  { on (task []) with cores := [(0, { Core.idle with vq := List.replicate n ⟨0, .vadd 1 2 3 0 0, 0, 0, 0, 0x4000000000, 0, [], [], none, none⟩ })] }
theorem test_meets_VectorQueue_full : 16 ≤ (queued 16).seqEntries ∧ (queued 16).myCore.vq ≠ [] ∧ (queued 16).matrixWritesV = false ∧
    ((queued 1).core 0).vq = [⟨0, .vadd 1 2 3 0 0, 0, 0, 0, 0x4000000000, 0, [], [], none, none⟩] := by decide +kernel
theorem test_meets_VectorQueue_run : ∃ ra rb run s', vectorWord none (.vadd 1 2 3 0 0) = some (ra, rb, run) ∧
    run 0 0 ((((queued 1).asThread 0 0).setMyCore { (queued 1).core 0 with vq := [], l1 := [] ++ ((queued 1).core 0).l1 }).setMe
      { ((queued 1).asThread 0 0).me with pc := 0x4000000000, lane := 0 }) = (.ok (), s') ∧ s'.curCore = 0 ∧ s'.curTid = 0 :=
  ⟨_, _, _, _, rfl, rfl, rfl, rfl⟩
/-- A thread at a REPEAT with the block in hand: the prefix, VADD v1, v2, v3, and fourteen more. -/
def repeating (n : Word) : State :=
  on { task [(1, n)] with fetched := some ⟨0x4000000000, 0x9C010000#32 :: List.replicate 15 0xA0221800#32⟩ }
theorem test_meets_Repeat : ((repeating 3).setMe { (repeating 3).me with capture := none }).seqEntries + 1 ≤ 16 ∧
    (((repeating 3).fetchWords 1 0x4000000004 []).1 = some [0xA0221800#32]) ∧ min ((repeating 0).g 1).toNat 16777215 = 0 ∧
    min ((repeating 0xFFFFFFFF).g 1).toNat 16777215 = 16777215 := by decide +kernel
/-- A capture of that VADD at a pass. -/
def captured (k : Nat) : Capture := ⟨[0xA0221800#32], 1, 0, 0, 0x4000000000, 2, k, 0, false, false, 0⟩
theorem test_meets_RepeatPass : let s := on { task [] with capture := some (captured 1) }
    (s.thread 0 0).capture = some (captured 1) ∧ (captured 1).pass < (captured 1).passes ∧ (captured 1).pass + 1 = (captured 1).passes ∧
      (captured 0).pass + 1 ≠ (captured 0).passes ∧ decodeCaptured 0xA0221800#32 = some (.vadd 1 2 3 0 0) ∧ (s.core 0).vq = [] ∧
      (s.asThread 0 0).matrixWritesV = false ∧ (s.thread 0 0).parked = none ∧ (s.core 0).contained = false := by decide +kernel
theorem test_meets_padQuiet : padQuiet (on (task [])) 0 := ⟨rfl, rfl, fun _ _ _ => rfl⟩
theorem test_meets_VectorMemory : let s := on (task [(1, 0x3FF80), (2, 0x3F000)])
    s.matrixWritesV = false ∧ s.myCore.vq = [] ∧ s.me.lane = 0 ∧ (s.g 1).toNat % 4 = 0 ∧ s.poison = [] ∧ (s.g 2).toNat % 4096 = 0 ∧
      ((List.range 32).all fun k => (((s.g 1).toNat : Int) + (k : Int) * 4).toNat + 4 ≤ 0x40000) = true ∧ s.me.vsres.valid = false := by decide +kernel
theorem test_meets_VectorMemory_bad : let s := on (task [(1, 0x101), (2, 0x40000)])
    (s.g 1).toNat % 4 ≠ 0 ∧ (s.g 1).toNat % 4096 ≠ 0 ∧ (s.g 2).toNat % 4096 = 0 ∧ 0x40000 ≤ (s.g 2).toNat ∧
      activeLane (s.p 0) 32 0 = true ∧ (s.g 2).toNat < 0x1000000 := by decide +kernel
theorem test_meets_scatter : let z := (on { task [] with v := Vector.ofFn fun _ => packLanes 32 (List.range 32) }).v 3
    ∀ j, j < 32 → ∀ k, k < 32 → lane z 32 j = lane z 32 k → j = k := by decide +kernel

/-! Matrix words. -/

/-- A thread with a legal shape: M, N and K of 1, leading dimensions of 1. -/
def shaped (l : List (Nat × Word)) : Thread := { task l with shape := 0x0000100100010101 }
theorem test_meets_shape : shapeCode 0x0000100100010101 = 0 ∧ shM 0x0000100100010101 = 1 ∧ shN 0x0000100100010101 = 1 ∧
    shGW 0x0000100100010101 = 1 ∧ shGH 0x0000100100010101 = 1 ∧ shM (on (task [])).me.shape = 0 := by decide
theorem test_meets_matrixIdle : matrixIdle (on (shaped [])) ∧ (∀ e ∈ (on (shaped [])).myCore.vq, e.tid ≠ 0) ∧
    (2 : Reg).toNat % 2 = 0 := by unfold matrixIdle; decide +kernel
/-- Runs that an operand of the word reads lie quiet in the own scratchpad. -/
theorem quiet_runs (w : Bool) (rs : List (Nat × Nat)) (h : outsidePad rs = none) : ownRuns (on (shaped [])) w rs :=
  ⟨h, fun _ _ => by cases w <;> exact ⟨rfl, fun _ => rfl⟩⟩
theorem test_meets_mma : ownRuns (on (shaped [])) false
    ((operandA ⟨(on (shaped [])).padCopy 0, []⟩ 0x0000100100010101 0 0 (matPair 0) false (trA 0) 0).runs 1 1 ++
      (operandB ⟨(on (shaped [])).padCopy 0, []⟩ 0x0000100100010101 0 0 (matPair 0) (trB 0)).runs 1 1) :=
  quiet_runs _ _ (by decide +kernel)
theorem test_meets_mload : ownRuns (on (shaped [])) false (moveRuns 0x0000100100010101 0 0 4) ∧
    ownRuns (on (shaped [])) true (moveRuns 0x0000100100010101 0 0 2) :=
  ⟨quiet_runs _ _ (by decide +kernel), quiet_runs _ _ (by decide +kernel)⟩
/-- Does a check answer, the state staying as it was? -/
def passes {α : Type} (m : Acc α) (s : State) : Bool :=
  match m s with
  | (.ok _, u) => decide (u = s)
  | _ => false
/-- A state with a root of 4 by 4 elements in slot 0. -/
def rooted (t : Thread) (fmt : BitVec 5) : State := (on t).newRoot 0 0 ⟨fmt, 4, 4, 1, 1, false⟩ 0
/-- The handle of slot 0. -/
def handle0 : Word := BitVec.ofNat 64 ((rooted (task []) 0).handleOf 0)
theorem test_meets_mmd : passes (mmdCheck 0 0 0 ((rooted (shaped [(2, handle0 + handle0 <<< 32)]) 1).matEntry (.mmd 0 0 0 0 1 2 3 0) 1 2 3))
    (rooted (shaped [(2, handle0 + handle0 <<< 32)]) 1) = true := by decide +kernel
/-- Core 0 with some matrix words queued. -/
def matQueued (n : Nat) (i : Instr) (t : Thread) : State :=
  let s := on t
  { s with cores := [(0, { Core.idle with inst := some 0, mq := List.replicate n (s.matEntry i 1 2 3) })] }
theorem test_meets_MatrixQueue : 2 ≤ (matQueued 2 (.mma 0 0 0 0 1 2 3 0) (shaped [])).myCore.mq.length ∧
    (on (shaped [])).myCore.mq.length < 2 ∧ shM (on (shaped [])).me.shape ≠ 0 ∧ shM (on (task [])).me.shape = 0 ∧
    (matQueued 1 (.mzero 0) (shaped [])).myCore.mq.length < 2 ∧ (matQueued 1 (.mzero 0) (shaped [])).myCore.mq ≠ [] ∧
    passes (mmaCheck 0 0 0 ((on (shaped [])).matEntry (.mma 0 0 0 0 1 2 3 0) 1 2 3)) (matQueued 1 (.mzero 0) (shaped [])) = true := by
  decide +kernel
theorem test_meets_MatrixExecute : ((matQueued 1 (.mma 0 0 0 0 1 2 3 0) (shaped [])).core 0).mq.map (·.instr) = [.mma 0 0 0 0 1 2 3 0] ∧
    ((matQueued 1 (.mma 0 0 0 0 1 2 3 0) (shaped [])).core 0).accPoison = [] := by decide +kernel
theorem test_meets_MwaitRelease : let s (n : Nat) := matQueued n (.mzero 0) { shaped [] with wait := some (.mwait 4 0) }
    ((s 0).thread 0 0).wait = some (.mwait 4 0) ∧ (s 0).pendingMatrix 0 0 ≤ (((s 0).asThread 0 0).g 0).toNat ∧
      (((s 1).asThread 0 0).g 0).toNat < (s 1).pendingMatrix 0 0 := by decide +kernel
theorem test_meets_Mms : (placed { shaped [] with spansz := 0x01010001 } [] .ended).myCore.mq.length < 2 ∧
    passes (mmsCheck 0 0 ((placed { shaped [] with spansz := 0x01010001 } [] .ended).matEntry (.mms 0 0 0 1 2 3 0) 1 2 3)) (placed { shaped [] with spansz := 0x01010001 } [] .ended) = true := by
  decide +kernel
theorem test_meets_MmsPanel : let s := { placed { shaped [] with spansz := 0x01010001 } [] .ended with
      cores := [(0, { Core.idle with inst := some 0, mq := [(on (shaped [])).matEntry (.mms 0 0 0 1 2 3 0) 1 2 3] })] }
    ((s.core 0).mq.map fun e => (e.panel, shGW e.shape, shGH e.shape)) = [(0, 1, 1)] ∧ (shK 0x0000100100010101 + (matPair 0).kp - 1) / (matPair 0).kp = 1 ∧
      s.memberCore 0 (s.thread 0 0).spanix.toNat = some 0 ∧ (s.core 0).contained = false := by decide +kernel


/-! Copy engine and rings. -/

/-- Core 0 as given, a task thread executing. -/
def coreIs (l : List (Nat × Word)) (c : Core) : State := { on (task l) with cores := [(0, c)] }
/-- The quad of a one-dimensional copy of n bytes from 0x100 to 0x200, in g4 to g7. -/
def quadOf (n : Nat) : List (Nat × Word) := [(4, BitVec.ofNat 64 (9 * 2 ^ 4 + 9 * 2 ^ 9 + n * 2 ^ 24)), (5, 0x100), (6, 0x200)]
/-- That request, accepted. -/
def request (cmode : Nat) : CopyRequest :=
  ⟨BitVec.ofNat 64 (9 * 2 ^ 4 + 9 * 2 ^ 9 + 64 * 2 ^ 24), 0x100, 0x200, BitVec.ofNat 64 cmode, [], [], .task, 0, 0⟩
/-- Does parsing give a request, the state staying as it was? -/
def accepts (s : State) : Bool :=
  match parseCopy 4 s with
  | (.ok (.ok _), u) => decide (u = s)
  | _ => false

theorem test_meets_Copy_full : 8 ≤ (coreIs [] { Core.idle with fifo := List.replicate 8 (request 0) }).myCore.fifo.length := by
  decide +kernel
theorem test_meets_Copy_refusals : ((coreIs [(4, 10)] Core.idle).quad 4).badRequest = true ∧
    ((coreIs [(4, BitVec.ofNat 64 (18 * 2 ^ 4 + 18 * 2 ^ 9))] Core.idle).quad 4).badRequest = false ∧
    ((coreIs [(4, BitVec.ofNat 64 (18 * 2 ^ 4 + 18 * 2 ^ 9))] Core.idle).quad 4).formatsOk = false ∧
    ((coreIs (quadOf 0) Core.idle).quad 4).badRequest = false ∧ ((coreIs (quadOf 0) Core.idle).quad 4).formatsOk = true ∧
    ((coreIs (quadOf 0) Core.idle).quad 4).badPlace = true := by decide +kernel
theorem test_meets_Copy_accepts : accepts { coreIs (quadOf 64) Core.idle with defer := true } = true ∧
    ¬8 ≤ (coreIs (quadOf 64) Core.idle).myCore.fifo.length ∧
    accepts { coreIs (quadOf 64) { Core.idle with fifo := List.replicate 8 (request 0) } with defer := true } = true := by decide +kernel
theorem test_meets_Copy_moves : let s := coreIs (quadOf 64) Core.idle
    s.myCore.fifo = [] ∧ s.myCore.streams = [] ∧ s.myCore.mq = [] ∧ s.defer = false ∧ s.myCore.contained = false ∧ s.poison = [] ∧
      s.g 4 = BitVec.ofNat 64 (9 * 2 ^ 4 + 9 * 2 ^ 9 + 64 * 2 ^ 24) ∧ s.g 7 = 0 ∧ (s.g 5).toNat + 64 ≤ 0x40000 := by decide +kernel
/-- Ring 3 of core 0: four slots of 128 bytes, of which some are filled and some of those awaited. -/
def ringed (filled awaited : BitVec 16) : State :=
  coreIs [] { Core.idle with rings := Core.idle.rings.set 3 ⟨0x1000, 128, 4, 0, 0, 4 - filled, filled, awaited, []⟩ }
theorem test_meets_Ringinit : ringImage (List.replicate 16 0) = some Ring.unset ∧
    ringImage (leBytes 8 0x1000 ++ leBytes 2 128 ++ leBytes 2 4 ++ leBytes 4 0) = some ⟨0x1000, 128, 4, 0, 0, 4, 0, 0, []⟩ ∧
    ringImage (leBytes 8 0x1000 ++ leBytes 2 127 ++ leBytes 2 4 ++ leBytes 4 0) = none ∧
    ((coreIs [(1, 8)] Core.idle).g 1).toNat % 16 ≠ 0 ∧ 0x40000 < ((coreIs [(1, 0x40000)] Core.idle).g 1).toNat + 16 ∧
    (∀ e ∈ (coreIs [] Core.idle).cores, e.2.streams = []) := by decide +kernel
theorem test_meets_Ring_words : let c : Reg := 3
    (coreIs [] Core.idle).ring 0 c.toNat = Ring.unset ∧ Ring.unset.slots = 0 ∧ ((ringed 1 0).ring 0 c.toNat).slots ≠ 0 ∧
      (ringed 1 0).myCore.ringPoison = 0 ∧ ((ringed 1 1).ring 0 c.toNat).filled ≤ ((ringed 1 1).ring 0 c.toNat).awaited ∧
      ((ringed 1 0).ring 0 c.toNat).awaited < ((ringed 1 0).ring 0 c.toNat).filled ∧ ((ringed 1 0).ring 0 c.toNat).awaited = 0 ∧
      ((ringed 1 1).ring 0 c.toNat).awaited ≠ 0 ∧ (ringed 1 1).myCore.fifo = [] := by decide +kernel
theorem test_meets_Bfree : let s := placed { task [] with spansz := 0x01010001 } [] .ended
    (on (task [])).me.spansz.toNat % 2 ^ 16 ≤ ((on (task [])).g 0).toNat % 64 ∧ (s.g 0).toNat % 64 < s.me.spansz.toNat % 2 ^ 16 ∧
      s.memberCore 0 ((s.g 0).toNat % 64) = some 0 ∧ (Map.get ⟨none, [], 0⟩ (s.core 0).freeMbs 0).rect = none := by decide +kernel
/-- A stream of core 0 in slot 0. -/
def streaming (r : CopyRequest) (served : List Nat) : State :=
  placed { task [] with spansz := 0x01010001 } [] .ended |>.setStream 0 0 ⟨r, 0, none, none, served, 0, false, none, false, none, [], false⟩
theorem test_meets_StreamStart : let s (n : Nat) := coreIs [] { Core.idle with
      fifo := [request 0], streams := (List.range n).map fun k => (k, ⟨request 0, 0, none, none, [], 0, false, none, false, none, [], false⟩) }
    (s 16).myCore.fifo = [request 0] ∧ 16 ≤ State.firstGap (Map.keys ((s 16).core 0).streams) 0 ∧
      State.firstGap (Map.keys ((s 15).core 0).streams) 0 < 16 ∧ (request 0).cmode ≠ 2 := by decide +kernel
/-- How a stream runs. -/
def runs (s : State) : Option (StreamEnd × Nat × Bool) :=
  match s.stream 0 0 with
  | some x =>
    match s.runStream 0 0 false x with
    | (e, u) => some (e, ((u.stream 0 0).map (·.unacked)).getD 1, (u.stream 0 0).isSome)
  | none => none
theorem test_meets_StreamComplete : runs (streaming (request 1) []) = some (.moved, 0, true) ∧ (request 1).cmode = 1 ∧
    (request 1).kind ≠ 5 ∧ (streaming (request 1) []).completionCore 0 (request 1) = some 0 ∧ (request 1).num < 16 := by decide +kernel
theorem test_meets_StreamFail : runs (streaming { request 0 with src := 0x3FFFF } []) = some (.fail 2 0x40000, 0, true) := by decide +kernel
theorem test_meets_StreamPark : runs (streaming { request 0 with src := 0x4000010000 } []) =
    some (.park 0x4000010000 false false, 0, true) := by decide +kernel
theorem test_meets_CopyReleases : let s (i : Instr) := on { task [] with wait := some i }
    ((s (.await 1 3)).thread 0 0).wait = some (.await 1 3) ∧ ((s (.cdrain 1)).thread 0 0).wait = some (.cdrain 1) := by decide +kernel

/-! Bit stream engine. -/

/-- A thread with a bit buffer. -/
def bitsIn (cnt : BitVec 8) (dir : Bool) (ptr lim : BitVec 18) : State :=
  on { task [(2, 32)] with bb := ⟨4, cnt, dir, ptr, lim⟩ }
theorem test_meets_BitStream : (bitsIn 128 false 0x3FFFF 0x3FFFF).me.bb.cnt.toNat ≤ 128 ∧ (bitsIn 128 false 0x3FFFF 0x3FFFF).me.bb.dir = false ∧
    ¬((bitsIn 0 false 0 1).me.bb.ptr = 0 ∧ (bitsIn 0 false 0 1).me.bb.lim = 0 ∧ (bitsIn 0 false 0 1).me.bb.cnt = 0) ∧
    ((bitsIn 0 false 0 0).me.bb.ptr = 0 ∧ (bitsIn 0 false 0 0).me.bb.lim = 0 ∧ (bitsIn 0 false 0 0).me.bb.cnt = 0) ∧
    (bitsIn 96 true 0 16).me.bb.cnt.toNat + min (((bitsIn 96 true 0 16).g 2).toNat % 64) 32 ≤ 128 ∧
    (bitsIn 121 true 0 16).me.bb.ptr.toNat + ((bitsIn 121 true 0 16).me.bb.cnt.toNat + 7) / 8 ≤ (bitsIn 121 true 0 16).me.bb.lim.toNat := by
  decide +kernel
-- R204: the low bits come first; a peek of three bits of 0b100 is 4, and counting zeros gives 2
theorem test_bits_low_first : (next (.bbpeek 3 0 3) (bitsIn 40 false 0 8)).g 3 = 4 ∧ (next (.bblz 3) (bitsIn 40 false 0 8)).g 3 = 2 := by
  decide +kernel

/-! Lineage. -/

/-- A node of 4 by 4 elements of format 1. -/
def nodeIs (st : NodeState) (parent pending : Option Nat) (depth : Nat) : Node :=
  ⟨1, ⟨1, 4, 4, 1, 1, false⟩, 0, 0, st, parent, depth, pending, [], [], 0, false, 0, [], [], []⟩
/-- A thread over a tree; slot k has the handle 2^20 + k. -/
def tree (ns : List (Nat × Node)) (l : List (Nat × Word)) : State := { on (task l) with nodes := ns }
/-- A root, its child, and that one's child. -/
def chain : List (Nat × Node) := [(0, nodeIs .sealed none none 0), (1, nodeIs .sealed (some 0) none 1), (2, nodeIs .live (some 1) none 2)]
/-- The same with a pool of 8 blocks on die 0. -/
def pooled (ns : List (Nat × Node)) (l : List (Nat × Word)) : State :=
  (tree ns l).setDie 0 { (tree ns l).die 0 with lfree := 8 }

theorem test_meets_Lineage_handles : (tree [] [(1, 0x100000)]).nodeOf 0x100000 = none ∧
    (tree chain []).nodeOf 0x100002 = some (2, nodeIs .live (some 1) none 2) ∧ (tree chain []).nodeOf 0x200002 = none ∧
    (∀ e ∈ (tree chain []).threads, e.2.wait = none) := by decide +kernel
theorem test_meets_Tnew : newShape 0x100000001 0x100000001 18 = none ∧ newShape 0x100000001 0x100000001 1 = some ⟨1, 1, 1, 1, 1, false⟩ ∧
    (tree chain []).freeSlot = some 3 := by decide +kernel
theorem test_meets_Tseal : let s := next (.sw 3 1 0) (tree chain [(1, 0x100), (2, 1), (3, 0x100002)])
    (s.g 1).toNat % 8 = 0 ∧ s.g 2 = 1 ∧ 1 ≤ s.freeSlots ∧ s.freeSlot = some 3 ∧
      s.nodeOf (ofLe (s.padRead s.curCore (s.g 1).toNat 4)) = some (2, nodeIs .live (some 1) none 2) ∧ s.poison = [] ∧
      ((tree chain [(1, 4)]).g 1).toNat % 8 ≠ 0 ∧ (256 : Word).toNat < (257 : Word).toNat := by decide +kernel
theorem test_meets_Fork : (tree [(0, nodeIs .flattening none (some 5) 0)] []).nodeOf 0x100000 = some (0, nodeIs .flattening none (some 5) 0) ∧
    Node.bound (nodeIs .flattening none (some 5) 0) = true ∧ Node.bound (nodeIs .live none none 7) = false ∧ (nodeIs .live none none 7).depth = 7 ∧
    (tree chain []).freeSlot = some 3 ∧ (3 : Nat) ≠ 2 := by decide +kernel
theorem test_meets_Flatten : (nodeIs .live (some 1) none 2).st ≠ .flattening ∧ (tree chain []).freeBlocks = 0 ∧
    State.unmaterialised (nodeIs .live (some 1) none 2) = 1 ∧ (pooled chain []).freeBlocks = 8 := by decide +kernel
theorem test_meets_Tdel : (tree chain []).children 2 = [] ∧ (tree chain []).children 1 = [2] ∧
    (tree (chain ++ [(3, nodeIs .live (some 1) none 2)]) []).children 1 = [2, 3] := by decide +kernel
theorem test_meets_Tmap : (0 : Word) &&& ~~~3#64 = 0 ∧ (4 : Word) &&& ~~~3#64 ≠ 0 ∧ (1 : Word).getLsbD 0 = true ∧ (nodeIs .live none none 0).shape.sp = false ∧
    ((tree chain []).mappingsOf (tree chain []).mapOwner).length < 4096 ∧
    ({ tree chain [] with mappings := [⟨some 0, 2 ^ 54, 0x10000, 2, 1, false, false⟩] }.mappingAt (some 0) (2 ^ 54 + 0xFFFF)).isSome = true := by
  decide +kernel
theorem test_meets_Tadd : let at_ : Word := 0x3F000
    at_.toNat % 128 = 0 ∧ at_.toNat + 4096 ≤ 0x40000 ∧ (nodeIs .live (some 1) none 2).shape.fmt.toNat ≤ 5 ∧
      0 < (nodeIs .live (some 1) none 2).shape.elemPlane.blocks ∧ (tree chain []).storable 2 (nodeIs .live (some 1) none 2) = true ∧
      (tree chain []).storable 1 (nodeIs .sealed (some 0) none 1) = false ∧
      taddEffect 2 (nodeIs .live (some 1) none 2) 0 [] (tree chain []) = none ∧
      (taddEffect 2 (nodeIs .live (some 1) none 2) 0 [] (pooled chain [])).isSome = true ∧ (0x40000 : Word).toNat % 128 = 0 := by decide +kernel
theorem test_meets_Rebase : (tree chain []).hasChild 1 = true ∧ (tree chain []).hasChild 2 = false ∧
    (tree chain []).between 20 2 0 [] = none ∧ (tree chain []).between 20 1 2 [] = some [] ∧ (tree chain []).between 20 0 2 [] = some [1] ∧
    (tree chain []).rebaseBlocks (nodeIs .live (some 1) none 2) false [1] = [] ∧ (tree chain []).rebaseBlocks (nodeIs .live (some 1) none 2) true [1] = [] ∧
    (tree chain []).node 1 = some (nodeIs .sealed (some 0) none 1) := by decide +kernel
/-- A flattening child whose one block is not copied yet, or is. -/
def flattening (done : Bool) : Node := { nodeIs .flattening (some 0) none 1 with flatAt := if done then 1 else 0 }
/-- Core 0 over that pair, the die knowing of the flatten. -/
def flattens (done : Bool) : State :=
  (tree [(0, nodeIs .sealed none none 0), (1, flattening done)] []).setDie 0 { (tree [] []).die 0 with lfree := 8, flattens := [1] }
theorem test_meets_Flatten_steps : let s := flattens
    (s false).node 1 = some (flattening false) ∧ (1 : Nat) ∈ ((s false).die (flattening false).home).flattens.take 64 ∧
      State.flattenDone (flattening false) = false ∧ State.flattenDone (flattening true) = true ∧ Node.source (flattening true) = some 0 ∧
      (nodeIs .sealed none none 0).st ≠ .retired ∧ (∀ e ∈ (s true).threads, e.2.wait = none) := by decide +kernel

/-! Equivalence forests: forest 0 of die 0 with 8 elements, 3 under 1, its handle 256. -/

def forest : Forest := ⟨1, none, 8, [(3, 1)], [(1, 2)], [(1, 0)], 2, 0, [(3, 3)], false⟩
/-- A service thread that may name it. -/
def foresting (l : List (Nat × Word)) : State := (on (service l)).setForest 0 0 forest
theorem test_meets_Eqnew : (1 : Nat) ≤ 2 ^ 30 ∧ State.firstGap (Map.keys ((on (service [])).die 0).forests) 0 = 0 ∧
    ((on (service [])).die 0).seresv.toNat + (8 * 8 + 524288) ≤ (on (service [])).engineSpace 0 ∧
    (on (service [])).engineSpace 0 < ((on (service [])).die 0).seresv.toNat + (8 * 2 ^ 30 + 524288) ∧ (on (service [])).myDie = 0 := by
  decide +kernel
theorem test_meets_Forest : (foresting []).forestOf 256 = some (0, 0, forest) ∧ (foresting []).forestOf 512 = none ∧ forest.poisoned = false ∧
    (∀ e ∈ forest.parent, e.2 < e.1) ∧ (7 : Nat) < forest.n ∧ forest.n ≤ 8 ∧ (foresting []).vectorPending = false ∧
    forest.milestones.length < 16 ∧ (∀ e ∈ forest.milestones, e.1 ≠ 2) ∧ forest.milestones.find? (fun e => e.1 = 1) = some (1, 0) ∧
    forest.rootOf 3 = 1 ∧ forest.log.length + 2 * forest.parent.length + 3 ≤ 65536 := by decide +kernel
theorem test_meets_Relabel : let s := next (.sd 5 4 24) (next (.sd 3 2 0) (foresting [(2, 0x100), (3, 0x3FFE0), (4, 0x100), (5, 3)]))
    let at_ := (s.g 2).toNat
    let field (k : Nat) : Nat := ofLe (s.padRead s.curCore (at_ + 8 * k) 8)
    at_ % 8 = 0 ∧ at_ + 32 ≤ 0x40000 ∧ field 0 ≠ 0 ∧ field 0 % 4 = 0 ∧ field 0 + 4 * 8 ≤ 0x40000 ∧ field 2 = 0 ∧ field 3 = 3 ∧ s.poison = [] ∧
      s.forestOf 256 = some (0, 0, forest) := by decide +kernel

/-! Reduction slots: slot 0 of die 0, its handle 65536. -/

/-- Two contributors of one element. -/
def slotIs (st : SlotState) (cs : List Contribution) (deadline : Nat) : DrSlot :=
  ⟨1, none, st, 0x4000000000, 1, 2, 0, deadline, 0, ⟨1, 0⟩, cs, [5], 0, false⟩
/-- A service thread that may name it, with DST mapped. -/
def reducing (x : DrSlot) (l : List (Nat × Word)) : State := (mapped 0x8F (service l)).setSlot 0 0 x
/-- The bytes of a descriptor of such a slot. -/
def descBytes (dst : Nat) : List Byte := leBytes 8 dst ++ leBytes 4 1 ++ leBytes 2 2 ++ leBytes 2 0 ++ leBytes 8 0 ++ leBytes 8 0
theorem test_meets_Drinit : (drDesc (descBytes 0x4000000000)).ok = true ∧ (drDesc (descBytes 0x4000000001)).ok = false ∧
    ((mapped 0x8F (service [])).dstPinned (drDesc (descBytes 0x4000000000))).1 = true ∧
    ((mapped 0x87 (service [])).dstPinned (drDesc (descBytes 0x4000000000))).1 = false ∧
    ((mapped 0x8F (service [])).die 0).slotFree.head? = some 0 ∧
    ((mapped 0x8F (service [])).die 0).seresv.toNat + 12 ≤ (mapped 0x8F (service [])).engineSpace 0 := by decide +kernel
/-- Does reading the source give data, the state staying as it was? -/
def sources (x : DrSlot) (s : State) : Bool :=
  match drSource (s.agent 5) x (s.g 2) s with
  | (.ok _, u) => decide (u = s)
  | _ => false
theorem test_meets_Drsend : let x (st : SlotState) := slotIs st [] 0
    (reducing (x .armed) []).slotOf 65536 = some (0, 0, x .armed) ∧ (reducing (x .armed) []).slotOf 131072 = none ∧ (x .armed).poisoned = false ∧
      (0 : Nat) < (x .armed).n ∧ (x .armed).n ≤ 2 ∧ (x .armed).hasSent 0 = false ∧ (slotIs .armed [⟨0, [5], true⟩] 0).hasSent 0 = true ∧
      (reducing (x .closed) []).drFlights = [] ∧ (x .closed).st = .closed ∧ sources (x .armed) (reducing (x .armed) []) = true ∧
      (reducing (x .armed) []).hasPath 0 0 = true := by decide +kernel
theorem test_meets_Drfix : let x := slotIs .partial_ [⟨0, [5], true⟩, ⟨1, [6], false⟩] 1
    let s := next (.sd 3 2 0) (reducing x [(2, 0x100), (3, 2)])
    let named := (List.range 1024).filter fun j => (ofLe (s.padRead s.curCore (s.g 2).toNat 128)).testBit j
    x.st = .partial_ ∧ x.onTime ≠ [] ∧ (s.g 2).toNat % 8 = 0 ∧ (s.g 2).toNat + 128 ≤ 0x40000 ∧ s.poison = [] ∧ named = [1] ∧
      (∀ j ∈ named, j < x.n ∧ ∀ e ∈ x.onTime, e.i ≠ j) ∧ (named.all fun j => x.late.any fun e => e.i = j) = true ∧
      (slotIs .partial_ [] 1).onTime = [] := by decide +kernel
theorem test_meets_Arrive_slot : let s (x : DrSlot) := { reducing x [] with cycle := 1 }
    Map.find ((s (slotIs .armed [] 2)).die 0).slots 0 = some (slotIs .armed [] 2) ∧ (s (slotIs .armed [] 2)).deadlinePassed (slotIs .armed [] 2) = false ∧
      (s (slotIs .armed [] 1)).deadlinePassed (slotIs .armed [] 1) = true ∧
      ({ slotIs .armed [] 2 with contribs := [⟨0, [5], true⟩] } : DrSlot).onTime.length ≠ 2 := by decide +kernel
theorem test_meets_Contribution : let f : DrFlight := ⟨0, 0, 0, 0, 1, 0, [5]⟩
    let s := { (on { service [] with wait := some (.drsend 1 2 3 4) }).setSlot 0 0 (slotIs .armed [] 0) with drFlights := [f] }
    s.drFlights = [f] ∧ s.hasPath (dieOf f.core) 0 = true ∧ Map.find (s.die 0).slots 0 = some (slotIs .armed [] 0) ∧
      (({ s with drFlights := [] }.arrive 0 0 0 [5]).2.thread 0 0).wait = some (.drsend 1 2 3 4) := by decide +kernel
theorem test_meets_DrReleases : let s (i : Instr) := on { task [] with wait := some i }
    ((s (.drwait 1 2)).thread 0 0).wait = some (.drwait 1 2) ∧ ((s (.drfix 1 2 3)).thread 0 0).wait = some (.drfix 1 2 3) := by decide +kernel
theorem test_meets_Order : let cs : List Contribution := [⟨0, [5], true⟩, ⟨1, [6], true⟩]
    cs.Perm cs.reverse ∧ (cs.map (·.i)).Nodup := by decide +kernel

/-! Placement: instance 0 of one member waits; instance 1 stands behind it. -/

/-- Two waiting instances. -/
def waiting (t : Task) (i : Inst) : State :=
  { on (task []) with graphs := [(0, ⟨0x100000, [t, task0 []]⟩)], insts := [(0, i), (1, { Inst.fresh 0 1 0 with st := .ready, entry := 1 })] }
/-- The same, package channel 0 being held by another graph. -/
def barred (i : Inst) : State := { waiting { task0 [] with pkgch := some 0 } i with pkgHolder := [(0, 7)] }
/-- An instance in a state. -/
def instIs (st : InstState) : Inst := { Inst.fresh 0 0 0 with st := st }
theorem test_meets_Place : let i := instIs .ready
    Map.find (waiting (task0 []) i).insts 0 = some i ∧ (waiting (task0 []) i).taskOf i = some (task0 []) ∧
      State.waitsForCores (instIs .pending) = false ∧ (waiting (task0 []) i).bestRect 0 i (task0 []) State.noneFreed = some ⟨0, 0, 0⟩ ∧
      (waiting (task0 []) i).queueHead = some (0, i) ∧ (barred i).bestRect 0 i { task0 [] with pkgch := some 0 } State.noneFreed = none := by
  decide +kernel
theorem test_meets_Place_bypass : let i := instIs .ready
    let s := barred i
    let j : Inst := { Inst.fresh 0 1 0 with st := .ready, entry := 1 }
    s.queueHead = some (0, i) ∧ s.bestRect 1 j (task0 []) State.noneFreed = some ⟨0, 0, 0⟩ ∧
      s.taskOf i = some { task0 [] with pkgch := some 0 } := by decide +kernel
theorem test_meets_Place_reserving : let i := { instIs .reserving with reserved := some ⟨3, 63, 31⟩ }
    (waiting (task0 []) i).rectFits 0 (task0 []) ⟨3, 63, 31⟩ State.noneFreed = true ∧ (waiting (task0 []) i).mayHold 0 (task0 []) 3 = true := by
  decide +kernel
theorem test_meets_Place_order : let s : State := waiting (task0 []) (instIs .ready)
    let s := s.setCore 0 { Core.idle with inst := some 9 }
    s.bestRect 0 (instIs .ready) (task0 []) State.noneFreed = some ⟨0, 1, 0⟩ ∧ s.rectFits 0 (task0 []) ⟨0, 0, 0⟩ State.noneFreed = false := by
  decide +kernel
theorem test_meets_Preempt : let i := { instIs .ready with stuckAt := some 1 }
    i.stuckAt = some 1 ∧ State.waitsForCores i = true ∧ ({ barred i with cycle := 1025 }.cycle - 1).toNat = 1024 ∧
      ({ barred i with cycle := 1024 }.cycle - 1).toNat < 1024 ∧
      { placed (task []) [] .ended with insts := [(0, { instance0 with st := .resident })] }.victims 4 = [0] ∧
      (task0 []).prio = 3 := by decide +kernel
/-- Instance 0 resident on core 0, with instance 1 in a state beside it. -/
def resident (st other : InstState) (quantum : Nat) : State :=
  { placed (task []) [] other with insts := [(0, { instance0 with st := st, quantum := quantum }), (1, { Inst.fresh 0 1 0 with st := other })] }
theorem test_meets_Quantum : (resident .resident .ready 0).queue.any (fun e => (resident .resident .ready 0).prioOf instance0 ≤ (resident .resident .ready 0).prioOf e.2 &&
      (resident .resident .ready 0).couldUse 0 e.1 e.2 (task0 [])) = true ∧
    (resident .resident .ended 0).queue = [] ∧ (resident .resident .ended 1).taskOf instance0 = some (task0 []) ∧
    Map.find (resident .resident .ended 1).insts 0 = some { instance0 with st := .resident, quantum := 1 } := by decide +kernel
theorem test_meets_Stop : (resident .stopping .ended 0).coresHeld 0 = [0] ∧ (resident .stopping .ended 0).coreDrained 0 = true ∧
    (∀ tid < 4, (resident .stopping .ended 0).threadStops 0 tid = true) ∧
    { resident .stopping .ended 0 with threads := [(0, service [])] }.threadStops 0 0 = false := by decide +kernel
theorem test_meets_ZeroFill : Safety.Inv (on (task [])) := by unfold Safety.Inv; decide +kernel

/-! Ends, failures, restarts. -/

theorem test_meets_End : (0, 0) ∈ (resident .ending .ended 0).membersOf instance0 ∧ (resident .resident .ended 0).memberDrained 0 = false ∧
    { resident .ending .ended 0 with threads := [] }.memberDrained 0 = true ∧ (resident .ending .ended 0).eventRoom 0 = true ∧
    (∀ e ∈ (resident .ending .ended 0).membersOf { instance0 with membersEnded := [0] }, e.1 ∈ { instance0 with membersEnded := [0] }.membersEnded) ∧
    ((resident .ending .ended 0).setDie 0 { (on (task [])).die 0 with devents := List.replicate 4096 (false, 1) }).eventRoom 0 = false ∧
    instance0.rect = some ⟨0, 0, 0⟩ := by decide +kernel
theorem test_meets_Restart : let i (st : InstState) (rel : Bool) := { instance0 with st := st, restart := some false, released := rel }
    (i .failed true).restart = some false ∧ (i .failed true).st = .failed ∧ (i .failed true).released = true ∧ instance0.restart = none ∧
      State.holdsCores .resident = true ∧ State.holdsCores .failed = false ∧ (resident .failed .ended 0).graphs = [(0, ⟨0x100000, [task0 [], task0 []]⟩)] := by
  decide +kernel
theorem test_meets_ServiceWaits : let s (i : Instr) : State := on { service [] with op := some i }
    ((s (.restartInstance 0 0 0 5)).thread 0 0).op = some (.restartInstance 0 0 0 5) ∧ ((s (.deventRead 0 0 0)).thread 0 0).op = some (.deventRead 0 0 0) ∧
      ((s (.gsubmitWrite 0 0 0 5)).thread 0 0).op = some (.gsubmitWrite 0 0 0 5) ∧
      ((s (.migrationPoolWrite 0 0 0 0x20 5)).thread 0 0).op = some (.migrationPoolWrite 0 0 0 0x20 5) ∧
      ((on (service [])).thread 0 0).op ≠ some (.gsubmitWrite 0 0 0 5) := by decide +kernel
theorem test_meets_Devents : let s (l : List (Bool × BitVec 48)) := (on (service [])).setDie 0 { (on (service [])).die 0 with devents := l }
    ((s []).die 0).devents = [] ∧ ((s [(true, 7), (false, 8)]).die 0).devents = (true, 7) :: [(false, 8)] ∧
      ((s [(true, 7)]).readDevent 0).1 = 0xC000000000000007 := by decide +kernel

/-! Service registers and graphs. -/

theorem test_meets_Pieces : (on (service [])).piecesCanGo 0 = true ∧
    ((on (service [])).setDie 0 { (on (service [])).die 0 with pieces := [⟨0x8000000, false, true⟩] }).piecesCanGo 0 = false ∧
    State.poolUsed { (on (service [])).die 0 with lpsize := 1 } = true ∧ ((foresting []).die 0).forests ≠ [] ∧
    (∀ o ∈ (on (service [])).owed, o.1 ≠ 0) := by decide +kernel
/-- A descriptor of one member with one thread and one instance. -/
def descriptor (w : Nat) : List Byte :=
  leBytes 8 0x4000000000 ++ [BitVec.ofNat 8 w, 1, 1, 3, 0, 0, 0, 0] ++ leBytes 4 1 ++ List.replicate 236 0
/-- A header, a list and a descriptor, in frames 4 and 5. -/
def submitted (count w : Nat) : State :=
  let s := mapped 0x87 (service [])
  let s := s.physWrite 0x40000 0 (leBytes 8 0x4000000100)
  let s := s.physWrite 0x40100 0 (descriptor w)
  s.physWrite 0x50000 0 (leBytes 8 count ++ leBytes 8 0x4000000000 ++ leBytes 8 0x10000 ++ leBytes 8 0)
/-- The reasons met and the tasks read of that graph. -/
def readGraph (s : State) : Option (List Nat × Nat) :=
  match orNone (readList false 0 (ptbaseOf 0x10000) 0x4000000000 1) s with
  | (.ok (some vas), u) =>
    match readTasks false 0 (ptbaseOf 0x10000) vas vas 0 ⟨[], []⟩ u with
    | (.ok r, _) => some (r.reasons, r.tasks.length)
    | _ => none
  | (.ok none, _) => some ([5], 0)
  | _ => none
/-- The second page of device memory on the first tier-2 frame, whose link is down. -/
def linkedAway (s : State) : State := { s.physWrite 0x30008 0 (leBytes 8 (0x107 + 2 ^ 32 * 2 ^ 22)) with cxlPopulated := 1 }
theorem test_meets_Submit_fields : fieldOf ((submitted 1 1).rawRead 0x50000 32) 0 8 = 1 ∧ fieldOf ((submitted 1 1).rawRead 0x50000 32) 0x10 8 = 0x10000 ∧
    fieldOf ((submitted 1 1).rawRead 0x50000 32) 0x18 8 = 0 ∧ (0x10000 : Word) &&& 0x000FFFFFFFFF07FF#64 = 0x10000 ∧
    fieldOf ((submitted 0 1).rawRead 0x50000 32) 0 8 = 0 ∧ (submitted 1 1).liveGraphs = [] ∧ 0x50000 < 2 ^ 39 := by decide +kernel
theorem test_meets_Submit_reads : readGraph (submitted 1 1) = some ([], 1) ∧ readGraph (submitted 1 65) = some ([1], 0) ∧
    readGraph (on (service [])) = some ([5], 0) := by decide +kernel
-- the list, or a descriptor, behind a link that is down
theorem test_meets_Submit_waits : let s := linkedAway (submitted 1 1)
    let far (a : Nat) : State := s.physWrite 0x40000 0 (leBytes 8 a)
    readGraph (far 0x4000010000) = none ∧ (far 0x4000010000).submitGraph false 0 0x50000 = none ∧
      ((far 0x4000000100).submitGraph false 0 0x50000).isSome = true ∧
      ((far 0x4000010000).submitGraph true 0 0x50000).isSome = true ∧ (on (task [])).hasPath 0 0 = true := by decide +kernel

/-! Replay, test, scrub, fetch, watchdog, pair. -/

theorem test_meets_Replay : (on (service [])).me.mode = .service ∧ (0x37F : Word) &&& ~~~0x37F#64 = 0 ∧ (0x80 : Word) &&& ~~~0x37F#64 ≠ 0 ∧
    ((on (service [])).cluster 0).testing = false ∧ (∀ x ∈ State.coresOf 0, ((on (service [])).core x).inst = none) ∧
    ((resident .resident .ended 0).core 0).inst ≠ none := by decide +kernel
theorem test_meets_Replay_thread : let p : Parked := ⟨0x4000010000, true, none, some 0⟩
    let s : State := on { task [] with parked := some p }
    let x : FaultEntry := ⟨1, 0, true, 0, 0, false, false, true, false, 0, 0⟩
    (s.thread 0 0).parked = some p ∧ (s.thread 0 0).op = none ∧ p.entry = some 0 ∧ Map.find [(0, x)] 0 = some x ∧ x.deliver = true ∧
      Map.find ([] : Map FaultEntry) 0 = none := by decide +kernel
/-- A thread in TESTC, its cluster under test. -/
def testing : State :=
  (on { service [] with wait := some (.testc 1 2), op := some (.testComplete 0 0 0 false) }).setCluster 0
    { (on (service [])).cluster 0 with testing := true }
theorem test_meets_TestComplete : let s := testing
    (s.cluster 0).testing = true ∧ (s.threads.map fun e => (e.1, e.2.op, e.2.wait)) = [(0, some (.testComplete 0 0 0 false), some (.testc 1 2))] ∧
      (0xFFFF : BitVec 16).getLsbD 15 = true := by decide +kernel
/-- A thread in the mapped page, whose frame is admitted or not. -/
def fetching (flags : Nat) (frames : List Nat) : State := { mapped flags (task []) with admitted := frames }
theorem test_meets_Fetch : ((fetching 0x97 [4]).thread 0 0).running = true ∧ ((fetching 0x97 [4]).thread 0 0).wait = none ∧
    ((fetching 0x97 [4]).core 0).contained = false ∧ State.inHand ((fetching 0x97 [4]).thread 0 0) 0x4000000000 = none := by decide +kernel
/-- What the fetch of an address finds: X, W, the frame, and whether its block is poisoned. -/
def fetches (s : State) (pc : Nat) : Option (Bool × Bool × Nat × Bool) :=
  match s.fetchLeaf 0 pc with
  | (some l, u) => some (Pte.x l.pte, Pte.w l.pte, l.phys pc / 0x10000, (u.poisonIn (l.phys pc) 64).isSome)
  | (none, _) => none
theorem test_meets_Fetch_leaves : [0x97, 0x9F, 0x87].map (fun f => fetches (fetching f [4]) 0x4000000000) =
    [some (true, false, 4, false), none, none] ∧ (4 : Nat) ∈ (fetching 0x97 [4]).admitted ∧ (4 : Nat) ∉ (fetching 0x97 []).admitted := by
  decide +kernel
theorem test_meets_Watchdog : let s : State := placed { task [] with wdogDue := true } [] .ended
    (s.thread 0 0).running = true ∧ (s.thread 0 0).wdogDue = true ∧ (s.thread 0 0).cover = 0 ∧ (s.thread 0 0).parked = none ∧
      (s.thread 0 0).op = none ∧ (s.core 0).contained = false ∧
      let u := s.within 0 0 fun u => (u.setMe { u.me with wdogDue := false }).takeTrap 12 0
      (u.core 0).inst = some 0 ∧ u.instOf 0 = some instance0 ∧ u.taskOf instance0 = some (task0 []) ∧ (task0 []).wdexit = 0x4000000100 := by
  decide +kernel
/-- Core 0 paired, with words in an interval. -/
def paired (mis : BitVec 4) : State :=
  let s : State := on (task [])
  let c : Core := { Core.idle with paired := true, mismatched := mis, interval := Vector.replicate 4 1 }
  { s with cores := [(0, c)], checkpoints := [(2, ⟨s.me, [], [], [], [], [], [], none, none⟩)] }
theorem test_meets_Pair_interval : ((paired 8).core 0).paired = true ∧ ((paired 8).core 0).contained = false ∧
    ((paired 8).core 0).interval[(3 : Fin 4)] ≠ 0 ∧ ((paired 8).core 0).mismatched.getLsbD 3 = true ∧
    ((paired 8).core 0).mismatched.getLsbD 2 = false ∧ (Map.find (paired 8).checkpoints (threadKey 0 2)).isSome = true := by decide +kernel

/-! Network, Quoco, power. -/

/-- A numbered write from die 1 to die 0, first of its source. -/
def flightIs (performed : Bool) (copies : Nat) (stream : Option Nat) (home : Nat) : Flight :=
  ⟨1, 0, home, 2048, 0, stream, 0x40000, 0, .bytes, [1, 2], performed, copies, 0, 0, 0x4000000000, false, 0, 1, false, true, [], none⟩
/-- It is on its way. -/
def flying (f : Flight) (down : List Nat) (now : Word) : State := { on (task []) with flights := [f], groupsDown := down, cycle := now }
theorem test_meets_Flights : let f := flightIs false 1 none 0
    (flying f [] 0).flight 1 = some f ∧ (flying f [] 0).flightReaches f = true ∧ f.copies ≠ 0 ∧ f.performed = false ∧ f.home < 4 ∧
      State.numberSeen (Map.get ⟨0, []⟩ ((flying f [] 0).die 0).windows 1) 0 = false ∧ (on (task [])).flight 1 = none ∧
      (flying f (List.range 32) 0).flightReaches f = false ∧ ((flying f (List.range 32) 65536).cycle - f.since).toNat = 65536 ∧
      ((flying f [] 4095).cycle - f.sentAt).toNat < 4096 ∧ State.numberSeen ⟨1, []⟩ 0 = true := by decide +kernel
theorem test_meets_Flights_peer : (flightIs false 1 (some 3) 4).stream = some 3 ∧ 4 ≤ (flightIs false 1 (some 3) 4).home := by decide
theorem test_meets_Lanes : 3 * 8 + 7 ∈ (flying (flightIs false 1 none 0) [31] 0).groupsDown ∧ 3 * 8 + 7 ∉ (on (task [])).groupsDown := by
  decide +kernel
/-- Window 0 of die 0, at 0x50000: 64 KiB from 0x60000, with reduction allowed. -/
def windowed : State :=
  let s := (on (task [])).physWrite 0x50000 0 (leBytes 8 (7 + 6 * 2 ^ 16) ++ leBytes 8 1)
  s.setDie 0 { s.die 0 with inwbase := 0x5000, inwsize := 1, netSeen := [(5, [9])] }
theorem test_meets_Packet : let p (seq off : Nat) (r : Bool) : Packet := ⟨0, 5, false, seq, 0, off, r, 0, [1, 2, 3, 4]⟩
    (9 : Nat) ∈ Map.get [] (windowed.die 0).netSeen 5 ∧ (8 : Nat) ∉ Map.get [] (windowed.die 0).netSeen 5 ∧
      windowed.inboundWindow (p 8 0xFFFC true) = some (0x60000, 0) ∧ windowed.inboundWindow (p 8 0xFFFD false) = none := by decide +kernel
theorem test_meets_Links : let s : State := { on (task []) with cxlUp := 0x80, cxlPopulated := 0x81 }
    s.cxlUp.getLsbD 7 = true ∧ s.cxlUp.getLsbD 0 = false ∧ s.cxlPopulated.getLsbD 0 = true ∧ s.cxlPopulated.getLsbD 1 = false := by decide +kernel
theorem test_meets_ReadTimeout : let p : Parked := ⟨0x4000000000, false, none, none⟩
    let s : State := { on { task [] with parked := some p, op := some (.cxlReadTimeout 0 0) } with cycle := 1250000 }
    (s.thread 0 0).op = some (.cxlReadTimeout 0 0) ∧ (s.thread 0 0).parked = some p ∧ p.write = false ∧
      (s.cycle - (s.thread 0 0).wfiAt).toNat = 1250000 := by decide +kernel
/-- One page mapped on the first tier-2 frame, behind port 0, with a stream that reads it while the link is down. -/
def linked (late : Bool) : Option StreamEnd :=
  let s := (mapped 0x87 (task []))
  let s := s.physWrite 0x30000 0 (leBytes 8 (0x107 + 2 ^ 32 * 2 ^ 22))
  let s := { s with cxlPopulated := 1 }.setStream 0 0 ⟨{ request 0 with src := 0x4000000000 }, 0, none, none, [], 0, false, none, false, none, [], false⟩
  match s.stream 0 0 with
  | some x => some (s.runStream 0 0 late x).1
  | none => none
theorem test_meets_StreamTimeout : linked false = some (.link 0x4000000000 false) ∧ linked true = some .moved := by decide +kernel

/-- A listed client, a job, its page. -/
def serving (js : Map Job) : State := { submitted 1 1 with clients := [4], jobs := js }
/-- A job over those tables. -/
def jobIs (w : Option (Request × StoreOutcome)) : Job := ⟨0x10000, 0, [0x100000], [], 0, none, none, w, []⟩
theorem test_meets_Quoco : (serving []).running = true ∧ (serving []).mgmt.step = 7 ∧ (4 : Nat) ∈ (serving []).clients ∧ (5 : Nat) ∉ (serving []).clients ∧
    State.reset.mgmt.step ≠ 7 ∧ Map.find (serving [(0, jobIs none)]).jobs 0 = some (jobIs none) ∧ Map.find (serving []).jobs 0 = none := by
  decide +kernel
theorem test_meets_Create : State.shapeOk ⟨1, 4, 4, 1, 1, false⟩ = true ∧ State.shapeOk ⟨1, 0, 4, 1, 1, false⟩ = false ∧
    (serving []).freeSlot = some 0 := by
  decide +kernel
theorem test_meets_Data_node : (pooled chain []).nodeOf 0x100002 = some (2, nodeIs .live (some 1) none 2) ∧
    (pooled chain []).storable 2 (nodeIs .live (some 1) none 2) = true ∧ (nodeIs .live (some 1) none 2).shape.elemPlane.blocks = 1 ∧
    (tree chain []).writeNodeBytes 2 2 4095 [1] = none ∧ ((pooled chain []).writeNodeBytes 2 2 4095 [1]).isSome = true := by decide +kernel
/-- Does an access end, rather than wait: with a result, or not; none if it waits. -/
def accEnds {α : Type} (m : Acc α) (s : State) : Option Bool :=
  match m s with
  | (.ok _, _) => some true
  | (.error e, _) => if e.waits then none else some false
theorem test_meets_Data_device : accEnds (State.writeVirtual (ptbaseOf 0x10000) (State.pageFuel 1) 0x400000FFFF [1]) (mapped 0x8F (service [])) = some true ∧
    accEnds (State.writeVirtual (ptbaseOf 0x10000) (State.pageFuel 2) 0x400000FFFF [1, 2]) (mapped 0x8F (service [])) = some false ∧
    accEnds (State.writeVirtual (ptbaseOf 0x10000) (State.pageFuel 1) 0x4000010000 [1])
      ((linkedAway (mapped 0x8F (service []))).physWrite 0x30008 0 (leBytes 8 (0x10F + 2 ^ 32 * 2 ^ 22))) = none ∧
    accEnds (State.readPages false (ptbaseOf 0x10000) (State.pageFuel 1) 0x400000FFFF 1) (mapped 0x8F (service [])) = some true ∧
    accEnds (State.readPages false (ptbaseOf 0x10000) (State.pageFuel 1) 0x400000FFFF 1) (mapped 0x8E (service [])) = some false ∧
    accEnds (State.readPages false (ptbaseOf 0x10000) (State.pageFuel 1) 0x4000010000 1) (linkedAway (mapped 0x8F (service []))) = none ∧
    accEnds (State.readPages true (ptbaseOf 0x10000) (State.pageFuel 1) 0x4000010000 1) (linkedAway (mapped 0x8F (service []))) = some false ∧
    (mapped 0x8F (service [])).mappedAll (ptbaseOf 0x10000) 0x400000FFFF 1 = true ∧
    (mapped 0x8F (service [])).mappedAll (ptbaseOf 0x10000) 0x400000FFFF 2 = false := by decide +kernel
theorem test_meets_Checkpoint : let s : State := { tree [(0, nodeIs .live none none 0)] [] with jobs := [(0, jobIs none)] }
    (jobIs (some (⟨4, 1, true⟩, .durable))).waiting = some (⟨4, 1, true⟩, .durable) ∧ ((⟨4, 1, true⟩ : Request) ≠ ⟨4, 2, true⟩) ∧ { resident .resident .ended 0 with graphs := [(0, ⟨0x10000, [task0 [], task0 []]⟩)] }.jobPlaced (jobIs none) = true ∧ s.jobPlaced (jobIs none) = false ∧ (jobIs none).tensors.length ≤ s.freeSlots ∧
      s.nodeOf 0x100000 = some (0, nodeIs .live none none 0) ∧ (nodeIs .live none none 0).bound = false := by decide +kernel
theorem test_meets_Restore : ((serving [(0, jobIs none)]).openJob 0).isSome = true ∧
    ((serving []).makeRoots 0 [(⟨1, 4, 4, 1, 1, false⟩, [], [])]).toBool = true ∧
    ((serving []).makeRoots 0 [(⟨1, 4, 4, 1, 1, false⟩, [1], [])]).toBool = false := by decide +kernel
theorem test_meets_Tests : ((4 : Nat), (0 : Nat)) ∈ [((4 : Nat), (0 : Nat))] ∧ (∀ c ∈ [((3 : Nat), (127 : Nat))], c.1 < 4 ∧ c.2 < 128) ∧
    (testing.cluster 0).testing = true ∧ ((on (task [])).cluster 511).testing = false ∧
    (∃ x ∈ State.coresOf 0, ((resident .resident .ended 0).core x).inst ≠ none) := by decide +kernel
/-- A flash slot whose image, its rest "ubelo", is signed with a key of P-384. -/
def flash : FlashSlot :=
  ⟨[0x75, 0x62, 0x65, 0x6C, 0x6F],
    0x0E2A6DEC9D2B66068F44D66230316468F879062B0062F6E64C81263EEF27C80980C2B9DDD0434C02BD5A3759B069920F,
    0x6B9F3967B78CD7E64532A1961333DF2B0C0BB4935D975524971656187DC2513BE780A0A11B855499043962C35F90B308,
    0xE33BF886C0B353047A8764A12517A9638D94E8278DC18D57273BFF5B314CD14547BF37C675C3B370752B11C09452B11A,
    0x6AC8ED849901E61716B9A34C3B0B5B603627DF167088FA7BC195853459D9DFFADC508D2980B85C4267FEED88D755E53A,
    1, false, [0x08000000], [1, 2, 3, 4], [4]⟩
/-- The fused digest of that key. -/
def fused : Nat := 0x2A7EE2A260F6ABBAD5EC60B41309A0A2D943BF200929B64A0323FCBF9F578F13AE91DF818C1EBFA40A2F9E85F9E1EEED
/-- What a boot finds: the fused minimum version decides whether slot A verifies. -/
def inputs (rails : Bool) (least : Nat) (gddr ubelo : Bool) : BootInput := ⟨rails, flash, flash, fused, least, gddr, 0xFF, List.replicate 8 768000000000, 0xFFFF, ubelo⟩
/-- A module that boots and stands at a step. -/
def booting (step : BitVec 4) (inp : BootInput) : State :=
  { State.reset with mgmt := { State.reset.mgmt with step := step }, booting := some inp }
-- FIPS 180-4: the digest of "abc"
theorem test_sha384 : sha384 [0x61, 0x62, 0x63] =
    0xCB00753F45A35E8BB5A03D699AC65007272C32AB0EDED1631A8B605A43FF5BED8086072BA1E7CC2358BAECA134C825A7 := by decide +kernel
-- R365: the slot verifies; it does not below the fused minimum, and not with another Ubelo
theorem test_slot_verifies : slotVerifies fused 1 flash = true := by decide +kernel
theorem test_slot_refused : slotVerifies fused 2 flash = false ∧ slotVerifies fused 1 { flash with ubelo := [0x08000001] } = false := by
  decide +kernel
theorem test_meets_Power : State.reset.powered = true ∧ State.reset.mgmt.step = 1 ∧ State.reset.mgmt.failed = false ∧
    State.reset.unpowered.powered = false ∧ State.reset.shutDown.powered = true ∧ (booting 5 (inputs true 1 true false)).booting = some (inputs true 1 true false) ∧
    (booting 5 (inputs true 1 true false)).mgmt.failed = false ∧ (on (task [])).mgmt.step ≠ 5 ∧ 7 ≤ (on (task [])).mgmt.step.toNat := by
  decide +kernel
theorem test_meets_Power_copy : 0 < flash.ubelo.length ∧ flash.ubelo.length ≤ 0x4000 ∧
    (booting 4 (inputs true 1 true true)).freeFrame 8 (booting 4 (inputs true 1 true true)).nextFrame < 2 ^ 21 := by decide +kernel

/-! Steps. -/

/-- g1 of the service thread after a step, or none if the step stops. -/
noncomputable def stepGives (s : State) : Option Word :=
  match step s with
  | .next t => some ((t.thread 8192 0).g[1])
  | _ => none
-- R68 and R76: the word stored where the machine fetches runs: ADDI g1, g0, 5
theorem test_fetch_runs : stepGives (State.reset.withFetchWord 32 0x08200005) = some 5 := by decide +kernel
theorem test_meets_StepKeepsInvariant : Safety.Inv State.reset ∧ ∃ t, step State.reset = .next t := ⟨by unfold Safety.Inv; decide +kernel, _, rfl⟩
theorem test_meets_Words : (Instr.add 1 2 3).isEvent = false ∧ (Instr.add 1 2 3).wf = true ∧ decode 0x04221800#32 = .ok (.add 1 2 3) := by
  decide +kernel
/-- The word that a state fetches for its service thread, and whether the thread is free to issue. -/
def issuing (s : State) : Option (BitVec 32) × Option Nat × Bool × Bool × Bool :=
  let u := { s with free := s.free + 1, plan := s.plan.drop 1 }
  let v := ({ u with defer := false }.chosen 8192 0).asThread 8192 0
  match v.fetchWord v.me.pc with
  | (w, x) => (w, (u.turn 8192).head?, State.trapDue v.me, v.me.convoy.isSome, w.any (x.issuesBeside ·) && !x.myCore.paired && x.upsets.isEmpty)
theorem test_meets_StepRuns : issuing (State.reset.withFetchWord 32 0x08200005) = (some 0x08200005#32, some 0, false, false, true) ∧
    (State.reset.withFetchWord 32 0x08200005).plan = [.issue 8192] ∧
    issuing { State.reset.withFetchWord 32 0 with plan := [], curCore := 8192 } = (some 0#32, some 0, false, false, true) ∧
    decode 0#32 = .error .noMajor := by decide +kernel
theorem test_meets_FetchWord : let s := (State.reset.withFetchWord 32 0x08200005).asThread 8192 0
    State.inHand s.me 0x4000000000 = none ∧ ((0x4000000000 : Word).toNat % 4 = 0) ∧ ((s.fetchLeaf 8192 0x4000000000).1.map fun l => l.phys 0x4000000000) =
      some 0x40000 ∧ (s.fetchWord 0x4000000000).1 = some 0x08200005#32 := by decide +kernel
theorem test_meets_Faults : stepGives (State.reset.withFetchWord 32 0) = none := by decide +kernel

/-! A page that ADMIT admits. -/

/-- The top bytes of n words of a page at frame 4, the first of them word k: ADD g0, g0, g0 lists no other byte. -/
def adds : Nat → Nat → Memory
  | _, 0 => []
  | k, n + 1 => (0x40003 + 4 * k, 4) :: adds (k + 1) n
/-- The page mapped, and full of ADDs. -/
def fullPage : State :=
  let s := mapped 0x87 (service [(1, 0x4000000000)])
  { s with tags := [], mem := s.mem ++ adds 0 0x4000 }

theorem find_adds (x : Nat) (n k : Nat) : Map.find (adds k n) x = if 0x40003 + 4 * k ≤ x ∧ x < 0x40003 + 4 * (k + n) ∧ x % 4 = 3 then some 4 else none := by
  induction n generalizing k with
  | zero => rw [adds, Map.find, if_neg (by omega)]
  | succ n ih =>
    rw [adds, Map.find, ih]
    by_cases h : 0x40003 + 4 * k = x
    · rw [if_pos h, if_pos (by omega)]
    · rw [if_neg h]
      congr 1
      exact propext (by omega)
theorem find_append {α : Type} (m n : Map α) (x : Nat) : Map.find (m ++ n) x = (Map.find m x).or (Map.find n x) := by
  induction m with
  | nil => simp [Map.find]
  | cons a r ih =>
    obtain ⟨k, v⟩ := a
    rw [List.cons_append, Map.find, Map.find, ih]
    split <;> simp
theorem wordsOf_map (f : Nat → Byte) (n k : Nat) (b0 b1 b2 b3 : Byte)
    (h : ∀ i, f (4 * i) = b0 ∧ f (4 * i + 1) = b1 ∧ f (4 * i + 2) = b2 ∧ f (4 * i + 3) = b3 ∨ k + n ≤ i) :
    wordsOf ((List.range' (4 * k) (4 * n)).map f) = List.replicate n (wordOfBytes b0 b1 b2 b3) := by
  induction n generalizing k with
  | zero => rfl
  | succ n ih =>
    have h4 : 4 * (n + 1) = 4 * n + 1 + 1 + 1 + 1 := by omega
    rw [h4]
    simp only [List.range'_succ, List.map_cons, wordsOf, List.replicate_succ]
    obtain ⟨x0, x1, x2, x3⟩ := (h k).resolve_right (by omega)
    rw [x0, x1, x2, x3, show 4 * k + 1 + 1 + 1 + 1 = 4 * (k + 1) by omega, ih (k + 1)]
    intro i
    rcases h i with h | h
    · exact .inl h
    · exact .inr (by omega)
theorem firstRefused_replicate (w : BitVec 32) (h : (wordRefusal w).isSome = false) (hc : coveredBy w = 0) (n k : Nat) :
    firstRefused (List.replicate n w) k = none := by
  induction n generalizing k with
  | zero => rfl
  | succ n ih =>
    rw [List.replicate_succ, firstRefused]
    simp [h, hc, ih]
theorem fullPage_byte (i : Nat) (h : i < 0x10000) (key : KeyMat) : fullPage.physByte (0x40000 + i) key = if i % 4 = 3 then 4 else 0 := by
  have hm : Map.find (mapped 0x87 (service [(1, 0x4000000000)])).mem (0x40000 + i) = none := by
    have : (mapped 0x87 (service [(1, 0x4000000000)])).mem.all (fun e => e.1 < 0x40000) = true := by decide +kernel
    generalize (mapped 0x87 (service [(1, 0x4000000000)])).mem = m at *
    induction m with
    | nil => rfl
    | cons a r ih =>
      obtain ⟨k, v⟩ := a
      simp only [List.all_cons, Bool.and_eq_true, decide_eq_true_eq] at this
      rw [Map.find, if_neg (by omega)]
      exact ih this.2
  have : fullPage.physByte (0x40000 + i) key = fullPage.memByte (0x40000 + i) := rfl
  rw [this]
  show Map.get 0 (_ ++ adds 0 0x4000) _ = _
  rw [Map.get, find_append, hm, find_adds]
  by_cases h3 : i % 4 = 3
  · rw [if_pos (by omega), if_pos h3]; rfl
  · rw [if_neg (by omega), if_neg h3]; rfl
theorem test_meets_Admit_admits : firstRefused (wordsOf (fullPage.physRead 0x40000 0x10000 0)) 0 = none := by
  have : fullPage.physRead 0x40000 0x10000 0 = (List.range' (4 * 0) (4 * 0x4000)).map fun i => fullPage.physByte (0x40000 + i) (fullPage.keyOf (homeOfPhys 0x40000) 0) := by
    rw [State.physRead, List.range_eq_range']
  rw [this, wordsOf_map _ _ _ 0 0 0 4]
  · exact firstRefused_replicate _ (by decide +kernel) (by decide +kernel) _ _
  · intro i
    by_cases h : i < 0x4000
    · left
      refine ⟨?_, ?_, ?_, ?_⟩ <;> rw [fullPage_byte _ (by omega)]
      · rw [if_neg (by omega)]
      · rw [if_neg (by omega)]
      · rw [if_neg (by omega)]
      · rw [if_pos (by omega)]
    · right; omega
theorem test_meets_Admit_leaf : (fullPage.walk 0 ⟨1, 0⟩ 0x4000000000 = .leaf ⟨0x30000, 0x01000087, false⟩) ∧ fullPage.defer = false := by decide +kernel

/-- A multicast of 64 bytes to both members of an instance, under way on core 0. -/
def multicasting : State :=
  let d : List Byte := List.replicate 56 0 ++ leBytes 8 (2 + 2 ^ 8)
  (twoMembers (task []) (task []) false Core.idle).setStream 0 0
    ⟨{ request 0 with word0 := BitVec.ofNat 64 (5 + 9 * 2 ^ 4 + 9 * 2 ^ 9 + 64 * 2 ^ 24), desc := d }, 0, none, none, [], 0, false, none, false, none, [], false⟩
theorem test_meets_Multicast : (match multicasting.stream 0 0 with
    | some x => x.req.kind = 5 ∧ multicasting.unserved 0 x = [1] ∧ (multicasting.multicastOne 0 0 x 1).1 = .moved
    | none => (0 : Nat) = 1) := by
  have : (match multicasting.stream 0 0 with
    | some x => decide (x.req.kind = 5 ∧ multicasting.unserved 0 x = [1] ∧ (multicasting.multicastOne 0 0 x 1).1 = .moved)
    | none => false) = true := by decide +kernel
  revert this
  cases multicasting.stream 0 0 <;> simp

/-! ### The spec's own worked examples -/

-- 02_number_formats.md, one MXE2M1 block: 3.0, -0.7, 10.5, 0.2 give the bytes 0x93, 0x07 and the scale 0x80
theorem test_vquant_example :
    let s := next (.vquant 2 1 3 0 0) (on { task [] with
      vctl := { (task []).vctl with qfmt := 15 }
      v := (task []).v.set 1 (packLanes 32 ([0x40400000, 0xBF333333, 0x41280000, 0x3E4CCCCD] ++ List.replicate 28 0)) })
    (lanes (s.v 2) 8).take 3 = [0x93, 0x07, 0] ∧ lane (s.v 3) 8 0 = 0x80 ∧ s.me.vstat.toNat % 16 = 12 := by decide +kernel
-- 02_number_formats.md, CB2: index 0x8505, scale 0x7E, entry 5 = 0x31020417 give -3.75, 0.75, -2.25, 0.25, 1.25, 0.25, 0.75, 1.75
theorem test_vcbdec_example :
    let s := next (.vcbdec 2 1 3 0 0) { on { task [] with
        v := ((task []).v.set 1 (packLanes 16 (0x8505 :: List.replicate 63 0))).set 3 (packLanes 8 (0x7E :: List.replicate 127 0)) } with
      cores := [(0, { Core.idle with cb2 := [(5, 0x31020417)] })] }
    (lanes (s.v 2) 32).take 8 = [0xC0700000, 0x3F400000, 0xC0100000, 0x3E800000, 0x3FA00000, 0x3E800000, 0x3F400000, 0x3FE00000] := by
  decide +kernel
-- 05_vector_instructions.md: past the last position RNGDRAW is 4 and RNGPOS 0
theorem test_vrand_wrap : let s := next (.vrand 1 0 4) (on { task [] with rngpos := 0xFFFFFFFFFFFFFFFF, rngdraw := 0xFFFFFFFC })
    s.me.rngdraw = 4 ∧ s.me.rngpos = 0 ∧ s.me.vstat ≠ 0 := by decide +kernel
-- R124: VDIV of 3.0 by 3.0 gives 1.0 with no flag
theorem test_vdiv_example : let s := next (.vdiv 2 1 1 0 0) (on { task [] with v := (task []).v.set 1 (packLanes 32 (List.replicate 32 0x40400000)) })
    lane (s.v 2) 32 31 = 0x3F800000 ∧ s.me.vstat = 0 := by decide +kernel
-- 05_vector_instructions.md: VRSUBI.S16 v7, 1 turns 0x8000 into 0x8001
theorem test_vrsubi_example : lane ((next (.vrsubi 7 3 1) (on { task [] with v := (task []).v.set 7 0x8000 })).v 7) 16 0 = 0x8001 := by
  decide +kernel
-- 03_instruction_formats.md: VMOVI.E4M3 v1, 1.0, -2.0
theorem test_vmovi_example : (lanes ((next (.vmovi 1 0 0xC038) (on (task []))).v 1) 8).take 2 = [0x38, 0xC0] := by decide +kernel
-- 09_copy_and_bitstream.md, the worked decode: each line from the buffer of the line before
theorem test_bits_example :
    let s0 := next (.sb 8 5 1) (next (.sb 7 5 0) (on (task [(5, 0x2000), (6, 0x2002), (7, 0xA5), (8, 3), (9, 3)])))
    let s1 := next (.bbget 7 0 3) (next (.bbinit 4 5 6 0) s0)
    let s2 := next (.bblz 8) s1
    let s3 := next (.bbget 10 8 0) (next (.bbskip 0 9 0) s2)
    let s4 := next (.bbget 12 0 9) (next (.bbpos 11) s3)
    s1.g 7 = 5 ∧ s1.me.bb.buf = 0x74 ∧ s2.g 8 = 2 ∧ s3.g 10 = 2 ∧ s4.g 11 = 0x10008 ∧ s4.g 12 = BitVec.allOnes 64 ∧
      s4.me.bb = ⟨3, 8, false, 0x2002, 0x2002⟩ := by decide +kernel
-- 12_memory_and_translation.md, the worked walk
theorem test_walk_example :
    let s := ((on (task [])).physWrite 0x100000 5 (leBytes 8 0x04400001)).physWrite 0x111048 5 (leBytes 8 0x04800001)
    let s := s.physWrite 0x121A28 5 (leBytes 8 0x048D1580282F)
    s.walk 0 ⟨0x10, 5⟩ 0x4123456788 = .leaf ⟨0x121A28, 0x048D1580282F, false⟩ ∧
      Leaf.phys ⟨0x121A28, 0x048D1580282F, false⟩ 0x4123456788 = 0x1234566788 := by decide +kernel
-- 06_matrix_instructions.md, MMD.BF16 over a chain of an ADD and a REPLACE block
theorem test_mmd_example :
    let node (p : Option Nat) (st : NodeState) (b : List (Nat × Block)) : Node :=
      ⟨1, ⟨1, 1, 32, 1, 1, false⟩, 0, 0, st, p, if p.isSome then 1 else 0, none, b, [], 0, false, 0, [], [], []⟩
    let s := on { task [(8, 0x100), (9, 0x0010000500100007)] with shape := 0x0000100400200101 }
    let s := s.putBytes (padBase 0 + 0x100) [0x80, 0x3F, 0, 0x40]
    let key := s.keyOf 0 0
    let s := { s with
      nodes := [(5, node none .sealed [(0, .replace [(0, 0x80), (1, 0x3F), (128, 0), (129, 0x3F)] 0 key)]),
        (6, node (some 5) .sealed [(0, .add [(0, 0x3B00)] 0 key)]),
        (7, node (some 6) .live [(0, .replace [(0, 0x80), (1, 0x3F), (128, 0x40), (129, 0x3F)] 0 key)])]
      cores := [(0, { Core.idle with acc0 := [(0, 0x40000000)] })] }
    (next (.mmd 0 0 0 0 8 9 0 0) s).myCore.acc0 = [(0, 0x40202000)] := by decide +kernel
-- 10_equivalence_and_deadline.md, one late contributor: the partial, both corrections, the complete reduction
theorem test_reduction_example :
    let c (i a b : Nat) (on : Bool) : Contribution := ⟨i, [BitVec.ofNat 32 a, BitVec.ofNat 32 b], on⟩
    let x : DrSlot := { slotIs .partial_ [c 0 0x3F800000 0x3F800000 true, c 1 0 0x40000000 true, c 3 0x33800000 0x40800000 true,
      c 2 0x33800000 0x40400000 false] 2000 with e := 2, n := 4, part := [0x3F800000, 0x40E00000] }
    x.reduce x.onTime = [0x3F800000, 0x40E00000] ∧ scaled x = [0x3FAAAAAB, 0x41155556] ∧
      ((x.part.zip (x.reduce x.late)).map fun e => BitVec.ofNat 32 (DrSlot.combine 0 e.1.toNat e.2.toNat)) = [0x3F800000, 0x41200000] ∧
      x.reduce x.contribs = [0x3F800001, 0x41200000] ∧ { x with contribs := x.onTime }.status = 0x00030002 := by decide +kernel
-- 08_lineage_instructions.md: the fork of a root, the splice of the child, and the handle that traps afterwards
theorem test_lineage_example :
    let r : Node := ⟨1, ⟨1, 8, 1, 1, 1, false⟩, 0, 0, .live, none, 0, none, [(0, .replace [(0, 0x80), (1, 0x3F)] 0 (.boot 0 0))], [], 0, false, 0, [], [], []⟩
    let s := { on (task [(1, 0x100021)]) with nodes := (List.range 0x21).map (fun k => (k, nodeIs .live none none 0)) ++ [(0x21, r)] }
    let s1 := next (.fork 2 1) s
    let s2 := next (.fork 3 2) s1
    let s3 := next (.tdel 4 2) s2
    s1.g 2 = 0x100022 ∧ (next (.tinfo 5 2 0) s1).g 5 = 0x10 ∧ s2.g 3 = 0x100023 ∧ (next (.tinfo 5 2 0) s2).g 5 = 0x10011 ∧ s3.g 4 = 1 ∧
      (next (.tinfo 5 3 0) s3).g 5 = 0x10 ∧ (next (.tinfo 5 1 0) s3).g 5 = 0x10201 ∧ (next (.tinfo 5 2 0) s3).me.causeCode = 7 ∧
      (next (.tinfo 5 2 0) s3).me.tval = 0x100022 := by decide +kernel
-- 07_memory_sync_instructions.md: a block sent with g6 = 40 is no slot
theorem test_xsend_example : (next (.xsend 9 4 5 6) (exchange true 0 [(4, 0x1000200), (5, 0x1000), (6, 40)] none)).g 9 = 3 := by decide +kernel

/-! ### States for the clauses about words and events that wait -/

/-- A capture whose pass stands mid-way. -/
def midway : Thread := { task [] with capture := some { captured 0 with words := [0xA0221800#32, 0xA0221800#32], word := 1, begun := true } }
theorem test_meets_TrapEntry : State.midPass midway = true ∧ State.midPass (task []) = false ∧
    (on { task [] with pending := some ⟨11, 0, false⟩ }).me.pending = some ⟨11, 0, false⟩ ∧ (on (task [])).me.convoy = none := by decide +kernel
theorem test_meets_Invva : let s (flights : List Flight) : State := { on (service [(1, 0x4000000000)]) with flights := flights }
    (s []).defer = false ∧ invvaHeld ((s []).g 1) (s []) = false ∧ invvaHeld ((s []).g 1) (s [flightIs false 1 none 0]) = true ∧
      { s [] with defer := true }.defer = true ∧ (0x107 : BitVec 12).toNat = 0x107 := by decide +kernel
theorem test_meets_ConvoyForms_members : let s := twoMembers (task []) { task [] with wait := some (.convoyS 1 1) } false Core.idle
    s.groupCores [0, 1] = [0, 1] ∧ ([0, 1] : List Nat).Nodup ∧ (s.groupCores [0, 1]).head? = some s.curCore := by decide +kernel

/-- R, W, TIER and PIN of the leaf that the counted walk of an address finds, if it is one of a 64 KiB page. -/
def walked (s : State) (va : Nat) : Option (Bool × Bool × Bool × Bool) :=
  match (s.beginWalk s.myDie s.myCore.ptbase va).1 with
  | .leaf l => if l.large then none else some (Pte.r l.pte, Pte.w l.pte, Pte.tier l.pte, Pte.pin l.pte)
  | _ => none
theorem test_meets_Admit_walks : walked (mapped 0x87 (service [])) 0x4000010000 = none ∧
    [0x83, 0x8F, 0x07, 0x87].map (fun f => walked (mapped f (service [])) 0x4000000000) =
      [some (false, false, false, true), some (true, true, false, true), some (true, false, false, false),
        some (true, false, false, true)] := by decide +kernel
/-- The leaf of the full page, and ADMIT that waits for the end of its scan. -/
def leaf4 : Leaf := ⟨0x30000, 0x01000087, false⟩
theorem test_meets_Admit_waits : let w := (on { service [] with
      wait := some (.admitPage 2 1), op := some (.admitComplete 0 0), admitting := some leaf4 }).thread 0 0
    w.wait = some (.admitPage 2 1) ∧ w.op = some (.admitComplete 0 0) ∧ w.admitting = some leaf4 ∧ Pte.frame leaf4.pte = 4 ∧
      fullPage.admitted.contains (Pte.frame leaf4.pte) = false := by decide +kernel

/-- A page of service registers mapped at 0x4000000000: those of cluster 0, or of die 0. -/
def registers (frame : Nat) (l : List (Nat × Word)) : State :=
  (mapped 0x87 (service l)).physWrite 0x30000 0 (leBytes 8 (0x8F + frame * 2 ^ 22))
/-- The place that an access with registers resolves to. -/
def registerOf (s : State) (k : Kind) (va : Nat) : Option Loc :=
  match resolve { s.agent 5 with regs := true } k va 8 s with
  | (.ok l, _) => some l
  | _ => none
theorem test_meets_Registers : let s := registers 0xF00000080
    (s []).storesQueued = false ∧ (s []).defer = false ∧ (s []).hasPath 0 0 = true ∧ (s []).piecesCanGo 0 = true ∧
      registerOf (s []) .load 0x4000000008 = some (.dieReg 0 8) ∧ registerOf (s []) .store 0x4000000020 = some (.dieReg 0 0x20) ∧
      registerOf (registers 0xF00000000 []) .load 0x4000000100 = some (.clusterReg 0 0x100) ∧
      registerOf (registers 0xF00000000 []) .store 0x400000FFF8 = some (.clusterReg 0 0xFFF8) := by decide +kernel
theorem test_meets_Atomics_swapped : let s := (mapped 0x8F (task [])).countAtomic 0
    (swapped s 0 (.phys 0x40000 0) (leBytes 8 1)).isSome = true ∧ (swapped (on (task [])) 0 (.pad 0 0x3FFFC) (leBytes 4 1)).isSome = true := by
  decide +kernel
/-- Die 0 with a migration pool of one frame at frame 4. -/
def migrating : State := (on (task [])).setDie 0 { (on (task [])).die 0 with migbase := 4, migsize := 1 }
theorem test_meets_MemoryReads : (migrating.blurMig 0).isBlurred 0x40000 = true ∧ (migrating.blurMig 0).isBlurred 0x4FFFF = true ∧
    (migrating.blurMig 0).isBlurred 0x3FFFF = false ∧ (migrating.blurMig 0).isBlurred 0x50000 = false ∧
    (∀ e ∈ migrating.dies, ∀ p ∈ e.2.pieces, State.rangesMeet 0x40000 8 (p.frame * 2 ^ 16) (2 ^ 16) = false) := by decide +kernel
theorem test_meets_Barrier_waits : let w (i : Instr) := ((on { task [] with wait := some i }).thread 0 0).wait
    w (.arrive 1) = some (.arrive 1) ∧ w (.xphase 1) = some (.xphase 1) ∧ w (.cphase 1) = some (.cphase 1) ∧ w (.wait 1) = some (.wait 1) := by
  decide +kernel
theorem test_meets_Barrier_span : (Map.find (placed (task []) [] .ended).insts 0).isSome = true ∧
    (placed (task []) [] .ended).containedMember (.span 0) = none := by decide +kernel

/-! Exchange: first arrivals, slots, blocks, overrun. -/

/-- A member of the one-core span, with or without an arrival of its own, its bit set or not. -/
def arriving (inPhase : Bool) (bit : BitVec 64) (wait : Option Instr) (now : Word) (l : List (Nat × Word)) : State :=
  { barrier { task l with spansz := 0x01010001, inPhase := inPhase, wait := wait } ⟨[(0, 1)], if bit = 0 then [] else [(0, bit)], 5⟩ with cycle := now }
theorem test_meets_Exchange_first : [true, false].map (fun b => let s := arriving b 0 none 0 []
    (s.me.xArrived, s.me.cArrived, s.membership.isSome, s.blocksUnderWay, s.membership.map fun m =>
      State.bitmapHas (s.channel m.1).arrived m.2.1 m.2.2)) = List.replicate 2 (none, none, true, false, some false) ∧
    ((arriving true 1 none 0 []).membership.map fun m => State.bitmapHas ((arriving true 1 none 0 []).channel m.1).arrived m.2.1 m.2.2) = some true := by
  decide +kernel
/-- An XSEND from 0x1000 to the first window in cycle 32 of the phase. -/
def sending (now : Word) (wait : Option Instr) : State := arriving true 0 wait now [(4, 0x1000200), (5, 0x1000), (6, 32)]
theorem test_meets_Xsend_cycles : let s := sending
    [0, 32, 33].map (fun n => (s n none).xclk (s n none).me) = [0, 32, 33] ∧ (s 0 none).windowOpen ((s 0 none).agent 5) 0 = some 0 ∧
      (s 0 none).padHazard 0 false 0x1000 128 = false ∧ (s 0 none).poisonIn (padBase 0 + 0x1000) 128 = none ∧
      ((s 0 (some (.xsend 1 4 5 6))).thread 0 0).wait = some (.xsend 1 4 5 6) := by decide +kernel
theorem test_meets_XsendArrival : let x : XBlock := ⟨0, 0, 0, 0x200, [1]⟩
    let s : State := { on (task []) with xblocks := [x] }
    s.xblocks[0]? = some x ∧ (s.core x.dst).contained = false ∧ (s.thread x.dst 0).running = true ∧
      { s with cores := [(0, { Core.idle with contained := true })] }.core 0 = { Core.idle with contained := true } ∧
      ({ s with threads := [] }.thread 0 3).running = false := by decide +kernel
theorem test_meets_Overrun : (65536 : Int) ≤ (sending 65536 none).xclk ((sending 65536 none).thread 0 0) ∧
    ((sending 65536 (some (.cphase 3))).thread 0 0).wait = some (.cphase 3) ∧ (sending 65536 none).membership.isSome = true := by decide +kernel

/-! Queues of the core. -/

theorem test_meets_MatrixBefore : let m := (on (shaped [])).matEntry (.mslice 1 2) 2 0 0
    let c (stamp : Nat) : Core := { Core.idle with mq := [{ m with stamp := stamp }], queued := 1 }
    matrixBefore (c 0) 0 (.vadd 1 2 3 0 0) 1 = true ∧ matrixBefore (c 1) 0 (.vadd 1 2 3 0 0) 1 = false ∧
      ((queued 1).core 0).mq = [] ∧ passLeaves Core.idle (captured 0) = false ∧ (queued 1).seqEntries < 16 ∧
      State.vectorBefore (queued 1).myCore m = false := by decide +kernel
theorem test_meets_MatrixWord_mms : isMms (.mms 0 0 0 1 2 3 0) = true ∧ isMms (.mzero 0) = false ∧
    (matrixWord (.mzero 0)).isSome = true ∧ (matrixWord (.mslice 1 2)).isSome = true ∧ (matrixWord (.mms 0 0 0 1 2 3 0)).isSome = true := by
  decide +kernel
theorem test_meets_MatrixExecute_forms : let s (i : Instr) := matQueued 1 i (shaped [])
    ([.mmd 0 0 0 0 1 2 3 0, .mload 0 1 2, .mstore 0 1 2 0, .mslice 1 2, .mquant 1 2 3] : List Instr).map (fun i =>
      ((s i).core 0).mq.map fun e => (decide (e.instr = i), isMms e.instr, State.vectorBefore ((s i).core 0) e,
        outsidePad (moveRuns e.shape e.ga e.gb 4))) = List.replicate 5 [(true, false, false, none)] := by decide +kernel
theorem test_meets_Await : let s := ringed 1 0
    let w (k : Nat) : State := { s with threads := [(0, task []), (1, { task [] with wait := some (.await 1 3), awaitSeq := k })] }
    s.awaitedBefore 3 = false ∧ (w 0).awaitedBefore 3 = true ∧ s.me.wait = none ∧
      (on { task [] with wait := some (.await 1 3) }).me.wait ≠ none := by decide +kernel
theorem test_meets_Ringinit_claims : let x (done : Bool) : State := coreIs [] { Core.idle with
      rings := Core.idle.rings.set 3 ⟨0x1000, 128, 4, 0, 0, 3, 0, 0, [⟨0, 0, done⟩]⟩ }
    (((x false).ring 0 3).claims.any fun c => !c.done) = true ∧ (((x true).ring 0 3).claims.all (·.done)) = true := by decide +kernel

/-! Copy, trees, slots. -/

theorem test_meets_Copy_wait : accepts { coreIs (quadOf 64) Core.idle with defer := true } = true ∧
    (coreIs (quadOf 64) { Core.idle with fifo := List.replicate 8 (request 0) }).myCore.fifo.length = 8 := by decide +kernel
/-- A list of two entries at 0x100: the handles of two slots, or what is no handle. -/
def listing (ns : List (Nat × Node)) (x y : Word) : State :=
  next (.sw 4 1 8) (next (.sw 3 1 0) (tree ns [(1, 0x100), (2, 2), (3, x), (4, y)]))
/-- The nodes that the entries name: whether they are bound. -/
def entriesOf (s : State) : List (Option Bool) := (List.range 2).map fun j =>
  (s.nodeOf (ofLe (s.padRead s.curCore ((s.g 1).toNat + 8 * j) 4))).map fun e => e.2.bound
theorem test_meets_Tseal_entries :
    entriesOf (listing chain 0x100002 7) = [some false, none] ∧ entriesOf (listing chain 0x100002 0x100002) = [some false, some false] ∧
      entriesOf (listing chain 0x100002 0x100000) = [some false, some false] ∧
      entriesOf (listing (chain ++ [(3, nodeIs .flattening none (some 1) 0)]) 0x100002 0x100003) = [some false, some true] ∧
      (listing chain 0x100002 7).poison = [] := by decide +kernel
/-- Some node slots taken. -/
def slotsTaken (n : Nat) : State := tree ((List.range n).map fun k => (k, nodeIs .live none none 0)) []
theorem slotsTaken_free (n : Nat) : (slotsTaken n).freeSlots = 2 ^ 20 - n := by
  show 2 ^ 20 - ((List.range n).map fun k => (k, nodeIs .live none none 0)).length = _
  rw [List.length_map, List.length_range]
theorem test_meets_Tseal_full : (slotsTaken (2 ^ 20)).freeSlots = 0 := (slotsTaken_free _).trans (Nat.sub_self _)
theorem test_meets_Rebase_handles : let n : Node := { nodeIs .live (some 1) none 2 with elems := [] }
    let up : Node := { nodeIs .sealed (some 0) none 1 with elems := [(0, .replace [] 0 (.boot 0 0))] }
    let s := tree [(0, nodeIs .sealed none none 0), (1, up), (2, n)] [(1, 0x100002), (2, 0x100000), (3, 7)]
    s.nodeOf 0x100000 = some (0, nodeIs .sealed none none 0) ∧ s.nodeOf 7 = none ∧ s.between 20 0 2 [] = some [1] ∧
      s.hasChild 2 = false ∧ s.freeBlocks = 0 ∧ (s.rebaseBlocks n false [1]).length = 1 := by decide +kernel
theorem test_meets_Twait_again : (tree chain []).nodeOf 7 = none ∧
    (tree chain []).nodeOf 0x100001 = some (1, nodeIs .sealed (some 0) none 1) ∧
    (tree [(0, flattening false)] []).nodeOf 0x100000 = some (0, flattening false) := by decide +kernel
theorem test_meets_DeadlinePassed : let x (cs : List Contribution) := slotIs .armed cs 1
    let s (cs : List Contribution) : State := { reducing (x cs) [] with cycle := 1 }
    (s []).slotOf 65536 = some (0, 0, x []) ∧ (s []).deadlinePassed (x []) = true ∧ (x []).poisoned = false ∧ (x []).onTime = [] ∧
      (x [⟨0, [5], true⟩]).onTime ≠ [] ∧ (s [⟨0, [5], true⟩]).slotOf 65536 = some (0, 0, x [⟨0, [5], true⟩]) := by decide +kernel
theorem test_meets_Drinit_full : let s : State := mapped 0x8F (service [])
    ((s.setDie 0 { s.die 0 with slotFree := [] }).dstPinned (drDesc (descBytes 0x4000000000))).1 = true ∧
      (((s.setDie 0 { s.die 0 with slotFree := [] }).dstPinned (drDesc (descBytes 0x4000000000))).2.die 0).slotFree = [] ∧
      let v := ((s.setDie 0 { s.die 0 with seresv := 0x7FFFFFFFF }).dstPinned (drDesc (descBytes 0x4000000000))).2
      v.engineSpace 0 < (v.die 0).seresv.toNat + 12 := by decide +kernel

/-! Dispatch. -/

theorem test_meets_Bypass : { instIs .ready with bypass := 14 }.bypass < 15 ∧ { instIs .ready with bypass := 15 }.bypass = 15 := by decide
theorem test_meets_Restart_failed : let s (f : Bool) : State := { placed (task []) [] .ended with
      graphs := [(0, ⟨0x100000, [{ task0 [] with failed := f }]⟩)] }
    ((s true).taskOf instance0).map (·.failed) = some true ∧ ((s false).taskOf instance0).map (·.failed) = some false := by decide +kernel

/-! Replay and fetch. -/

/-- Thread 0 of core 0 parked on entry 0 of its cluster, or on none; a stream too. -/
def parkedOn (e : Option Nat) (flags : Nat) : State :=
  let p : Parked := ⟨0x4000000000, false, none, e⟩
  let s := mapped flags { task [] with parked := some p, wait := some (.ld 3 1 0) }
  let s := s.setCluster 0 { s.cluster 0 with fb := [(0, ⟨1, 0, true, 0, 0, false, false, true, false, 0, 0⟩)] }
  s.setStream 0 0 ⟨request 0, 0, some p, none, [], 0, false, none, false, none, [], false⟩
/-- Does the translation for a retry, of the thread or of the stream, find the page? -/
def found (s : State) (stream : Bool) : Option Bool :=
  match (s.thread 0 0).parked with
  | some p =>
    let u := s.countUnparked 0
    some (u.retranslate (some 0) (if stream then u.streamAgent 0 (request 0) else (u.asThread 0 0).agent 5) .load p).1.isNone
  | none => none
theorem test_meets_Replay_entries : let s := parkedOn (some 0) 0x87
    (s.cluster 0).fb.length = 1 ∧ s.waiters 0 (some 0) = [.thread 0 0, .stream 0 0] ∧ s.waiters 0 none = [] ∧
      (parkedOn none 0x87).waiters 0 none = [.thread 0 0, .stream 0 0] ∧ found s false = some true ∧ found s true = some true ∧
      found (parkedOn (some 0) 0x86) false = some false ∧ ((on (service [])).cluster 0).fb = [] ∧
      (on (service [])).waiters 0 none = [] := by decide +kernel
theorem test_meets_Fetch_stale : let l : Leaf := ⟨0x30000, 0x01000097, false⟩
    let s (flags : Nat) : State := ((fetching 0x97 [4]).fetchLeaf 0 0x4000000000).2.physWrite 0x30000 0 (leBytes 8 (flags + 4 * 2 ^ 22))
    ((s 0x9F).tlbLookup 0 (⟨1, 0⟩ : PtBase).root 0x4000000000).map (fun e => Pte.x e.pte) = some true ∧ (s 0x9F).stillExecutable 0 0x4000000000 = false ∧
      (s 0x87).stillExecutable 0 0x4000000000 = false ∧ (s 0x97).stillExecutable 0 0x4000000000 = true ∧ Pte.x l.pte = true := by
  decide +kernel
theorem test_meets_Fetch_poisoned : let s : State := { fetching 0x97 [4] with poison := [0x40000] }
    fetches s 0x4000000000 = some (true, false, 4, true) := by decide +kernel

/-! Order of writes, links, requests. -/

/-- Two writes under way, numbered 0 and 1, to the same block or to others. -/
def twoFlights (stream : Option Nat) (home : Nat) (va : Nat) : State :=
  { on (task []) with flights := [flightIs false 1 stream home, { flightIs false 1 stream home with seq := 1, va := va }] }
/-- Packets of one stream to the first endpoint of die 1, which is valid and has ROD. -/
def ordered : State :=
  let s := (twoFlights (some 3) 4 0).setDie 1 { (on (task [])).die 1 with eptbase := 0x1000, eptsize := 1 }
  s.physWrite 0x20000 0 (List.replicate 0x14 0 ++ [0x81])
theorem test_meets_InOrder : let f (stream : Option Nat) (home va : Nat) : Flight := { flightIs false 1 stream home with seq := 1, va := va }
    let two (g : Flight) : State := { on (task []) with flights := [flightIs false 1 none 0, g] }
    -- the same bytes by another mapping; the same block, by a later word and by another lane; another block
    let twin : Flight := f none 0 0x4000001000
    let later : Flight := { f none 0 0x4000000100 with word := 1, addr := 0x40100 }
    let lane : Flight := { f none 0 0x4000000100 with addr := 0x40100 }
    let other : Flight := { f none 0 0x4000001000 with word := 1, addr := 0x41000 }
    (two twin).inOrder twin = false ∧ (two later).inOrder later = false ∧ (two lane).inOrder lane = true ∧
      (two other).inOrder other = true ∧ State.ofSlot other = false ∧
      (twoFlights (some 3) 4 0).inOrder (f (some 3) 4 0) = true ∧ ordered.inOrder (f (some 3) 4 0) = false ∧
      ordered.endpointOrdered 1 0 = true := by decide +kernel
theorem test_meets_Link_waits : let s (n : Word) : State := { on (task []) with cycle := n }
    ((s 1250000).cycle - 0).toNat = 1250000 ∧ ((s 1249999).cycle - 0).toNat < 1250000 := by decide +kernel

/-- Requests of client 4. -/
def ask (id : Word) (formed : Bool) : Request := ⟨4, id, formed⟩
theorem test_meets_Inbox : let s : State := { serving [] with inbox := [.telemetry (ask 1 true) .throttled] }
    s.inboxHead 4 = some (.telemetry (ask 1 true) .throttled) ∧ (serving []).inboxHead 4 = none ∧
      Instr.telemetry (ask 1 true) .throttled ≠ .telemetry (ask 2 true) .throttled ∧ (ask 1 false).formed = false ∧ (4 : Nat) ∈ s.clients := by
  decide +kernel
theorem test_meets_Checkpoint_seals : let s : State := { pooled chain [] with jobs := [(0, { jobIs none with tensors := [0x100002] })] }
    s.jobPlaced { jobIs none with tensors := [0x100002] } = false ∧ (jobIs none).sealing = none ∧
      ((s.nodeOf 0x100002).map fun e => e.2.bound) = some false ∧ 1 ≤ s.freeSlots ∧
      { jobIs (some (ask 1 true, .durable)) with sealing := some (1, [0x100002]) }.sealing = some (1, [0x100002]) := by decide +kernel
/-- A delivery ring of two records at the mapped page, HEAD 0 and TAIL as given. -/
def ringOf (tail sent : Nat) : State :=
  let s := (mapped 0x8F (task [])).physWrite 0x40000 0 (leBytes 8 0 ++ leBytes 8 tail)
  { s with jobs := [(0, { jobIs none with ptbase := 0x10000 })], rings := [⟨0, 0x4000000000, 2, 4, 7, sent, sent⟩] }
/-- HEAD and TAIL of that ring as Ubelo reads them. -/
def readsRing (s : State) : Option (Nat × Nat) :=
  match s.rings with
  | g :: _ => match State.readRing false g s with
    | (.ok (head, tail, _), _) => some (head, tail)
    | _ => none
  | [] => none
theorem test_meets_Rings : readsRing (ringOf 1 0) = some (0, 1) ∧ readsRing (ringOf 0 0) = some (0, 0) ∧
    readsRing { ringOf 0 0 with jobs := [] } = none ∧
    ((ringOf 1 1).rings.find? fun g => g.client = 4 && g.stream = 7) = some ⟨0, 0x4000000000, 2, 4, 7, 1, 1⟩ ∧
    ((ringOf 1 1).rings.find? fun g => g.client = 4 && g.stream = 8) = none := by decide +kernel
theorem test_meets_Tests_wait : let t (left : List Nat) : TestReq := ⟨4, 1, left, [(0, 0)]⟩
    let s (left : List Nat) : State := { serving [] with tests := [t left] }
    ((s [1]).tests.find? fun t => t.client = 4 && t.id = 1) = some (t [1]) ∧
      ((s []).tests.find? fun t => t.client = 4 && t.id = 2) = none ∧ (testing.cluster 0).testing = true ∧
      (∃ x ∈ State.coresOf 0, ((resident .resident .ended 0).core x).inst ≠ none) := by decide +kernel

/-! What holds an issuing word back. -/

theorem test_meets_Step_due : State.trapDue { task [] with wdogDue := true } = true ∧
    State.trapDue { task [] with wdogDue := true, cover := 1 } = false ∧ State.trapDue { task [] with pending := some ⟨11, 0, false⟩ } = true := by
  decide +kernel
theorem test_meets_Step_held : let s := on { task [] with capture := some (captured 0) }
    s.issuesBeside (encode (.addi 5 6 1)) = true ∧ s.issuesBeside (encode (.vadd 1 2 3 0 0)) = false ∧
      (on (task [])).issuesBeside (encode (.vadd 1 2 3 0 0)) = true ∧ ordersWrites (.frel 0) = true ∧
      { on (task []) with flights := [{ flightIs false 1 none 0 with core := 0 }] }.writesOut (.frel 0) = true ∧ (on (task [])).writesOut (.frel 0) = false := by
  decide +kernel
theorem test_meets_Step_interval : (paired 0).intervalFirst (encode (.amoadd 1 2 3 0 0 0)) = true ∧
    (paired 0).intervalFirst (encode (.add 1 2 3)) = false ∧ leavesPair (encode (.add 1 2 3)) = false ∧
    (on (task [])).intervalFirst (encode (.amoadd 1 2 3 0 0 0)) = false := by decide +kernel

/-! ### Later hypotheses: waits, lost paths, faults in the middle -/

/-- Every bridge down. -/
def parted (s : State) : State := { s with groupsDown := List.range 32 }
theorem test_meets_Parted : (parted (on (task []))).hasPath 0 1 = false ∧ (parted (on (task []))).hasPath 0 0 = true ∧
    (on (task [])).ownWritesOut = false ∧ { on (task []) with xblocks := [⟨0, 0, 0, 0, []⟩] }.ownWritesOut = true := by decide +kernel
theorem test_meets_Holes : (on (task [])).windowOpen ((on (task [])).agent 5) 0 = none ∧
    (on (task [])).mappingAt ((on (task [])).agent 5).task (2 ^ 54) = none ∧ (0x2000000 : Word).toNat % 8 = 0 ∧
    (0x3FFFFFFFF8 : Word).toNat < 0x4000000000 := by decide +kernel
/-- Node 2 of a chain mapped at the first lineage page, with a pool. -/
def lined (l : List (Nat × Word)) : State := { pooled chain l with mappings := [⟨some 0, 2 ^ 54, 0x10000, 2, 1, false, false⟩] }
theorem test_meets_Frame_lineage : let s := lined [(1, 0x40000000000008), (2, 7)]
    placeOf s .store 0x40000000000008 8 = some (.node 2 false 0 8) ∧ (next (.sd 2 1 0) s).me.pc = (s.me.pc + 4) &&& ~~~3#64 ∧
      (next (.sd 2 1 0) s).me.instret = s.me.instret + 1 ∧ (s.node 2).map (·.st) = some .live ∧
      (s.node 1).map (·.st) = some .sealed ∧ ((next (.sd 2 1 0) s).node 2).isSome = true := by decide +kernel
theorem test_meets_Frame_device : let s := mapped 0x8F (task [(1, 0x4000000008), (2, 7)])
    placeOf s .store 0x4000000008 8 = some (.phys 0x40008 0) ∧ (next (.sd 2 1 0) s).me.instret = s.me.instret + 1 ∧
      (next (.sd 2 1 0) s).me.pc = (s.me.pc + 4) &&& ~~~3#64 := by decide +kernel
theorem test_meets_Xsend_contained : let s := (exchange true 7 [(1, 0x1000000), (2, 0x3FF80), (3, 7)] none)
    let s := s.setCore 0 { s.core 0 with contained := true }
    (s.core 0).contained = true ∧ s.padHazard 0 false 0x3FF80 128 = false ∧ s.windowOpen (s.agent 5) 0 = some 0 := by decide +kernel
theorem test_meets_Xsend_order : let b (tid : Nat) : XBlock := ⟨0, tid, 0, 0, []⟩
    let xs : List XBlock := [b 0, b 0, b 1]
    (∃ y ∈ xs.take 1, y.src = (b 0).src ∧ y.tid = (b 0).tid) ∧ (∀ y ∈ xs.take 2, ¬(y.src = (b 1).src ∧ y.tid = (b 1).tid)) ∧
      xs[2]? = some (b 1) := by decide +kernel
theorem test_meets_Vector_fault : let s := on (task [(1, 0x3FFFC)])
    (s.g 1).toNat % 4 = 0 ∧ activeLane (s.p 0) 32 1 = true ∧ 0x3FFFC + 4 ≤ 0x40000 ∧ 0x40000 ≤ 0x3FFFC + 1 * 4 ∧
      State.midPass s.me = false ∧ State.midPass { task [] with capture := some { captured 1 with begun := true } } = true ∧
      s.me.vsres.valid = false := by decide +kernel
theorem test_meets_Vector_resume : let s := on { task [] with vsres := ⟨true, 5, false, 0, (0x4000000000 : Word).extractLsb' 2 53⟩ }
    s.me.vsres.valid = true ∧ s.me.vsres.cap = false ∧ s.me.vsres.widx = 0 ∧ s.me.vsres.loc = s.me.pc.extractLsb' 2 53 := by decide +kernel
theorem test_meets_PairHolds : (paired 0).pairHolds 0 0 = true ∧ (on (task [])).pairHolds 0 0 = false ∧ storesPad (.mstore 0 1 1 0) = true ∧
    ((paired 0).setCore 0 { (paired 0).core 0 with matched := 1 }).pairHolds 0 0 = false := by decide +kernel
theorem test_meets_Pair_open : ∃ k : Fin 4, (paired 0).myCore.interval[k] ≠ 0 ∧ ∀ j : Fin 4, j < k → (paired 0).myCore.interval[j] = 0 :=
  ⟨0, by decide +kernel, fun j h => absurd h (by omega)⟩
theorem test_meets_Pair_closed : { Core.idle with paired := true }.interval = Vector.replicate 4 0 := by decide +kernel
theorem test_meets_Copy_codes : let s := coreIs (quadOf 64 ++ [(7, 3)]) Core.idle
    let t := coreIs [(4, BitVec.ofNat 64 (0 * 2 ^ 4 + 0 * 2 ^ 9 + 16 * 2 ^ 24)), (5, 0x101), (6, 0x200)] Core.idle
    (s.quad 4).badRequest = false ∧ (s.quad 4).formatsOk = true ∧ (s.quad 4).badPlace = false ∧ (s.quad 4).needsDesc = false ∧
      (s.quad 4).badShape = false ∧ s.badCompletion (s.quad 4) = true ∧ s.myCore.ringPoison = 0 ∧
      (t.quad 4).badRequest = false ∧ (t.quad 4).formatsOk = true ∧ (t.quad 4).badPlace = false ∧ (t.quad 4).badShape = false ∧
      t.badCompletion (t.quad 4) = false ∧ (t.quad 4).badAlign = true := by decide +kernel
theorem test_meets_Bits_flush : let m (cnt ptr lim : Nat) : Nat := min (cnt / 8) (lim - ptr)
    128 < 120 + 16 ∧ 120 - 8 * m 120 0 16 + 16 ≤ 128 ∧ 128 < 120 - 8 * m 120 0 0 + 16 ∧ 4 < 0 + (33 + 7) / 8 ∧
      (bitsIn 120 true 0 16).me.bb.dir = true ∧ (bitsIn 33 true 0 4).me.bb.cnt ≠ 0 := by decide +kernel
theorem test_meets_Tadd_away : let n := { nodeIs .live (some 1) none 2 with home := 1 }
    let s := parted (tree (chain.take 2 ++ [(2, n)]) [])
    s.storable 2 n = true ∧ s.hasPath s.myDie n.home = false ∧ s.myDie = 0 := by decide +kernel
/-- A part of DST of slot 0 of die 0 on its way. -/
def dstFlight (done : Bool) (pa : Nat) : Flight :=
  { flightIs done 1 (some 0) 0 with src := 0, seq := 1, core := State.engineCore 0, addr := pa }
theorem test_meets_Dst_out : let x := slotIs .partial_ [⟨0, [5], true⟩] 1
    let s (done : Bool) : State := { reducing x [] with flights := [dstFlight done 0x40000] }
    (s false).dstOut 0 0 = true ∧ (s true).dstOut 0 0 = false ∧ (s false).dstWaits 0 0 x = true ∧ (s true).dstWaits 0 0 x = false ∧
      x.st ≠ .armed ∧ x.st ≠ .closed ∧ State.ofSlot (dstFlight false 0x40000) = true ∧
      ((s false).reachHome (dstFlight false 0x40000)).isSome = true ∧ (s false).reachHome (dstFlight false (2 ^ 48)) = none := by decide +kernel
theorem test_meets_Slot_poisoned : let x := { slotIs .armed [] 0 with poisoned := true }
    let s : State := { (on { task [] with wait := some (.drsend 1 2 3 4) }) with drFlights := [⟨0, 0, 0, 0, 1, 0, [5]⟩] }.setSlot 0 0 x
    Map.find (s.die 0).slots 0 = some x ∧ x.gen = 1 ∧ x.poisoned = true ∧ (s.thread 0 0).wait = some (.drsend 1 2 3 4) := by decide +kernel
/-- Does placing read the arguments, and how many? -/
def argsRead (s : State) (i : Inst) (t : Task) : Option Nat := (s.placementArgs 0 i t 0).map fun r => r.1.length
theorem test_meets_Placement_args : let t := { task0 [] with desc := 0x4000000100 }
    let i := { instIs .ready with predsDone := true }
    let s (x : State) : State := { x with graphs := [(0, ⟨0x10000, [t]⟩)] }
    argsRead (s (submitted 1 1)) i t = some 0 ∧ argsRead (s (linkedAway (submitted 1 1))) i { t with desc := 0x4000010000 } = none ∧
      (instIs .ready).predsDone = false ∧ i.ctx = none := by decide +kernel
theorem test_meets_Reserve : let i := { instIs .reserving with reserved := some ⟨0, 0, 0⟩ }
    let s := waiting (task0 []) i
    (i.reserved.filter fun r => s.rectFits 0 (task0 []) r State.allFreed) = some ⟨0, 0, 0⟩ ∧
      s.rectFits 0 (task0 []) ⟨0, 0, 0⟩ State.noneFreed = true ∧ s.mayHold 0 (task0 []) 0 = true ∧
      ((i.reserved.filter fun r => (s.setDie 0 { s.die 0 with wdrawn := 1 }).rectFits 0 (task0 []) r State.allFreed)) = none := by decide +kernel
theorem test_meets_Saved : State.savedRuns ⟨[{ task [] with running := false }], Core.idle, [], []⟩ = false ∧
    State.savedRuns ⟨[task []], Core.idle, [], []⟩ = true := by decide +kernel
theorem test_meets_Service_away : let e : Instr := .keyload 0 0 1 5
    let s := parted (on { service [] with op := some e })
    (s.thread 0 0).op = some e ∧ s.hasPath (dieOf 0) 1 = false := by decide +kernel
theorem test_meets_Held : let f := { flightIs false 0 none 0 with src := 1 }
    f.copies = 0 ∧ f.performed = false ∧ (on (task [])).sourceFull 1 = false := by decide +kernel
theorem test_meets_Held_full : { on (task []) with flights := List.replicate 65536 (flightIs false 1 none 0) }.sourceFull 1 = true := by
  simp only [State.sourceFull, List.countP_replicate]
  decide
theorem test_meets_Bridge_down : let s := on (task [])
    let last : State := { s with groupsDown := [0, 1, 2, 3, 4, 5, 6] }
    ((s.failGroup 0 7).bridgeUp 0 = true) ∧ ((last.failGroup 0 7).bridgeUp 0 = false) ∧
      (([flightIs false 1 none 0].map fun f => State.flightKey f.src f.seq).Nodup) := by decide +kernel
theorem test_meets_Ordered_packet : let p (seq : Nat) : Packet := ⟨0, 5, true, seq, 0, 0, false, 0, [1, 2, 3, 4]⟩
    Map.get 0 (windowed.die 0).netNext 5 = 0 ∧ (p 1).seq ≠ 0 ∧ (p 0).rod = true ∧ (1 : Nat) ∉ Map.get [] (windowed.die 0).netSeen 5 := by
  decide +kernel
theorem test_meets_Record : let s := on (task [])
    let t := s.setDie 0 { s.die 0 with errsize := 4, errbase := 7 }
    (s.die 0).errsize.toNat ≤ 1 ∧ ¬((t.die 0).errsize.toNat ≤ 1 ∨ ((t.die 0).errtail.toNat + 1) % 4 = (t.die 0).errhead.toNat) := by
  decide +kernel
theorem test_meets_Node_requests : let n := { nodeIs .live (some 1) none 2 with home := 1 }
    (parted (tree (chain.take 2 ++ [(2, n)]) [])).hasPath 0 n.home = false ∧
      (pooled chain []).nodePoisoned 2 0 8 = false ∧
      (tree (chain.take 2 ++ [(2, { nodeIs .live (some 1) none 2 with badEntries := [none] })]) []).nodePoisoned 2 0 8 = true := by decide +kernel
theorem test_meets_Handle_words : let s := { mapped 0x8F (service []) with graphs := [(0, ⟨0x10000, [task0 []]⟩)] }
    let j := { jobIs none with words := [(0x4000000008, 0)] }
    j.words = [] ++ [(0x4000000008, 0)] ∧ [5#32][0]? = some 5 ∧ (Map.find s.graphs 0).map (·.ptbase) = some j.ptbase ∧
      accEnds (State.writeVirtual (ptbaseOf j.ptbase) 2 0x4000000008 (leBytes 4 5)) (s.giveHandles { j with words := [] } [5]) = some true := by
  decide +kernel
theorem test_meets_Ring_ports : (ringOf 1 0).ethUp = 0 ∧ { ringOf 1 0 with ethUp := 1 }.ethUp ≠ 0 ∧
    readsRing { ringOf 1 0 with ethUp := 1 } = some (0, 1) := by decide +kernel
theorem test_meets_Restore_latest : let old : Manifest := ⟨5, []⟩
    { jobIs none with manifest := some old }.manifest = some old ∧ (4 : Nat) < old.seq ∧ old.seq ≤ 6 := by decide
theorem test_meets_Boot_ports : let s := booting 4 (inputs true 1 true true)
    (∀ d < 4, (s.die d).errsize.toNat ≤ 1) ∧ s.freeFrame 8 s.nextFrame < 2 ^ 21 ∧ s.freeFrame 8 (s.freeFrame 8 s.nextFrame + 1) < 2 ^ 21 ∧
      1 < ((s.setDie 0 { s.die 0 with errsize := 4 }).die 0).errsize.toNat := by decide +kernel
theorem test_meets_Images : flash.ubelo.length = { flash with rest := [] }.ubelo.length ∧ imageBytes flash = imageBytes flash := by decide +kernel
theorem test_meets_Step_leaves : (paired 0).leavesNow (encode (.amoadd 1 2 3 0 0 0)) = true ∧
    ((paired 0).setCore 0 { (paired 0).core 0 with matched := 1 }).intervalFirst (encode (.amoadd 1 2 3 0 0 0)) = false := by decide +kernel

/-! ### Words that enter behind others, passes, arrivals that are owed -/

/-- Core 0 with a capture of thread 1, entered as number 0, its first pass begun or not. -/
def besides (begun : Bool) : State :=
  let s := queued 1
  { s with threads := [(0, task [(1, 0x3FF80)]), (1, { task [] with capture := some { captured 0 with begun := begun } })] }
/-- Does the check of a vector access pass? -/
def checked (i : Instr) (base : Word) (s : State) : Option Bool :=
  (vmemForm s i 0).map fun f => match vmemCheck f base s with
    | (.ok _, _) => true
    | (.error _, _) => false
theorem test_meets_CaptureBefore : (besides false).captureBefore 0 0 1 = true ∧ (besides true).captureBefore 0 0 1 = false ∧
    (besides false).captureBefore 0 0 0 = false ∧ (on (task [])).captureBefore 0 0 0 = false := by decide +kernel
theorem test_meets_Vmem_queued : let s := queued 1
    s.myCore.vq ≠ [] ∧ s.seqEntries < 16 ∧ s.myCore.paired = false ∧ checked (.vld 1 1 0 0) 0x3FF80 s = some true ∧
      checked (.vld 1 1 0 0) 0x3FF81 s = some false ∧ ((vmemForm s (.vld 1 1 0 0) 0).map s.operandsQueued) = some false ∧
      ((vmemForm s (.vldx 1 1 1 0 0) 0).map s.operandsQueued) = some true ∧ (encode (.vld 1 1 0 0)).extractLsb' 26 6 = 0x2F#6 := by
  decide +kernel
theorem test_meets_Repeat_room : ¬((repeating 3).setMe { (repeating 3).me with capture := none }).seqEntries + 16 ≤ 16 - 1 ∧
    ((on { task [(1, 3)] with pc := 0x4000000000 }).fetchWords 1 0x4000000004 []).1 = none ∧
    ¬((queued 16).setMe { (queued 16).me with capture := none }).seqEntries + 1 ≤ 16 := by decide +kernel
theorem test_meets_PassWaits : (queued 1).passWaits 0 0 (captured 0) = true ∧ (on (task [])).passWaits 0 0 (captured 1) = false ∧
    (on { task [] with capture := some (captured 1) }).intervalFull = false ∧ (besides false).passWaits 0 2 { captured 0 with stamp := 1 } = true := by
  decide +kernel
theorem test_meets_Owes : let s (t : Thread) := on { t with owes := true }
    (s (task [])).me.inPhase = false ∧ (s (task [])).me.owes = true ∧ (s (task [])).ownWritesOut = false ∧ (s (task [])).membership = none ∧
      { s (task []) with xblocks := [⟨0, 0, 0, 0, []⟩] }.ownWritesOut = true ∧
      (arriving false 0 none 0 []).membership.isSome = true ∧ (arriving false 0 none 0 []).ownWritesOut = false ∧
      (sending 65536 none).me.cArrived = none ∧ { sending 65536 none with xblocks := [⟨0, 0, 0, 0, []⟩] }.ownWritesOut = true := by decide +kernel
theorem test_meets_StreamSpace : let s := { tree (chain.take 2 ++ [(2, nodeIs .live (some 1) none 2)]) [] with
      mappings := [⟨some 0, 2 ^ 54, 0x10000, 2, 1, false, false⟩] }
    let s := { placed { task [] with spansz := 0x01010001 } [] .ended with nodes := s.nodes, mappings := s.mappings }
    runs (s.setStream 0 0 ⟨{ request 0 with dst := 2 ^ 54 }, 0, none, none, [], 0, false, none, false, none, [], false⟩) =
      some (.space (2 ^ 54), 0, true) ∧ s.stopsOn 0 = false := by decide +kernel
theorem test_meets_Forest_lanes : let s (u : Bool) := (on { task [(1, 256)] with forest := some ⟨u, 2, 1, 3, 4⟩ }).setForest 0 0 { forest with owner := none }
    ((s true).thread 0 0).forest = some ⟨true, 2, 1, 3, 4⟩ ∧ ((s true).asThread 0 0).handleOperand 1 = (s false).handleOperand 1 ∧
      { foresting [] with defer := true }.defer = true ∧ (foresting []).defer = false := by decide +kernel
theorem test_meets_Forest_named : let s := (on { service [(1, 256)] with forest := some ⟨true, 2, 1, 3, 4⟩ }).setForest 0 0 forest
    (s.thread 0 0).forest = some ⟨true, 2, 1, 3, 4⟩ ∧ (s.asThread 0 0).forestOf ((s.asThread 0 0).handleOperand 1) = some (0, 0, forest) := by
  decide +kernel
theorem test_meets_Drfix_mask : let s := on { task [(1, 0x40000), (2, 0x3FF80)] with fixMask := some 2 }
    (s.g 1).toNat % 8 = 0 ∧ 0x40000 < (s.g 1).toNat + 128 ∧ (s.g 2).toNat + 128 ≤ 0x40000 ∧ s.me.fixMask ≠ none ∧
      (on (task [])).me.fixMask = none := by decide +kernel
theorem test_meets_Pools : let s := on (task [])
    State.meetsLp (s.die 0) 0x40000 1 = false ∧ State.meetsMig (s.die 0) 0x40000 1 = false ∧ State.meetsSeo (s.die 0) 0x40000 1 = false := by
  decide +kernel
theorem test_meets_Relabel_open : let p : Parked := ⟨0x4000000000, true, none, none⟩
    let w (i : Instr) : Thread := { task [] with wdogDue := true, wait := some i, parked := some p }
    State.openToTrap (w (.relabel 1 2 3)) = true ∧ State.openToTrap (w (.ld 3 1 0)) = false ∧ (w (.ld 3 1 0)).parked ≠ none := by decide +kernel
theorem test_meets_Packet_path : let p (die : Nat) : Packet := ⟨die, 5, false, 0, 0, 0, false, 0, [1, 2, 3, 4]⟩
    let v := windowed.setDie 1 (windowed.die 0)
    (v.inboundWindow (p 1)).isSome = true ∧ (parted v).hasPath 1 (homeOfPhys 0x60000) = false ∧ v.hasPath 1 (homeOfPhys 0x60000) = true := by
  decide +kernel
/-- How a stream goes on once what it waited for came late: a copy whose destination is behind the link too. -/
def lateThen (dst src : Word) (n : Nat) : Option StreamEnd :=
  let s := linkedAway (mapped 0x87 (task []))
  let s := s.physWrite 0x30000 0 (leBytes 8 (0x10F + 2 ^ 32 * 2 ^ 22))
  let s := s.setStream 0 0 ⟨{ request 0 with src := src, dst := dst, word0 := BitVec.ofNat 64 (9 * 2 ^ 4 + 9 * 2 ^ 9 + n * 2 ^ 24) },
    0, none, none, [], 0, false, none, false, none, [], false⟩
  match s.stream 0 0 with
  | some x => some (s.runStream 0 0 true x).1
  | none => none
theorem test_meets_Late_write : lateThen 0x4000000000 0x4000000100 64 = some (.link 0x4000000000 true) := by decide +kernel

/-! ### Requests, rings, steps -/

theorem test_meets_Submit : let s := serving [(0, jobIs none)]
    let h (addr : Nat) (pt : Word) : GraphHeader := ⟨0, addr, 1, 0x4000000000, pt, 0⟩
    let placed (h : GraphHeader) : Bool := h.addr % 32 = 0 && h.addr < 2 ^ 39 && h.die < 4
    placed (h 0x50000 0x10000) = true ∧ State.ptbaseOk 0x20000 = true ∧ State.ptbaseOk 0x10800 = false ∧
      (s.jobs.any fun e => e.2.ptbase = (h 0 0x10000).ptbase) = true ∧ (s.jobs.any fun e => e.2.ptbase = (h 0 0x20000).ptbase) = false ∧
      placed (h (2 ^ 37) 0x10000) = true ∧ (parted s).hasPath 0 (homeOfPhys (2 ^ 37)) = false ∧ s.hasPath 0 (homeOfPhys 0x50000) = true := by
  decide +kernel
theorem test_meets_Rings_sent : let g : DeliveryRing := ⟨0, 0x4000000000, 2, 4, 7, 1, 0⟩
    let s := { ringOf 1 0 with rings := [g] }
    s.rings[0]? = some g ∧ s.rings[1]? = none ∧ g.acked ≠ g.sent ∧ readsRing s = some (0, 1) ∧ readsRing (ringOf 2 0) = some (0, 2) ∧
      (s.rings.find? fun g => g.client = 4 && g.stream = 7) = some g ∧ (∀ x ∈ s.rings, ¬(x.client = 4 ∧ x.stream = 8)) ∧
      readsRing { s with rings := [{ g with acked := 1 }] } = some (0, 1) ∧ ({ s with ethUp := 1 }.ethUp ≠ 0) := by decide +kernel
/-- What comes between a word and its issue: its wait, the turn of a core whose threads wait. -/
theorem test_meets_Turn : (on { task [] with owes := true }).heldBack (.arrive 1) = true ∧ (on (task [])).heldBack (.arrive 1) = false ∧
    (on { task [] with wait := some .wfi }).turn 0 = [] ∧ (paired 0).myCore.paired = true := by decide +kernel
end Sys2Proof.Tests
end

/-! PROOFS. What a write to device memory reads back as: which bytes stay blurred, under which key the written lines
stand, what a pool that the write meets leaves of them, and whether the key slot still holds its key. -/

section
namespace Sys2Proof.Machine

/-! ### Maps -/

/-- In a map that lists each key once, an entry is what its key finds. -/
theorem Map.find_of_mem {α : Type} {m : Map α} {e : Nat × α} (hm : (Map.keys m).Nodup) (h : e ∈ m) :
    Map.find m e.1 = some e.2 := by
  induction m with
  | nil => simp at h
  | cons a r ih =>
    obtain ⟨ha, hr⟩ := List.nodup_cons.1 hm
    rcases List.mem_cons.1 h with rfl | h
    · simp [Map.find]
    · have hne : a.1 ≠ e.1 := fun heq => ha (List.mem_map.2 ⟨e, h, heq.symm⟩)
      rw [Map.find, if_neg hne, ih hr h]

/-- Insertions at other keys leave what a key finds. -/
theorem Map.find_foldl_insert_of_ne {α β : Type} (l : List β) (f : β → Nat) (x : α) (m : Map α) (j : Nat)
    (h : ∀ b ∈ l, j ≠ f b) : Map.find (l.foldl (fun m b => Map.insert m (f b) x) m) j = Map.find m j :=
  List.foldlRecOn l _ (motive := fun m' => Map.find m' j = Map.find m j) rfl
    fun m' hm' b hb => by rw [Map.find_insert_of_ne _ _ _ _ (h b hb), hm']

namespace State

/-- Two ranges that do not meet have no number in common. -/
theorem not_both_of_rangesMeet_false {a n b m x : Nat} (h : rangesMeet a n b m = false)
    (ha : a ≤ x ∧ x < a + n) : ¬ (b ≤ x ∧ x < b + m) := by
  simp only [rangesMeet, Bool.and_eq_false_iff, decide_eq_false_iff_not] at h
  omega

/-! ### What the parts of a write leave of tags, dies and blurred runs -/

@[simp] theorem tags_coverRun (s : State) (k n : Nat) : (s.coverRun k n).tags = s.tags := by unfold coverRun; split <;> rfl
@[simp] theorem dies_coverRun (s : State) (k n : Nat) : (s.coverRun k n).dies = s.dies := by unfold coverRun; split <;> rfl
@[simp] theorem blurred_coverRun (s : State) (k n : Nat) : (s.coverRun k n).blurred = s.blurred := by
  unfold coverRun; split <;> rfl
@[simp] theorem tags_endAdmission (s : State) (pa n : Nat) : (s.endAdmission pa n).tags = s.tags := rfl
@[simp] theorem dies_endAdmission (s : State) (pa n : Nat) : (s.endAdmission pa n).dies = s.dies := rfl
@[simp] theorem blurred_endAdmission (s : State) (pa n : Nat) : (s.endAdmission pa n).blurred = s.blurred := rfl
@[simp] theorem tags_carve (s : State) (pa n : Nat) : (s.carve pa n).tags = s.tags := rfl
@[simp] theorem dies_carve (s : State) (pa n : Nat) : (s.carve pa n).dies = s.dies := rfl

@[simp] theorem dies_physPut (s : State) (pa : Nat) (key : KeyMat) (bs : List Byte) :
    (s.physPut pa key bs).dies = s.dies := by
  induction bs generalizing s pa with
  | nil => rfl
  | cons b r ih => exact ih _ _

@[simp] theorem blurred_physPut (s : State) (pa : Nat) (key : KeyMat) (bs : List Byte) :
    (s.physPut pa key bs).blurred = s.blurred := by
  induction bs generalizing s pa with
  | nil => rfl
  | cons b r ih => exact ih _ _

/-- What holds before a write disturbs the pools, and what losing the nodes, the objects or the pieces of a die that
the write meets keeps, holds afterwards. -/
theorem disturbPools_keeps {P : State → Prop} {s : State} {pa n : Nat} (h : P s)
    (nodes : ∀ u die, P u → P (u.loseNodes die))
    (objects : ∀ u, ∀ e ∈ s.dies, P u → P (u.loseObjects e.1 e.2))
    (pieces : ∀ u, ∀ e ∈ s.dies, meetsMig e.2 pa n = true → P u → P (u.losePieces e.2)) : P (s.disturbPools pa n) := by
  refine List.foldlRecOn s.dies _ h fun u hu e he => ?_
  have hn : P (if meetsLp e.2 pa n then u.loseNodes e.1 else u) := by
    split
    · exact nodes u e.1 hu
    · exact hu
  generalize (if meetsLp e.2 pa n then u.loseNodes e.1 else u) = v at hn
  have ho : P (if meetsSeo e.2 pa n then v.loseObjects e.1 e.2 else v) := by
    split
    · exact objects v e he hn
    · exact hn
  show P (if meetsMig e.2 pa n then State.losePieces (if meetsSeo e.2 pa n then v.loseObjects e.1 e.2 else v) e.2
    else if meetsSeo e.2 pa n then v.loseObjects e.1 e.2 else v)
  split
  · exact pieces _ e he ‹_› ho
  · exact ho

@[simp] theorem blurred_disturbPools (s : State) (pa n : Nat) : (s.disturbPools pa n).blurred = s.blurred :=
  disturbPools_keeps (P := fun u => u.blurred = s.blurred) rfl (fun _ _ h => h) (fun _ _ _ h => h) fun _ _ _ _ h => h

/-! ### Bytes that a pool has written for itself -/

/-- What carving a run out of another leaves covers the bytes of the other outside the run. -/
theorem any_carveRun (pa n x : Nat) (r : Nat × Nat) :
    (carveRun pa n r).any (fun e => e.1 ≤ x && x < e.1 + e.2) =
      ((r.1 ≤ x && x < r.1 + r.2) && !(decide (pa ≤ x) && decide (x < pa + n))) := by
  rw [Bool.eq_iff_iff]
  unfold carveRun
  split
  · rename_i hmeet
    simp only [rangesMeet, Bool.and_eq_true, decide_eq_true_eq] at hmeet
    simp only [List.any_eq_true, List.mem_filter, List.mem_cons, List.not_mem_nil, or_false, or_and_right, exists_or,
      exists_eq_left, and_assoc]
    simp
    omega
  · rename_i hmeet
    simp only [rangesMeet, Bool.and_eq_true, decide_eq_true_eq, ne_eq] at hmeet
    simp
    omega

theorem isBlurred_congr {s t : State} (h : t.blurred = s.blurred) (x : Nat) : t.isBlurred x = s.isBlurred x := by
  simp [isBlurred, h]

theorem isBlurred_carve (s : State) (pa n x : Nat) :
    (s.carve pa n).isBlurred x = (s.isBlurred x && !(decide (pa ≤ x) && decide (x < pa + n))) := by
  simp only [isBlurred, carve, List.any_flatMap, any_carveRun]
  induction s.blurred with
  | nil => rfl
  | cons r rs ih => rw [List.any_cons, List.any_cons, ih, Bool.and_or_distrib_right]

/-- A write through a mapping leaves blurred what it does not write. -/
theorem isBlurred_physWrite (s : State) (pa slot : Nat) (bs : List Byte) (x : Nat) :
    (s.physWrite pa slot bs).isBlurred x = (s.isBlurred x && !(decide (pa ≤ x) && decide (x < pa + bs.length))) := by
  cases bs with
  | nil =>
    have : (decide (pa ≤ x) && decide (x < pa)) = false := by simp
    simp [physWrite, this]
  | cons b r =>
    have hput : ∀ (key : KeyMat) (n : Nat), (((s.physPut pa key (b :: r)).coverRun pa n).endAdmission pa n).isBlurred x =
        s.isBlurred x := fun _ _ => isBlurred_congr (by simp) x
    rw [← hput]
    exact (isBlurred_congr (blurred_disturbPools ..) x).trans (isBlurred_carve ..)

/-! ### The key of a line -/

/-- The line of a byte was written last under a key, and no later write under another key lost the byte (R273). -/
def ReadsUnder (s : State) (x : Nat) (key : KeyMat) : Prop :=
  ∃ t, Map.find s.tags (x / 16) = some t ∧ t.key = key ∧ t.lost.getLsbD (x % 16) = false

theorem readsUnder_congr {s t : State} (h : t.tags = s.tags) (x : Nat) (key : KeyMat) :
    t.ReadsUnder x key ↔ s.ReadsUnder x key := by simp [ReadsUnder, h]

/-- Such a byte, where no pool has written, reads under that key as what memory holds. -/
theorem ReadsUnder.physByte {s : State} {x : Nat} {key : KeyMat} (h : s.ReadsUnder x key) (hb : s.isBlurred x = false) :
    s.physByte x key = s.memByte x := by
  obtain ⟨t, hfind, hkey, hlost⟩ := h
  simp [State.physByte, hb, hfind, hkey, hlost]

theorem readsUnder_tagByte_self (s : State) (pa : Nat) (key : KeyMat) : (s.tagByte pa key).ReadsUnder pa key := by
  have hlt : pa % 16 < 16 := Nat.mod_lt _ (by omega)
  refine ⟨_, Map.find_insert_self .., ?_⟩
  cases Map.find s.tags (pa / 16) with
  | none => simp
  | some t =>
    dsimp only
    split <;> simp [hlt]

/-- Tagging another byte under the same key keeps what reads under that key. -/
theorem ReadsUnder.tagByte {s : State} {x : Nat} {key : KeyMat} (h : s.ReadsUnder x key) (pa : Nat) :
    (s.tagByte pa key).ReadsUnder x key := by
  obtain ⟨t, hfind, hkey, hlost⟩ := h
  by_cases hline : x / 16 = pa / 16
  · rw [hline] at hfind
    refine ⟨_, by rw [hline]; exact Map.find_insert_self .., ?_⟩
    simp [hfind, hkey, hlost]
  · exact ⟨t, by rw [State.tagByte, Map.find_insert_of_ne _ _ _ _ hline, hfind], hkey, hlost⟩

theorem ReadsUnder.physPut {s : State} {x : Nat} {key : KeyMat} (h : s.ReadsUnder x key) (pa : Nat) (bs : List Byte) :
    (s.physPut pa key bs).ReadsUnder x key := by
  induction bs generalizing s pa with
  | nil => exact h
  | cons b r ih => exact ih (ReadsUnder.tagByte (s := s.putByte pa b) h pa) _

/-- Every byte that a write puts reads under its key. -/
theorem readsUnder_physPut (s : State) (pa : Nat) (key : KeyMat) (bs : List Byte) {x : Nat}
    (hx : pa ≤ x ∧ x < pa + bs.length) : (s.physPut pa key bs).ReadsUnder x key := by
  induction bs generalizing s pa with
  | nil => simp at hx; omega
  | cons b r ih =>
    by_cases h : x = pa
    · subst h
      exact (readsUnder_tagByte_self ..).physPut ..
    · simp only [List.length_cons] at hx
      exact ih _ _ (by omega)

/-- Losing the resident pieces of a die leaves the keys of the lines outside their frames. -/
theorem ReadsUnder.losePieces {s : State} {x : Nat} {key : KeyMat} (h : s.ReadsUnder x key) (d : Die)
    (hout : ∀ p ∈ d.pieces, ¬ (p.frame * 2 ^ 16 ≤ x ∧ x < p.frame * 2 ^ 16 + 2 ^ 16)) : (s.losePieces d).ReadsUnder x key := by
  have hfind : Map.find (s.losePieces d).tags (x / 16) = Map.find s.tags (x / 16) := by
    refine List.foldlRecOn d.pieces _ (motive := fun m => Map.find m (x / 16) = Map.find s.tags (x / 16)) rfl
      fun m hm p hp => ?_
    rw [Map.find_foldl_insert_of_ne, hm]
    intro i hi
    have := hout p hp
    rw [List.mem_range] at hi
    omega
  obtain ⟨t, ht⟩ := h
  exact ⟨t, hfind ▸ ht⟩

/-- A written byte reads under the key of the write, unless it lies in the frame of a resident piece of a migration pool
that the write meets (R260). -/
theorem readsUnder_physWrite (s : State) (pa slot : Nat) (bs : List Byte) {x : Nat} (hx : pa ≤ x ∧ x < pa + bs.length)
    (hp : ∀ e ∈ s.dies, meetsMig e.2 pa bs.length = true →
      ∀ p ∈ e.2.pieces, rangesMeet pa bs.length (p.frame * 2 ^ 16) (2 ^ 16) = false) :
    (s.physWrite pa slot bs).ReadsUnder x (s.keyOf (homeOfPhys pa) slot) := by
  cases bs with
  | nil => simp at hx; omega
  | cons b r =>
    refine disturbPools_keeps (P := fun u => u.ReadsUnder x (s.keyOf (homeOfPhys pa) slot)) ?_ (fun _ _ h => h)
      (fun _ _ _ h => h) fun u e he hmig hu => ?_
    · exact (readsUnder_congr (by simp) ..).2 (readsUnder_physPut s pa _ _ hx)
    · simp only [dies_carve, dies_endAdmission, dies_coverRun, dies_physPut] at he
      exact hu.losePieces _ fun p hpm => not_both_of_rangesMeet_false (hp e he hmig p hpm) hx

/-! ### Reading back -/

/-- Where each die is listed once, a write leaves what every key slot holds. -/
theorem keyOf_physWrite (s : State) (pa slot : Nat) (bs : List Byte) (hd : (Map.keys s.dies).Nodup) (die k : Nat) :
    (s.physWrite pa slot bs).keyOf die k = s.keyOf die k := by
  cases bs with
  | nil => rfl
  | cons b r =>
    refine disturbPools_keeps (P := fun u => u.keyOf die k = s.keyOf die k) ?_ (fun _ _ h => h) (fun u e he hu => ?_)
      fun _ _ _ _ h => h
    · simp [keyOf, State.die]
    · simp only [dies_carve, dies_endAdmission, dies_coverRun, dies_physPut] at he
      by_cases hk : die = e.1
      · have hold : Map.get Die.reset s.dies e.1 = e.2 := by simp [Map.get, Map.find_of_mem hd he]
        subst hk
        simp [keyOf, hold, loseObjects, State.die]
      · rw [← hu]
        simp [keyOf, loseObjects, State.die, Map.get_insert_of_ne, hk]

/-- The values at the places of a list, in order, are the list. -/
theorem map_range_eq_of_getD {bs : List Byte} {f : Nat → Byte} (h : ∀ i < bs.length, f i = bs.getD i 0) :
    (List.range bs.length).map f = bs := by
  refine List.ext_getElem (by simp) fun i _ hi => ?_
  simp [h i hi, hi]

/-- What a write to a scratchpad reads back as. -/
theorem padRead_padWrite (s : State) (core off : Nat) (bs : List Byte) :
    (s.padWrite core off bs).padRead core off bs.length = bs :=
  map_range_eq_of_getD fun i hi => by simp [memByte_padWrite, hi]

/-- Device memory reads back under the key slot of the write, in a pool too, where each die is listed once and the write
loses nothing with a resident piece (R260, R273). -/
theorem physRead_physWrite (s : State) (pa slot : Nat) (bs : List Byte) (hd : (Map.keys s.dies).Nodup)
    (hp : ∀ e ∈ s.dies, meetsMig e.2 pa bs.length = true →
      ∀ p ∈ e.2.pieces, rangesMeet pa bs.length (p.frame * 2 ^ 16) (2 ^ 16) = false) :
    (s.physWrite pa slot bs).physRead pa bs.length slot = bs := by
  refine map_range_eq_of_getD fun i hi => ?_
  have hx : pa ≤ pa + i ∧ pa + i < pa + bs.length := by omega
  have hblur : (s.physWrite pa slot bs).isBlurred (pa + i) = false := by simp [isBlurred_physWrite, hi]
  rw [keyOf_physWrite s pa slot bs hd, (readsUnder_physWrite s pa slot bs hx hp).physByte hblur, memByte_physWrite, if_pos hx,
    Nat.add_sub_cancel_left]

/-! ### A die listed twice -/

/-- Die 0, its overflow region (R329) at the first frame of its memory, with what its key slots hold. -/
def overflowDie (keys : Map KeyMat) : Die := { Die.reset with seosize := 1, keys := keys }

/-- Just after reset, die 0 listed once: a byte written into its overflow region reads back. -/
theorem physRead_physWrite_dieListedOnce (b : Byte) :
    (({ State.reset with dies := [(0, overflowDie [])] } : State).physWrite 0 0 [b]).physRead 0 1 0 = [b] :=
  physRead_physWrite _ 0 0 [b] (by decide) (by simp [overflowDie, Die.reset])

/-- Just after reset, die 0 listed twice, as no `Map.insert` into a map with rising keys leaves it
(`Map.pairwise_insert`): the row in front, which the map finds, has the boot ROM's key in slot 0, the one behind a loaded
key. -/
def dieListedTwice : State := { State.reset with dies := [(0, overflowDie []), (0, overflowDie [(0, .loaded 0)])] }

/-- A write into the overflow region puts each row of die 0 in front in turn, so that slot 0 then holds the loaded key. -/
theorem keyOf_physWrite_dieListedTwice (b : Byte) :
    dieListedTwice.keyOf 0 0 = .boot 0 0 ∧ (dieListedTwice.physWrite 0 0 [b]).keyOf 0 0 = .loaded 0 := ⟨rfl, rfl⟩

/-- The byte written under the boot ROM's key reads as an unrelated one under the loaded key (R273). -/
theorem physRead_physWrite_dieListedTwice (b : Byte) :
    (dieListedTwice.physWrite 0 0 [b]).physRead 0 1 0 = [Config.unrelatedByte 0 0] := by
  show [(dieListedTwice.physWrite 0 0 [b]).physByte 0 ((dieListedTwice.physWrite 0 0 [b]).keyOf 0 0)] = _
  rw [(keyOf_physWrite_dieListedTwice b).2]
  rfl

end State

end Sys2Proof.Machine

open Sys2Proof Sys2Proof.Machine

/-- Refutes O28: no hypothesis says that the map of the dies lists a die once. Where die 0 stands twice in it, a write of
one byte into the die's overflow region changes the key of the slot, and the byte reads back as an unrelated one; no byte
is its own successor. The other clauses hold (`memByte_padWrite`, `memByte_physWrite`, `padRead_padWrite`,
`isBlurred_physWrite`, the first case of `physByte`), and this one does where each die is listed once
(`physRead_physWrite`). -/
theorem not_memoryReadsWhatWasWritten : ¬ Obligations.MemoryReadsWhatWasWritten := by
  unfold Obligations.MemoryReadsWhatWasWritten
  intro h
  obtain ⟨-, -, -, hread, -, -⟩ := h State.dieListedTwice 0 0 0 0 [Config.unrelatedByte 0 0 + 1]
  have hpieces : ∀ e ∈ State.dieListedTwice.dies, State.meetsMig e.2 0 1 = true →
      ∀ p ∈ e.2.pieces, State.rangesMeet 0 1 (p.frame * 2 ^ 16) (2 ^ 16) = false := by decide
  have hback : [Config.unrelatedByte 0 0] = [Config.unrelatedByte 0 0 + 1] :=
    (State.physRead_physWrite_dieListedTwice _).symm.trans (hread hpieces)
  have hsucc : ∀ b : Byte, b ≠ b + 1 := by decide
  exact hsucc _ (List.singleton_inj.1 hback)

end

/-! PROOFS. The integer register forms (R75 to R78): each writes a result of its operands, which the readings of a word as
a signed and as an unsigned number give; what the counting forms count. -/

section
namespace Sys2Proof.Machine

/-! ### Results as numbers -/

/-- A comparing form writes 1 where the relation holds and 0 elsewhere. -/
theorem Word.ofBool_decide (c : Prop) [Decidable c] : Word.ofBool (decide c) = if c then 1 else 0 := by
  by_cases h : c <;> simp [Word.ofBool, h]

/-- The lesser of two values by a reading `f` of them as numbers, which `g` takes back. -/
theorem ite_lt_eq_min {α β : Type} [LinearOrder β] {f : α → β} {g : β → α} (hg : ∀ x, g (f x) = x) (x y : α) :
    (if f x < f y then x else y) = g (min (f x) (f y)) := by
  split
  · rw [min_eq_left (le_of_lt ‹_›), hg]
  · rw [min_eq_right (not_lt.1 ‹_›), hg]

/-- The greater of two values by a reading of them as numbers. -/
theorem ite_lt_eq_max {α β : Type} [LinearOrder β] {f : α → β} {g : β → α} (hg : ∀ x, g (f x) = x) (x y : α) :
    (if f x < f y then y else x) = g (max (f x) (f y)) := by
  split
  · rw [max_eq_right (le_of_lt ‹_›), hg]
  · rw [max_eq_left (not_lt.1 ‹_›), hg]

/-- The lesser and the greater word in the signed reading. -/
theorem ite_slt_eq_min (x y : Word) : (if x.slt y then x else y) = BitVec.ofInt 64 (min x.toInt y.toInt) := by
  simpa [BitVec.slt] using ite_lt_eq_min (fun x => BitVec.ofInt_toInt) x y
theorem ite_slt_eq_max (x y : Word) : (if x.slt y then y else x) = BitVec.ofInt 64 (max x.toInt y.toInt) := by
  simpa [BitVec.slt] using ite_lt_eq_max (fun x => BitVec.ofInt_toInt) x y

/-- The lesser and the greater word in the unsigned reading. -/
theorem ite_ult_eq_min (x y : Word) : (if x.ult y then x else y) = BitVec.ofNat 64 (min x.toNat y.toNat) := by
  simpa only [BitVec.ult, decide_eq_true_eq] using ite_lt_eq_min (g := BitVec.ofNat 64) (fun x => by simp) x y
theorem ite_ult_eq_max (x y : Word) : (if x.ult y then y else x) = BitVec.ofNat 64 (max x.toNat y.toNat) := by
  simpa only [BitVec.ult, decide_eq_true_eq] using ite_lt_eq_max (g := BitVec.ofNat 64) (fun x => by simp) x y

/-- sext(x, n) of R7 is the signed reading of the low n bits. -/
theorem signed_eq_toInt {n : Nat} (hn : 0 < n) (x : Word) : signed n x.toNat = (x.setWidth n).toInt := by
  have hpow : 2 ^ n = 2 * 2 ^ (n - 1) := by rw [← pow_succ', Nat.sub_add_cancel hn]
  rw [BitVec.toInt_eq_toNat_cond, BitVec.toNat_setWidth, signed]
  exact if_congr (by omega) rfl rfl

/-- SEXT: the low bits, sign-extended. -/
theorem word_signed {n : Nat} (hn : 0 < n) (x : Word) : word (signed n x.toNat) = (x.setWidth n).signExtend 64 := by
  rw [signed_eq_toInt hn, word, BitVec.signExtend]

/-- ZEXT: the low bits, zero-extended. -/
theorem ofNat_mod_two_pow (n : Nat) (x : Word) : BitVec.ofNat 64 (x.toNat % 2 ^ n) = (x.setWidth n).setWidth 64 :=
  BitVec.eq_of_toNat_eq (by simp)

/-- The width that w names in SEXT and ZEXT. -/
theorem extWidth_eq (w : Reg) : extWidth w = if w = 0 then 8 else if w = 1 then 16 else 32 := by
  revert w; decide

/-! ### Division -/
theorem divSigned_of_ne {x y : Word} (hy : y ≠ 0) : divSigned x y = BitVec.ofInt 64 (x.toInt.tdiv y.toInt) := by
  rw [divSigned, if_neg hy]
  exact BitVec.eq_of_toInt_eq (by rw [BitVec.toInt_sdiv, BitVec.toInt_ofInt])

theorem remSigned_of_ne {x y : Word} (hy : y ≠ 0) :
    remSigned x y = BitVec.ofInt 64 (x.toInt - x.toInt.tdiv y.toInt * y.toInt) := by
  rw [remSigned, if_neg hy, mul_comm, ← Int.tmod_def, ← BitVec.toInt_srem, BitVec.ofInt_toInt]

theorem divUnsigned_of_ne {x y : Word} (hy : y ≠ 0) : divUnsigned x y = BitVec.ofNat 64 (x.toNat / y.toNat) := by
  rw [divUnsigned, if_neg hy, ← BitVec.toNat_udiv, BitVec.ofNat_toNat, BitVec.setWidth_eq]

theorem remUnsigned_of_ne {x y : Word} (hy : y ≠ 0) :
    remUnsigned x y = BitVec.ofNat 64 (x.toNat - x.toNat / y.toNat * y.toNat) := by
  rw [remUnsigned, if_neg hy, mul_comm, ← Nat.mod_eq_sub_mul_div, ← BitVec.toNat_umod, BitVec.ofNat_toNat, BitVec.setWidth_eq]

/-! ### Counts -/

/-- The highest one bit of a word that is not 0. -/
theorem log2_lt_of_ne_zero {x : Word} (hx : x ≠ 0) : log2 x.toNat < 64 :=
  (Nat.log2_lt (fun h => hx (BitVec.eq_of_toNat_eq h))).2 x.isLt

theorem getLsbD_log2 {x : Word} (hx : x ≠ 0) : x.getLsbD (log2 x.toNat) = true := 
  Nat.testBit_log2 fun h => hx (BitVec.eq_of_toNat_eq h)

theorem getLsbD_of_log2_lt {x : Word} {i : Nat} (h : log2 x.toNat < i) : x.getLsbD i = false :=
  Nat.testBit_lt_two_pow (Nat.lt_log2_self.trans_le (Nat.pow_le_pow_right two_pos h))

/-- CLZ of a word that is not 0 says where its highest one bit stands. -/
theorem log2_eq_leadingZeros {x : Word} (hx : x ≠ 0) :
    leadingZeros x < 64 ∧ 63 - leadingZeros x = log2 x.toNat := by
  have := log2_lt_of_ne_zero hx
  rw [leadingZeros, if_neg hx]
  omega

/-- The place at which CTZ finds the first one bit, or 64. -/
theorem trailingZeros_spec (x : Word) :
    (trailingZeros x = 64 ∧ ∀ i < 64, x.getLsbD i = false) ∨
      (trailingZeros x < 64 ∧ x.getLsbD (trailingZeros x) = true ∧ ∀ i < trailingZeros x, x.getLsbD i = false) := by
  unfold trailingZeros
  cases h : (List.range 64).find? fun i => x.getLsbD i with
  | none =>
    rw [List.find?_eq_none] at h
    exact .inl ⟨rfl, fun i hi => by simpa using h i (List.mem_range.2 hi)⟩
  | some k =>
    rw [List.find?_range_eq_some] at h
    obtain ⟨hk, hmem, hlow⟩ := h
    exact .inr ⟨List.mem_range.1 hmem, hk, fun i hi => by simpa using hlow i hi⟩

theorem popCount_eq_card (x : Word) : 
   popCount x.toNat = (Finset.univ.filter fun i : Fin 64 => x.getLsbD i = true).card := by
  rw [popCount, ← List.map_coe_finRange_eq_range, List.filter_map, List.length_map, Finset.card_def, Finset.filter_val,
    Finset.val_univ_fin, Multiset.filter_coe, Multiset.coe_card]
  simp only [Bool.decide_eq_true]
  rfl
end Sys2Proof.Machine

open Sys2Proof Sys2Proof.Machine

/-- Settles O1: each form is its result written and retired; the comparing, extremal, product, and extending forms by the
reading of their result as a number. -/
theorem integerFormsComplete : Obligations.IntegerFormsComplete := by
  unfold Obligations.IntegerFormsComplete
  intro s d a b c w imm n x y ans i k
  have result {v u : Word} (h : v = u) : (.next (opResult s d v) : Out) = ans u := congrArg ans h
  have hk : 0 < k := by dsimp only [k]; split_ifs <;> decide
  have hw : extWidth w = k := extWidth_eq w
  refine ⟨rfl, rfl, rfl, rfl, rfl, rfl, rfl, rfl, rfl, result (Word.ofBool_decide _), result (Word.ofBool_decide _),
    result (ite_slt_eq_min x y), result (ite_slt_eq_max x y), result (ite_ult_eq_min x y), result (ite_ult_eq_max x y),
    result (BitVec.mul_def ..), rfl, rfl, rfl, rfl, rfl, ?sext, ?zext, rfl, rfl, rfl, rfl, rfl, 
    result (Word.ofBool_decide _), result (Word.ofBool_decide _), rfl, rfl, rfl, rfl, rfl⟩
  case sext => exact result (by rw [hw, word_signed hk])
  case zext => exact result (by rw [hw, ofNat_mod_two_pow])

/-- Settles O2: the corner cases are branches of the four operations, the quotient overflows as R77 says since it is taken
modulo 2^64. -/
theorem divisionRule : Obligations.DivisionRule := by
  unfold Obligations.DivisionRule
  intro s d a b x y ans q
  have result {v u : Word} (h : v = u) : (.next (opResult s d v) : Out) = ans u := congrArg ans h
  refine ⟨fun hy => ?zero, fun hx hy => ?overflow, fun hy _ => ⟨result (divSigned_of_ne hy), result (remSigned_of_ne hy)⟩,
    fun hy => ⟨result (divUnsigned_of_ne hy), result (remUnsigned_of_ne hy)⟩⟩
  case zero => exact ⟨result (if_pos hy), result (if_pos hy), result (if_pos hy), result (if_pos hy)⟩
  case overflow =>
    have hne : y ≠ 0 := fun h => by simp [h] at hy
    refine ⟨result ?_, result ?_⟩
    · show divSigned x y = x
      rw [divSigned_of_ne hne, ← BitVec.ofInt_toInt (x := x), hx, hy]
      decide
    · show remSigned x y = 0
      rw [remSigned_of_ne hne, hx, hy]
      decide
/-- Settles O3: the highest one bit is the logarithm, the lowest the first that CTZ finds; POPC counts over the places of a
word. -/
theorem bitCounts : Obligations.BitCounts := by
  unfold Obligations.BitCounts
  intro x
  refine ⟨fun hx => ?_, fun hx => ?_, fun hx => ?_, popCount_eq_card x⟩
  · subst hx
    exact ⟨rfl, rfl⟩
  · obtain ⟨hlt, heq⟩ := log2_eq_leadingZeros hx
    rw [heq]
    exact ⟨hlt, getLsbD_log2 hx, fun i => getLsbD_of_log2_lt⟩
  · rcases trailingZeros_spec x with ⟨-, hzero⟩ | h
    · exact absurd (BitVec.eq_of_getLsbD_eq fun i hi => by simpa using hzero i hi) hx
    · exact h

end

/-! PROOFS. Scalar floating point (R79, R80): the forms, and what NaN operands and the sign forms give. -/

section
namespace Sys2Proof.Machine

/-! ### NaN codes of FP32 -/

/-- An FP32 code above that of infinity, its sign left out, is a NaN. -/
theorem isNan_fpDecode_fp32 (x : Nat) : (fpDecode 0 x).isNan = decide (0x7F800000 < x % 2 ^ 31) := by
  simp only [fpDecode, fpFormat, FpFormat.magBits, Option.some.injEq, Nat.reduceAdd, OfNat.zero_ne_ofNat, if_false]
  split_ifs <;> simp only [Fp.isNan, Bool.true_eq, Bool.false_eq, decide_eq_true_eq, decide_eq_false_iff_not] <;> omega

/-- The source of a form on FP32 codes is a NaN where the exponent in bits 30:23 is all ones and the mantissa not 0. -/
theorem State.isNan_f32 (s : State) (r : Reg) : (fpDecode 0 (s.f32 r)).isNan =
    (decide ((s.g r).toNat / 2 ^ 23 % 2 ^ 8 = 255) && decide ((s.g r).toNat % 2 ^ 23 ≠ 0)) := by
  rw [isNan_fpDecode_fp32, State.f32, ← Bool.decide_and, decide_eq_decide]
  omega

/-! ### What a form leaves in the thread -/

namespace State

/-- Flags raised in FSTAT are set there, and nothing else of the thread changes. -/
theorem me_raiseF (s : State) (f : Flags) : (s.raiseF f).me = { s.me with fstat := s.me.fstat ||| f.fstat } := by
  simp [raiseF]

/-- A FOP form leaves its code in g(d). -/
theorem g_fopResult (s : State) {d : Reg} (hd : d ≠ 0) (r : Nat × Flags) :
    (fopResult s d r).g d = BitVec.ofNat 64 r.1 := by
  rw [fopResult, opResult, g_retire, g_setG, if_pos ⟨rfl, hd⟩]

/-- A FOP form sets its flags in FSTAT. -/
theorem fstat_fopResult (s : State) (d : Reg) (r : Nat × Flags) :
    (fopResult s d r).me.fstat = s.me.fstat ||| r.2.fstat := by
  simp [fopResult, opResult, me_retire, me_setG, me_raiseF]

end State

/-! ### NaN operands and the sign forms -/

theorem fopCompare_nan (ordered : Bool) (rel : Fp → Fp → Bool) {x y : Nat}
    (h : (fpDecode 0 x).isNan ∨ (fpDecode 0 y).isNan) :
    fopCompare ordered rel x y = (0, if ordered then Flags.inv else {}) := by
  simp [fopCompare, h]

theorem fstat_none : ({} : Flags).fstat = 0 := rfl

/-- A code as FP32 forms read it, written zero-extended. -/
theorem ofNat_f32 (s : State) (r : Reg) : BitVec.ofNat 64 (s.f32 r) = ((s.g r).setWidth 32).setWidth 64 :=
  ofNat_mod_two_pow 32 (s.g r)

/-- FMIN and FMAX with one NaN operand give the other, with two the canonical NaN. -/
theorem fpMinMax_nan (wantMax : Bool) (x y : Nat) :
    ((fpDecode 0 x).isNan = true → (fpDecode 0 y).isNan = false → fpMinMax 0 wantMax x y = y) ∧
      ((fpDecode 0 x).isNan = false → (fpDecode 0 y).isNan = true → fpMinMax 0 wantMax x y = x) ∧
      ((fpDecode 0 x).isNan = true → (fpDecode 0 y).isNan = true → fpMinMax 0 wantMax x y = 0x7FC00000) := by
  refine ⟨fun hx hy => ?_, fun hx hy => ?_, fun hx hy => ?_⟩
  · simp only [fpMinMax, hx, hy]
  · simp only [fpMinMax, hx, hy]
  · simp only [fpMinMax, hx, hy]
    rfl

/-- FNEG inverts bit 31 of the low word; FABS clears it. -/
theorem ofNat_f32_xor (s : State) (r : Reg) :
    BitVec.ofNat 64 (s.f32 r ^^^ 2 ^ 31) = ((s.g r).setWidth 32 ^^^ 0x80000000#32).setWidth 64 :=
  BitVec.eq_of_toNat_eq (by simp [State.f32])

theorem ofNat_f32_mod (s : State) (r : Reg) :
    BitVec.ofNat 64 (s.f32 r % 2 ^ 31) = ((s.g r).setWidth 32 &&& 0x7FFFFFFF#32).setWidth 64 :=
  BitVec.eq_of_toNat_eq (by
    rw [BitVec.toNat_setWidth, BitVec.toNat_and, show (0x7FFFFFFF#32).toNat = 2 ^ 31 - 1 from rfl,
      Nat.and_two_pow_sub_one_eq_mod, BitVec.toNat_setWidth, BitVec.toNat_ofNat, State.f32])

end Sys2Proof.Machine

open Sys2Proof Sys2Proof.Machine

/-- Settles O4: each form is its code or integer written, its flags raised, and the word retired. -/
theorem floatFormsComplete : Obligations.FloatFormsComplete := by
  unfold Obligations.FloatFormsComplete
  intro s d a b c r f x y h m ans int
  exact ⟨rfl, rfl, rfl, rfl, rfl, rfl, rfl, rfl, rfl, rfl, rfl, rfl, rfl, rfl, rfl, rfl, rfl, rfl, rfl, rfl, rfl, rfl⟩

/-- Settles O5: what each form leaves in g(d) and in FSTAT, by what its comparison or selection gives on NaN operands. -/
theorem floatNaNAndSignRules : Obligations.FloatNaNAndSignRules := by
  unfold Obligations.FloatNaNAndSignRules
  intro s t d a b hd nan
  have hnan (q : Reg) : (fpDecode 0 (s.f32 q)).isNan = nan q := State.isNan_f32 s q
  have either {x y : Reg} (h : nan x ∨ nan y) : (fpDecode 0 (s.f32 x)).isNan ∨ (fpDecode 0 (s.f32 y)).isNan := by
    rwa [hnan, hnan]
  have gives {i : Instr} {r : Nat × Flags} (he : exec i s = .next t) (hi : exec i s = .next (fopResult s d r)) :
      t.g d = BitVec.ofNat 64 r.1 ∧ t.me.fstat = s.me.fstat ||| r.2.fstat := by
    obtain rfl : fopResult s d r = t := by rw [hi] at he; injection he
    exact ⟨State.g_fopResult s hd r, State.fstat_fopResult s d r⟩
  refine ⟨fun h he => ?feq, fun h he => ?ordered, fun he => ?minmax, fun he => ?fneg, fun he => ?fabs⟩
  case feq =>
    obtain ⟨hg, hf⟩ := gives he (r := fopCompare false fpEq (s.f32 a) (s.f32 b)) rfl
    rw [fopCompare_nan _ _ (either h)] at hg hf
    exact ⟨hg, by simpa [fstat_none] using hf⟩
  case ordered =>
    obtain ⟨rel, hg, hf⟩ : ∃ rel, t.g d = BitVec.ofNat 64 (fopCompare true rel (s.f32 a) (s.f32 b)).1 ∧
        t.me.fstat = s.me.fstat ||| (fopCompare true rel (s.f32 a) (s.f32 b)).2.fstat := by
      rcases he with he | he
      · exact ⟨_, gives he rfl⟩
      · exact ⟨_, gives he rfl⟩
    rw [fopCompare_nan _ _ (either h)] at hg hf
    exact ⟨hg, hf⟩
  case minmax =>
    obtain ⟨wantMax, hg⟩ : ∃ wantMax, t.g d = BitVec.ofNat 64 (fpMinMax 0 wantMax (s.f32 a) (s.f32 b)) := by
      rcases he with he | he
      · exact ⟨_, (gives he rfl).1⟩
      · exact ⟨_, (gives he rfl).1⟩
    obtain ⟨hleft, hright, hboth⟩ := fpMinMax_nan wantMax (s.f32 a) (s.f32 b)
    rw [hnan, hnan] at hleft hright hboth
    exact ⟨fun h k => by rw [hg, hleft h k, ofNat_f32], fun h k => by rw [hg, hright h k, ofNat_f32],
      fun h k => by rw [hg, hboth h k]; rfl⟩
  case fneg =>
    obtain ⟨hg, hf⟩ := gives he (r := (s.f32 a ^^^ 2 ^ 31, {})) rfl
    exact ⟨by simpa [fstat_none] using hf, by rw [hg, ofNat_f32_xor]⟩
  case fabs =>
    obtain ⟨hg, hf⟩ := gives he (r := (s.f32 a % 2 ^ 31, {})) rfl
    exact ⟨by simpa [fstat_none] using hf, by rw [hg, ofNat_f32_mod]⟩

end

/-! PROOFS. Control transfer (R81 to R84), and the frame of every form that writes at most one g register (R75, R17). -/

section
namespace Sys2Proof.Machine

/-! ### Targets -/

theorem shiftLeft_two_eq_mul_four (x : Word) : x <<< 2 = x * 4 := BitVec.shiftLeft_eq_mul_twoPow x 2

/-- A branch goes to pc + sext(offset, 16) × 4 where its comparison holds (R59, R81). -/
theorem branchIf_iff {b : Bool} {c : Prop} [Decidable c] (h : b = true ↔ c) (o : BitVec 16) (s : State) :
    branchIf b o s = if c then s.jump (s.me.pc + o.signExtend 64 * 4) else s.retire := by
  rw [branchIf, State.branchTarget, sext16, shiftLeft_two_eq_mul_four]
  exact if_congr h rfl rfl

theorem jalTarget_eq (s : State) (o : BitVec 26) : s.jalTarget o = s.me.pc + o.signExtend 64 * 4 := by
  rw [State.jalTarget, shiftLeft_two_eq_mul_four]

/-- LOOP with a = 0, or with a bit of its b field set, is refused (R65, R83). -/
theorem decode_loop_refused (a b : BitVec 5) (o : BitVec 16) (h : a = 0 ∨ b ≠ 0) :
    ∃ r, decode (0x25#6 ++ a ++ b ++ o) = .error r := by
  obtain ⟨hmajor, ha, hb, -⟩ := Laws.RoundTrip.strip6_5_5_16 0x25#6 a b o rfl
  have hrefused : wordRefusal (0x25#6 ++ a ++ b ++ o) ≠ none := by
    rw [Laws.refusal_37 hmajor, ha, hb]
    rcases h with rfl | hne
    · simp [need]
    · rw [need, if_neg (by simpa using hne)]
      simp
  obtain ⟨r, hr⟩ := Option.ne_none_iff_exists'.1 hrefused
  exact ⟨r, by rw [decode, hr]⟩

end Sys2Proof.Machine

namespace Sys2Proof.Safety

open Machine

/-! ### What stays unchanged outside the running thread -/

theorem OnlyThread.refl (s : State) : OnlyThread s s :=
  ⟨⟨s.threads, s.cores, rfl⟩, fun _ _ => rfl, fun _ => rfl⟩

theorem OnlyThread.trans {s t u : State} (h : OnlyThread s t) (k : OnlyThread t u) : OnlyThread s u := by
  obtain ⟨⟨th, co, rfl⟩, hthread, hcore⟩ := h
  obtain ⟨⟨th', co', rfl⟩, kthread, kcore⟩ := k
  exact ⟨⟨th', co', rfl⟩, fun j hj => (kthread j hj).trans (hthread j hj), fun c => by rw [kcore c, hcore c]⟩

theorem onlyThread_setMe (s : State) (u : Thread) : OnlyThread s (s.setMe u) :=
  ⟨⟨_, s.cores, rfl⟩, fun j hj => by rw [State.threadAt_setMe, if_neg hj], fun _ => rfl⟩

/-- Counting a word changes the interval count of its core, where that is paired (R98). -/
theorem onlyThread_countInterval (s : State) : OnlyThread s s.countInterval := by
  unfold State.countInterval
  dsimp only
  split
  · refine ⟨⟨s.threads, _, rfl⟩, fun _ _ => rfl, fun c => ?_⟩
    rw [State.setMyCore, State.core_setCore]
    split
    · subst c
      rfl
    · rfl
  · exact .refl s

theorem onlyThread_countRetired (s : State) : OnlyThread s s.countRetired :=
  (onlyThread_setMe ..).trans (onlyThread_countInterval _)

theorem onlyThread_retire (s : State) : OnlyThread s s.retire :=
  (onlyThread_setMe ..).trans (onlyThread_countRetired _)

theorem onlyThread_jump (s : State) (x : Word) : OnlyThread s (s.jump x) :=
  ((onlyThread_setMe ..).trans (onlyThread_setMe ..)).trans (onlyThread_countRetired _)

/-! ### The frame of a word that writes at most g(d) -/

/-- The frame, by what the word leaves of its thread. -/
theorem frameG_of_me {d : Reg} {f : Bool} {s t : State} (h : OnlyThread s t) (hsame : SameButRegisters s.me t.me)
    (hg : ∀ r : Reg, r ≠ d → t.me.g[r.toNat] = s.me.g[r.toNat]) (hv : t.me.v = s.me.v) (hp : t.me.p = s.me.p)
    (hbb : t.me.bb = s.me.bb) (hvstat : t.me.vstat = s.me.vstat)
    (hfstat : if f then s.me.fstat &&& ~~~t.me.fstat = 0 else t.me.fstat = s.me.fstat) : FrameG d f s t := by
  refine ⟨h, hsame, fun r hr => ?_, fun r => ?_, fun r => ?_, hbb, hvstat, hfstat, fun a => ?_⟩
  · simp only [State.g, hg r hr]
  · simp only [State.v, hv]
  · simp only [State.p, hp]
  · obtain ⟨⟨th, co, rfl⟩, -⟩ := h
    rfl

theorem SameButRegisters.trans {t u w : Thread} (h : SameButRegisters t u) (k : SameButRegisters u w) :
    SameButRegisters t w := Eq.trans k (by rw [h])

/-- Bits that two changes in turn leave set. -/
theorem and_not_eq_zero_trans {x y z : BitVec 5} (h : x &&& ~~~y = 0) (k : y &&& ~~~z = 0) : x &&& ~~~z = 0 := by
  ext i hi
  have h := congrArg (·[i]) h
  have k := congrArg (·[i]) k
  simp only [BitVec.getElem_and, BitVec.getElem_not, BitVec.ofNat_eq_ofNat, BitVec.getElem_zero] at h k ⊢
  cases hx : x[i] <;> cases hy : y[i] <;> simp_all

theorem and_not_or_self (x y : BitVec 5) : x &&& ~~~(x ||| y) = 0 := by
  ext i hi
  cases h : x[i] <;> simp [h]

theorem FrameG.trans {d : Reg} {f : Bool} {s t u : State} (h : FrameG d f s t) (k : FrameG d f t u) : FrameG d f s u := by
  obtain ⟨hother, hsame, hg, hv, hp, hbb, hvstat, hfstat, hmem⟩ := h
  obtain ⟨kother, ksame, kg, kv, kp, kbb, kvstat, kfstat, kmem⟩ := k
  refine ⟨hother.trans kother, hsame.trans ksame, fun r hr => (kg r hr).trans (hg r hr), fun r => (kv r).trans (hv r),
    fun r => (kp r).trans (hp r), kbb.trans hbb, kvstat.trans hvstat, ?_, fun a => (kmem a).trans (hmem a)⟩
  cases f
  · exact Eq.trans kfstat hfstat
  · exact and_not_eq_zero_trans hfstat kfstat

/-- A word that leaves FSTAT alone clears no bit of it. -/
theorem FrameG.setsFstat {d : Reg} {s t : State} (h : FrameG d false s t) : FrameG d true s t := by
  obtain ⟨hother, hsame, hg, hv, hp, hbb, hvstat, hfstat, hmem⟩ := h
  refine ⟨hother, hsame, hg, hv, hp, hbb, hvstat, ?_, hmem⟩
  simp only [Bool.false_eq_true, if_false] at hfstat
  simp [hfstat]

/-! ### The steps that a word is made of -/

theorem frameG_setG (d : Reg) (s : State) (x : Word) : FrameG d false s (s.setG d x) := by
  unfold State.setG
  split
  · exact frameG_of_me (.refl s) rfl (fun _ _ => rfl) rfl rfl rfl rfl rfl
  · refine frameG_of_me (onlyThread_setMe ..) ?_ (fun r hr => ?_) ?_ ?_ ?_ ?_ ?_ <;> rw [State.me_setMe]
    · rfl
    · exact Vector.getElem_set_ne d.isLt r.isLt fun e => hr (BitVec.eq_of_toNat_eq e.symm)
    all_goals rfl

theorem frameG_raiseF (d : Reg) (s : State) (fl : Flags) : FrameG d true s (s.raiseF fl) := by
  refine frameG_of_me (onlyThread_setMe ..) ?_ (fun r hr => ?_) ?_ ?_ ?_ ?_ ?_ <;> rw [State.me_raiseF]
  case refine_7 => exact and_not_or_self ..
  all_goals rfl

theorem frameG_retire (d : Reg) (s : State) : FrameG d false s s.retire := by
  refine frameG_of_me (onlyThread_retire s) ?_ (fun r hr => ?_) ?_ ?_ ?_ ?_ ?_ <;> rw [State.me_retire]
  all_goals rfl

theorem frameG_jump (d : Reg) (s : State) (x : Word) : FrameG d false s (s.jump x) := by
  refine frameG_of_me (onlyThread_jump s x) ?_ (fun r hr => ?_) ?_ ?_ ?_ ?_ ?_ <;> rw [State.me_jump]
  all_goals rfl

/-- CRIT sets the cover remainder. -/
theorem frameG_cover (d : Reg) (s : State) (n : Nat) : FrameG d false s (s.setMe { s.me with cover := n }) := by
  refine frameG_of_me (onlyThread_setMe ..) ?_ (fun r hr => ?_) ?_ ?_ ?_ ?_ ?_ <;> rw [State.me_setMe]
  all_goals rfl

/-! ### The shapes of the forms -/

theorem frameG_opResult (d : Reg) (s : State) (x : Word) : FrameG d false s (opResult s d x) :=
  (frameG_setG d s x).trans (frameG_retire d _)

theorem frameG_raiseF_opResult (d : Reg) (s : State) (fl : Flags) (x : Word) :
    FrameG d true s (opResult (s.raiseF fl) d x) :=
  (frameG_raiseF d s fl).trans (frameG_opResult d _ x).setsFstat

theorem frameG_setG_jump (d : Reg) (s : State) (x target : Word) : FrameG d false s ((s.setG d x).jump target) :=
  (frameG_setG d s x).trans (frameG_jump d _ target)

theorem frameG_branchIf (d : Reg) (b : Bool) (o : BitVec 16) (s : State) : FrameG d false s (branchIf b o s) := by
  unfold branchIf
  split
  · exact frameG_jump ..
  · exact frameG_retire ..

/-- A word answers a next state of which something holds. -/
def Answers (s : State) (P : State → Prop) (i : Instr) : Prop := ∃ t, exec i s = .next t ∧ P t

theorem Answers.of_next {s t : State} {P : State → Prop} {i : Instr} (h : Answers s P i) (he : exec i s = .next t) :
    P t := by
  obtain ⟨u, hu, hP⟩ := h
  rw [hu] at he
  injection he with he
  exact he ▸ hP

end Sys2Proof.Safety

open Sys2Proof Sys2Proof.Machine Sys2Proof.Safety

/-- Settles O9: the targets of R59 by their fields, the comparisons by the readings of the operands. -/
theorem branchesAndJumps : Obligations.BranchesAndJumps := by
  unfold Obligations.BranchesAndJumps
  intro s a b d o imm j x y go
  have branch {c : Bool} {P : Prop} [Decidable P] (h : c = true ↔ P) : (.next (branchIf c o s) : Out) = go P :=
    congrArg _ (branchIf_iff h o s)
  refine ⟨branch ?_, branch ?_, branch ?_, branch ?_, branch ?_, branch ?_, ?jal, rfl⟩
  case jal => rw [← jalTarget_eq]; rfl
  · exact beq_iff_eq
  · exact bne_iff_ne
  · exact BitVec.slt_iff_toInt_lt
  · rw [Bool.not_eq_true', ← Bool.not_eq_true, BitVec.slt_iff_toInt_lt, not_lt]
  · exact BitVec.ult_iff_toNat_lt
  · rw [Bool.not_eq_true', ← Bool.not_eq_true, BitVec.ult_iff_toNat_lt, not_lt]

/-- Settles O10: LOOP is a branch on the new value, after its write; its refusal is that of the decoder. -/
theorem loopForm : Obligations.LoopForm := by
  unfold Obligations.LoopForm
  refine ⟨fun s a o ha => ?_, decode_loop_refused⟩
  intro x s'
  refine ⟨?branch, fun hzero => ?wrap⟩
  case branch =>
    have hpc : s'.me.pc = s.me.pc := by rw [State.me_setG]
    show (.next (branchIf (x != 0) o s') : Out) = _
    rw [branchIf_iff (c := ¬ x = 0) bne_iff_ne, hpc, ite_not]
  case wrap =>
    have hx : x = BitVec.allOnes 64 := by
      show s.g a - 1 = _
      rw [hzero]
      decide
    exact ⟨by rw [State.g_setG, if_pos ⟨rfl, ha⟩, hx], by rw [hx]; decide⟩

/-- Settles O11: CRIT and the fences are retiring, CRIT with a new cover remainder. -/
theorem critAndFencesComplete : Obligations.CritAndFencesComplete := by
  unfold Obligations.CritAndFencesComplete
  exact fun s n z => ⟨rfl, rfl, rfl, rfl⟩

/-- Settles O6: every form answers one of the shapes whose frame the lemmas above give. -/
theorem registerFormsFrame : Obligations.RegisterFormsFrame := by
  unfold Obligations.RegisterFormsFrame
  intro s t d a b c w imm o n r k z i he
  refine ⟨fun hi => ?integer, fun hi => ?control, fun hi => ?jal, fun hi => ?loop, fun hi => ?fop⟩ <;>
    refine Answers.of_next ?_ he
  case integer =>
    have result {i : Instr} {x : Word} (h : exec i s = .next (opResult s d x)) : Answers s (FrameG d false s) i :=
      ⟨_, h, frameG_opResult d s x⟩
    clear he
    revert i
    exact List.forall_iff_forall_mem.1 ⟨result rfl, result rfl, result rfl, result rfl, result rfl, result rfl,
      result rfl, result rfl, result rfl, result rfl, result rfl, result rfl, result rfl, result rfl, result rfl,
      result rfl, result rfl, result rfl, result rfl, result rfl, result rfl, result rfl, result rfl, result rfl,
      result rfl, result rfl, result rfl, result rfl, result rfl, result rfl, result rfl, result rfl, result rfl,
      result rfl, result rfl, result rfl, result rfl, result rfl, result rfl,
      ⟨_, rfl, frameG_setG_jump d s _ _⟩⟩
  case control =>
    have branch {i : Instr} {c : Bool} (h : exec i s = .next (branchIf c imm s)) : Answers s (FrameG 0 false s) i :=
      ⟨_, h, frameG_branchIf 0 c imm s⟩
    have retires {i : Instr} (h : exec i s = .next s.retire) : Answers s (FrameG 0 false s) i := ⟨_, h, frameG_retire 0 s⟩
    clear he
    revert i
    exact List.forall_iff_forall_mem.1 ⟨branch rfl, branch rfl, branch rfl, branch rfl, branch rfl, branch rfl,
      ⟨_, rfl, (frameG_retire 0 s).trans (frameG_cover 0 _ _)⟩, retires rfl, retires rfl, retires rfl⟩
  case jal =>
    subst hi
    exact ⟨_, rfl, frameG_setG_jump 1 s _ _⟩
  case loop =>
    subst hi
    exact ⟨_, rfl, (frameG_setG a s _).trans (frameG_branchIf a _ _ _)⟩
  case fop =>
    have result {i : Instr} {fl : Flags} {x : Word} (h : exec i s = .next (opResult (s.raiseF fl) d x)) :
        Answers s (FrameG d true s) i := ⟨_, h, frameG_raiseF_opResult d s fl x⟩
    clear he
    revert i
    exact List.forall_iff_forall_mem.1 ⟨result rfl, result rfl, result rfl, result rfl, result rfl, result rfl,
      result rfl, result rfl, result rfl, result rfl, result rfl, result rfl, result rfl, result rfl, result rfl,
      result rfl, result rfl, result rfl, result rfl, result rfl, result rfl, result rfl⟩

end

/-! PROOFS. Traps and the return from them (R85 to R89, R97, R110). -/

section
namespace Sys2Proof.Machine.State

/-! ### What the entry of a trap leaves -/

theorem convoy_breakConvoy (s : State) : s.breakConvoy.me.convoy = none := by
  unfold breakConvoy
  split
  · assumption
  · simp

/-- The thread leaves its convoy (R97). -/
theorem convoy_enterTrap (s : State) (f : Bool) (c : BitVec 8) (v : Word) : (s.enterTrap f c v).me.convoy = none := by
  obtain ⟨cap, vs, h⟩ := suspendCapture_keeps s.breakConvoy.me f
  simp [enterTrap, h, convoy_breakConvoy]

/-- A trap leaves the flags and INSTRET. -/
theorem me_takeTrapFrom_keepsFlags (s : State) (f : Bool) (c : BitVec 8) (v : Word) :
    (s.takeTrapFrom f c v).me.fstat = s.me.fstat ∧ (s.takeTrapFrom f c v).me.vstat = s.me.vstat ∧
      (s.takeTrapFrom f c v).me.instret = s.me.instret := by
  unfold takeTrapFrom
  split
  · simp
  · obtain ⟨_, _, _, _, _, h⟩ := me_enterTrap s f c v
    simp [h]

end Sys2Proof.Machine.State

namespace Sys2Proof.Safety

open Machine

theorem frameTrap_takeTrap (s : State) (c : BitVec 8) (v : Word) : FrameTrap s (s.takeTrap c v) := by
  obtain ⟨hf, hv, hi⟩ := State.me_takeTrapFrom_keepsFlags s false c v
  exact ⟨State.takeTrapFrom_threads s false c v, State.g_takeTrapFrom s false c v, State.v_takeTrapFrom s false c v,
    State.p_takeTrapFrom s false c v, hf, hv, hi, State.memByte_congr (State.mem_takeTrapFrom s false c v)⟩

/-- Outside a captured pass the trap is taken at once (R86). -/
theorem trapped_takeTrap {s : State} (h : State.midPass s.me = false) (c : BitVec 8) (v : Word) :
    Trapped c v s (s.takeTrap c v) := by
  rw [State.takeTrap, State.takeTrapFrom_enters c v (by simp [h])]
  have hconvoy := State.convoy_enterTrap s false c v
  obtain ⟨cv, cvb, pend, cap, vs, hme⟩ := State.me_enterTrap s false c v
  exact ⟨by rw [hme], by rw [hme], by rw [hme], by rw [hme], by rw [hme], by rw [hme], hconvoy, by rw [hme], by rw [hme],
    by rw [hme]⟩

/-- During one it waits for the end of the pass (R110). -/
theorem pends_takeTrap {s : State} (h : State.midPass s.me = true) (c : BitVec 8) (v : Word) :
    Pends c v s (s.takeTrap c v) := by
  simp [State.takeTrap, State.takeTrapFrom, h, Pends]

theorem traps_takeTrap (s : State) (c : BitVec 8) (v : Word) : Traps c v s (s.takeTrap c v) :=
  ⟨fun h => trapped_takeTrap h c v, fun h => pends_takeTrap h c v, frameTrap_takeTrap s c v⟩

/-! ### A trap that waits -/

/-- A trap that waited is taken from a thread in which none waits any more. -/
theorem takeDue_of_pending {s : State} {p : PendingTrap} (h : s.me.pending = some p) :
    s.takeDue = (s.setMe { s.me with pending := none }).takeTrap p.cause p.tval := by
  rw [State.takeDue, h]

theorem trapped_takeDue {s : State} {p : PendingTrap} (h : s.me.pending = some p) (hpass : State.midPass s.me = false) :
    Trapped p.cause p.tval s s.takeDue := by
  have hidle : State.midPass (s.setMe { s.me with pending := none }).me = false := by rw [State.me_setMe]; exact hpass
  have ht := trapped_takeTrap hidle p.cause p.tval
  rw [← takeDue_of_pending h] at ht
  simpa only [Trapped, State.me_setMe, State.myCore_setMe] using ht

theorem frameTrap_takeDue {s : State} {p : PendingTrap} (h : s.me.pending = some p) : FrameTrap s s.takeDue := by
  have ht := frameTrap_takeTrap (s.setMe { s.me with pending := none }) p.cause p.tval
  rw [← takeDue_of_pending h] at ht
  obtain ⟨⟨th, ag, hs⟩, hg, hv, hp, hf, hvs, hi, hm⟩ := ht
  simp only [State.me_setMe] at hf hvs hi
  exact ⟨⟨th, ag, hs⟩, fun r => (hg r).trans (by simp [State.g]), fun r => (hv r).trans (by simp [State.v]),
    fun r => (hp r).trans (by simp [State.p]), hf, hvs, hi, hm⟩

end Sys2Proof.Safety

namespace Sys2Proof.Machine.State

/-! ### The return from a trap -/

/-- What resuming a capture keeps of a thread. -/
theorem resumeCapture_keeps (t : Thread) : ∃ c x, resumeCapture t = { t with capture := c, vseq := x } := by
  unfold resumeCapture
  split
  · exact ⟨_, _, rfl⟩
  · exact ⟨t.capture, t.vseq, rfl⟩

/-- What the return from a trap leaves (R89, R85): of its thread all but the capture and what the jump to EPC, the mode
and the cover remainder change, all of memory, and every other thread. -/
def Returned (s t : State) : Prop :=
  (∃ c x, t.me = { s.me with
    capture := c, vseq := x, pc := s.me.epc &&& ~~~3#64, mode := s.me.pmode, cover := s.me.keptCover, keptCover := 0,
    instret := s.me.instret + 1, wait := none, op := none, lane := 0, forest := none, fixMask := none, pathSince := none,
    fetched := none }) ∧ t.mem = s.mem ∧ t.meKey = s.meKey ∧ ∀ k, k ≠ s.meKey → t.threadAt k = s.threadAt k

/-- The jump of the return. -/
theorem returned_jump (s : State) :
    let u := (s.setMe (resumeCapture { s.me with mode := s.me.pmode, keptCover := 0 })).jump s.me.epc
    Returned s (u.setMe { u.me with cover := s.me.keptCover }) := by
  intro u
  obtain ⟨cap, vs, hres⟩ := resumeCapture_keeps { s.me with mode := s.me.pmode, keptCover := 0 }
  obtain ⟨-, hother, -⟩ := Safety.onlyThread_jump
    (s.setMe (resumeCapture { s.me with mode := s.me.pmode, keptCover := 0 })) s.me.epc
  have hkey : u.meKey = s.meKey := by simp [u, meKey]
  refine ⟨⟨cap, vs, ?_⟩, ?_, hkey, fun k hk => ?_⟩
  · simp [u, me_jump, hres]
  · simp [u]
  · rw [threadAt_setMe, if_neg (hkey ▸ hk), hother k hk, threadAt_setMe, if_neg hk]

/-- A resumed capture enters the sequencer's order anew (R110). -/
theorem Returned.setCapture {s t : State} (h : Returned s t) (c : Option Capture) :
    Returned s (t.setMe { t.me with capture := c }) := by
  obtain ⟨⟨c', x, hme⟩, hmem, hkey, hother⟩ := h
  exact ⟨⟨c, x, by rw [me_setMe, hme]⟩, hmem, hkey, fun k hk => by rw [threadAt_setMe, if_neg (hkey ▸ hk), hother k hk]⟩

theorem Returned.setMyCore {s t : State} (h : Returned s t) (c : Core) : Returned s (t.setMyCore c) := h
theorem Returned.enqueue {s t : State} (h : Returned s t) (i : Instr) : Returned s (t.enqueue i) := h

/-- Returning from a trap with or without a suspended capture. -/
theorem returned_returnFromTrap (s : State) : Returned s s.returnFromTrap := by
  have hu := returned_jump s
  unfold returnFromTrap
  dsimp only at hu ⊢
  split
  · exact hu
  · split
    · exact ((hu.setCapture _).setMyCore _).enqueue _
    · exact hu.enqueue _

end Sys2Proof.Machine.State

namespace Sys2Proof.Machine

theorem exec_eret (s : State) :
    exec .eret s = if s.inService then .next s.returnFromTrap else .next (s.takeTrap 10 0x84000002) := rfl

end Sys2Proof.Machine

open Sys2Proof Sys2Proof.Machine Sys2Proof.Safety

/-- Settles O12: a trap is entered at once or waits for the end of a pass; one that waited is taken from a thread in which
none waits. -/
theorem trapEntry : Obligations.TrapEntry := by
  unfold Obligations.TrapEntry
  intro s cause tval
  exact ⟨traps_takeTrap s cause tval, fun p hp hpass => ⟨trapped_takeDue hp hpass, frameTrap_takeDue hp⟩,
    fun hc k hk => State.threadAt_takeTrapFrom s false cause tval k hc hk⟩

/-- Settles O13: SVC and BRK are their traps; ERET is the return, or its trap in task mode. -/
theorem systemCallBreakpointAndReturn : Obligations.SystemCallBreakpointAndReturn := by
  unfold Obligations.SystemCallBreakpointAndReturn
  intro s c
  refine ⟨rfl, rfl, fun hmode => ?task, fun hmode => ⟨s.returnFromTrap, ?service, ?_⟩⟩
  case task => rw [exec_eret, if_neg (by simp [State.inService, hmode])]
  case service => rw [exec_eret, if_pos (by simp [State.inService, hmode])]
  obtain ⟨⟨cap, vs, hme⟩, hmem, -, hother⟩ := State.returned_returnFromTrap s
  refine ⟨by rw [hme], by rw [hme], by rw [hme], by rw [hme], by rw [hme], fun r => ?_, fun r => ?_, fun r => ?_,
    by rw [hme], by rw [hme], by rw [hme], by rw [hme], by rw [hme], State.memByte_congr hmem, hother⟩
  · simp only [State.g, hme]
  · simp only [State.v, hme]
  · simp only [State.p, hme]

end

/-! PROOFS. Waiting and signalling (R90 to R93, R302). -/

section
namespace Sys2Proof.Machine

/-! ### The meanings, by their conditions -/

theorem exec_wfi (s : State) : exec .wfi s =
    if s.me.pending.isSome || s.me.wdogDue || s.me.stopTrap then .next s.retire
    else .next (s.setMe { s.me with wait := some .wfi, wake := false, wfiAt := s.cycle }) := rfl

theorem exec_wfiWake (core tid : Nat) (s : State) : exec (.wfiWake core tid) s =
    let t := s.thread core tid
    if t.wait = some .wfi &&
        (t.wake || t.pending.isSome || t.wdogDue || t.stopTrap || 65536 ≤ (s.cycle - t.wfiAt).toNat) then
      .next (s.within core tid fun s => (s.setMe { s.me with wake := false }).retire)
    else .next s := rfl

/-- YIELD lets each thread that could issue go first (R90, R310). -/
theorem exec_yield (s : State) : exec .yield s = .next (s.retire.setMe { s.retire.me with
    yielded := ((List.range 4).filter fun k => k ≠ s.curTid.toNat && s.readyBase s.curCore k).foldl
      (fun m k => m ||| (1#4 <<< k)) 0 }) := by
  rw [List.foldl_filter]
  rfl

theorem exec_taskend (s : State) : exec .taskend s =
    if s.inService then .next (s.takeTrap 10 taskendWord) else .next s.retire.endThread := rfl

theorem exec_signal_of_none {s : State} (h : s.retire.myCore.inst = none) : exec .signal s = .next s.retire := by
  show execSignal s = _
  rw [execSignal, h]

theorem exec_signal_of_inst {s : State} {k : Nat} {i : Inst} (h : s.retire.myCore.inst = some k)
    (hi : Map.find s.retire.insts k = some i) :
    exec .signal s = .next (s.retire.setInst k { i with signalled := true }).kick := by
  show execSignal s = _
  simp only [execSignal, h, hi]

theorem exec_waitpred_of_none {s : State} (h : s.instOf s.curCore = none) : exec .waitpred s = .next s.retire := by
  show execWaitpred s = _
  rw [execWaitpred, h]

theorem exec_waitpred_of_instOf {s : State} {i : Inst} (h : s.instOf s.curCore = some i) :
    exec .waitpred s = .next (if s.predsEnded i then s.retire else s.block .waitpred) := by
  show execWaitpred s = _
  rw [execWaitpred, h]
  exact (apply_ite _ _ _ _).symm

theorem exec_waitpredRelease_of_instOf {s : State} {core tid : Nat} {i : Inst} (h : s.instOf core = some i)
    (hw : (s.thread core tid).wait = some .waitpred) :
    exec (.waitpredRelease core tid) s = .next (if s.predsEnded i then s.within core tid State.retire else s) := by
  show execWaitpredRelease core tid s = _
  rw [execWaitpredRelease, if_pos hw, h]
  exact (apply_ite _ _ _ _).symm

namespace State

theorem inst_core_retire (s : State) (c : Nat) : (s.retire.core c).inst = (s.core c).inst := by
  obtain ⟨-, -, hcore⟩ := Safety.onlyThread_retire s
  rw [hcore c]

theorem inst_myCore_retire (s : State) : s.retire.myCore.inst = (s.core s.curCore).inst := by
  rw [myCore, retire_curCore, inst_core_retire]

theorem instOf_of_inst {s : State} {core k : Nat} {i : Inst} (hk : (s.core core).inst = some k)
    (hi : Map.find s.insts k = some i) : s.instOf core = some i := by
  rw [instOf, hk]
  exact hi

theorem instOf_of_none {s : State} {core : Nat} (hk : (s.core core).inst = none) : s.instOf core = none := by
  rw [instOf, hk]

/-- Once it has left its channels the thread runs no more and is in no convoy, whatever becomes of its member then (R91). -/
theorem me_endThread (s : State) : s.endThread.me.running = false ∧ s.endThread.me.convoy = none := by
  unfold endThread
  dsimp only
  generalize (s.channelsOf s.curCore).foldl leaveChannel s = u
  have hend : let v := u.setMe { u.me with running := false, convoy := none, inPhase := false, fetched := none }
      v.me.running = false ∧ v.me.convoy = none := by simp
  generalize u.setMe { u.me with running := false, convoy := none, inPhase := false, fetched := none } = v at hend ⊢
  cases v.myCore.inst with
  | none => exact hend
  | some k =>
    dsimp only
    split
    · cases Map.find v.insts k with
      | none =>
        dsimp only
        split <;> exact hend
      | some i =>
        dsimp only
        split <;> split <;> exact hend
    · split <;> exact hend

end State
end Sys2Proof.Machine

open Sys2Proof Sys2Proof.Machine Sys2Proof.Safety

/-- Settles O18: the words by their conditions; the end of a thread by what its last steps leave of it. -/
theorem waitForInterruptAndYield : Obligations.WaitForInterruptAndYield := by
  unfold Obligations.WaitForInterruptAndYield
  refine ⟨fun s core tid => ?waits, fun s core tid => ?ends⟩
  case waits =>
    intro due w others
    have hwake : (w.wake || w.pending.isSome || w.wdogDue || w.stopTrap || 65536 ≤ (s.cycle - w.wfiAt).toNat) =
        (w.wake || due w || 65536 ≤ (s.cycle - w.wfiAt).toNat) := by
      simp only [due, Bool.or_assoc]
    refine ⟨fun h => ?_, fun h => ?_, fun hw h => ?_, fun h => ?_, ?_⟩
    · rw [exec_wfi, if_pos h]
    · rw [exec_wfi, if_neg (by simpa [due] using h)]
    · rw [exec_wfiWake]
      exact if_pos (by rw [hwake, h, hw]; rfl)
    · rw [exec_wfiWake]
      refine if_neg fun hboth => ?_
      obtain ⟨hw, hcond⟩ := Bool.and_eq_true_iff.1 hboth
      rw [hwake] at hcond
      rcases h with h | h
      · exact h (of_decide_eq_true hw)
      · exact Bool.false_ne_true (h.symm.trans hcond)
    · rw [exec_yield]
      simp only [State.readyBase, State.myCore, others, Bool.and_assoc]
  case ends =>
    refine ⟨fun hmode => ⟨?_, State.me_endThread s.retire⟩, fun k i hk hi => ⟨⟨_, ?_, rfl⟩, fun h => ?_, fun h => ?_⟩,
      fun hk => ⟨?_, ?_⟩, fun i hi hw => exec_waitpredRelease_of_instOf hi hw⟩
    · rw [exec_taskend, if_neg (by simp [State.inService, hmode])]
    · exact exec_signal_of_inst ((State.inst_myCore_retire s).trans hk) (by rwa [State.retire_insts])
    · rw [exec_waitpred_of_instOf (State.instOf_of_inst hk hi), if_pos h]
    · rw [exec_waitpred_of_instOf (State.instOf_of_inst hk hi), if_neg (by rw [h]; exact Bool.false_ne_true)]
    · exact exec_signal_of_none ((State.inst_myCore_retire s).trans hk)
    · exact exec_waitpred_of_none (State.instOf_of_none hk)

end

/-! PROOFS. Lockstep pairs (R98). -/

section
namespace Sys2Proof.Machine

/-- A core of a pair as PAIR leaves it, its intervals not begun. -/
def State.couple (s : State) (c : Nat) : State := s.setCore c { s.core c with
  paired := true, agreed := 0, interval := Vector.replicate 4 0, mismatched := 0, matched := 0 }

/-- A core of a pair as UNPAIR leaves it. -/
def State.uncouple (s : State) (c : Nat) : State := s.setCore c { s.core c with
  paired := false, mismatched := 0, matched := 0 }

/-- PAIR, by the first of its conditions that holds. -/
theorem exec_pair (d : Reg) (s : State) : exec (.pair d) s = .next (
    if !s.taskPaired then (s.setG d 1).retire
    else if s.me.convoy.isSome then (s.setG d 2).retire
    else if s.myCore.paired then (s.setG d 3).retire
    else (((s.setG d 0).retire.couple s.curCore).couple (s.curCore + 1)).checkpointPair s.curCore) := by
  show execPair d s = _
  simp only [execPair, State.couple, State.setCore_curCore, State.retire_curCore, State.setG_curCore]
  split_ifs <;> rfl

theorem exec_unpair_of_unpaired {s : State} (h : s.myCore.paired = false) (d : Reg) :
    exec (.unpair d) s = .next (s.setG d 1).retire := by
  show execUnpair d s = _
  rw [execUnpair, h]
  rfl

/-- The first thread whose interval is open. -/
theorem findIdx?_interval_eq_some {v : Vector Nat 4} {k : Fin 4} (hk : v[k] ≠ 0) (hlow : ∀ j : Fin 4, j < k → v[j] = 0) :
    v.toList.findIdx? (· ≠ 0) = some k.val := by
  rw [List.findIdx?_eq_some_iff_getElem]
  refine ⟨by simp, by simpa using hk, fun j hj => ?_⟩
  simpa using hlow ⟨j, hj.trans k.isLt⟩ hj

/-- An open interval is closed before the pair is released. -/
theorem exec_unpair_of_open {s : State} {k : Fin 4} (h : s.myCore.paired = true) (hk : s.myCore.interval[k] ≠ 0)
    (hlow : ∀ j : Fin 4, j < k → s.myCore.interval[j] = 0) (d : Reg) :
    exec (.unpair d) s = .next (s.enqueue (.pairIntervalEnd s.curCore k true)) := by
  show execUnpair d s = _
  rw [execUnpair, h, findIdx?_interval_eq_some hk hlow]
  rfl

theorem exec_unpair_of_closed {s : State} (h : s.myCore.paired = true) (hi : s.myCore.interval = Vector.replicate 4 0)
    (d : Reg) : exec (.unpair d) s =
      .next ((((s.uncouple s.curCore).uncouple (s.curCore + 1)).dropCheckpoints s.curCore).setG d 0).retire := by
  show execUnpair d s = _
  rw [execUnpair, h, hi]
  rfl

end Sys2Proof.Machine

open Sys2Proof Sys2Proof.Machine Sys2Proof.Safety

/-- Settles O20, by the conditions of PAIR and by the intervals that UNPAIR finds open. -/
theorem pairAndUnpair : Obligations.PairAndUnpair := by
  unfold Obligations.PairAndUnpair
  intro s d done couple free
  refine ⟨fun h => ?_, fun h hc => ?_, fun h hc hp => ?_, fun h hc hp => ?_, fun hp => exec_unpair_of_unpaired hp d,
    fun hp hi => exec_unpair_of_closed hp hi d, fun k hp hk hlow => exec_unpair_of_open hp hk hlow d⟩
  · rw [exec_pair, h]
    rfl
  · rw [exec_pair, h, hc]
    rfl
  · rw [exec_pair, h, hc, hp]
    rfl
  · rw [exec_pair, h, hc, hp]
    rfl

end

/-! PROOFS. Convoys (R95, R96, R19): what CONVOY answers, and what forming a convoy leaves in each member. -/

section
namespace Sys2Proof.Machine

namespace State

/-! ### Threads of one TID -/

theorem threadKey_inj {c c' tid : Nat} (h : threadKey c tid = threadKey c' tid) : c = c' := by
  unfold threadKey at h
  omega

theorem thread_setThread (s : State) (c c' tid : Nat) (t : Thread) :
    (s.setThread c tid t).thread c' tid = if c' = c then t else s.thread c' tid := by
  rw [thread, setThread, threadAt_setThreadAt]
  exact if_congr ⟨threadKey_inj, fun h => by rw [h]⟩ rfl rfl

/-- The thread whose word executes, among the threads of its TID. -/
theorem thread_setMe (s : State) (c : Nat) (t : Thread) :
    (s.setMe t).thread c s.curTid.toNat = if c = s.curCore then t else s.thread c s.curTid.toNat :=
  thread_setThread s s.curCore c s.curTid.toNat t

theorem meKey_asThread (s : State) (c : Nat) (k : BitVec 2) : (s.asThread c k.toNat).meKey = threadKey c k.toNat := by
  simp [asThread, meKey]

theorem me_asThread (s : State) (c : Nat) (k : BitVec 2) : (s.asThread c k.toNat).me = s.thread c k.toNat := by
  rw [me, meKey_asThread]
  rfl

/-! ### The result of a waiting CONVOY -/

end State

/-- A thread whose CONVOY has retired with a result. -/
def Thread.convoyDone (t : Thread) (x : Word) : Thread :=
  { t with
    g := if State.convoyDest t = 0#5 then t.g else t.g.set (State.convoyDest t).toNat x
    pc := (t.pc + 4) &&& ~~~3#64, instret := t.instret + 1, cover := t.cover - 1, wait := none, op := none, lane := 0,
    forest := none, fixMask := none, pathSince := none }

namespace State

theorem thread_convoyResult_self (s : State) (c : Nat) (k : BitVec 2) (x : Word) :
    (s.convoyResult c k.toNat x).thread c k.toNat = (s.thread c k.toNat).convoyDone x := by
  have hkey : ((s.asThread c k.toNat).setG (convoyDest (s.asThread c k.toNat).me) x).retire.meKey = threadKey c k.toNat := by
    rw [meKey_retire, meKey_setG, meKey_asThread]
  show ((s.asThread c k.toNat).setG (convoyDest (s.asThread c k.toNat).me) x).retire.threadAt (threadKey c k.toNat) = _
  rw [← hkey]
  show ((s.asThread c k.toNat).setG (convoyDest (s.asThread c k.toNat).me) x).retire.me = _
  rw [me_retire, me_setG, me_asThread]
  rfl

theorem thread_convoyResult_of_ne (s : State) {c c' : Nat} (h : c' ≠ c) (k : BitVec 2) (x : Word) :
    (s.convoyResult c k.toNat x).thread c' k.toNat = s.thread c' k.toNat := by
  have hne : threadKey c' k.toNat ≠ (s.asThread c k.toNat).meKey := by
    rw [meKey_asThread]
    exact fun e => h (threadKey_inj e)
  show ((s.asThread c k.toNat).setG (convoyDest (s.asThread c k.toNat).me) x).retire.threadAt (threadKey c' k.toNat) = _
  rw [threadAt_retire _ _ (by rwa [meKey_setG]), threadAt_setG _ _ _ _ hne]
  rfl

/-! ### One member joins -/

/-- What forming a convoy does for one member, the leader's core given. -/
def joinConvoy (cores grp : List Nat) (strict : Bool) (s : State) (c : Nat) : State :=
  let tid := s.curTid.toNat
  let s := s.convoyResult c tid 0
  let t := s.thread c tid
  s.setThread c tid { t with
    convoy := some ⟨strict, grp⟩, cvb := false, pc := (s.thread (cores.headD c) tid).pc
    fetched := if cores.head? = some c then t.fetched else none }

theorem formConvoy_eq (s : State) (grp : List Nat) (strict : Bool) :
    s.formConvoy grp strict = (s.groupCores grp).foldl (joinConvoy (s.groupCores grp) grp strict) s := rfl

@[simp] theorem curTid_joinConvoy (cores grp : List Nat) (strict : Bool) (s : State) (c : Nat) :
    (joinConvoy cores grp strict s c).curTid = s.curTid := rfl

/-- A thread that has joined a convoy, at the pc of the leader. -/
def Joined (grp : List Nat) (strict : Bool) (pc : Word) (old new : Thread) : Prop :=
  ∃ f, new = { old.convoyDone 0 with convoy := some ⟨strict, grp⟩, cvb := false, pc := pc, fetched := f }

/-- The leader goes on at its own next word. -/
theorem joinConvoy_leader (cores grp : List Nat) (strict : Bool) (s : State) (c : Nat) :
    Joined grp strict ((s.thread c s.curTid.toNat).pc + 4 &&& ~~~3#64) (s.thread c s.curTid.toNat)
      ((joinConvoy (c :: cores) grp strict s c).thread c s.curTid.toNat) := by
  unfold joinConvoy
  dsimp only
  rw [thread_setThread, if_pos rfl, thread_convoyResult_self, List.headD_cons, thread_convoyResult_self]
  exact ⟨_, rfl⟩

/-- A follower goes on where the leader stands. -/
theorem joinConvoy_follower (cores grp : List Nat) (strict : Bool) (s : State) {lead c : Nat} (h : lead ≠ c) :
    Joined grp strict (s.thread lead s.curTid.toNat).pc (s.thread c s.curTid.toNat)
      ((joinConvoy (lead :: cores) grp strict s c).thread c s.curTid.toNat) := by
  unfold joinConvoy
  dsimp only
  rw [thread_setThread, if_pos rfl, thread_convoyResult_self, List.headD_cons, thread_convoyResult_of_ne _ h]
  exact ⟨_, rfl⟩

theorem thread_joinConvoy_of_ne (cores grp : List Nat) (strict : Bool) (s : State) {c c' : Nat} (h : c' ≠ c) :
    (joinConvoy cores grp strict s c).thread c' s.curTid.toNat = s.thread c' s.curTid.toNat := by
  unfold joinConvoy
  dsimp only
  rw [thread_setThread, if_neg h, thread_convoyResult_of_ne _ h]

/-! ### All members join -/

/-- Members that join leave the threads of every other core. -/
theorem thread_foldl_joinConvoy_of_notMem (cores grp : List Nat) (strict : Bool) (l : List Nat) (s : State) {c : Nat}
    (h : c ∉ l) : (l.foldl (joinConvoy cores grp strict) s).thread c s.curTid.toNat = s.thread c s.curTid.toNat := by
  induction l generalizing s with
  | nil => rfl
  | cons b r ih =>
    rw [List.mem_cons, not_or] at h
    exact (ih (joinConvoy cores grp strict s b) h.2).trans (thread_joinConvoy_of_ne cores grp strict s h.1)

/-- Followers that join in turn all stand where the leader stands. -/
theorem foldl_joinConvoy_follower (cores grp : List Nat) (strict : Bool) (l : List Nat) (s : State) {lead c : Nat}
    (hlead : lead ∉ l) (hl : l.Nodup) (hc : c ∈ l) :
    Joined grp strict (s.thread lead s.curTid.toNat).pc (s.thread c s.curTid.toNat)
      ((l.foldl (joinConvoy (lead :: cores) grp strict) s).thread c s.curTid.toNat) := by
  induction l generalizing s with
  | nil => cases hc
  | cons b r ih =>
    rw [List.mem_cons, not_or] at hlead
    obtain ⟨hb, hr⟩ := List.nodup_cons.1 hl
    have hpc := thread_joinConvoy_of_ne (lead :: cores) grp strict s hlead.1
    rw [List.foldl_cons]
    rcases List.mem_cons.1 hc with rfl | hc
    · have hkept := thread_foldl_joinConvoy_of_notMem (lead :: cores) grp strict r (joinConvoy (lead :: cores) grp strict s c) hb
      rw [curTid_joinConvoy] at hkept
      rw [hkept]
      exact joinConvoy_follower cores grp strict s hlead.1
    · have hcb : c ≠ b := fun e => hb (e ▸ hc)
      have hjoin := ih (joinConvoy (lead :: cores) grp strict s b) hlead.2 hr hc
      rwa [curTid_joinConvoy, hpc, thread_joinConvoy_of_ne _ _ _ _ hcb] at hjoin

/-- Every member of the convoy that forms has joined, at the word after the leader's CONVOY. -/
theorem joined_formConvoy (s : State) (grp : List Nat) (strict : Bool) (h : (s.groupCores grp).Nodup) {c : Nat}
    (hc : c ∈ s.groupCores grp) :
    Joined grp strict ((s.thread ((s.groupCores grp).headD s.curCore) s.curTid.toNat).pc + 4 &&& ~~~3#64)
      (s.thread c s.curTid.toNat) ((s.formConvoy grp strict).thread c s.curTid.toNat) := by
  rw [formConvoy_eq]
  cases hcores : s.groupCores grp with
  | nil => rw [hcores] at hc; cases hc
  | cons lead r =>
    rw [hcores] at h hc
    obtain ⟨hlead, hr⟩ := List.nodup_cons.1 h
    have hfirst := joinConvoy_leader r grp strict s lead
    rw [List.foldl_cons, List.headD_cons]
    rcases List.mem_cons.1 hc with rfl | hc
    · have hkept := thread_foldl_joinConvoy_of_notMem (c :: r) grp strict r (joinConvoy (c :: r) grp strict s c) hlead
      rw [curTid_joinConvoy] at hkept
      rwa [hkept]
    · have hne : c ≠ lead := fun e => hlead (e ▸ hc)
      have hjoin := foldl_joinConvoy_follower r grp strict r (joinConvoy (lead :: r) grp strict s lead) hlead hr hc
      rw [curTid_joinConvoy, thread_joinConvoy_of_ne _ _ _ _ hne] at hjoin
      obtain ⟨f, hf⟩ := hfirst
      rwa [hf] at hjoin

/-! ### What CONVOY answers -/

/-- CVB cleared, as every CONVOY leaves it (R95, R19). -/
def clearCvb (s : State) : State := s.setMe { s.me with cvb := false }

/-- The other cores of a group, and those of them whose thread waits in CONVOY with another n. -/
def convoyOthers (s : State) (grp : List Nat) : List Nat := (s.groupCores grp).filter (· ≠ s.curCore)
def convoyClash (s : State) (n : BitVec 2) (grp : List Nat) : List Nat :=
  (s.convoyOthers grp).filter fun c => (convoyWait (s.thread c s.curTid.toNat)).any fun w => w.1 ≠ n

/-- Whether the leader of a group, where it waits, waits in CONVOY.S. -/
def leadStrict (s : State) (grp : List Nat) (strict : Bool) : Bool :=
  ((s.groupCores grp).head?.bind fun c => convoyWait (s.thread c s.curTid.toNat)).elim strict (·.2)

end State

theorem convoyBody_refused {s : State} {n : BitVec 2} (h : s.convoyGroup n = none ∨ s.groupRuns = false) (i : Instr) (d : Reg)
    (strict : Bool) : convoyBody i d n strict s = (s.setG d 1).retire.clearCvb := by
  unfold convoyBody
  cases hg : s.convoyGroup n with
  | none => rfl
  | some grp =>
    have hr : s.groupRuns = false := by simpa [hg] using h
    simp only [hr]
    rfl

/-- CONVOY in a group that can form, by the first of its conditions that holds. -/
theorem convoyBody_of_group {s : State} {n : BitVec 2} {grp : List Nat} (hg : s.convoyGroup n = some grp)
    (hr : s.groupRuns = true) (i : Instr) (d : Reg) (strict : Bool) : convoyBody i d n strict s =
      if s.convoyClash n grp ≠ [] then
        ((s.convoyClash n grp).foldl (fun u c => u.convoyResult c s.curTid.toNat 2) (s.setG d 2).retire).clearCvb
      else if s.me.convoy.isSome then (s.setG d 3).retire.clearCvb
      else if s.myCore.paired then (s.setG d 4).retire.clearCvb
      else if (s.convoyOthers grp).all fun c =>
          (State.convoyWait ((s.block i).clearCvb.thread c s.curTid.toNat)).isSome then
        (s.block i).clearCvb.formConvoy grp ((s.block i).clearCvb.leadStrict grp strict)
      else (s.block i).clearCvb := by
  have hclash : s.convoyClash n grp = (s.convoyOthers grp).filter fun c =>
      match State.convoyWait (s.thread c s.curTid.toNat) with
      | some (m, _) => m ≠ n
      | none => false := by
    refine List.filter_congr fun c _ => ?_
    cases State.convoyWait (s.thread c s.curTid.toNat) <;> rfl
  have hlead : (s.block i).clearCvb.leadStrict grp strict =
      match (s.groupCores grp).head? with
      | some c => match State.convoyWait ((s.block i).clearCvb.thread c s.curTid.toNat) with
        | some (_, st) => st
        | none => strict
      | none => strict := by
    show ((s.groupCores grp).head?.bind fun c => State.convoyWait ((s.block i).clearCvb.thread c s.curTid.toNat)).elim _ _ = _
    cases (s.groupCores grp).head? with
    | none => rfl
    | some c => cases h : State.convoyWait ((s.block i).clearCvb.thread c s.curTid.toNat) <;> simp [h]
  rw [hclash, hlead]
  unfold convoyBody
  simp only [hg, hr, Bool.not_true, Bool.false_eq_true, if_false, Bool.not_eq_true', List.isEmpty_eq_false_iff]
  rfl

namespace State

/-! ### The thread that arrives last -/

/-- The arriving thread waits in its own CONVOY; the threads of the other cores stay as they are. -/
theorem thread_block_clearCvb (s : State) (i : Instr) (c : Nat) : (s.block i).clearCvb.thread c s.curTid.toNat =
    if c = s.curCore then { s.me with wait := some i, cvb := false } else s.thread c s.curTid.toNat := by
  have h : (s.block i).clearCvb = s.setMe { s.me with wait := some i, cvb := false } := by simp [clearCvb, block]
  rw [h, thread_setMe]

/-- What a member holds once it has joined, by what it held before: nothing of it but what R95 and R19 name changes. -/
theorem Joined.holds {grp : List Nat} {strict : Bool} {pc : Word} {old new : Thread} (h : Joined grp strict pc old new)
    {dest : Reg} (hdest : convoyDest old = dest) :
    new.convoy = some ⟨strict, grp⟩ ∧ new.cvb = false ∧ new.wait = none ∧ new.pc = pc ∧ new.instret = old.instret + 1 ∧
      (dest ≠ 0 → new.g[dest.toNat] = 0) ∧ (∀ r : Reg, r ≠ dest → new.g[r.toNat] = old.g[r.toNat]) ∧ new.v = old.v ∧
      new.p = old.p := by
  obtain ⟨f, rfl⟩ := h
  subst hdest
  refine ⟨rfl, rfl, rfl, rfl, rfl, fun hd => ?_, fun r hr => ?_, rfl, rfl⟩
  · show (if convoyDest old = 0#5 then old.g else old.g.set (convoyDest old).toNat 0)[(convoyDest old).toNat] = 0
    rw [if_neg (show ¬ convoyDest old = 0#5 from hd), Vector.getElem_set_self]
  · show (if convoyDest old = 0#5 then old.g else old.g.set (convoyDest old).toNat 0)[r.toNat] = old.g[r.toNat]
    split
    · rfl
    · exact Vector.getElem_set_ne _ _ fun e => hr (BitVec.eq_of_toNat_eq e.symm)

/-- A thread of another core of the group, when the last one arrives. -/
theorem thread_block_clearCvb_of_mem {s : State} {grp : List Nat} {c : Nat} (h : c ∈ s.convoyOthers grp) (i : Instr) :
    (s.block i).clearCvb.thread c s.curTid.toNat = s.thread c s.curTid.toNat := by
  rw [thread_block_clearCvb, if_neg (by simpa using (List.mem_filter.1 h).2)]

/-- Every other thread of the group waits in CONVOY, as seen before or after the last one arrives. -/
theorem all_convoyOthers_block (s : State) (grp : List Nat) (i : Instr) :
    (((s.convoyOthers grp).all fun c => (convoyWait ((s.block i).clearCvb.thread c s.curTid.toNat)).isSome) = true) ↔
      ∀ c ∈ s.convoyOthers grp, (convoyWait (s.thread c s.curTid.toNat)).isSome = true := by
  rw [List.all_eq_true]
  exact forall₂_congr fun c hc => by rw [thread_block_clearCvb_of_mem hc]

/-- The CONVOY in which a thread waits. -/
theorem convoyWait_of_wait {t : Thread} {strict : Bool} {d : Reg} {n : BitVec 2}
    (h : t.wait = some (if strict then .convoyS d n else .convoy d n)) :
    convoyWait t = some (n, strict) ∧ convoyDest t = d := by
  rw [convoyWait, convoyDest, h]
  cases strict <;> exact ⟨rfl, rfl⟩

/-- Until it joins, a member keeps its registers, pc and INSTRET. -/
theorem thread_block_clearCvb_keeps (s : State) (i : Instr) (c : Nat) :
    let u := (s.block i).clearCvb.thread c s.curTid.toNat
    let t := s.thread c s.curTid.toNat
    u.pc = t.pc ∧ u.instret = t.instret ∧ u.g = t.g ∧ u.v = t.v ∧ u.p = t.p := by
  intro u t
  have h : u = if c = s.curCore then { s.me with wait := some i, cvb := false } else t := thread_block_clearCvb s i c
  split at h
  · subst c
    rw [h]
    exact ⟨rfl, rfl, rfl, rfl, rfl⟩
  · rw [h]
    exact ⟨rfl, rfl, rfl, rfl, rfl⟩

theorem convoyDest_block_clearCvb (s : State) (strict : Bool) (d : Reg) (n : BitVec 2) (c : Nat) :
    convoyDest ((s.block (if strict then .convoyS d n else .convoy d n)).clearCvb.thread c s.curTid.toNat) =
      if c = s.curCore then d else convoyDest (s.thread c s.curTid.toNat) := by
  rw [thread_block_clearCvb]
  split
  · exact (convoyWait_of_wait rfl).2
  · rfl

/-- The leader's word decides, that of the arriving thread where it leads (log 36). -/
theorem leadStrict_block (s : State) (grp : List Nat) (strict : Bool) (d : Reg) (n : BitVec 2) :
    (s.block (if strict then .convoyS d n else .convoy d n)).clearCvb.leadStrict grp strict =
      ((s.groupCores grp).head?.elim strict fun c =>
        if c = s.curCore then strict else (convoyWait (s.thread c s.curTid.toNat)).elim strict (·.2)) := by
  show ((s.groupCores grp).head?.bind fun c => convoyWait ((s.block _).clearCvb.thread c s.curTid.toNat)).elim _ _ = _
  cases (s.groupCores grp).head? with
  | none => rfl
  | some c =>
    rw [Option.bind_some, Option.elim_some, thread_block_clearCvb]
    split
    · rw [(convoyWait_of_wait rfl).1]
      rfl
    · rfl

end State

theorem exec_disband (d : Reg) (s : State) : exec (.disband d) s = .next (
    if s.me.convoy.isSome then ((s.setMe { s.me with convoy := none }).setG d 0).retire
    else if s.me.cvb then (s.setG d 1).retire else (s.setG d 2).retire) := by
  show execDisband d s = _
  unfold execDisband
  dsimp only
  split_ifs <;> rfl

end Sys2Proof.Machine

open Sys2Proof Sys2Proof.Machine Sys2Proof.Safety

/-- Settles O19: the answers by the conditions of CONVOY in their order; the convoy by its members joining in turn, the
leader first. -/
theorem convoyForms : Obligations.ConvoyForms := by
  unfold Obligations.ConvoyForms
  intro s d n core tid done clear
  refine ⟨fun strict => ?_, fun i hi hw => ?_, ?_⟩
  · intro i
    have hexec (u : State) : exec i u = .next (convoyBody i d n strict u) := by cases strict <;> rfl
    refine ⟨fun h => ?_, fun grp hg hr => ?_⟩
    · rw [hexec, convoyBody_refused h]
      rfl
    · intro others waits clash
      have hclash : clash = s.convoyClash n grp := by
        refine List.filter_congr fun c _ => ?_
        show (match State.convoyWait (s.thread c s.curTid.toNat) with
          | some w => decide (w.1 ≠ n)
          | none => false) = _
        cases State.convoyWait (s.thread c s.curTid.toNat) <;> rfl
      rw [hexec, convoyBody_of_group hg hr, ← hclash]
      refine ⟨fun h => ?clash, fun h hc => ?member, fun h hc hp => ?paired, fun h hc hp hw => ?blocks,
        fun h hc hp hw => ?forms⟩
      case clash => exact congrArg _ (if_pos h)
      case member => exact congrArg _ ((if_neg (not_not.2 h)).trans (if_pos hc))
      case paired =>
        exact congrArg _ ((if_neg (not_not.2 h)).trans ((if_neg (by simp [hc])).trans (if_pos hp)))
      case blocks =>
        refine congrArg _ ((if_neg (not_not.2 h)).trans ((if_neg (by simp [hc])).trans ((if_neg (by simp [hp])).trans (if_neg ?_))))
        rw [State.all_convoyOthers_block]
        obtain ⟨c, hmem, hnone⟩ := hw
        exact fun hall => by simpa [waits, hnone] using hall c hmem
      case forms =>
        intro lead t first
        have hlead : (s.block i).clearCvb.leadStrict grp strict = lead := by
          rw [State.leadStrict_block]
          cases hhead : (s.groupCores grp).head? with
          | none => simp only [lead, hhead, Option.elim_none]
          | some c =>
            simp only [lead, hhead, waits, Option.elim_some]
            cases State.convoyWait (s.thread c s.curTid.toNat) <;> rfl
        refine ⟨?_, fun hnodup c hc => ?_⟩
        · rw [hlead]
          exact congrArg _ ((if_neg (not_not.2 h)).trans ((if_neg (by simp [hc])).trans ((if_neg (by simp [hp])).trans
            (if_pos ((State.all_convoyOthers_block s grp i).2 hw)))))
        · intro old new dest
          have hjoin : State.Joined grp lead _ ((s.block i).clearCvb.thread c s.curTid.toNat) new :=
            State.joined_formConvoy (s.block i).clearCvb grp lead hnodup hc
          have hdest : State.convoyDest ((s.block i).clearCvb.thread c s.curTid.toNat) = dest :=
            State.convoyDest_block_clearCvb s strict d n c
          obtain ⟨-, hinstret, hg, hv, hp⟩ := State.thread_block_clearCvb_keeps s i c
          obtain ⟨hfirst, -⟩ := State.thread_block_clearCvb_keeps s i ((s.groupCores grp).headD s.curCore)
          obtain ⟨jconvoy, jcvb, jwait, jpc, jinstret, jdest, jg, jv, jp⟩ := hjoin.holds hdest
          refine ⟨jconvoy, jcvb, jwait, jpc.trans ?_, jinstret.trans ?_, jdest, fun r hr => ?_,
            jv.trans hv, jp.trans hp⟩
          · exact congrArg (· + 4 &&& ~~~3#64) hfirst
          · exact congrArg (· + 1) hinstret
          · exact (jg r hr).trans (congrArg (·[r.toNat]) hg)
  · rcases hi with rfl | rfl
    · refine ⟨_, rfl, ?_⟩
      show execConvoyForm core tid s = _
      rw [execConvoyForm, hw]
      rfl
    · refine ⟨_, rfl, ?_⟩
      show execConvoyForm core tid s = _
      rw [execConvoyForm, hw]
      rfl
  · exact exec_disband d s

end

/-! PROOFS. The end, the failure and the restart of instances (R91, R298 to R302, R352, R376, R378): what the steps of the
dispatchers leave of the DEVENT queues, of the instances and of the graphs. -/

section
namespace Sys2Proof.Machine.State

/-! ### Steps that leave what the dispatchers hold -/

/-- The DEVENT queue of every die, the instances and the graphs stay as they are. -/
def SameDispatch (s t : State) : Prop :=
  (∀ d, (t.die d).devents = (s.die d).devents) ∧ t.insts = s.insts ∧ t.graphs = s.graphs

theorem SameDispatch.refl (s : State) : SameDispatch s s := ⟨fun _ => rfl, rfl, rfl⟩

theorem SameDispatch.trans {s t u : State} (h : SameDispatch s t) (k : SameDispatch t u) : SameDispatch s u := by
  obtain ⟨hd, hi, hg⟩ := h
  obtain ⟨kd, ki, kg⟩ := k
  exact ⟨fun d => (kd d).trans (hd d), ki.trans hi, kg.trans hg⟩

theorem SameDispatch.foldl {α : Type} {f : State → α → State} (h : ∀ u b, SameDispatch u (f u b)) (l : List α) (s : State) :
    SameDispatch s (l.foldl f s) :=
  List.foldlRecOn l f (motive := SameDispatch s) (.refl s) fun u hu b _ => hu.trans (h u b)

theorem SameDispatch.of_eq {s t : State} (hd : t.dies = s.dies) (hi : t.insts = s.insts) (hg : t.graphs = s.graphs) :
    SameDispatch s t := ⟨fun d => by rw [die_congr hd], hi, hg⟩

theorem sameDispatch_enqueue (s : State) (i : Instr) : SameDispatch s (s.enqueue i) := .of_eq rfl rfl rfl
theorem sameDispatch_setCore (s : State) (k : Nat) (c : Core) : SameDispatch s (s.setCore k c) := .of_eq rfl rfl rfl
theorem sameDispatch_setCluster (s : State) (k : Nat) (c : Cluster) : SameDispatch s (s.setCluster k c) := .of_eq rfl rfl rfl
theorem sameDispatch_setThread (s : State) (c tid : Nat) (t : Thread) : SameDispatch s (s.setThread c tid t) :=
  .of_eq rfl rfl rfl

theorem sameDispatch_pkgHolder (s : State) (m : Map Nat) : SameDispatch s { s with pkgHolder := m } := .of_eq rfl rfl rfl

theorem sameDispatch_setDie {s : State} {k : Nat} {x : Die} (h : x.devents = (s.die k).devents) :
    SameDispatch s (s.setDie k x) := by
  refine ⟨fun d => ?_, rfl, rfl⟩
  rw [die_setDie]
  split
  · subst d
    exact h
  · rfl

/-! ### Notifications -/

theorem sameDispatch_wakeCore (s : State) (core : Nat) : SameDispatch s (s.wakeCore core) := by
  refine .foldl (fun u tid => ?_) _ s
  dsimp only
  split
  · exact sameDispatch_setThread ..
  · exact .refl u

theorem sameDispatch_notifyCore (s : State) (core : Nat) : SameDispatch s (s.notifyCore core) := by
  refine .foldl (fun u tid => ?_) _ s
  split
  · split
    · exact sameDispatch_enqueue ..
    · exact .refl u
  · exact .refl u

theorem sameDispatch_setMailbox (s : State) (core : Nat) (n : BitVec 4) (x : BitVec 32) :
    SameDispatch s (s.setMailbox core n x) := by
  unfold setMailbox
  dsimp only
  split
  · exact .refl s
  · exact ((sameDispatch_setCore ..).trans (sameDispatch_wakeCore ..)).trans (sameDispatch_notifyCore ..)

theorem sameDispatch_notify (s : State) (die : Nat) (n : Note) : SameDispatch s (s.notify die n) := by
  unfold notify incMailbox
  dsimp only
  split
  · split
    · exact .refl s
    · exact sameDispatch_setMailbox ..
  · exact .refl s

/-! ### The end of a graph -/

theorem sameDispatch_blurSeo (s : State) (die : Nat) : SameDispatch s (s.blurSeo die) := by
  unfold blurSeo blur
  dsimp only
  split
  · exact .refl s
  · split <;> exact .of_eq rfl rfl rfl

theorem sameDispatch_unreserve (s : State) (die n : Nat) : SameDispatch s (s.unreserve die n) := sameDispatch_setDie rfl

theorem sameDispatch_dropForest (s : State) (die slot : Nat) (f : Forest) : SameDispatch s (s.dropForest die slot f) := by
  unfold dropForest
  refine .trans (.trans (sameDispatch_setDie ?_) (sameDispatch_blurSeo ..)) (sameDispatch_unreserve ..)
  rfl

theorem sameDispatch_freeSlotOf (s : State) (die slot : Nat) (x : DrSlot) : SameDispatch s (s.freeSlotOf die slot x) := by
  unfold freeSlotOf
  refine .trans (sameDispatch_setDie ?_) (sameDispatch_unreserve ..)
  rfl

theorem sameDispatch_dropObjects (s : State) (n die : Nat) : SameDispatch s (s.dropObjects n die) := by
  refine .trans (.foldl (fun u e => ?_) _ s) (.foldl (fun u e => ?_) _ _)
  · split
    · exact sameDispatch_dropForest ..
    · exact .refl u
  · have hgone : SameDispatch u (u.setDie die { u.die die with slots := Map.erase (u.die die).slots e.1 }) :=
      sameDispatch_setDie rfl
    dsimp only
    split
    · split
      · exact hgone.trans (sameDispatch_freeSlotOf ..)
      · exact hgone
    · exact .refl u

theorem sameDispatch_notifySlots (s : State) : SameDispatch s s.notifySlots := by
  refine .foldl (fun u e => ?_) _ s
  split
  · exact sameDispatch_enqueue ..
  · exact sameDispatch_enqueue ..
  · exact .refl u

/-- A graph that stops being live gives back what its objects hold, and leaves its tasks and instances. -/
theorem sameDispatch_settleGraph (s : State) (n : Nat) : SameDispatch s (s.settleGraph n) := by
  unfold settleGraph
  split
  · exact .refl s
  · split
    · exact .refl s
    · refine .trans ?_ (sameDispatch_notifySlots _)
      refine .trans (.foldl (fun u d => ?_) _ s) (sameDispatch_pkgHolder ..)
      refine .trans (sameDispatch_setDie ?_) (sameDispatch_dropObjects ..)
      rfl

/-! ### Letting go of cores -/

theorem sameDispatch_freeCores (s : State) (k : Nat) : SameDispatch s (s.freeCores k) := by
  refine .foldl (fun u c => ?_) _ s
  exact .of_eq rfl rfl rfl

theorem sameDispatch_abandon (s : State) (c : Nat) (p : Option Parked) : SameDispatch s (s.abandon c p) := by
  cases p with
  | none => exact .refl s
  | some p => exact sameDispatch_setCluster ..

theorem sameDispatch_markMailboxes (s : State) (core : Nat) : SameDispatch s (s.markMailboxes core) :=
  .foldl (fun _ _ => (sameDispatch_setCore ..).trans (sameDispatch_notifyCore ..)) _ s

theorem sameDispatch_discardEngines (s : State) (core : Nat) : SameDispatch s (s.discardEngines core) :=
  (sameDispatch_markMailboxes s core).trans (.of_eq rfl rfl rfl)

/-! ### The dispatchers look again -/

/-- The dies and the graphs stay as they are, and all instances that wait for no predecessor. -/
def SameSettled (s t : State) : Prop :=
  t.dies = s.dies ∧ t.graphs = s.graphs ∧
    ∀ k i, Map.find s.insts k = some i → i.st ≠ .pending → i.st ≠ .early → Map.find t.insts k = some i

theorem SameSettled.refl (s : State) : SameSettled s s := ⟨rfl, rfl, fun _ _ h _ _ => h⟩

theorem SameSettled.trans {s t u : State} (h : SameSettled s t) (k : SameSettled t u) : SameSettled s u := by
  obtain ⟨hd, hg, hi⟩ := h
  obtain ⟨kd, kg, ki⟩ := k
  exact ⟨kd.trans hd, kg.trans hg, fun j i hf hp he => ki j i (hi j i hf hp he) hp he⟩

theorem SameSettled.foldl {α : Type} {f : State → α → State} (h : ∀ u b, SameSettled u (f u b)) (l : List α) (s : State) :
    SameSettled s (l.foldl f s) :=
  List.foldlRecOn l f (motive := SameSettled s) (.refl s) fun u hu b _ => hu.trans (h u b)

theorem SameSettled.of_eq {s t : State} (hd : t.dies = s.dies) (hg : t.graphs = s.graphs) (hi : t.insts = s.insts) :
    SameSettled s t := ⟨hd, hg, fun _ _ h _ _ => by rw [hi, h]⟩

/-- Moving on one of the instances that wait for predecessors leaves all others. -/
theorem sameSettled_setInst {s t : State} {j : Nat} {x y : Inst} (hx : Map.find s.insts j = some x)
    (hst : x.st = .pending ∨ x.st = .early) (hd : t.dies = s.dies) (hg : t.graphs = s.graphs)
    (hi : t.insts = Map.insert s.insts j y) : SameSettled s t := by
  refine ⟨hd, hg, fun k i hf hp he => ?_⟩
  have hne : k ≠ j := by
    rintro rfl
    obtain rfl : x = i := Option.some.inj (hx.symm.trans hf)
    exact hst.elim hp he
  rw [hi, Map.find_insert_of_ne _ _ _ _ hne, hf]

theorem sameSettled_readyOne (s : State) (j : Nat) : SameSettled s (s.readyOne j) := by
  unfold readyOne
  cases hx : Map.find s.insts j with
  | none => exact .refl s
  | some x =>
    dsimp only
    split
    · rename_i hst
      split_ifs
      · exact sameSettled_setInst hx (.inl hst) rfl rfl rfl
      · exact sameSettled_setInst hx (.inl hst) rfl rfl rfl
      · exact .refl s
    · rename_i hst
      split_ifs
      · exact sameSettled_setInst hx (.inr hst) rfl rfl rfl
      · exact .refl s
    · exact .refl s

theorem sameSettled_kick (s : State) : SameSettled s s.kick := by
  have henqueue (u : State) (i : Instr) : SameSettled u (u.enqueue i) := .of_eq rfl rfl rfl
  refine (((SameSettled.foldl sameSettled_readyOne _ s).trans (.foldl (fun u e => henqueue u _) _ _)).trans
    (.foldl (fun u e => ?_) _ _)).trans (.foldl (fun u e => ?_) _ _)
  · split
    · exact henqueue u _
    · exact .refl u
  · split
    · exact henqueue u _
    · exact .refl u

/-! ### Events -/

/-- An event stands at the end of its die's queue; instances and graphs stay as they are (R300). -/
theorem devents_appendEvent (s : State) (die : Nat) (failed : Bool) (id : Nat) :
    ((s.appendEvent die failed id).die die).devents = (s.die die).devents ++ [(failed, BitVec.ofNat 48 id)] := by
  obtain ⟨hnotify, -⟩ := sameDispatch_notify
    (s.setDie die { s.die die with devents := (s.die die).devents ++ [(failed, BitVec.ofNat 48 id)] }) die
    ((s.setDie die { s.die die with devents := (s.die die).devents ++ [(failed, BitVec.ofNat 48 id)] }).die die).dnote
  exact (hnotify die).trans (by rw [die_setDie, if_pos rfl])

theorem insts_appendEvent (s : State) (die : Nat) (failed : Bool) (id : Nat) :
    (s.appendEvent die failed id).insts = s.insts := by
  obtain ⟨-, hinsts, -⟩ := sameDispatch_notify
    (s.setDie die { s.die die with devents := (s.die die).devents ++ [(failed, BitVec.ofNat 48 id)] }) die
    ((s.setDie die { s.die die with devents := (s.die die).devents ++ [(failed, BitVec.ofNat 48 id)] }).die die).dnote
  exact hinsts

theorem SameDispatch.eventRoom {s t : State} (h : SameDispatch s t) (die : Nat) : t.eventRoom die = s.eventRoom die := by
  obtain ⟨hd, -⟩ := h
  simp only [State.eventRoom, hd]

/-- What ENDED and FAILED instances share: the cores go, its entry is replaced, its event stands in the queue, the graph
settles, and the dispatchers look again. -/
theorem devents_letGo {s u v : State} {k : Nat} {j : Inst} {die n : Nat} {failed : Bool} (hu : SameDispatch s u)
    (hv : SameDispatch (((u.setInst k j).appendEvent die failed k).settleGraph n) v) :
    (v.kick.die die).devents = (s.die die).devents ++ [(failed, BitVec.ofNat 48 k)] := by
  obtain ⟨hdies, -⟩ := sameSettled_kick v
  obtain ⟨hd, -⟩ := (sameDispatch_settleGraph ((u.setInst k j).appendEvent die failed k) n).trans hv
  obtain ⟨hud, -⟩ := hu
  rw [die_congr hdies, hd, devents_appendEvent]
  exact congrArg (· ++ _) (hud die)

theorem find_letGo {u v : State} {k : Nat} {j : Inst} {die n : Nat} {failed : Bool}
    (hv : SameDispatch (((u.setInst k j).appendEvent die failed k).settleGraph n) v) (hp : j.st ≠ .pending)
    (he : j.st ≠ .early) : Map.find v.kick.insts k = some j := by
  obtain ⟨-, -, hinsts⟩ := sameSettled_kick v
  obtain ⟨-, hi, -⟩ := (sameDispatch_settleGraph ((u.setInst k j).appendEvent die failed k) n).trans hv
  refine hinsts k j ?_ hp he
  rw [hi, insts_appendEvent]
  exact Map.find_insert_self ..

theorem endInst_of_find {s : State} {k : Nat} {i : Inst} {r : Rect} (hk : Map.find s.insts k = some i)
    (hr : i.rect = some r) : s.endInst k =
      if i.st = .ending && (s.membersOf i).all (fun e => i.membersEnded.contains e.1) && s.eventRoom r.die then
        ((((s.freeCores k).setInst k { i with st := .ended, signalled := true, rect := none, released := true }).appendEvent
          r.die false k).settleGraph i.graph).kick
      else s := by
  unfold endInst
  simp only [hk, hr]

/-- Instances whose members have all ended end (R300, R302). -/
theorem endInst_ends {s : State} {k : Nat} {i : Inst} {r : Rect} (hk : Map.find s.insts k = some i)
    (hr : i.rect = some r) (hst : i.st = .ending) (hm : ∀ e ∈ s.membersOf i, e.1 ∈ i.membersEnded)
    (hroom : s.eventRoom r.die = true) :
    ((s.endInst k).die r.die).devents = (s.die r.die).devents ++ [(false, BitVec.ofNat 48 k)] ∧
      ∃ j, Map.find (s.endInst k).insts k = some j ∧ j.st = .ended ∧ j.rect = none := by
  rw [endInst_of_find hk hr, if_pos (by simpa [hst, hroom] using hm)]
  exact ⟨devents_letGo (sameDispatch_freeCores s k) (.refl _), _, find_letGo (.refl _) (by simp) (by simp), rfl, rfl⟩

theorem endInst_waits {s : State} {k : Nat} {i : Inst} {r : Rect} (hk : Map.find s.insts k = some i)
    (hr : i.rect = some r) (hroom : s.eventRoom r.die = false) : s.endInst k = s := by
  rw [endInst_of_find hk hr, if_neg (by simp [hroom])]

/-! ### Failed instances stop -/

/-- The stop of one core of those that failed instances hold (R376). -/
def stopCore (s : State) (c : Nat) : State :=
  let s := (List.range 4).foldl (fun s tid => s.abandon c (parkedOf (s.thread c tid))) s
  let s := (s.core c).streams.foldl (fun s e => s.abandon c e.2.parked) s
  let s := s.discardEngines c
  let s := s.setCore c { s.core c with streams := [] }
  (List.range 4).foldl (fun s tid => s.setThread c tid { s.thread c tid with
    running := false, wait := none, op := none, parked := none, forest := none, pending := none, fetched := none,
    inPhase := false, owes := false, pathSince := none }) s

theorem stopFailed_eq (s : State) (k : Nat) (i : Inst) (r : Rect) : s.stopFailed k i r =
    let u := (s.coresHeld k).foldl stopCore s
    if u.eventRoom r.die then
      let v := (((u.freeCores k).setInst k { i with rect := none, ctx := none, released := true }).appendEvent
        r.die true k).settleGraph i.graph
      (if i.restart.isSome then v.enqueue (.restartApply k) else v).kick
    else u := rfl

theorem sameDispatch_stopCore (s : State) (c : Nat) : SameDispatch s (s.stopCore c) := by
  unfold stopCore
  refine .trans (.trans (.trans (.trans (.foldl (fun u tid => ?_) _ s) (.foldl (fun u e => ?_) _ _))
    (sameDispatch_discardEngines ..)) (sameDispatch_setCore ..)) (.foldl (fun u tid => ?_) _ _)
  · exact sameDispatch_abandon ..
  · exact sameDispatch_abandon ..
  · exact sameDispatch_setThread ..

/-- Failed instances that have stopped let their cores go once the event has room (R376, R300). -/
theorem stopFailed_letsGo {s : State} (k : Nat) (i : Inst) {r : Rect} (hroom : s.eventRoom r.die = true) :
    ((s.stopFailed k i r).die r.die).devents = (s.die r.die).devents ++ [(true, BitVec.ofNat 48 k)] ∧
      (i.st = .failed →
        ∃ j, Map.find (s.stopFailed k i r).insts k = some j ∧ j.st = .failed ∧ j.rect = none ∧ j.released = true) := by
  have hu : SameDispatch s ((s.coresHeld k).foldl stopCore s) := .foldl sameDispatch_stopCore _ s
  have hrestart (v : State) : SameDispatch v (if i.restart.isSome then v.enqueue (.restartApply k) else v) := by
    split
    · exact sameDispatch_enqueue ..
    · exact .refl v
  rw [stopFailed_eq]
  dsimp only
  rw [if_pos ((hu.eventRoom r.die).trans hroom)]
  exact ⟨devents_letGo (hu.trans (sameDispatch_freeCores _ k)) (hrestart _),
    fun hst => ⟨_, find_letGo (hrestart _) (by simp [hst]) (by simp [hst]), hst, rfl, rfl⟩⟩

/-- Instances that hold cores fail with their rectangle (R376), and the graphs stay as they are. -/
theorem failInstance_of_holdsCores {s : State} {k : Nat} {i : Inst} (hk : Map.find s.insts k = some i)
    (hst : holdsCores i.st = true) :
    s.failInstance k = (s.setInst k { i with st := .failed, released := false }).enqueue (.instanceFail k) := by
  have hne : ¬ ((i.st = .ended || i.st = .failed) = true) := by
    intro h
    cases hi : i.st <;> simp [hi, holdsCores] at h hst
  simp only [failInstance, hk]
  rw [if_neg (by simpa using hne), if_pos hst]

theorem graphs_failInstance (s : State) (k : Nat) : (s.failInstance k).graphs = s.graphs := by
  unfold failInstance
  split
  · rfl
  · split_ifs <;> rfl

/-! ### A task fails for good -/

/-- A task of a graph has failed for good (R319). -/
def TaskFailed (s : State) (n k : Nat) : Prop :=
  ∃ g t, Map.find s.graphs n = some g ∧ g.tasks[k]? = some t ∧ t.failed = true

theorem TaskFailed.congr {s t : State} {n k : Nat} (h : TaskFailed s n k) (hg : t.graphs = s.graphs) : TaskFailed t n k := by
  rwa [TaskFailed, hg]

/-- A task of the graph marked failed. -/
def markFailed (s : State) (n k : Nat) (g : Graph) (t : Task) : State :=
  { s with graphs := Map.insert s.graphs n { g with tasks := g.tasks.set k { t with failed := true } } }

theorem taskFailed_markFailed (s : State) {n k : Nat} {g : Graph} {t : Task} (ht : g.tasks[k]? = some t) :
    TaskFailed (s.markFailed n k g t) n k := by
  obtain ⟨hlt, -⟩ := List.getElem?_eq_some_iff.1 ht
  exact ⟨_, _, Map.find_insert_self .., by rw [List.getElem?_set_self hlt], rfl⟩

/-- Marking another task leaves a failed one failed. -/
theorem TaskFailed.markFailed {s : State} {n k : Nat} (h : TaskFailed s n k) {j : Nat} {g : Graph} {t : Task}
    (hg : Map.find s.graphs n = some g) (ht : g.tasks[j]? = some t) : TaskFailed (s.markFailed n j g t) n k := by
  by_cases hjk : j = k
  · subst hjk
    exact taskFailed_markFailed s ht
  · obtain ⟨g', u, hg', hu, hfailed⟩ := h
    obtain rfl : g = g' := Option.some.inj (hg.symm.trans hg')
    exact ⟨_, u, Map.find_insert_self .., by rw [List.getElem?_set_ne hjk, hu], hfailed⟩

theorem graphs_failInstances (l : List (Nat × Inst)) (s : State) :
    (l.foldl (fun s e => s.failInstance e.1) s).graphs = s.graphs :=
  List.foldlRecOn l _ (motive := fun u => u.graphs = s.graphs) rfl fun u hu e _ => (graphs_failInstance u e.1).trans hu

/-- The failure spreads to tasks that depend on failed ones, and recovers none. -/
theorem TaskFailed.spreadFailure {s : State} {n k : Nat} (h : TaskFailed s n k) (l : List Nat) :
    TaskFailed (s.spreadFailure n l) n k := by
  induction l generalizing s with
  | nil => exact h
  | cons j r ih =>
    unfold State.spreadFailure
    cases hg : Map.find s.graphs n with
    | none => exact h
    | some g =>
      cases ht : g.tasks[j]? with
      | none =>
        simp only [ht]
        exact ih h
      | some t =>
        simp only [ht]
        split_ifs
        · exact ih ((h.markFailed hg ht).congr (graphs_failInstances ..))
        · exact ih h

theorem taskFailed_failTask {s : State} {n k : Nat} {g : Graph} {t : Task} (hg : Map.find s.graphs n = some g)
    (ht : g.tasks[k]? = some t) : TaskFailed (s.failTask n k) n k := by
  simp only [failTask, hg, ht]
  have hspread := (taskFailed_markFailed s ht (n := n)).spreadFailure (List.range g.tasks.length)
  obtain ⟨-, -, hsettle⟩ := sameDispatch_settleGraph ((s.markFailed n k g t).spreadFailure n (List.range g.tasks.length)) n
  obtain ⟨-, hkick, -⟩ := sameSettled_kick (((s.markFailed n k g t).spreadFailure n (List.range g.tasks.length)).settleGraph n)
  exact hspread.congr (hkick.trans hsettle)

/-! ### A restart -/

theorem applyRestart_ready {s : State} {i : Inst} (h : ∀ t, s.taskOf i = some t → t.failed = false) (k : Nat) :
    ∃ j, Map.find (s.applyRestart k i false).insts k = some j ∧ j.st = .ready ∧ j.restart = none ∧ j.ctx = none := by
  have hany : (s.taskOf i).any (·.failed) = false := by
    cases ht : s.taskOf i with
    | none => rfl
    | some t => simpa using h t ht
  simp only [applyRestart, hany, Bool.false_eq_true, if_false]
  obtain ⟨-, -, hinsts⟩ := sameSettled_kick { s.setInst k { i with
    st := .ready, restart := none, entry := s.stamp, bypass := 0, stuckAt := none, ctx := none, predsDone := true } with
      stamp := s.stamp + 1 }
  exact ⟨_, hinsts k _ (Map.find_insert_self ..) (by simp) (by simp), rfl, rfl, rfl⟩

theorem applyRestart_stays {s : State} {i : Inst} {t : Task} (ht : s.taskOf i = some t) (hf : t.failed = true) (k : Nat) :
    s.applyRestart k i false = s.setInst k { i with restart := none } := by
  simp [applyRestart, ht, hf]

/-- FAIL 1 fails the task for good (R319, R352). -/
theorem applyRestart_fails (s : State) (k : Nat) (i : Inst) {g : Graph} {t : Task} (hg : Map.find s.graphs i.graph = some g)
    (ht : g.tasks[i.task]? = some t) : TaskFailed (s.applyRestart k i true) i.graph i.task :=
  taskFailed_failTask (s := s.setInst k { i with restart := none }) hg ht

theorem wbits_zero (x : Word) (n : Nat) : wbits x 0 n = x.toNat % 2 ^ n := by simp [wbits, bits]

theorem writeRestart_of_find {s : State} {x : Word} {i : Inst} (hi : Map.find s.insts (x.toNat % 2 ^ 48) = some i) :
    s.writeRestart x =
      if i.st ≠ .failed then s
      else if i.released then s.applyRestart (x.toNat % 2 ^ 48) i (x.getLsbD 63)
      else s.setInst (x.toNat % 2 ^ 48) { i with restart := some (x.getLsbD 63) } := by
  rw [← wbits_zero] at hi ⊢
  simp only [writeRestart, hi]

/-- A write of RESTART that names none of the failed instances does nothing (R352). -/
theorem writeRestart_idle {s : State} {x : Word}
    (h : ∀ i, Map.find s.insts (x.toNat % 2 ^ 48) = some i → i.st ≠ .failed) : s.writeRestart x = s := by
  cases hi : Map.find s.insts (x.toNat % 2 ^ 48) with
  | none =>
    rw [← wbits_zero] at hi
    simp only [writeRestart, hi]
  | some i => rw [writeRestart_of_find hi, if_pos (h i hi)]

theorem writeDfail_of_find {s : State} {x : Word} {i : Inst} (hi : Map.find s.insts (x.toNat % 2 ^ 48) = some i) :
    s.writeDfail x = if holdsCores i.st then (s.failInstance (x.toNat % 2 ^ 48)).kick else s := by
  rw [← wbits_zero] at hi ⊢
  simp only [writeDfail, hi]

theorem writeDfail_idle {s : State} {x : Word}
    (h : ∀ i, Map.find s.insts (x.toNat % 2 ^ 48) = some i → holdsCores i.st = false) : s.writeDfail x = s := by
  cases hi : Map.find s.insts (x.toNat % 2 ^ 48) with
  | none =>
    rw [← wbits_zero] at hi
    simp only [writeDfail, hi]
  | some i => rw [writeDfail_of_find hi, h i hi, if_neg Bool.false_ne_true]

theorem writeDfail_fails {s : State} {x : Word} {i : Inst} (hi : Map.find s.insts (x.toNat % 2 ^ 48) = some i)
    (hst : holdsCores i.st = true) :
    ∃ j, Map.find (s.writeDfail x).insts (x.toNat % 2 ^ 48) = some j ∧ j.st = .failed ∧ j.rect = i.rect := by
  rw [writeDfail_of_find hi, if_pos hst, failInstance_of_holdsCores hi hst]
  obtain ⟨-, -, hinsts⟩ := sameSettled_kick
    ((s.setInst (x.toNat % 2 ^ 48) { i with st := .failed, released := false }).enqueue (.instanceFail (x.toNat % 2 ^ 48)))
  exact ⟨_, hinsts _ _ (Map.find_insert_self ..) (by simp) (by simp), rfl, rfl⟩

/-! ### DEVENT -/

theorem readDevent_nil {s : State} {die : Nat} (h : (s.die die).devents = []) : s.readDevent die = (0, s) := by
  simp only [readDevent, h]

/-- A read takes the oldest event out of the queue, and lets look again what waited for room (R300). -/
theorem readDevent_cons {s : State} {die : Nat} {f : Bool} {id : BitVec 48} {rest : List (Bool × BitVec 48)}
    (h : (s.die die).devents = (f, id) :: rest) :
    (s.readDevent die).1 = BitVec.ofNat 64 (2 ^ 63 + (if f then 2 ^ 62 else 0) + id.toNat) ∧
      ((s.readDevent die).2.die die).devents = rest := by
  refine ⟨by simp only [readDevent, h], ?_⟩
  simp only [readDevent, h]
  have hsame (u : State) (e : Nat × Inst) : SameDispatch u (
      if e.2.st = .failed && !e.2.released then u.enqueue (.instanceFail e.1)
      else if e.2.st = .ending then (u.membersOf e.2).foldl (fun s m => s.enqueue (.memberEnd e.1 m.1)) u
      else u) := by
    split_ifs
    · exact sameDispatch_enqueue ..
    · exact .foldl (fun v m => sameDispatch_enqueue ..) _ u
    · exact .refl u
  obtain ⟨hd, -⟩ := SameDispatch.foldl hsame (s.setDie die { s.die die with devents := rest }).insts
    (s.setDie die { s.die die with devents := rest })
  exact (hd die).trans (by rw [die_setDie, if_pos rfl])

/-! ### Members -/

/-- Each member has one core. -/
theorem find?_membersOf {s : State} {i : Inst} {m c : Nat} (h : (m, c) ∈ s.membersOf i) :
    (s.membersOf i).find? (fun e => e.1 = m) = some (m, c) := by
  have hcore (e e' : Nat × Nat) (he : e ∈ s.membersOf i) (he' : e' ∈ s.membersOf i) (h1 : e.1 = e'.1) : e = e' := by
    unfold membersOf at he he'
    split at he
    · simp only [*] at he'
      obtain ⟨a, -, rfl⟩ := List.mem_map.1 he
      obtain ⟨b, -, rfl⟩ := List.mem_map.1 he'
      obtain rfl : a = b := h1
      rfl
    · cases he
  cases hfind : (s.membersOf i).find? fun e => e.1 = m with
  | none => exact absurd (decide_eq_true rfl) (List.find?_eq_none.1 hfind (m, c) h)
  | some e =>
    have hm : e.1 = m := by simpa using List.find?_some hfind
    rw [hcore e (m, c) (List.mem_of_find?_eq_some hfind) h hm]

end Sys2Proof.Machine.State

namespace Sys2Proof.Machine

/-! ### The events -/

theorem exec_memberEnd {s : State} {k m c : Nat} {i : Inst} (hk : Map.find s.insts k = some i)
    (h : (m, c) ∈ s.membersOf i) : exec (.memberEnd k m) s = .next
      (if (i.st = .resident ∨ i.st = .ending) ∧ s.memberDrained c = true then
        (s.setInst k { i with membersEnded := setInsert i.membersEnded m }).endInst k else s) := by
  show execMemberEnd k m s = _
  simp only [execMemberEnd, hk, State.find?_membersOf h, Bool.and_eq_true, Bool.or_eq_true, decide_eq_true_eq]
  exact (apply_ite _ _ _ _).symm

theorem exec_instanceFail {s : State} {k : Nat} {i : Inst} {r : Rect} (hk : Map.find s.insts k = some i)
    (hr : i.rect = some r) : exec (.instanceFail k) s = .next
      (if i.st = .failed ∧ i.released = false then s.stopFailed k i r else s) := by
  show execInstanceFail k s = _
  simp only [execInstanceFail, hk, hr, Bool.and_eq_true, Bool.not_eq_true', decide_eq_true_eq]

theorem exec_restartApply_of_none {s : State} {k : Nat} {i : Inst} (hk : Map.find s.insts k = some i)
    (hr : i.restart = none) : exec (.restartApply k) s = .next s := by
  show execRestartApply k s = _
  simp only [execRestartApply, hk, hr]

theorem exec_restartApply_of_some {s : State} {k : Nat} {i : Inst} {f : Bool} (hk : Map.find s.insts k = some i)
    (hr : i.restart = some f) (hst : i.st = .failed) (hrel : i.released = true) :
    exec (.restartApply k) s = .next (s.applyRestart k i f) := by
  show execRestartApply k s = _
  simp [execRestartApply, hk, hr, hst, hrel]

/-- A service-register write that a thread waits in, by its three cases (R253, R324). -/
theorem completeWrite_cases (s : State) (core tid die : Nat) (e : Instr) (f : State → State) :
    ((s.thread core tid).op = some e → s.hasPath (dieOf core) die = true → s.completeWrite core tid die e f =
        .next ((s.within core tid fun u => ((f u).numberAtOnce core die).retire).afterLeaving core tid)) ∧
      ((s.thread core tid).op ≠ some e → s.completeWrite core tid die e f = .next s) ∧
      ((s.thread core tid).op = some e → s.hasPath (dieOf core) die = false →
        s.completeWrite core tid die e f = .next (s.within core tid (·.waitsPath die))) := by
  unfold State.completeWrite
  refine ⟨fun h hp => ?_, fun h => if_pos h, fun h hp => ?_⟩
  · rw [if_neg (not_not.2 h), hp]
    rfl
  · rw [if_neg (not_not.2 h), hp]
    rfl

end Sys2Proof.Machine

open Sys2Proof Sys2Proof.Machine Sys2Proof.Safety

/-- Settles O48: the events by their conditions; what ends, fails or restarts by what its last steps leave of its entry,
of its graph and of the DEVENT queue. -/
theorem instanceEndsFailsRestarts : Obligations.InstanceEndsFailsRestarts := by
  unfold Obligations.InstanceEndsFailsRestarts
  refine ⟨fun s k i hk => ?instances, fun s core tid die x => ?registers⟩
  case instances =>
    refine ⟨fun m c h => exec_memberEnd hk h, fun r hr => ⟨fun hst hm => ?_, exec_instanceFail hk hr,
      State.stopFailed_letsGo k i⟩, exec_restartApply_of_none hk, fun f hr hst hrel => exec_restartApply_of_some hk hr hst hrel,
      fun h => State.applyRestart_ready h k, fun t ht hf => State.applyRestart_stays ht hf k, fun g t hg ht => ?_⟩
    · exact ⟨State.endInst_waits hk hr, State.endInst_ends hk hr hst hm⟩
    · obtain ⟨g', t', hg', ht', hf⟩ := State.applyRestart_fails s k i hg ht
      exact ⟨g', t', hg', ht', hf⟩
  case registers =>
    refine ⟨?_, State.writeRestart_idle, fun i hi hst hrel => ?_, State.writeDfail_idle,
      fun i hi hst => State.writeDfail_fails hi hst, fun h => ?_, State.readDevent_nil,
      fun f id rest h => State.readDevent_cons h⟩
    · refine List.forall_iff_forall_mem.1 ⟨?_, ?_, ?_⟩
      · exact completeWrite_cases ..
      · exact completeWrite_cases ..
      · exact completeWrite_cases ..
    · rw [State.writeRestart_of_find hi, if_neg (not_not.2 hst), if_neg (by simp [hrel])]
    · show execDeventRead core tid die s = _
      exact if_pos h

end

/-! PROOFS. Lanes of vector registers (R101): what a register holds that is made of lanes, what a form writes of vd and of
VSTAT, what a comparison writes of its predicate (R115), and the frame of the forms. -/

section
namespace Sys2Proof.Machine

/-! ### Lanes of a register -/

theorem testBit_lane {n : Nat} (x : BitVec n) (w i j : Nat) :
    (lane x w i).testBit j = (decide (j < w) && x.getLsbD (w * i + j)) := by
  rw [lane, BitVec.testBit_toNat, BitVec.getLsbD_extractLsb']

theorem lane_lt {n : Nat} (x : BitVec n) (w i : Nat) : lane x w i < 2 ^ w := (x.extractLsb' (w * i) w).isLt

/-- The register made of lanes holds them, each reduced to its width (R2). -/
theorem lane_packLanes {w : Nat} (l : List Nat) {i : Nat} (h : w * (i + 1) ≤ 1024) :
    lane (packLanes w l) w i = l.getD i 0 % 2 ^ w := by
  induction l generalizing i with
  | nil => simp [packLanes, lane]
  | cons x r ih =>
    refine Nat.eq_of_testBit_eq fun j => ?_
    rw [testBit_lane, Nat.testBit_mod_two_pow, packLanes, BitVec.getLsbD_or, BitVec.getLsbD_shiftLeft, BitVec.getLsbD_ofNat,
      Nat.testBit_mod_two_pow]
    by_cases hj : j < w
    · cases i with
      | zero =>
        have : j < 1024 := by omega
        simp [hj, this]
      | succ i =>
        have hle : w * (i + 1) ≤ 1024 := by rw [Nat.mul_add_one] at h; omega
        have hbit := congrArg (Nat.testBit · j) (ih hle)
        simp only [testBit_lane, Nat.testBit_mod_two_pow, hj, decide_true, Bool.true_and] at hbit
        have hin : w * (i + 1) + j < 1024 := by rw [Nat.mul_add_one] at h; omega
        have hsub : w * (i + 1) + j - w = w * i + j := by rw [Nat.mul_add_one]; omega
        have hge : ¬ w * (i + 1) + j < w := by rw [Nat.mul_add_one]; omega
        simp [hj, hin, hsub, hge, hbit]
    · simp [hj]

/-- A lane of an element width lies in the register. -/
theorem lane_end_le {w i : Nat} (hi : i < 1024 / w) : w * (i + 1) ≤ 1024 :=
  (Nat.mul_le_mul_left w hi).trans (Nat.mul_div_le 1024 w)

theorem getD_map_range {α : Type} (f : Nat → α) {n i : Nat} (hi : i < n) (x : α) :
    ((List.range n).map f).getD i x = f i := by
  simp [hi]

/-- A register whose lanes a function of their number gives. -/
theorem lane_packLanes_map_range {w : Nat} (f : Nat → Nat) {i : Nat} (hi : i < 1024 / w) :
    lane (packLanes w ((List.range (1024 / w)).map f)) w i = f i % 2 ^ w := by
  rw [lane_packLanes _ (lane_end_le hi), getD_map_range f hi]

/-! ### Flags of VSTAT -/

theorem vstat_none : ({} : Flags).vstat = 0 := rfl

theorem ite_or (a b : Bool) (x : BitVec 6) :
    (if a || b then x else 0) = (if a then x else 0) ||| (if b then x else 0) := by
  cases a <;> cases b <;> simp

theorem vstat_mk (i o u x z n : Bool) : (Flags.mk i o u x z n).vstat = (if i then 1 else 0) ||| (if o then 2 else 0) |||
    (if u then 4 else 0) ||| (if x then 8 else 0) ||| (if n then 32 else 0) := rfl

theorem vstat_or (a b : Flags) : (a.or b).vstat = a.vstat ||| b.vstat := by
  cases a
  cases b
  rw [Flags.or]
  simp only [vstat_mk, ite_or]
  ac_rfl

/-- The flags that a form raises over its lanes. -/
def joinFlags {α : Type} (l : List (α × Flags)) : Flags := l.foldl (fun a x => a.or x.2) {}

/-- The lanes raise a flag together if one of them does. -/
theorem getLsbD_vstat_joinFlags {α : Type} (l : List (α × Flags)) (k : Nat) :
    (joinFlags l).vstat.getLsbD k = l.any fun x => x.2.vstat.getLsbD k := by
  have step (f : Flags) : (l.foldl (fun a x => a.or x.2) f).vstat.getLsbD k =
      (f.vstat.getLsbD k || l.any fun x => x.2.vstat.getLsbD k) := by
    induction l generalizing f with
    | nil => simp
    | cons x r ih => rw [List.foldl_cons, ih, vstat_or, BitVec.getLsbD_or, List.any_cons, Bool.or_assoc]
  rw [joinFlags, step, vstat_none]
  simp

namespace State

/-! ### Flags, and the frame of a form that writes v registers -/

@[simp] theorem me_raiseV (s : State) (f : Flags) : (s.raiseV f).me = { s.me with vstat := s.me.vstat ||| f.vstat } := by
  simp [raiseV, raiseVAt, me, meKey, setThreadAt, threadAt]

@[simp] theorem v_raiseV (s : State) (f : Flags) (r : Reg) : (s.raiseV f).v r = s.v r := by simp [v]
@[simp] theorem meKey_setV (s : State) (r : Reg) (x : VReg) : (s.setV r x).meKey = s.meKey := rfl

theorem v_setMe (s : State) (t : Thread) (r : Reg) : (s.setMe t).v r = t.v[r.toNat] := by simp [v]

/-- The word in hand changes v registers of a list and flags of VSTAT, and has not retired yet: no other register, no
other thread and no byte of memory. -/
def KeepsButV (ds : List Reg) (s t : State) : Prop :=
  (∀ r, r ∉ ds → t.v r = s.v r) ∧ (∀ r, t.g r = s.g r) ∧ (∀ r, t.p r = s.p r) ∧ t.me.fstat = s.me.fstat ∧
    (∀ k, k ≠ s.meKey → t.threadAt k = s.threadAt k) ∧ (∀ y, t.memByte y = s.memByte y) ∧
    t.me.pc = s.me.pc ∧ t.me.instret = s.me.instret ∧ t.meKey = s.meKey

theorem KeepsButV.trans {ds : List Reg} {s t u : State} (h : KeepsButV ds s t) (k : KeepsButV ds t u) :
    KeepsButV ds s u := by
  obtain ⟨hv, hg, hp, hf, hother, hmem, hpc, hi, hkey⟩ := h
  obtain ⟨kv, kg, kp, kf, kother, kmem, kpc, ki, kkey⟩ := k
  exact ⟨fun r hr => (kv r hr).trans (hv r hr), fun r => (kg r).trans (hg r), fun r => (kp r).trans (hp r), kf.trans hf,
    fun j hj => (kother j (hkey ▸ hj)).trans (hother j hj), fun y => (kmem y).trans (hmem y), kpc.trans hpc, ki.trans hi,
    kkey.trans hkey⟩

theorem keepsButV_setMe {ds : List Reg} {s : State} {t : Thread} (hv : ∀ r : Reg, r ∉ ds → t.v[r.toNat] = s.me.v[r.toNat])
    (hg : t.g = s.me.g) (hp : t.p = s.me.p) (hf : t.fstat = s.me.fstat) (hpc : t.pc = s.me.pc)
    (hi : t.instret = s.me.instret) : KeepsButV ds s (s.setMe t) :=
  ⟨fun r hr => (s.v_setMe t r).trans (hv r hr), fun r => by simp [g, hg], fun r => by simp [p, hp], by simpa using hf,
    fun k hk => by rw [threadAt_setMe, if_neg hk], fun _ => rfl, by simpa using hpc, by simpa using hi, rfl⟩

theorem keepsButV_raiseV (ds : List Reg) (s : State) (f : Flags) : KeepsButV ds s (s.raiseV f) :=
  keepsButV_setMe (fun _ _ => rfl) rfl rfl rfl rfl rfl

theorem keepsButV_setV {ds : List Reg} (s : State) {d : Reg} (hd : d ∈ ds) (x : VReg) : KeepsButV ds s (s.setV d x) :=
  keepsButV_setMe (fun r hr => Vector.getElem_set_ne d.isLt r.isLt fun e => hr (BitVec.eq_of_toNat_eq e ▸ hd))
    rfl rfl rfl rfl rfl

/-! ### Writing lanes -/

/-- What lane i of vd comes to: the form's value and flags where it is active, what it holds where not (R101). -/
def laneResult (s : State) (d : Reg) (m : BitVec 3) (w : Nat) (f : Nat → Nat × Flags) (i : Nat) : Nat × Flags :=
  if activeLane (s.p m) w i then f i else (lane (s.v d) w i, {})

theorem putLanes_eq (s : State) (d : Reg) (m : BitVec 3) (w : Nat) (f : Nat → Nat × Flags) : s.putLanes d m w f =
    (s.raiseV (joinFlags ((List.range (1024 / w)).map (s.laneResult d m w f)))).setV d
      (packLanes w (((List.range (1024 / w)).map (s.laneResult d m w f)).map (·.1))) := rfl

/-- An active lane holds its value, an inactive one is unchanged (R101). -/
theorem lane_putLanes (s : State) (d : Reg) (m : BitVec 3) {w : Nat} (f : Nat → Nat × Flags) {i : Nat} (hi : i < 1024 / w) :
    lane ((s.putLanes d m w f).v d) w i = if activeLane (s.p m) w i then (f i).1 % 2 ^ w else lane (s.v d) w i := by
  rw [putLanes_eq, v_setV, if_pos rfl, List.map_map, lane_packLanes_map_range _ hi, Function.comp, laneResult]
  split
  · rfl
  · exact Nat.mod_eq_of_lt (lane_lt ..)

/-- VSTAT gains the flags of the active lanes, and keeps its own (R101, R17). -/
theorem vstat_putLanes (s : State) (d : Reg) (m : BitVec 3) (w : Nat) (f : Nat → Nat × Flags) (k : Nat) :
    (s.putLanes d m w f).me.vstat.getLsbD k = (s.me.vstat.getLsbD k ||
      (List.range (1024 / w)).any fun i => activeLane (s.p m) w i && (f i).2.vstat.getLsbD k) := by
  rw [putLanes_eq, me_setV, me_raiseV, BitVec.getLsbD_or, getLsbD_vstat_joinFlags, List.any_map]
  congr 2
  funext i
  simp only [Function.comp, laneResult]
  split <;> simp [*, vstat_none]

theorem keepsButV_putLanes (s : State) (d : Reg) (m : BitVec 3) (w : Nat) (f : Nat → Nat × Flags) :
    KeepsButV [d] s (s.putLanes d m w f) :=
  (keepsButV_raiseV ..).trans (keepsButV_setV _ List.mem_cons_self _)

end State

/-! ### Writing a predicate -/

theorem sum_ite_two_pow_lt (f : Nat → Bool) (n : Nat) :
    ((List.range n).map fun i => if f i then 2 ^ i else 0).sum < 2 ^ n := by
  induction n with
  | zero => simp
  | succ n ih =>
    have hterm : (if f n then 2 ^ n else 0) ≤ 2 ^ n := by split <;> simp
    rw [List.range_succ, List.map_append, List.sum_append, List.map_singleton, List.sum_singleton, Nat.pow_succ]
    omega

/-- The bits of a sum of distinct powers of two. -/
theorem testBit_sum_ite_two_pow (f : Nat → Bool) {n k : Nat} (hk : k < n) :
    ((List.range n).map fun i => if f i then 2 ^ i else 0).sum.testBit k = f k := by
  induction n with
  | zero => omega
  | succ n ih =>
    have hlt := sum_ite_two_pow_lt f n
    rw [List.range_succ, List.map_append, List.sum_append, List.map_singleton, List.sum_singleton, Nat.add_comm]
    rcases Nat.lt_succ_iff_lt_or_eq.1 hk with hk | rfl
    · split
      · rw [Nat.testBit_two_pow_add_gt hk, ih hk]
      · rw [Nat.zero_add, ih hk]
    · split
      next h => rw [Nat.testBit_two_pow_add_eq, Nat.testBit_lt_two_pow hlt, h, Bool.not_false]
      next h => rw [Nat.zero_add, Nat.testBit_lt_two_pow hlt, Bool.eq_false_of_not_eq_true h]

/-- A predicate holds, in every bit of the bytes of an element, what the element gives (R115). -/
theorem getLsbD_predOf (w : Nat) (f : Nat → Bool) {k : Nat} (hk : k < 128) :
    (predOf w f).getLsbD k = f (8 * k / w) := by
  rw [predOf, BitVec.getLsbD_ofNat, testBit_sum_ite_two_pow (fun k => f (8 * k / w)) hk]
  simp [hk]

theorem typeWidth_mem (t : BitVec 3) : typeWidth t ∈ [4, 8, 16, 32] := by
  revert t
  decide

/-- The element of a predicate bit. -/
theorem element_lt {w k : Nat} (hw : w ∈ [4, 8, 16, 32]) (hk : k < 128) : 8 * k / w < 1024 / w := by
  simp only [List.mem_cons, List.not_mem_nil, or_false] at hw
  rcases hw with rfl | rfl | rfl | rfl <;> omega

namespace State

/-- What a comparison gives element i: its result and flags where it is active, 0 where not (R115). -/
def compareResult (s : State) (a b : Reg) (m t : BitVec 3) (f : Nat → Nat → Bool × Flags) (i : Nat) : Bool × Flags :=
  if activeLane (s.p m) (typeWidth t) i then f (lane (s.v a) (typeWidth t) i) (lane (s.v b) (typeWidth t) i) else (false, {})

theorem compareLanes_eq (s : State) (d a b : Reg) (m t : BitVec 3) (f : Nat → Nat → Bool × Flags) :
    s.compareLanes d a b m t f =
      (s.raiseV (joinFlags ((List.range (1024 / typeWidth t)).map (s.compareResult a b m t f)))).setP (predReg d)
        (predOf (typeWidth t) fun i =>
          (((List.range (1024 / typeWidth t)).map (s.compareResult a b m t f)).getD i (false, {})).1) := rfl

/-- Writing a predicate sets the one register of the thread. -/
theorem setP_eq_setMe (s : State) {r : BitVec 3} (hr : r ≠ 0) (x : Pred) :
    s.setP r x = s.setMe { s.me with p := s.me.p.set r.toNat x } := if_neg hr

/-- Every bit of the bytes of an element holds the element's result if it is active, and 0 if not (R115). -/
theorem getLsbD_compareLanes (s : State) {d : Reg} (hd : predReg d ≠ 0) (a b : Reg) (m t : BitVec 3)
    (f : Nat → Nat → Bool × Flags) {k : Nat} (hk : k < 128) :
    ((s.compareLanes d a b m t f).p (predReg d)).getLsbD k = (s.compareResult a b m t f (8 * k / typeWidth t)).1 := by
  rw [compareLanes_eq, p_setP, if_pos ⟨rfl, hd⟩, getLsbD_predOf _ _ hk, getD_map_range _ (element_lt (typeWidth_mem t) hk)]

theorem compareResult_fst (s : State) (a b : Reg) (m t : BitVec 3) (f : Nat → Nat → Bool × Flags) (i : Nat) :
    (s.compareResult a b m t f i).1 = (activeLane (s.p m) (typeWidth t) i &&
      (f (lane (s.v a) (typeWidth t) i) (lane (s.v b) (typeWidth t) i)).1) := by
  unfold compareResult
  split <;> simp [*]

end State

end Sys2Proof.Machine

open Sys2Proof Sys2Proof.Machine

/-- Settles O36: the lanes, the flags and the frame of a write of lanes; the bits and the frame of a comparison. -/
theorem laneWrites : Obligations.LaneWrites := by
  unfold Obligations.LaneWrites
  intro s d a b m t w hw
  refine ⟨fun f hf => ?lanes, fun l i hi => lane_packLanes l (lane_end_le hi), fun f hd => ?predicate⟩
  case lanes =>
    intro u
    obtain ⟨hv, hg, hp, hfstat, hother, -, hpc, -⟩ := s.keepsButV_putLanes d m w f
    refine ⟨fun i hi => ?_, s.vstat_putLanes d m w f, fun r hr => hv r (by simpa using hr), hg, hp, hfstat, hpc, ⟨_, rfl⟩,
      hother⟩
    rw [s.lane_putLanes d m f hi, Nat.mod_eq_of_lt (hf i)]
  case predicate =>
    intro u e
    have hu : u = _ := s.compareLanes_eq d a b m t f
    refine ⟨fun k hk => ?_, fun r hr => ?_, fun r => ?_, fun r => ?_, ?_⟩
    · rw [s.getLsbD_compareLanes hd a b m t f hk, s.compareResult_fst]
    · rw [hu, State.p_setP, if_neg fun h => hr h.1]
      simp [State.p]
    · simp [hu, State.setP_eq_setMe _ hd, State.v]
    · simp [hu, State.setP_eq_setMe _ hd, State.g]
    · rw [hu, State.setP_eq_setMe _ hd]
      exact ⟨_, rfl⟩
end

/-! PROOFS. Issue of a vector word that nothing stands before (R104, R105), and the element forms (R113, R114, R124). -/

section
namespace Sys2Proof.Machine

open Safety

/-- Where nothing stands before vector words, each is the first in line: the matrix words still queued neither write v
registers for its thread nor read the magnitude table, which VCBLOAD would wait for. -/
theorem firstInLine_of_vectorIdle {s : State} (h : vectorIdle s) (i : Instr) : s.firstInLine i = true := by
  obtain ⟨-, -, hvq, hcap, hmq⟩ := h
  have hmat : matrixBefore s.myCore s.curTid i s.myCore.queued = false := by
    rw [matrixBefore, List.any_eq_false]
    intro e he
    obtain ⟨hv, htable⟩ := Bool.and_eq_true_iff.1 (List.all_eq_true.1 hmq e he)
    rw [Bool.not_eq_true'] at hv htable
    simp [hv, htable]
  simp [State.firstInLine, hvq, hcap, hmat]

/-- With nothing before it a vector word executes as it issues, with its g operands read now (R104). -/
theorem issueVector_of_vectorIdle {s : State} (h : vectorIdle s) (i : Instr) (ra rb : Reg) (run : Word → Word → Acc Unit) :
    issueVector i ra rb run s = finish i 6 (run (s.g ra) (s.g rb)) s := by
  obtain ⟨hentries, hdefer, -⟩ := id h
  rw [issueVector, if_neg (Nat.not_le.2 hentries), if_neg]
  simp [hdefer, firstInLine_of_vectorIdle h]

/-- A form that takes no trap then retires after its effect. -/
theorem issueVector_pureForm {s : State} (h : vectorIdle s) (i : Instr) (ra rb : Reg) (f : State → State) :
    issueVector i ra rb (pureForm f) s = .next (f s).retire := issueVector_of_vectorIdle h ..

theorem exec_of_pureForm {s : State} (h : vectorIdle s) {i : Instr} {ra rb : Reg} {f : State → State}
    (he : exec i s = issueVector i ra rb (pureForm f) s) : exec i s = .next (f s).retire :=
  he.trans (issueVector_pureForm h ..)

end Sys2Proof.Machine

open Sys2Proof Sys2Proof.Machine Sys2Proof.Safety

/-- Settles O33: each form issues an effect that takes no trap, which is its element value on the active lanes. -/
theorem vectorArithmeticForms : Obligations.VectorArithmeticForms := by
  unfold Obligations.VectorArithmeticForms
  intro s d a b m t hidle
  have form {i : Instr} {f : State → State} {o : Out} (he : exec i s = issueVector i 0 0 (pureForm f) s)
      (ho : .next (f s).retire = o) : exec i s = o := (exec_of_pureForm hidle he).trans ho
  refine ⟨?vadd, ?vsub, ?vmul, ?vfma, ?vfms, ?vmin, ?vmax, ?vabs, ?vneg, ?vdiv, ?vadds, ?vsubs, ?vmulh, ?vand, ?vor, ?vxor,
    ?vandn, ?vnot, ?vshl, ?vshr, ?vsra, ?vsqrt, ?vrcp, ?vrsqrt, ?vexp, ?vlog, ?vtanh, ?vsigm, ?vsilu, ?vgelu⟩
  all_goals exact form rfl rfl

end

/-! PROOFS. Conversions, MX and CB2 forms, reductions, the log form and VRAND (R119 to R125): the forms that write one
register by lanes are what their statement says; VQUANT, VCBLOAD, VCBDEC and VRAND by what they leave of the state. -/

section
namespace Sys2Proof.Machine

open Safety

/-- What a vector word leaves once it has retired, in the order of its statement. -/
theorem State.KeepsButV.retire {ds : List Reg} {s t : State} (h : KeepsButV ds s t) :
    Retired s t.retire ∧ (∀ r, r ∉ ds → t.retire.v r = s.v r) ∧ (∀ r, t.retire.g r = s.g r) ∧
      (∀ r, t.retire.p r = s.p r) ∧ t.retire.me.fstat = s.me.fstat ∧
      (∀ k, k ≠ s.meKey → t.retire.threadAt k = s.threadAt k) ∧ ∀ y, t.retire.memByte y = s.memByte y := by
  obtain ⟨hv, hg, hp, hf, hother, hmem, hpc, hi, hkey⟩ := h
  refine ⟨⟨?_, ?_⟩, fun r hr => ?_, fun r => ?_, fun r => ?_, ?_, fun k hk => ?_, fun y => ?_⟩
  · rw [me_retire, hpc]
  · rw [me_retire, hi]
  · rw [v_retire, hv r hr]
  · rw [g_retire, hg r]
  · rw [p_retire, hp r]
  · rw [me_retire, hf]
  · rw [threadAt_retire t k (hkey ▸ hk), hother k hk]
  · rw [memByte_congr (retire_mem t), hmem y]

/-- Lists of one length c joined: entry c·k + i is entry i of the list of element k. -/
theorem getD_flatMap {α β : Type} {f : α → List β} {c : Nat} (hf : ∀ a, (f a).length = c) (x : β) {i : Nat} (hi : i < c)
    {l : List α} {k : Nat} (hk : k < l.length) : (l.flatMap f).getD (c * k + i) x = (f l[k]).getD i x := by
  induction l generalizing k with
  | nil => simp at hk
  | cons a r ih =>
    rw [List.flatMap_cons]
    cases k with
    | zero => rw [Nat.mul_zero, Nat.zero_add, List.getD_append _ _ _ _ (hi.trans_eq (hf a).symm)]; rfl
    | succ k =>
      have hsub : c * (k + 1) + i - (f a).length = c * k + i := by rw [hf, Nat.mul_add_one]; omega
      rw [List.getD_append_right _ _ _ _ (by rw [hf, Nat.mul_add_one]; omega), hsub, ih (Nat.lt_of_succ_lt_succ hk)]
      rfl

/-! ### VQUANT -/

theorem typeWidth_ge (t : BitVec 3) : 4 ≤ typeWidth t := by
  revert t
  decide

/-- Quantised, an element is not wider than 8 bits, so its lane number is one of the codes too. -/
theorem code_lane_lt {t : BitVec 3} (ht : isF t = true) {q : Nat} (hq : q ∈ [11, 12, 13, 14, 15]) {i : Nat}
    (hi : i < 1024 / typeWidth t) : i < 1024 / formatWidth q := by
  have hw : ∀ t : BitVec 3, isF t = true → 1024 / typeWidth t ≤ 64 := by decide
  have hwq : ∀ q ∈ [11, 12, 13, 14, 15], 64 ≤ 1024 / formatWidth q := by decide
  exact hi.trans_le ((hw t ht).trans (hwq q hq))

/-- A block has one code for each element. -/
theorem length_mxQuantise (fmt : Nat) (sat : Bool) (v : List (Option Fp)) :
    (mxQuantise fmt sat v).2.1.length = v.length := by
  unfold mxQuantise
  split <;> simp

namespace State

/-- Block k of va as VQUANT takes it (R45, R120). -/
def quantBlock (s : State) (a : Reg) (m t : BitVec 3) (k : Nat) : Nat × List Nat × Flags :=
  mxQuantise s.me.vctl.qfmt.toNat s.vsat ((List.range 32).map fun i =>
    if activeLane (s.p m) (typeWidth t) (32 * k + i) then some (fpDecode t.toNat (lane (s.v a) (typeWidth t) (32 * k + i)))
    else none)

/-- The blocks that va fills. -/
def quantBlocks (s : State) (a : Reg) (m t : BitVec 3) : List (Nat × List Nat × Flags) :=
  (List.range (1024 / typeWidth t / 32)).map (s.quantBlock a m t)

/-- What VQUANT gives lane i of vd. -/
def quantCode (s : State) (d a : Reg) (m t : BitVec 3) (i : Nat) : Nat :=
  if i < 1024 / typeWidth t then ((s.quantBlocks a m t).flatMap fun q => q.2.1).getD i 0
  else lane (s.v d) (formatWidth s.me.vctl.qfmt.toNat) i

/-- What VQUANT gives byte i of vb. -/
def quantScale (s : State) (a b : Reg) (m t : BitVec 3) (i : Nat) : Nat :=
  if i < 1024 / typeWidth t / 32 then (s.quantBlock a m t i).1 else lane (s.v b) 8 i

/-- VQUANT before it retires: the flags of all blocks, then the codes, then the scales. -/
def quantise (s : State) (d a b : Reg) (m t : BitVec 3) : State :=
  ((s.raiseV ((s.quantBlocks a m t).foldl (fun f q => f.or q.2.2) {})).setV d
    (packLanes (formatWidth s.me.vctl.qfmt.toNat)
      ((List.range (1024 / formatWidth s.me.vctl.qfmt.toNat)).map (s.quantCode d a m t)))).setV b
    (packLanes 8 ((List.range (1024 / 8)).map (s.quantScale a b m t)))

theorem quantCode_block (s : State) (d a : Reg) (m t : BitVec 3) {k i : Nat} (hk : k < 1024 / typeWidth t / 32)
    (hi : i < 32) : s.quantCode d a m t (32 * k + i) = (s.quantBlock a m t k).2.1.getD i 0 := by
  have hlen (k : Nat) : (s.quantBlock a m t k).2.1.length = 32 := by simp [quantBlock, length_mxQuantise]
  rw [quantCode, if_pos (by omega), quantBlocks, List.flatMap_map, getD_flatMap hlen 0 hi (by simpa using hk),
    List.getElem_range]

/-- A byte of vb by the list of the blocks. -/
theorem quantScale_eq (s : State) (a b : Reg) (m t : BitVec 3) (i : Nat) :
    s.quantScale a b m t i = (((s.quantBlocks a m t)[i]?).map (·.1)).getD (lane (s.v b) 8 i) := by
  unfold quantScale quantBlocks
  split <;> simp [*]

theorem keepsButV_quantise (s : State) (d a b : Reg) (m t : BitVec 3) : KeepsButV [d, b] s (s.quantise d a b m t) :=
  ((keepsButV_raiseV ..).trans (keepsButV_setV _ List.mem_cons_self _)).trans
    (keepsButV_setV _ (List.mem_cons_of_mem _ List.mem_cons_self) _)

theorem vstat_quantise (s : State) (d a b : Reg) (m t : BitVec 3) {k : Nat} (h : s.me.vstat.getLsbD k = true) :
    (s.quantise d a b m t).me.vstat.getLsbD k = true := by
  simp [quantise, h]

theorem lane_quantise_code (s : State) {d b : Reg} (h : d ≠ b) (a : Reg) (m t : BitVec 3) {i : Nat}
    (hi : i < 1024 / formatWidth s.me.vctl.qfmt.toNat) :
    lane ((s.quantise d a b m t).v d) (formatWidth s.me.vctl.qfmt.toNat) i =
      s.quantCode d a m t i % 2 ^ formatWidth s.me.vctl.qfmt.toNat := by
  rw [quantise, v_setV, if_neg h, v_setV, if_pos rfl, lane_packLanes_map_range _ hi]

theorem lane_quantise_scale (s : State) (d a b : Reg) (m t : BitVec 3) {i : Nat} (hi : i < 128) :
    lane ((s.quantise d a b m t).v b) 8 i = s.quantScale a b m t i % 2 ^ 8 := by
  rw [quantise, v_setV, if_pos rfl, lane_packLanes_map_range (w := 8) _ hi]

end State

theorem exec_vquant {s : State} (h : vectorIdle s) (d a b : Reg) (m t : BitVec 3) :
    exec (.vquant d a b m t) s = .next (s.quantise d a b m t).retire := by
  have hscale : s.quantScale a b m t = fun i =>
      match (s.quantBlocks a m t)[i]? with
      | some q => q.1
      | none => lane (s.v b) 8 i := by
    funext i
    rw [State.quantScale_eq]
    cases (s.quantBlocks a m t)[i]? <;> rfl
  rw [State.quantise, hscale]
  exact (exec_of_pureForm (i := .vquant d a b m t) h rfl).trans rfl

/-! ### The magnitude table -/

theorem Map.get_foldl_put {α : Type} [DecidableEq α] (d : α) (f : Nat → α) (l : List Nat) (m : Map α) (j : Nat) :
    Map.get d (l.foldl (fun m k => Map.put d m k (f k)) m) j = if j ∈ l then f j else Map.get d m j := by
  induction l generalizing m with
  | nil => simp
  | cons k r ih =>
    rw [List.foldl_cons, ih, Map.get_put]
    by_cases hr : j ∈ r
    · simp [hr]
    · by_cases hk : j = k <;> simp [hr, hk]

theorem State.keepsButV_setMyCore (ds : List Reg) (s : State) (c : Core) : KeepsButV ds s (s.setMyCore c) :=
  ⟨fun _ _ => rfl, fun _ => rfl, fun _ => rfl, rfl, fun _ _ => rfl, fun _ => rfl, rfl, rfl, rfl⟩

/-- Retiring leaves the magnitude table. -/
theorem State.cb2_myCore_retire (s : State) :
    s.retire.myCore.cb2 = s.myCore.cb2 ∧ s.retire.myCore.cb2Poison = s.myCore.cb2Poison := by
  obtain ⟨-, -, hcore⟩ := onlyThread_retire s
  have h := hcore s.curCore
  simp only [State.myCore, State.retire_curCore]
  exact ⟨by rw [h], by rw [h]⟩

/-- VCBDEC where no entry of the table is poisoned. -/
theorem exec_vcbdec {s : State} (h : vectorIdle s) (hp : s.myCore.cb2Poison = []) (d a b : Reg) (m t : BitVec 3) :
    exec (.vcbdec d a b m t) s = .next (s.putLanes d m (typeWidth t) fun i => s.ctl.out t.toNat
      (cb2Weight s.myCore.cb2 (lane (s.v b) 8 0) (lane (s.v a) 16 (i / 8)) (i % 8), {})).retire := by
  have hclean (l : List Nat) : ¬ (l.any fun k => s.myCore.cb2Poison.contains k) = true := by
    rw [List.any_eq_true]
    rintro ⟨k, -, hk⟩
    simp [hp] at hk
  have hrun (x y : Word) : vcbdecRun d a b m t x y s = (.ok (), s.putLanes d m (typeWidth t) fun i => s.ctl.out t.toNat
      (cb2Weight s.myCore.cb2 (lane (s.v b) 8 0) (lane (s.v a) 16 (i / 8)) (i % 8), {})) := by
    show (if (List.any _ fun k => s.myCore.cb2Poison.contains k) = true then (throw (.poison 0) : Acc Unit)
      else set _) s = _
    rw [if_neg (hclean _)]
    rfl
  show issueVector (.vcbdec d a b m t) 0 0 (vcbdecRun d a b m t) s = _
  rw [issueVector_of_vectorIdle h, finish, hrun]

/-! ### VRAND -/

/-- Ten rounds on four words end with four. By evaluation: the equation of `philoxRounds` for n + 1 rounds, which an
induction would use, sends the kernel into the addition of the key's constant, one by one. -/
theorem length_philoxBlock (key stream q : Nat) : (philoxBlock key stream q).length = 4 := rfl

/-- Word i of the draw stands in the block of its quarter (R125). -/
theorem getD_drawWords (t : Thread) {i : Nat} (hi : i < 32) : (drawWords t).getD i 0 =
    (philoxBlock t.rngkey.toNat t.rngstream.toNat (rngAt t + i / 4)).getD (i % 4) 0 := by
  have hlen (b : Nat) : (philoxBlock t.rngkey.toNat t.rngstream.toNat (rngAt t + b)).length = 4 := length_philoxBlock ..
  have hblock : i / 4 < (List.range 8).length := by rw [List.length_range]; omega
  have h := getD_flatMap hlen 0 (Nat.mod_lt i (by decide)) hblock
  rwa [Nat.div_add_mod, List.getElem_range] at h

theorem rngAt_advanceRng (t : Thread) : rngAt (advanceRng t) = (rngAt t + 8) % 2 ^ 96 := by
  simp only [advanceRng, rngAt, BitVec.toNat_ofNat]
  omega

theorem getLsbD_rngWrapBit (k : Nat) : rngWrapBit.getLsbD k = decide (k = 4) := by
  by_cases hk : k < 6
  · revert k
    decide
  · rw [BitVec.getLsbD_of_ge _ _ (by omega), decide_eq_false (by omega)]

/-- The stream goes on; of VSTAT it can set the bit of the wrap alone. -/
theorem getLsbD_vstat_advanceRng (t : Thread) (k : Nat) : (advanceRng t).vstat.getLsbD k =
    (t.vstat.getLsbD k || decide (2 ^ 96 ≤ rngAt t + 8 ∧ k = 4)) := by
  simp only [advanceRng]
  split
  next h => simp only [BitVec.getLsbD_or, getLsbD_rngWrapBit, h, true_and]
  next h => simp only [h, false_and, decide_false, Bool.or_false]

theorem advanceRng_keeps (t : Thread) :
    ∃ draw pos st, advanceRng t = { t with rngdraw := draw, rngpos := pos, vstat := st } :=
  ⟨_, _, _, rfl⟩

namespace State

theorem keepsButV_advanceRng (ds : List Reg) (s : State) : KeepsButV ds s (s.setMe (advanceRng s.me)) := by
  obtain ⟨draw, pos, st, h⟩ := advanceRng_keeps s.me
  rw [h]
  exact keepsButV_setMe (fun _ _ => rfl) rfl rfl rfl rfl rfl

/-- What VRAND gives lane i of vd: a word of its draw, or the fraction that its upper 24 bits are (R125). -/
def drawLane (s : State) (t : BitVec 3) (i : Nat) : Nat × Flags :=
  (if t = 0#3 then (fpRound 0 0 false (.fin false ((drawWords s.me).getD i 0 / 2 ^ 8) (-24))).1
   else (drawWords s.me).getD i 0, {})

/-- VRAND before it retires: the stream advances whatever the predicate holds, the active lanes take their words. -/
def draw (s : State) (d : Reg) (m t : BitVec 3) : State := (s.setMe (advanceRng s.me)).putLanes d m 32 (s.drawLane t)

theorem keepsButV_draw (s : State) (d : Reg) (m t : BitVec 3) : KeepsButV [d] s (s.draw d m t) :=
  (s.keepsButV_advanceRng _).trans (keepsButV_putLanes ..)

theorem vstat_draw (s : State) (d : Reg) (m t : BitVec 3) (k : Nat) : (s.draw d m t).me.vstat.getLsbD k =
    (s.me.vstat.getLsbD k || decide (2 ^ 96 ≤ rngAt s.me + 8 ∧ k = 4)) := by
  rw [draw, vstat_putLanes, me_setMe, getLsbD_vstat_advanceRng]
  simp [drawLane, vstat_none]

theorem rngAt_putLanes (s : State) (d : Reg) (m : BitVec 3) (w : Nat) (f : Nat → Nat × Flags) :
    rngAt (s.putLanes d m w f).me = rngAt s.me := by
  rw [putLanes_eq, me_setV, me_raiseV]
  rfl

theorem rngAt_draw (s : State) (d : Reg) (m t : BitVec 3) : rngAt (s.draw d m t).me = (rngAt s.me + 8) % 2 ^ 96 := by
  rw [← rngAt_advanceRng, draw, rngAt_putLanes, me_setMe]

theorem lane_draw (s : State) (d : Reg) (m t : BitVec 3) {i : Nat} (hi : i < 32) : lane ((s.draw d m t).v d) 32 i =
    if activeLane (s.p m) 32 i then (s.drawLane t i).1 % 2 ^ 32 else lane (s.v d) 32 i := by
  obtain ⟨hv, -, hp, -⟩ := s.keepsButV_advanceRng []
  rw [draw, lane_putLanes (w := 32) _ _ _ _ hi, hp, hv d List.not_mem_nil]

end State

theorem vrandRun_eq (d : Reg) (m t : BitVec 3) : vrandRun d m t = pureForm fun s => s.draw d m t := by
  rw [vrandRun]
  rfl

theorem exec_vrand {s : State} (h : vectorIdle s) (d : Reg) (m t : BitVec 3) :
    exec (.vrand d m t) s = .next (s.draw d m t).retire := by
  show issueVector (.vrand d m t) 0 0 (vrandRun d m t) s = _
  rw [vrandRun_eq, issueVector_pureForm h]

end Sys2Proof.Machine

open Sys2Proof Sys2Proof.Machine Sys2Proof.Safety

/-- Settles O35: most forms are an effect on lanes, or on lane 0, that the statement repeats; VQUANT, VCBLOAD and VRAND by
the lemmas on what they write and keep. -/
theorem vectorConversionAndReductionForms : Obligations.VectorConversionAndReductionForms := by
  unfold Obligations.VectorConversionAndReductionForms
  intro s d a b f m t hidle w n x on lanes conv active same wq least
  have form {i : Instr} {f : State → State} {o : Out} (he : exec i s = issueVector i 0 0 (pureForm f) s)
      (ho : .next (f s).retire = o) : exec i s = o := (exec_of_pureForm hidle he).trans ho
  refine ⟨form rfl rfl, form rfl rfl, ?vquant, form rfl rfl, fun _ => ?vcbload,
    fun hp => exec_vcbdec hidle hp d a b m t, form rfl rfl, form rfl rfl, form rfl rfl, form rfl rfl, form rfl rfl, ?vscan,
    form rfl rfl, form rfl rfl, ?vrand⟩
  case vquant =>
    refine ⟨_, exec_vquant hidle d a b m t, (s.keepsButV_quantise d a b m t).retire, fun k hk => ?_, fun hdb ht hq =>
      ⟨fun i hn hi => ?_, fun k hn hk => ?_, fun k hk => ⟨?_, fun i hi => ?_⟩⟩⟩
    · rw [State.me_retire]
      exact s.vstat_quantise d a b m t hk
    · rw [State.v_retire, s.lane_quantise_code hdb a m t hi, State.quantCode, if_neg (Nat.not_lt.2 hn)]
      exact Nat.mod_eq_of_lt (lane_lt ..)
    · rw [State.v_retire, s.lane_quantise_scale d a b m t hk, State.quantScale, if_neg (Nat.not_lt.2 hn)]
      exact Nat.mod_eq_of_lt (lane_lt ..)
    · have hn : n ≤ 1024 / 4 := Nat.div_le_div_left (typeWidth_ge t) (by decide)
      rw [State.v_retire, s.lane_quantise_scale d a b m t (by omega), State.quantScale, if_pos hk]
      rfl
    · have hlt : 32 * k + i < 1024 / wq := code_lane_lt ht hq (show 32 * k + i < n by omega)
      rw [State.v_retire, s.lane_quantise_code hdb a m t hlt, s.quantCode_block d a m t hk hi]
      rfl
  case vcbload =>
    refine ⟨_, exec_of_pureForm hidle rfl, (s.keepsButV_setMyCore [] _).retire, ?_, fun k i hk hi => ?_, ?_⟩
    · rw [State.me_retire, State.me_setMyCore]
    · have hkey : 32 * k + i < 256 := by omega
      rw [(State.cb2_myCore_retire _).1, State.myCore_setMyCore, Map.get_foldl_put, if_pos (List.mem_range.2 hkey),
        Nat.mul_add_div (by decide), Nat.mul_add_mod, Nat.div_eq_of_lt hi, Nat.mod_eq_of_lt hi, Nat.add_zero]
    · rw [(State.cb2_myCore_retire _).2, State.myCore_setMyCore]
  case vscan =>
    have hlen : (s.activeCodes a m t id).length = 1024 / typeWidth t := by simp [State.activeCodes]
    refine form rfl ?_
    dsimp only
    rw [hlen]
    rfl
  case vrand =>
    refine ⟨_, exec_vrand hidle d m t, (s.keepsButV_draw d m t).retire, fun k hk => ?_, ?_, fun hwrap => ?_, fun i hi => ?_⟩
    · rw [State.me_retire]
      exact (s.vstat_draw d m t k).trans (by simp [hk])
    · rw [State.me_retire]
      exact s.rngAt_draw d m t
    · rw [State.me_retire]
      exact (s.vstat_draw d m t 4).trans (by simp only [hwrap, true_and, decide_true, Bool.or_true])
    · rw [State.v_retire, s.lane_draw d m t hi, State.drawLane, getD_drawWords _ hi, apply_ite (· % 2 ^ 32)]

end

/-! PROOFS. The vector sequencer (R104 to R110): where a word goes that is not the first in line, the word at the head of the
queue, REPEAT and its passes. -/

section
namespace Sys2Proof.Machine

/-! ### Issue (R104) -/

/-- A vector word is issued by the row of the sequencer's table that names it: one that accesses memory, of major 0x2F,
with its check, any other as it stands. For each row the major is read off the encoding, and the issue is the row's meaning
by definition. -/
theorem exec_of_vectorWord {i : Instr} {ra rb : Reg} {run : Word → Word → Acc Unit}
    (h : vectorWord none i = some (ra, rb, run)) (s : State) :
    exec i s = if State.isVmem i then issueVmem i ra rb run s else issueVector i ra rb run s := by
  unfold vectorWord at h
  split at h
  case h_90 => cases h
  all_goals
    cases h
    simp (disch := decide) only [State.isVmem, encode, BitVec.extractLsb'_append_eq_of_le, Nat.sub_self,
      BitVec.extractLsb'_eq_self, Nat.reduceSub]
    rfl

namespace State

/-- A word is not the first in line if a queued word, a matrix word that it follows or a capture stands before it. -/
theorem firstInLine_eq_false {s : State} {i : Instr} : s.firstInLine i = false ↔ s.myCore.vq ≠ [] ∨
    matrixBefore s.myCore s.curTid i s.myCore.queued = true ∨
      s.captureBefore s.curCore s.curTid.toNat s.myCore.queued = true := by
  simp only [firstInLine, Bool.and_eq_false_iff, Bool.not_eq_false', List.isEmpty_eq_false_iff, or_assoc, ne_eq]

end State

theorem issueVector_full {s : State} (h : 16 ≤ s.seqEntries) (i : Instr) (ra rb : Reg) (run : Word → Word → Acc Unit) :
    issueVector i ra rb run s = .next s := if_pos h

theorem issueVector_enters {s : State} {i : Instr} (hfree : s.seqEntries < 16) (h : s.defer = true ∨ s.firstInLine i = false)
    (ra rb : Reg) (run : Word → Word → Acc Unit) :
    issueVector i ra rb run s = .next (s.enterSequencer i ra rb [] []) := by
  rw [issueVector, if_neg (Nat.not_le.2 hfree), if_pos (by simpa using h)]

theorem issueVmem_full {s : State} (h : 16 ≤ s.seqEntries) (i : Instr) (ra rb : Reg) (run : Word → Word → Acc Unit) :
    issueVmem i ra rb run s = .next s := if_pos h

/-- On a paired core, or where a queued word is to write what its addresses are made of, the word stands at issue. -/
theorem issueVmem_stands {s : State} {i : Instr} {rb : Reg} {f : VmemForm} (hf : vmemForm s i (s.g rb) = some f)
    (hfirst : s.firstInLine i = false) (h : s.myCore.paired = true ∨ s.operandsQueued f = true) (ra : Reg)
    (run : Word → Word → Acc Unit) : issueVmem i ra rb run s = .next s := by
  have hstands : (s.myCore.paired || s.operandsQueued f) = true := by simpa using h
  simp only [issueVmem, hfirst, hf, hstands, if_true, Bool.false_eq_true, if_false, ite_self]

section
variable {s u : State} {i : Instr} {ra rb : Reg} {f : VmemForm} (hf : vmemForm s i (s.g rb) = some f)
  (hfirst : s.firstInLine i = false) (hfree : s.seqEntries < 16) (hpaired : s.myCore.paired = false)
  (hqueued : s.operandsQueued f = false) (run : Word → Word → Acc Unit)
include hf hfirst hfree hpaired hqueued

/-- Otherwise it enters once its check has passed, with the leaves and blocks that the check has found (R105). -/
theorem issueVmem_enters {ls : List TlbEntry} {bs : List Nat} (h : vmemCheck f (s.g ra) s = (.ok (ls, bs), u)) :
    issueVmem i ra rb run s = .next (u.enterSequencer i ra rb ls bs) := by
  rw [issueVmem, if_neg (Nat.not_le.2 hfree)]
  simp [hfirst, hf, hpaired, hqueued, h]

/-- One that the check refuses stands at issue. -/
theorem issueVmem_refused {x : Stop} (h : vmemCheck f (s.g ra) s = (.error x, u)) : issueVmem i ra rb run s = .next s := by
  rw [issueVmem, if_neg (Nat.not_le.2 hfree)]
  simp [hfirst, hf, hpaired, hqueued, h]

end

/-! ### The word at the head (R104) -/

namespace State

@[simp] theorem cores_noteUndo (s : State) (core tid : Nat) (b : Core) : (s.noteUndo core tid b).cores = s.cores := by
  unfold noteUndo
  split <;> rfl

@[simp] theorem threads_noteUndo (s : State) (core tid : Nat) (b : Core) : (s.noteUndo core tid b).threads = s.threads := by
  unfold noteUndo
  split <;> rfl

theorem kickCaptures_keeps (s : State) (core : Nat) : ∃ l, s.kickCaptures core = { s with agenda := l } := by
  refine List.foldlRecOn (List.range 4) _ (motive := fun u : State => ∃ l, u = { s with agenda := l }) ⟨s.agenda, rfl⟩ ?_
  rintro u ⟨l, rfl⟩ t -
  split
  · exact ⟨_, rfl⟩
  · exact ⟨_, rfl⟩

/-- The state in which the sequencer runs a word: at its pc and lane, through the leaves of its check. -/
def atEntry (s : State) (e : VecEntry) : State :=
  (s.setMyCore { s.myCore with vq := [], l1 := e.leaves ++ s.myCore.l1 }).setMe { s.me with pc := e.pc, lane := e.lane }

/-- After it: pc, lane and TLBs as before, the rest of the queue. -/
def endEntry (s : State) (e : VecEntry) (rest : List VecEntry) (s' : State) : State :=
  let v := (s'.setMe { s'.me with pc := s.me.pc, lane := s.me.lane }).setMyCore
    { s'.myCore with vq := rest, l1 := s.myCore.l1 }
  if e.leaves.isEmpty then v
  else v.setCluster (clusterOf s.curCore) { v.cluster (clusterOf s.curCore) with l2 := (s.cluster (clusterOf s.curCore)).l2 }

/-- A word that has done its work leaves the queue. -/
theorem stepEntry_ok {s s' : State} {e : VecEntry} {ra rb : Reg} {run : Word → Word → Acc Unit}
    (hw : vectorWord none e.instr = some (ra, rb, run)) (h : run e.ga e.gb (s.atEntry e) = (.ok (), s'))
    (rest : List VecEntry) : s.stepEntry e rest = s.endEntry e rest s' := by
  have hrun : s.runEntry e rest = (.ok (), s'.me.lane, s.endEntry e rest s') := by
    unfold atEntry at h
    simp only [runEntry, hw, h]
    rfl
  rw [stepEntry, hrun]

/-- What goes on once a word has left the queue: the matrix words, the captures, the next word. -/
def afterEntry (s : State) (core : Nat) (rest : List VecEntry) : State :=
  let t := (if (s.core core).mq = [] then s else s.enqueue (.matrixWordExecute core)).kickCaptures core
  if rest = [] then t else t.enqueue (.vectorWordExecute core)

theorem afterEntry_keeps (s : State) (core : Nat) (rest : List VecEntry) :
    ∃ l, s.afterEntry core rest = { s with agenda := l } := by
  have hmat : ∃ l, (if (s.core core).mq = [] then s else s.enqueue (.matrixWordExecute core)) = { s with agenda := l } := by
    split
    · exact ⟨_, rfl⟩
    · exact ⟨_, rfl⟩
  obtain ⟨l, hl⟩ := hmat
  obtain ⟨l', hk⟩ := kickCaptures_keeps { s with agenda := l } core
  rw [afterEntry, hl, hk]
  dsimp only
  split
  · exact ⟨_, rfl⟩
  · exact ⟨_, rfl⟩

end State

section
variable {s : State} {core : Nat} {e : VecEntry} {r : List VecEntry} (hvq : (s.core core).vq = e :: r)
include hvq

theorem exec_vectorWordExecute_waits
    (h : matrixBefore (s.core core) e.tid e.instr e.stamp = true ∨ s.captureBefore core e.tid.toNat e.stamp = true) :
    exec (.vectorWordExecute core) s = .next s := by
  show execVectorWordExecute core s = _
  have hbefore : (matrixBefore (s.core core) e.tid e.instr e.stamp || s.captureBefore core e.tid.toNat e.stamp) = true := by
    simpa using h
  simp only [execVectorWordExecute, hvq, hbefore, if_true]

/-- With nothing before it the word at the head executes for its thread, and leaves the queue. -/
theorem exec_vectorWordExecute_runs {u : State} (hm : matrixBefore (s.core core) e.tid e.instr e.stamp = false)
    (hc : s.captureBefore core e.tid.toNat e.stamp = false)
    (hu : (s.within core e.tid.toNat fun s => s.stepEntry e r).noteUndo core e.tid.toNat (s.core core) = u)
    (hr : (u.core core).vq = r) : exec (.vectorWordExecute core) s = .next (u.afterEntry core r) := by
  show execVectorWordExecute core s = _
  have hlen : ¬ (u.core core).vq.length = (e :: r).length := by simp [hr]
  simp only [execVectorWordExecute, hvq, hm, hc, hu, hlen, Bool.or_self, Bool.false_eq_true, if_false, List.isEmpty_iff,
    State.afterEntry]

end

/-! ### VADD, queued and captured -/

namespace State

/-- VADD before it retires (R113). -/
def addLanes (s : State) (d a b : Reg) (m t : BitVec 3) : State :=
  s.mapLanes d a b m t (arith s.ctl t (fun x y _ => fpAdd s.vmode x y) (fun x y _ => x + y))

theorem me_addLanes (s : State) (d a b : Reg) (m t : BitVec 3) :
    ∃ x y, (s.addLanes d a b m t).me = { s.me with vstat := x, v := y } := by
  rw [addLanes, mapLanes, putLanes_eq, me_setV, me_raiseV]
  exact ⟨_, _, rfl⟩

/-- What it writes of the v registers depends on the v and p registers and on VCTL alone. -/
theorem v_addLanes_congr {s u : State} (hv : s.me.v = u.me.v) (hp : s.me.p = u.me.p) (hc : s.me.vctl = u.me.vctl)
    (d a b : Reg) (m t : BitVec 3) : (s.addLanes d a b m t).me.v = (u.addLanes d a b m t).me.v := by
  have hlane (f : Nat → Nat × Flags) : s.laneResult d m (typeWidth t) f = u.laneResult d m (typeWidth t) f := by
    have hpm : s.p m = u.p m := by simp only [p, hp]
    have hvd : s.v d = u.v d := by simp only [v, hv]
    funext i
    rw [laneResult, laneResult, hpm, hvd]
  simp only [addLanes, mapLanes, putLanes_eq, me_setV, me_raiseV, hlane, v, ctl, vmode, vsat, hv, hc]

@[simp] theorem meKey_addLanes (s : State) (d a b : Reg) (m t : BitVec 3) : (s.addLanes d a b m t).meKey = s.meKey := rfl

/-- The thread that a step of another thread's engine has worked for. -/
theorem thread_within {s : State} {core : Nat} {tid : BitVec 2} {f : State → State}
    (h : (f (s.asThread core tid.toNat)).meKey = (s.asThread core tid.toNat).meKey) :
    (s.within core tid.toNat f).thread core tid.toNat = (f (s.asThread core tid.toNat)).me := by
  rw [me, h, meKey_asThread]
  rfl

theorem me_endEntry (s : State) (e : VecEntry) (rest : List VecEntry) (s' : State) :
    (s.endEntry e rest s').me = { s'.me with pc := s.me.pc, lane := s.me.lane } := by
  unfold endEntry
  split <;> simp

theorem meKey_endEntry (s : State) (e : VecEntry) (rest : List VecEntry) (s' : State) :
    (s.endEntry e rest s').meKey = s'.meKey := by
  unfold endEntry
  split <;> rfl

theorem vq_endEntry (s : State) (e : VecEntry) (rest : List VecEntry) (s' : State) :
    ((s.endEntry e rest s').core s'.curCore).vq = rest := by
  unfold endEntry
  split <;> exact congrArg Core.vq (myCore_setMyCore ..)

end State

/-- A queued VADD writes its lanes and leaves the queue. -/
theorem exec_vectorWordExecute_vadd {s : State} {core : Nat} {e : VecEntry} {d a b : Reg} {m t : BitVec 3}
    (hvq : (s.core core).vq = [e]) (he : e.instr = .vadd d a b m t) (hmq : (s.core core).mq = [])
    (hc : s.captureBefore core e.tid.toNat e.stamp = false) : ∃ u, exec (.vectorWordExecute core) s = .next u ∧
      (u.core core).vq = [] ∧
      (u.thread core e.tid.toNat).v = ((s.asThread core e.tid.toNat).addLanes d a b m t).me.v := by
  have hm : matrixBefore (s.core core) e.tid e.instr e.stamp = false := by simp [matrixBefore, hmq]
  have hw : vectorWord none e.instr = some (0, 0, vaddRun d a b m t) := by rw [he]; rfl
  have hstep := State.stepEntry_ok (s := s.asThread core e.tid.toNat) hw rfl []
  have hkey : ((s.asThread core e.tid.toNat).stepEntry e []).meKey = (s.asThread core e.tid.toNat).meKey := by
    rw [hstep, State.meKey_endEntry]
    rfl
  have hempty : ((s.within core e.tid.toNat fun s => s.stepEntry e []).core core).vq = [] := by
    show (((s.asThread core e.tid.toNat).stepEntry e []).core core).vq = []
    rw [hstep]
    exact State.vq_endEntry ..
  have hthread := State.thread_within (f := fun s => s.stepEntry e []) hkey
  rw [hstep, State.me_endEntry] at hthread
  generalize hu : (s.within core e.tid.toNat fun s => s.stepEntry e []).noteUndo core e.tid.toNat (s.core core) = u
  have hr : (u.core core).vq = [] := by rw [← hu, State.core_congr (State.cores_noteUndo ..), hempty]
  obtain ⟨l, hl⟩ := u.afterEntry_keeps core []
  refine ⟨_, exec_vectorWordExecute_runs hvq hm hc hu hr, ?_, ?_⟩
  · rw [hl]
    exact hr
  · rw [hl]
    show (u.thread core e.tid.toNat).v = _
    rw [← hu, State.thread, State.threadAt_congr (State.threads_noteUndo ..), ← State.thread, hthread]
    exact State.v_addLanes_congr (by simp [State.atEntry]) (by simp [State.atEntry]) (by simp [State.atEntry]) ..

/-! ### REPEAT -/

theorem exec_repeat_full {s : State} {l : BitVec 4}
    (h : ¬ (s.setMe { s.me with capture := none }).seqEntries + (l.toNat + 1) ≤ 16) (a : Reg) (sb sa sd : BitVec 4) :
    exec (.repeat a sb sa sd l) s = .next s := if_pos (Nat.not_le.1 h)

section
variable {s s' : State} {l : BitVec 4} (hroom : (s.setMe { s.me with capture := none }).seqEntries + (l.toNat + 1) ≤ 16)
  (a : Reg) (sb sa sd : BitVec 4)
include hroom

theorem exec_repeat_unfetched (h : s.fetchWords (l.toNat + 1) (s.me.pc + 4) [] = (none, s')) :
    exec (.repeat a sb sa sd l) s = .next s' := by
  show execRepeat a sb sa sd l s = _
  rw [execRepeat]
  simp only [if_neg (Nat.not_lt.2 hroom), h]

/-- The capture that a REPEAT makes of its words: none where it has no pass. -/
def repeatCapture (s : State) (a : Reg) (sb sa sd : BitVec 4) (ws : List (BitVec 32)) (stamp : Nat) : Option Capture :=
  if passCount (s.g a) = 0 then none
  else some ⟨ws, sd, sa, sb, s.me.pc, passCount (s.g a), 0, 0, false, false, stamp⟩

theorem exec_repeat_captures {ws : List (BitVec 32)} (h : s.fetchWords (l.toNat + 1) (s.me.pc + 4) [] = (some ws, s')) :
    let t := s'.setMyCore { s'.myCore with queued := s'.myCore.queued + 1 }
    let u := ((t.setMe { t.me with
      capture := repeatCapture s a sb sa sd ws s'.myCore.queued
      vseq := { t.me.vseq with act := false } }).setPc (s.me.pc + 4 + BitVec.ofNat 64 (4 * (l.toNat + 1)))).countRetired
    exec (.repeat a sb sa sd l) s =
      .next (if passCount (s.g a) = 0 then u else u.enqueue (.repeatPass u.curCore u.curTid.toNat)) := by
  intro t u
  show execRepeat a sb sa sd l s = _
  rw [execRepeat]
  simp only [if_neg (Nat.not_lt.2 hroom), h]
  rfl

end

/-! ### Passes (R106, R107) -/

/-- A pass waits for the queued words of its thread and, before it begins, for what entered the sequencer before it. -/
theorem State.passWaits_iff (s : State) (core tid : Nat) (c : Capture) : s.passWaits core tid c = true ↔
    (∃ e ∈ (s.core core).vq, e.tid.toNat = tid ∨ (c.begun = false ∧ (c.pass = 0 → e.stamp < c.stamp))) ∨
      (c.begun = false ∧ s.captureBefore core tid (if c.pass = 0 then c.stamp else (s.core core).queued) = true) := by
  cases hb : c.begun with
  | true => simp [passWaits, hb]
  | false =>
    by_cases hp : c.pass = 0
    · simp only [passWaits, hb, hp, if_true, Bool.not_false, Bool.true_and, Bool.or_eq_true, List.any_eq_true,
        decide_eq_true_eq, true_and, forall_const, ← or_assoc, ← exists_or, ← and_or_left]
    · have hne : (∃ e, e ∈ (s.core core).vq) ↔ (s.core core).vq ≠ [] :=
        ⟨fun ⟨_, h⟩ => List.ne_nil_of_mem h, List.exists_mem_of_ne_nil _⟩
      simp only [passWaits, hb, hp, if_false, Bool.not_false, Bool.true_and, Bool.or_eq_true, List.any_eq_true,
        decide_eq_true_eq, true_and, false_imp_iff, or_true, and_true, hne, Bool.not_eq_true', List.isEmpty_eq_false_iff]
      constructor
      · rintro (⟨e, he, -⟩ | h)
        · exact .inl (hne.1 ⟨e, he⟩)
        · exact h
      · exact .inr

theorem exec_repeatPass_waits {s : State} {core tid : Nat} {c : Capture} (hc : (s.thread core tid).capture = some c)
    (h : s.passWaits core tid c = true) : exec (.repeatPass core tid) s = .next s := by
  show execRepeatPass core tid s = _
  simp only [execRepeatPass, hc, h, Bool.or_true, if_true]

/-- A word that does not load the magnitude table follows the matrix words of its thread that write v registers alone. -/
theorem State.matrixBefore_of_matrixWritesV {s : State} (h : s.matrixWritesV = false) {i : Instr} (hi : loadsCb2 i = false)
    (k : Nat) : matrixBefore s.myCore s.curTid i k = false := by
  rw [matrixWritesV, List.any_eq_false] at h
  rw [matrixBefore, List.any_eq_false]
  intro e he
  have hno : (decide (e.tid = s.curTid) && writesVecs e.instr) = false := Bool.eq_false_iff.2 (h e he)
  simp only [hno, hi, Bool.false_and, Bool.or_self, Bool.and_false, Bool.false_eq_true, not_false_eq_true]

theorem isVmem_vadd (d a b : Reg) (m t : BitVec 3) : State.isVmem (.vadd d a b m t) = false := by
  obtain ⟨hmajor, -⟩ := Laws.RoundTrip.strip6_5_5_5_3_3_5 40#6 d a b m t 0#5 (w := encode (.vadd d a b m t)) rfl
  rw [State.isVmem, ← fld, hmajor]
  rfl

theorem State.runCaptured_vadd {s : State} (h : s.matrixWritesV = false) (pre : Word) (k : Nat) (d a b : Reg)
    (m t : BitVec 3) :
    s.runCaptured pre k (.vadd d a b m t) = ((s.addLanes d a b m t).countCaptured, .done) := by
  have hm := s.matrixBefore_of_matrixWritesV h (i := .vadd d a b m t) rfl s.myCore.queued
  simp only [runCaptured, vectorWord, h, hm, isVmem_vadd, Bool.false_and, Bool.or_self, Bool.false_eq_true, if_false]
  rfl

namespace State

@[simp] theorem meKey_enqueue (s : State) (i : Instr) : (s.enqueue i).meKey = s.meKey := rfl

@[simp] theorem meKey_countInterval (s : State) : s.countInterval.meKey = s.meKey := by
  obtain h | ⟨c, h⟩ := countInterval_cases s <;> rw [h]
  rfl

@[simp] theorem meKey_countCaptured (s : State) : s.countCaptured.meKey = s.meKey := meKey_countInterval _

theorem me_countCaptured (s : State) : s.countCaptured.me = { s.me with instret := s.me.instret + 1, lane := 0 } := by
  rw [countCaptured, me_countInterval, me_setMe]

/-- The one word of a pass, VADD, with its fields advanced (R107), and the pass is complete. -/
theorem runPass_vadd {s : State} {c : Capture} {w : BitVec 32} {d a b : Reg} {m t : BitVec 3} (hs : s.matrixWritesV = false)
    (hfull : s.intervalFull = false) (hw : decodeCaptured w = some (.vadd d a b m t)) :
    let by_ (st : BitVec 4) : Reg := BitVec.ofNat 5 (c.pass * st.toNat)
    runPass c [w] 0 s =
      (((s.atWord 0).addLanes (d + by_ c.sd) (a + by_ c.sa) (b + by_ c.sb) m t).countCaptured, true) := by
  intro by_
  have hat : (s.atWord 0).matrixWritesV = false := hs
  simp only [runPass, hw, hfull, Bool.false_eq_true, if_false, advanceWord, runCaptured_vadd hat]
  rfl

end State

/-- What a pass of one captured VADD leaves of its thread (R106, R107, R15). -/
structure PassedVadd (c : Capture) (d a b : Reg) (m t : BitVec 3) (s u : State) : Prop where
  meKey : u.meKey = s.meKey
  v : u.me.v = (s.addLanes d a b m t).me.v
  instret : u.me.instret = s.me.instret + 1
  pc : u.me.pc = s.me.pc
  g : u.me.g = s.me.g
  p : u.me.p = s.me.p
  capture : u.me.capture = if c.pass + 1 = c.passes then none else some { c with pass := c.pass + 1, begun := false }

theorem passedVadd_of_me {c : Capture} {d a b : Reg} {m t : BitVec 3} {s u : State} {st : BitVec 6} {y : Vector VReg 32}
    {k : Option Capture} (hkey : u.meKey = s.meKey) (hme : u.me =
      { s.me with vstat := st, v := y, instret := s.me.instret + 1, lane := 0, capture := k })
    (hy : y = (s.addLanes d a b m t).me.v)
    (hk : k = if c.pass + 1 = c.passes then none else some { c with pass := c.pass + 1, begun := false }) :
    PassedVadd c d a b m t s u :=
  ⟨hkey, by rw [hme, hy], by rw [hme], by rw [hme], by rw [hme], by rw [hme], by rw [hme, hk]⟩

/-- A complete pass ends the capture, or the next one is due. -/
theorem State.stepPass_of_complete {s s' : State} {c : Capture} (h : runPass c (c.words.drop c.word) c.word
    (s.setMe { s.me with capture := some { c with begun := true } }) = (s', true)) : s.stepPass c =
    if c.pass + 1 = c.passes then s'.setMe { s'.me with capture := none }
    else (s'.setMe { s'.me with capture := some { c with pass := c.pass + 1, word := 0, begun := false } }).enqueue
      (.repeatPass s.curCore s.curTid.toNat) := by
  rw [stepPass]
  simp only [h]
  rfl

theorem State.stepPass_vadd {s : State} {c : Capture} {w : BitVec 32} {d a b : Reg} {m t : BitVec 3}
    (hs : s.matrixWritesV = false) (hfull : s.intervalFull = false) (hwords : c.words = [w]) (hword : c.word = 0)
    (hw : decodeCaptured w = some (.vadd d a b m t)) :
    let by_ (st : BitVec 4) : Reg := BitVec.ofNat 5 (c.pass * st.toNat)
    PassedVadd c (d + by_ c.sd) (a + by_ c.sa) (b + by_ c.sb) m t s (s.stepPass c) := by
  intro by_
  let s0 : State := s.setMe { s.me with capture := some { c with begun := true } }
  let s1 : State := s0.atWord 0
  let x : State := s1.addLanes (d + by_ c.sd) (a + by_ c.sa) (b + by_ c.sb) m t
  have hrun : runPass c (c.words.drop c.word) c.word s0 = (x.countCaptured, true) := by
    rw [hwords, hword]
    exact runPass_vadd (s := s0) hs hfull hw
  have h1 : s1.me = { s.me with capture := some { c with begun := true, word := 0 } } := by simp [s1, s0, atWord]
  obtain ⟨st, y, hx⟩ := s1.me_addLanes (d + by_ c.sd) (a + by_ c.sa) (b + by_ c.sb) m t
  have hy : y = (s.addLanes (d + by_ c.sd) (a + by_ c.sa) (b + by_ c.sb) m t).me.v := by
    rw [← v_addLanes_congr (s := s1) (by rw [h1]) (by rw [h1]) (by rw [h1]), hx]
  have hme : x.countCaptured.me = { s.me with
      vstat := st, v := y, instret := s.me.instret + 1, lane := 0
      capture := some { c with begun := true, word := 0 } } := by
    rw [me_countCaptured, hx, h1]
  have hkey : x.countCaptured.meKey = s.meKey := meKey_countCaptured _
  rw [stepPass_of_complete hrun]
  split
  next h => exact passedVadd_of_me hkey (by rw [me_setMe, hme]) hy (if_pos h).symm
  next h => exact passedVadd_of_me hkey (by rw [me_enqueue, me_setMe, hme]) hy (by rw [if_neg h, hword])

/-- A register number advanced modulo 32 (R107). -/
theorem advanced_eq (r : Reg) (k : Nat) : BitVec.ofNat 5 (r.toNat + k) = r + BitVec.ofNat 5 k := by
  rw [BitVec.ofNat_add, BitVec.ofNat_toNat, BitVec.setWidth_eq]

/-- A pass that nothing holds back is performed for its thread. -/
theorem exec_repeatPass_runs {s u : State} {core tid : Nat} {c : Capture} (hc : (s.thread core tid).capture = some c)
    (hsusp : c.suspended = false) (hpass : c.pass < c.passes) (hparked : (s.thread core tid).parked = none)
    (hcont : (s.core core).contained = false) (hwaits : s.passWaits core tid c = false)
    (hleaves : passLeaves (s.core core) c = false)
    (hu : (s.within core tid fun s => s.stepPass c).noteUndo core tid (s.core core) = u) :
    ∃ l, exec (.repeatPass core tid) s = .next { u with agenda := l } := by
  have hgo : (c.suspended || decide (c.passes ≤ c.pass) || (s.thread core tid).parked.isSome || (s.core core).contained ||
      s.passWaits core tid c) = false := by simp [hsusp, hparked, hcont, hwaits, hpass]
  have hexec : exec (.repeatPass core tid) s =
      .next (if (u.core core).vq.isEmpty then u else u.enqueue (.vectorWordExecute core)) := by
    show execRepeatPass core tid s = _
    simp only [execRepeatPass, hc, hgo, hleaves, hu, Bool.false_and, Bool.false_eq_true, if_false]
  rw [hexec]
  split
  · exact ⟨_, rfl⟩
  · exact ⟨_, rfl⟩

end Sys2Proof.Machine

open Sys2Proof Sys2Proof.Machine Sys2Proof.Safety

/-- Settles O37: each clause by the lemma on its event; queued and captured VADD by what they leave of their thread. -/
theorem vectorQueueAndRepeat : Obligations.VectorQueueAndRepeat := by
  unfold Obligations.VectorQueueAndRepeat
  refine ⟨fun s i ra rb run hw hmajor => ?queued, fun s i ra rb run f hw hmajor hf hbefore => ?accesses,
    fun s s' core e r ra rb run hvq hw => ?head,
    fun s core tid d a b m t ga gb pc k lane hvq hmq hc => exec_vectorWordExecute_vadd hvq rfl hmq hc,
    fun s s' a sb sa sd l ws => ?captures,
    fun s core tid c w d a b m t htid hc hsusp hpass hwords hword hdec hparked hwaits hcont hmat hleaves hfull => ?pass,
    fun s core tid c hc h => exec_repeatPass_waits hc h, fun s core tid c => s.passWaits_iff core tid c,
    fun kd ka kb d a b m t => ⟨rfl, rfl, rfl⟩⟩
  case queued =>
    rw [exec_of_vectorWord hw, if_neg (by simpa [State.isVmem] using hmajor)]
    exact ⟨fun hfree hbefore => issueVector_enters hfree (hbefore.imp_right State.firstInLine_eq_false.2) ra rb run,
      fun hfull => issueVector_full hfull i ra rb run⟩
  case accesses =>
    have hfirst := State.firstInLine_eq_false.2 hbefore
    rw [exec_of_vectorWord hw, if_pos (by simpa [State.isVmem] using hmajor)]
    refine ⟨?_, fun hfree hpaired hqueued => ⟨fun ls bs u h => issueVmem_enters hf hfirst hfree hpaired hqueued run h,
      fun x u h => issueVmem_refused hf hfirst hfree hpaired hqueued run h⟩⟩
    rintro (h | h)
    · exact issueVmem_full h i ra rb run
    · exact issueVmem_stands hf hfirst h ra run
  case head =>
    refine ⟨exec_vectorWordExecute_waits hvq, ?_⟩
    intro c at_ hm hc hrun v0 v1 j v u hcore _ t
    have hj : j = clusterOf core := congrArg clusterOf hcore
    have hend : v = at_.endEntry e r s' := by
      show (if e.leaves = [] then v1 else v1.setCluster j { v1.cluster j with l2 := (s.cluster (clusterOf core)).l2 }) = _
      rw [hj, State.endEntry]
      simp only [List.isEmpty_iff]
      rfl
    have hu : (s.within core e.tid.toNat fun s => s.stepEntry e r).noteUndo core e.tid.toNat c = u := by
      rw [State.within, State.stepEntry_ok hw hrun r, ← hend]
    have hr : (u.core core).vq = r := by
      rw [State.core_congr (State.cores_noteUndo ..)]
      show (v.core core).vq = r
      rw [hend, ← hcore, State.vq_endEntry]
    exact exec_vectorWordExecute_runs hvq hm hc hu hr
  case captures =>
    intro n p room
    exact ⟨fun h => exec_repeat_full h a sb sa sd, fun u hroom h => exec_repeat_unfetched hroom a sb sa sd h,
      fun hroom h => exec_repeat_captures hroom a sb sa sd h⟩
  case pass =>
    obtain ⟨k, rfl⟩ : ∃ k : BitVec 2, k.toNat = tid := ⟨BitVec.ofNat 2 tid, Nat.mod_eq_of_lt htid⟩
    have hpassed := State.stepPass_vadd (s := s.asThread core k.toNat) hmat hfull hwords hword hdec
    generalize hu : (s.within core k.toNat fun s => s.stepPass c).noteUndo core k.toNat (s.core core) = u
    obtain ⟨l, hexec⟩ := exec_repeatPass_runs hc hsusp hpass hparked hcont hwaits hleaves hu
    have hthread : u.thread core k.toNat = ((s.asThread core k.toNat).stepPass c).me := by
      rw [← hu, State.thread, State.threadAt_congr (State.threads_noteUndo ..), ← State.thread]
      exact State.thread_within (f := fun s => s.stepPass c) hpassed.meKey
    obtain ⟨-, hv, hinstret, hpc, hg, hp, hcapture⟩ := hpassed
    rw [State.me_asThread] at hinstret hpc hg hp
    rw [← hthread] at hv hinstret hpc hg hp hcapture
    refine ⟨_, hexec, ?_⟩
    intro t1 t2 reg at_
    have hreg (r : Reg) (st : BitVec 4) : reg r st = r + BitVec.ofNat 5 (c.pass * st.toNat) := advanced_eq ..
    refine ⟨?_, hinstret, hpc, hg, hp, hcapture⟩
    rw [hreg, hreg, hreg]
    exact hv

end

/-! PROOFS. The accumulator store and the numbers that matrix words write there (R52, R53, R134, R141): each is the code of an
FP32 value or a 32-bit integer; what a tile holds after a region of it has been rewritten. -/

section
namespace Sys2Proof.Machine

/-! ### Codes fit their formats (R36, R40) -/

/-- A magnitude with a sign bit before it. -/
theorem sign_add_lt {n k : Nat} (h : k < 2 ^ n) (b : Bool) : (if b then 2 ^ n else 0) + k < 2 ^ (n + 1) :=
  (Nat.add_lt_add_of_le_of_lt (iteInduction (motive := (· ≤ 2 ^ n)) (fun _ => le_rfl) fun _ => Nat.zero_le _) h).trans_eq
    (Nat.two_pow_succ n).symm

/-- The codes that a format with an infinity and a NaN gives where a magnitude is none, or overflows. -/
structure SpecialsFit (c : Nat) : Prop where
  ne : c ≠ 16
  max : (fpFormat c).maxCode < 2 ^ (fpFormat c).magBits
  nan : (nanCode c).1 < 2 ^ ((fpFormat c).magBits + 1)
  inf (sat neg : Bool) : (infCode c sat neg).1 < 2 ^ ((fpFormat c).magBits + 1)
  overflow (mode : Nat) (sat neg : Bool) : (overflowCode c mode sat neg).1 < 2 ^ ((fpFormat c).magBits + 1)

theorem ite_lt {p : Prop} [Decidable p] {x y k : Nat} (hx : x < k) (hy : y < k) : (if p then x else y) < k :=
  iteInduction (motive := (· < k)) (fun _ => hx) fun _ => hy

theorem specialsFit_fp32 : SpecialsFit 0 :=
  ⟨by decide, by decide, by decide, fun _ => sign_add_lt (n := 31) (by decide),
    fun _ _ neg => sign_add_lt (n := 31) (ite_lt (by decide) (by decide)) neg⟩

theorem specialsFit_bf16 : SpecialsFit 1 :=
  ⟨by decide, by decide, by decide, fun _ => sign_add_lt (n := 15) (by decide),
    fun _ _ neg => sign_add_lt (n := 15) (ite_lt (by decide) (by decide)) neg⟩

theorem specialsFit_fp16 : SpecialsFit 2 :=
  ⟨by decide, by decide, by decide, fun _ => sign_add_lt (n := 15) (by decide),
    fun _ _ neg => sign_add_lt (n := 15) (ite_lt (by decide) (by decide)) neg⟩

theorem ite_fst_lt {p : Prop} [Decidable p] {x y : Nat × Flags} {k : Nat} (hx : p → x.1 < k) (hy : ¬p → y.1 < k) :
    (if p then x else y).1 < k := iteInduction (motive := fun x : Nat × Flags => x.1 < k) hx hy

/-- What rounding a magnitude gives, by whether it is zero and whether its code overflows. -/
theorem roundedCode_lt {c : Nat} (h : SpecialsFit c) (mode : Nat) (sat neg : Bool) (zero noNegZero : Bool) (code : Nat)
    (fl : Flags) (p : Bool) :
    (if zero then ((if noNegZero then 0 else if neg then 2 ^ (fpFormat c).magBits else 0), {})
      else if (fpFormat c).maxCode < code then overflowCode c mode sat neg
        else (if p then 0 else (if neg then 2 ^ (fpFormat c).magBits else 0) + code, fl) : Nat × Flags).1 <
      2 ^ ((fpFormat c).magBits + 1) := by
  refine ite_fst_lt (fun _ => ?_) fun _ => ite_fst_lt (fun _ => h.overflow mode sat neg) fun hle => ?_
  · exact ite_lt (Nat.two_pow_pos _) (sign_add_lt (Nat.two_pow_pos _) neg)
  · exact ite_lt (Nat.two_pow_pos _) (sign_add_lt ((Nat.not_lt.1 hle).trans_lt h.max) neg)

theorem roundFinite_lt {c : Nat} (h : SpecialsFit c) (mode : Nat) (sat neg : Bool) (m : Nat) (e : Int) (sticky : Bool) :
    (roundFinite c mode sat neg m e sticky).1 < 2 ^ ((fpFormat c).magBits + 1) := roundedCode_lt h mode sat neg _ _ _ _ _

/-- A rounded value is a code of its format. -/
theorem fpRound_lt {c : Nat} (h : SpecialsFit c) (mode : Nat) (sat : Bool) (x : Fp) :
    (fpRound c mode sat x).1 < 2 ^ ((fpFormat c).magBits + 1) := by
  refine ite_fst_lt (fun hc => absurd hc h.ne) fun _ => ?_
  cases x with
  | nan => exact h.nan
  | inf neg => exact h.inf sat neg
  | fin neg m e => exact roundFinite_lt h mode sat neg m e false

/-! ### What a k-step leaves (R52, R53) -/

theorem pattern_lt (n : Nat) (x : Int) : pattern n x < 2 ^ n :=
  have h : (0 : Int) < (2 ^ n : Nat) := Int.natCast_pos.2 (Nat.two_pow_pos n)
  (Int.toNat_lt (Int.emod_nonneg x h.ne')).2 (Int.emod_lt_of_pos x h)

theorem kstepFp_lt (acc : Nat) (s p : Fp) : kstepFp acc s p < 2 ^ 32 := fpRound_lt specialsFit_fp32 ..

theorem kstepInt_lt (acc : Nat) (p : Int) : kstepInt acc p < 2 ^ 32 := pattern_lt ..

theorem kstep_lt (p : MatPair) (a b : MatOperand) (s : Fp) (acc i j k0 n : Nat) : kstep p a b s acc i j k0 n < 2 ^ 32 :=
  ite_lt (kstepInt_lt ..) (kstepFp_lt ..)

/-- A fold of steps that each leave 32 bits leaves 32 bits. -/
theorem foldl_lt_two_pow {α : Type} {f : Nat → α → Nat} (hf : ∀ acc x, acc < 2 ^ 32 → f acc x < 2 ^ 32) (l : List α) {acc : Nat}
    (h : acc < 2 ^ 32) : l.foldl f acc < 2 ^ 32 :=
  List.foldlRecOn l f (motive := (· < 2 ^ 32)) h fun acc hacc x _ => hf acc x hacc

theorem ksteps_lt (p : MatPair) (a b : MatOperand) (s : Fp) (i j k0 k1 : Nat) {acc : Nat} (h : acc < 2 ^ 32) :
    ksteps p a b s i j k0 k1 acc < 2 ^ 32 := foldl_lt_two_pow (fun _ _ _ => kstep_lt ..) _ h

theorem termStep_lt (p : MatPair) (a : MatOperand) (pl : Plane) (k0 j0 kn i j : Nat) {old : Nat} (t : PathTerm)
    (h : old < 2 ^ 32) : termStep p a pl k0 j0 kn i j old t < 2 ^ 32 :=
  ite_lt h (ite_lt (kstepInt_lt ..) (kstepFp_lt ..))

/-! ### Folds over a range -/

/-- What every step keeps, a fold keeps. -/
theorem foldl_range_keeps {σ : Type} (P : σ → Prop) {f : σ → Nat → σ} {n : Nat} (hf : ∀ t i, i < n → P t → P (f t i)) {s : σ}
    (h : P s) : P ((List.range n).foldl f s) :=
  List.foldlRecOn _ f (motive := P) h fun t ht i hi => hf t i (List.mem_range.1 hi) ht

theorem foldl_range_succ {σ : Type} (f : σ → Nat → σ) (s : σ) (n : Nat) :
    (List.range (n + 1)).foldl f s = f ((List.range n).foldl f s) n :=
  (congrArg (List.foldl f s) List.range_succ).trans List.foldl_append

/-- What one step brings about and the others, each before it and after it, keep, a fold brings about. -/
theorem foldl_range_at {σ : Type} (P Q : σ → Prop) {f : σ → Nat → σ} {i n m : Nat} (hi : i < m) (hm : m ≤ n)
    (hP : ∀ t j, j < n → j ≠ i → P t → P (f t j)) (hPQ : ∀ t, P t → Q (f t i))
    (hQ : ∀ t j, j < n → j ≠ i → Q t → Q (f t j)) {s : σ} (h : P s) : Q ((List.range m).foldl f s) := by
  induction hi with
  | refl =>
    rw [foldl_range_succ]
    exact hPQ _ (foldl_range_keeps P (fun t j hj => hP t j (hj.trans hm) hj.ne) h)
  | step hi ih =>
    rw [foldl_range_succ]
    exact hQ _ _ hm (Nat.ne_of_gt hi) (ih (Nat.le_of_succ_le hm))

/-! ### Tiles -/

/-- Elements in different places have different keys. -/
theorem tileKey_ne {i j i' j' : Nat} (hj : j < 128) (hj' : j' < 128) (h : i ≠ i' ∨ j ≠ j') : 128 * i + j ≠ 128 * i' + j' := by
  have hkey {i j : Nat} (h : j < 128) : (128 * i + j) / 128 = i ∧ (128 * i + j) % 128 = j :=
    (Nat.div_mod_unique (by decide)).2 ⟨Nat.add_comm .., h⟩
  intro heq
  have hrow := hkey (i := i) hj
  rw [heq, (hkey hj').1, (hkey hj').2] at hrow
  exact h.elim (absurd hrow.1.symm) (absurd hrow.2.symm)

/-- The element that mapTile rewrites. -/
def mapElement (f : Nat → Nat → Nat → Nat) (i : Nat) (t : Map (BitVec 32)) (j : Nat) : Map (BitVec 32) :=
  Map.put 0 t (128 * i + j) (BitVec.ofNat 32 (f i j (Map.get 0 t (128 * i + j)).toNat))

theorem get_mapElement_of_ne {i j k : Nat} (h : k ≠ 128 * i + j) (f : Nat → Nat → Nat → Nat) (t : Map (BitVec 32)) :
    Map.get 0 (mapElement f i t j) k = Map.get 0 t k := (Map.get_put ..).trans (if_neg h)

/-- The row that mapTile rewrites. -/
def mapRow (n : Nat) (f : Nat → Nat → Nat → Nat) (t : Map (BitVec 32)) (i : Nat) : Map (BitVec 32) :=
  (List.range n).foldl (mapElement f i) t

theorem get_mapRow_of_ne {n i k : Nat} (h : ∀ j, j < n → k ≠ 128 * i + j) (f : Nat → Nat → Nat → Nat) (t : Map (BitVec 32)) :
    Map.get 0 (mapRow n f t i) k = Map.get 0 t k :=
  foldl_range_keeps (fun u => Map.get 0 u k = Map.get 0 t k)
    (fun u j hj hu => (get_mapElement_of_ne (h j hj) f u).trans hu) rfl

/-- The value that mapTile writes in place of another. -/
def mappedTo (f : Nat → Nat → Nat → Nat) (i j : Nat) (x : BitVec 32) : BitVec 32 := BitVec.ofNat 32 (f i j x.toNat)

theorem get_mapRow {n j : Nat} (hj : j < n) (f : Nat → Nat → Nat → Nat) (t : Map (BitVec 32)) (i : Nat) :
    Map.get 0 (mapRow n f t i) (128 * i + j) = mappedTo f i j (Map.get 0 t (128 * i + j)) :=
  have hkeep (u : Map (BitVec 32)) (j' : Nat) (_ : j' < n) (h : j' ≠ j) : Map.get 0 (mapElement f i u j') (128 * i + j) = _ :=
    get_mapElement_of_ne (fun heq => h (Nat.add_left_cancel heq).symm) f u
  foldl_range_at (fun u => Map.get 0 u (128 * i + j) = Map.get 0 t (128 * i + j))
    (fun u => Map.get 0 u (128 * i + j) = mappedTo f i j (Map.get 0 t (128 * i + j))) hj le_rfl
    (fun u j' hj' h => (hkeep u j' hj' h).trans)
    (fun u hu => ((Map.get_put ..).trans (if_pos rfl)).trans (congrArg (mappedTo f i j) hu))
    (fun u j' hj' h => (hkeep u j' hj' h).trans) rfl

/-- Outside its region mapTile rewrites nothing. -/
theorem get_mapTile_of_ne {m n k : Nat} (h : ∀ i j, i < m → j < n → k ≠ 128 * i + j) (f : Nat → Nat → Nat → Nat)
    (t : Map (BitVec 32)) : Map.get 0 (mapTile m n f t) k = Map.get 0 t k :=
  foldl_range_keeps (fun u => Map.get 0 u k = Map.get 0 t k)
    (fun u i hi hu => (get_mapRow_of_ne (fun j => h i j hi) f u).trans hu) rfl

/-- Each element of its region mapTile rewrites. -/
theorem get_mapTile {m n i j : Nat} (hi : i < m) (hj : j < n) (hn : n ≤ 128) (f : Nat → Nat → Nat → Nat)
    (t : Map (BitVec 32)) : Map.get 0 (mapTile m n f t) (128 * i + j) = mappedTo f i j (Map.get 0 t (128 * i + j)) :=
  have hkeep (u : Map (BitVec 32)) (i' : Nat) (_ : i' < m) (h : i' ≠ i) : Map.get 0 (mapRow n f u i') (128 * i + j) = _ :=
    get_mapRow_of_ne (fun _ hj' => tileKey_ne (hj.trans_le hn) (hj'.trans_le hn) (.inl h.symm)) f u
  foldl_range_at (fun u => Map.get 0 u (128 * i + j) = Map.get 0 t (128 * i + j))
    (fun u => Map.get 0 u (128 * i + j) = mappedTo f i j (Map.get 0 t (128 * i + j))) hi le_rfl
    (fun u i' hi' h => (hkeep u i' hi' h).trans)
    (fun u hu => (get_mapRow hj f u i).trans (congrArg (mappedTo f i j) hu))
    (fun u i' hi' h => (hkeep u i' hi' h).trans) rfl

theorem Core.tile_setTile (c : Core) (t : Nat) (m : Map (BitVec 32)) : (c.setTile t m).tile t = m := by
  cases t with
  | zero => rfl
  | succ t => rfl

theorem Core.tile_setTile_of_ne (c : Core) {t q : Nat} (ht : t < 2) (hq : q < 2) (h : q ≠ t) (m : Map (BitVec 32)) :
    (c.setTile t m).tile q = c.tile q := by
  cases t with
  | zero =>
    cases q with
    | zero => exact absurd rfl h
    | succ q => rfl
  | succ t =>
    cases q with
    | zero => rfl
    | succ q => exact absurd ((Nat.lt_one_iff.1 (Nat.lt_of_succ_lt_succ hq)).trans
        (Nat.lt_one_iff.1 (Nat.lt_of_succ_lt_succ ht)).symm) fun heq => h (congrArg Nat.succ heq)

theorem Core.elem_cleanTile_setTile (c : Core) (t : Nat) (tile : Map (BitVec 32)) (m n i j : Nat) :
    ((c.setTile t tile).cleanTile t m n).elem t i j = (Map.get 0 tile (128 * i + j)).toNat :=
  congrArg (fun x => BitVec.toNat (Map.get 0 x (128 * i + j))) (Core.tile_setTile ..)

theorem Core.elem_cleanTile_setTile_of_ne (c : Core) {t q : Nat} (ht : t < 2) (hq : q < 2) (h : q ≠ t)
    (tile : Map (BitVec 32)) (m n i j : Nat) : ((c.setTile t tile).cleanTile t m n).elem q i j = c.elem q i j :=
  congrArg (fun x => BitVec.toNat (Map.get 0 x (128 * i + j))) (Core.tile_setTile_of_ne c ht hq h _)

theorem Core.elem_lt (c : Core) (t i j : Nat) : c.elem t i j < 2 ^ 32 := BitVec.isLt _

/-- What mapAcc leaves of the tile that it rewrites. -/
theorem State.elem_mapAcc_tile (s : State) (t m n : Nat) (f : Nat → Nat → Nat → Nat) (i j : Nat) :
    (s.mapAcc t m n f).myCore.elem t i j = (Map.get 0 (mapTile m n f (s.myCore.tile t)) (128 * i + j)).toNat :=
  (congrArg (fun c : Core => c.elem t i j) (myCore_setMyCore ..)).trans
    (Core.elem_cleanTile_setTile ..)

/-- An element of the region after it has been rewritten by a number of 32 bits (R134). -/
theorem State.elem_mapAcc (s : State) (t : Nat) {m n i j : Nat} (hi : i < m) (hj : j < n) (hn : n ≤ 128)
    {f : Nat → Nat → Nat → Nat} (hf : ∀ x, x < 2 ^ 32 → f i j x < 2 ^ 32) :
    (s.mapAcc t m n f).myCore.elem t i j = f i j (s.myCore.elem t i j) :=
  ((s.elem_mapAcc_tile ..).trans (congrArg BitVec.toNat (get_mapTile hi hj hn f _))).trans
    ((BitVec.toNat_ofNat ..).trans (Nat.mod_eq_of_lt (hf _ (Core.elem_lt ..))))

/-- Every other element keeps its value. -/
theorem State.elem_mapAcc_of_not (s : State) {t m n q i j : Nat} (ht : t < 2) (hq : q < 2) (hn : n ≤ 128) (hj : j < 128)
    (h : ¬(q = t ∧ i < m ∧ j < n)) (f : Nat → Nat → Nat → Nat) :
    (s.mapAcc t m n f).myCore.elem q i j = s.myCore.elem q i j := by
  by_cases hqt : q = t
  · subst hqt
    have hout (i' j' : Nat) (hi' : i' < m) (hj' : j' < n) : 128 * i + j ≠ 128 * i' + j' := fun heq => by
      by_cases heqs : i = i' ∧ j = j'
      · exact h ⟨rfl, heqs.1 ▸ hi', heqs.2 ▸ hj'⟩
      · exact tileKey_ne hj (hj'.trans_le hn) (not_and_or.1 heqs) heq
    exact (s.elem_mapAcc_tile ..).trans (congrArg BitVec.toNat (get_mapTile_of_ne hout f _))
  · exact (congrArg (fun c : Core => c.elem q i j) (myCore_setMyCore ..)).trans
      (Core.elem_cleanTile_setTile_of_ne _ ht hq hqt ..)

end Sys2Proof.Machine
end

/-! PROOFS. What matrix words read and write of the own scratchpad and of v registers: the scratchpad as captured (R127),
the rows of MLOAD and MSTORE (R143), the slices of MSLICE and MQUANT (R144). -/

section
namespace Sys2Proof.Machine

open Safety

/-! ### Bytes of a number (R2) -/

@[simp] theorem length_leBytes (n x : Nat) : (leBytes n x).length = n := by
  induction n generalizing x with
  | zero => rfl
  | succ n ih => exact congrArg Nat.succ (ih _)

theorem ofLe_leBytes {n x : Nat} (h : x < 256 ^ n) : ofLe (leBytes n x) = x := by
  induction n generalizing x with
  | zero => exact (Nat.lt_one_iff.1 h).symm
  | succ n ih =>
    have hrest : x / 256 < 256 ^ n := Nat.div_lt_of_lt_mul (h.trans_eq (Nat.mul_comm ..))
    exact (congrArg₂ (fun a b => a + 256 * b) (BitVec.toNat_ofNat ..) (ih hrest)).trans (Nat.mod_add_div x 256)

theorem ofLe_lt (l : List Byte) : ofLe l < 256 ^ l.length := by
  induction l with
  | nil => exact Nat.one_pos
  | cons b r ih =>
    calc b.toNat + 256 * ofLe r < 256 * (ofLe r + 1) := (Nat.add_lt_add_right b.isLt _).trans_eq (Nat.add_comm ..)
      _ ≤ 256 * 256 ^ r.length := Nat.mul_le_mul_left _ ih
      _ = 256 ^ (r.length + 1) := Nat.mul_comm ..

/-! ### The scratchpad as a word captures it -/

/-- What a map finds of which the entries of some keys have been taken out and renamed. -/
theorem Map.find_filter_rename {α : Type} (m : Map α) {p : Nat → Bool} {rename : Nat → Nat} {k a : Nat} (hk : p k = true)
    (hrename : ∀ x, p x = true → (rename x = a ↔ x = k)) :
    Map.find ((m.filter fun e => p e.1).map fun e => (rename e.1, e.2)) a = Map.find m k := by
  induction m with
  | nil => rfl
  | cons e r ih =>
    by_cases hin : p e.1 = true
    · rw [List.filter_cons_of_pos (p := fun e : Nat × α => p e.1) hin]
      exact if_ctx_congr (hrename e.1 hin) (fun _ => rfl) fun _ => ih
    · rw [List.filter_cons_of_neg (p := fun e : Nat × α => p e.1) hin]
      exact ih.trans (if_neg fun heq : e.1 = k => hin (heq ▸ hk)).symm

/-- The captured copy holds the bytes of the scratchpad (R127). -/
theorem State.get_padCopy (s : State) (core : Nat) {a : Nat} (ha : a < Config.padSize) :
    Map.get 0 (s.padCopy core) a = s.memByte (padBase core + a) :=
  have hin : (decide (padBase core ≤ padBase core + a) && decide (padBase core + a < padBase core + Config.padSize)) = true :=
    Bool.and_eq_true_iff.2 ⟨decide_eq_true (Nat.le_add_right ..), decide_eq_true (Nat.add_lt_add_left ha _)⟩
  congrArg (fun o : Option Byte => o.getD 0) (Map.find_filter_rename s.mem
    (p := fun x => padBase core ≤ x && x < padBase core + Config.padSize) (rename := fun x => x - padBase core) hin fun _ hx =>
      Nat.sub_eq_iff_eq_add' (of_decide_eq_true (Bool.and_eq_true_iff.1 hx).1))

/-- Where a run lies outside the scratchpad. -/
def outsideRun (r : Nat × Nat) : Option Nat :=
  if Config.padSize ≤ r.1 % 2 ^ 64 then some (r.1 % 2 ^ 64)
  else if Config.padSize < r.1 % 2 ^ 64 + r.2 then some Config.padSize else none

theorem end_le_of_outsideRun {r : Nat × Nat} : outsideRun r = none → r.1 % 2 ^ 64 + r.2 ≤ Config.padSize :=
  iteInduction (motive := fun o : Option Nat => o = none → r.1 % 2 ^ 64 + r.2 ≤ Config.padSize)
    (fun _ h => absurd h (Option.some_ne_none _)) fun _ => iteInduction
      (motive := fun o : Option Nat => o = none → r.1 % 2 ^ 64 + r.2 ≤ Config.padSize)
      (fun _ h => absurd h (Option.some_ne_none _)) fun h _ => Nat.not_lt.1 h

/-- The lower of two addresses. -/
def lowerOutside (a b : Option Nat) : Option Nat :=
  match a, b with
  | some u, some v => some (min u v)
  | some u, none => some u
  | none, b => b

theorem none_of_lowerOutside {a b : Option Nat} (h : lowerOutside a b = none) : a = none ∧ b = none := by
  cases a with
  | none => exact ⟨rfl, h⟩
  | some u => cases b with
    | none => exact absurd h (Option.some_ne_none _)
    | some v => exact absurd h (Option.some_ne_none _)

/-- Runs none of which lies outside end inside the scratchpad. -/
theorem end_le_of_foldl_outside {rs : List (Nat × Nat)} {a : Option Nat}
    (h : rs.foldl (fun a r => lowerOutside a (outsideRun r)) a = none) :
    a = none ∧ ∀ r ∈ rs, r.1 % 2 ^ 64 + r.2 ≤ Config.padSize := by
  induction rs generalizing a with
  | nil => exact ⟨h, fun _ hr => absurd hr List.not_mem_nil⟩
  | cons r rs ih =>
    have hboth := none_of_lowerOutside (ih h).1
    exact ⟨hboth.1, List.forall_mem_cons.2 ⟨end_le_of_outsideRun hboth.2, (ih h).2⟩⟩

theorem end_le_of_outsidePad {rs : List (Nat × Nat)} (h : outsidePad rs = none) :
    ∀ r ∈ rs, r.1 % 2 ^ 64 + r.2 ≤ Config.padSize := (end_le_of_foldl_outside (a := none) h).2

/-! ### Rows of MLOAD and MSTORE (R143) -/

/-- Where row i lies: g(a) + i × g(b), as a 64-bit address. -/
def rowAt (ga gb : Word) (i : Nat) : Nat := (((ga.toNat : Int) + i * gb.toInt) % 2 ^ 64).toNat

theorem rowAt_eq (ga gb : Word) (i : Nat) : pattern 64 (ga.toNat + i * gb.toInt) = rowAt ga gb i :=
  congrArg (fun m : Int => (((ga.toNat : Int) + i * gb.toInt) % m).toNat) (Nat.cast_pow 2 64)

theorem rowAt_lt (ga gb : Word) (i : Nat) : rowAt ga gb i < 2 ^ 64 := (rowAt_eq ..).symm.trans_lt (pattern_lt ..)

theorem moveRuns_eq (sh ga gb : Word) (size : Nat) :
    moveRuns sh ga gb size = (List.range (shM sh)).map fun i => (rowAt ga gb i, shN sh * size) :=
  ((congrArg (List.map fun i : Int => (pattern 64 (ga.toNat + i * gb.toInt), shN sh * size)) List.map_eq_flatMap.symm).trans
    List.map_map).trans (List.map_congr_left fun i _ => congrArg (fun x => (x, shN sh * size)) (rowAt_eq ga gb i))

theorem getD_moveRuns (sh ga gb : Word) (size : Nat) {i : Nat} (hi : i < shM sh) :
    ((moveRuns sh ga gb size).getD i (0, 0)).1 = rowAt ga gb i :=
  congrArg Prod.fst ((congrArg (fun l : List (Nat × Nat) => l.getD i (0, 0)) (moveRuns_eq ..)).trans (getD_map_range _ hi _))

/-- A row that does not lie outside ends inside the scratchpad. -/
theorem rowAt_end_le {sh ga gb : Word} {size : Nat} (h : outsidePad (moveRuns sh ga gb size) = none) {i : Nat}
    (hi : i < shM sh) : rowAt ga gb i + shN sh * size ≤ Config.padSize :=
  (congrArg (· + shN sh * size) (Nat.mod_eq_of_lt (rowAt_lt ..))).symm.trans_le
    (end_le_of_outsidePad ((congrArg outsidePad (moveRuns_eq ..)).symm.trans h) _ (List.mem_map_of_mem (List.mem_range.2 hi)))

theorem storeSize_eq (f : Reg) : storeSize f = if f = 1#5 ∨ f = 2#5 then 2 else 4 :=
  if_congr ((Bool.or_eq_true ..).to_iff.trans (or_congr decide_eq_true_iff decide_eq_true_iff)) rfl rfl

/-- MSTORE stores the pattern, or the code of the 16-bit format that it is rounded to. -/
theorem storeElement_fst (f : Reg) (sat : Bool) (x : Nat) :
    (storeElement f sat x).1 = if storeSize f = 2 then (fpConvert 0 f.toNat 0 sat x).1 else x :=
  Bool.rec (motive := fun b => (if b then fpConvert 0 f.toNat 0 sat x else (x, {}) : Nat × Flags).1 =
    if (if b then 2 else 4) = 2 then (fpConvert 0 f.toNat 0 sat x).1 else x) rfl rfl (f = 1#5 || f = 2#5)

theorem storeElement_lt (f : Reg) (sat : Bool) {x : Nat} (hx : x < 2 ^ 32) :
    (storeElement f sat x).1 < 256 ^ storeSize f := by
  by_cases h1 : f = 1#5
  · subst h1
    exact fpRound_lt specialsFit_bf16 ..
  · by_cases h2 : f = 2#5
    · subst h2
      exact fpRound_lt specialsFit_fp16 ..
    · have hsize : storeSize f = 4 := (storeSize_eq f).trans (if_neg (not_or.2 ⟨h1, h2⟩))
      rw [storeElement_fst, hsize]
      exact hx

/-- The bytes that MSTORE writes to row i of what a core's accumulator store holds. -/
def storedBytes (d f : Reg) (n : Nat) (c : Core) (sat : Bool) (i : Nat) : List Byte :=
  ((List.range n).map fun j => storeElement f sat (c.elem (tileReg d) i j)).flatMap fun x => leBytes (storeSize f) x.1

theorem length_flatMap_of_length {α β : Type} {f : α → List β} {c : Nat} (hf : ∀ a, (f a).length = c) (l : List α) :
    (l.flatMap f).length = c * l.length := by
  induction l with
  | nil => rfl
  | cons a r ih => exact List.length_append.trans ((congrArg₂ (· + ·) (hf a) ih).trans (Nat.add_comm ..))

theorem length_storedBytes (d f : Reg) (n : Nat) (c : Core) (sat : Bool) (i : Nat) :
    (storedBytes d f n c sat i).length = storeSize f * n :=
  (length_flatMap_of_length (fun _ => length_leBytes ..) _).trans
    (congrArg (storeSize f * ·) ((List.length_map ..).trans List.length_range))

/-- The bytes of element j of a row. -/
theorem getD_storedBytes (d f : Reg) {n : Nat} (c : Core) (sat : Bool) (i : Nat) {j k : Nat} (hj : j < n)
    (hk : k < storeSize f) : (storedBytes d f n c sat i).getD (storeSize f * j + k) 0 =
      (leBytes (storeSize f) (storeElement f sat (c.elem (tileReg d) i j)).1).getD k 0 :=
  (getD_flatMap (fun _ => length_leBytes ..) 0 hk (hj.trans_eq ((List.length_map ..).trans List.length_range).symm)).trans
    (congrArg (fun x : Nat × Flags => (leBytes (storeSize f) x.1).getD k 0) ((List.getElem_map ..).trans
      (congrArg (fun j => storeElement f sat (c.elem (tileReg d) i j)) (List.getElem_range ..))))

/-! ### What MSTORE writes (R143) -/

/-- What the rows of an MSTORE read beside memory, and what the engine's bookkeeping reads of the word's thread. -/
def storeView (s : State) : Map Core × Nat × BitVec 2 × VCtl × Word × Word :=
  (s.cores, s.curCore, s.curTid, s.me.vctl, s.me.pc, s.me.instret)

theorem storeView_putBytes (s : State) (k : Nat) (bs : List Byte) : storeView (s.putBytes k bs) = storeView s := by
  induction bs generalizing s k with
  | nil => rfl
  | cons b r ih => exact ih (s.putByte k b) (k + 1)

theorem storeView_coverRun (s : State) (k n : Nat) : storeView (s.coverRun k n) = storeView s :=
  iteInduction (motive := fun t => storeView t = storeView s) (fun _ => rfl) fun _ => rfl

theorem storeView_padWrite (s : State) (core off : Nat) (bs : List Byte) : storeView (s.padWrite core off bs) = storeView s :=
  (storeView_coverRun ..).trans (storeView_putBytes ..)

theorem storeView_raiseV (s : State) (fl : Flags) : storeView (s.raiseV fl) = storeView s :=
  (congrArg (fun t : Thread => (s.cores, s.curCore, s.curTid, t.vctl, t.pc, t.instret)) (State.me_raiseV s fl) :)

/-- MSTORE of one row. -/
def storeRow (d f : Reg) (e : MatEntry) (s : State) (i : Nat) : State :=
  (s.raiseV (((List.range (shN e.shape)).map fun j => storeElement f s.vsat (s.myCore.elem (tileReg d) i j)).foldl
    (fun a x => a.or x.2) {})).padWrite s.curCore (rowAt e.ga e.gb i) (storedBytes d f (shN e.shape) s.myCore s.vsat i)

theorem mstoreRun_eq (d f : Reg) (e : MatEntry) (s : State) :
    mstoreRun d f e s = (List.range (shM e.shape)).foldl (storeRow d f e) s :=
  List.foldl_ext _ _ _ fun t _ hi => congrArg (fun off => State.padWrite _ t.curCore off _)
    (getD_moveRuns e.shape e.ga e.gb (storeSize f) (List.mem_range.1 hi))

theorem storeView_storeRow (d f : Reg) (e : MatEntry) (s : State) (i : Nat) : storeView (storeRow d f e s i) = storeView s :=
  (storeView_padWrite ..).trans (storeView_raiseV ..)

/-- An address of row i of a move to or from the scratchpad of a core. -/
def InRow (core : Nat) (e : MatEntry) (size i a : Nat) : Prop :=
  padBase core + rowAt e.ga e.gb i ≤ a ∧ a < padBase core + rowAt e.ga e.gb i + size * shN e.shape

theorem memByte_padWrite_of_not (s : State) {core core' off n a : Nat} (hcore : core = core') {bs : List Byte}
    (hn : bs.length = n) (h : ¬(padBase core' + off ≤ a ∧ a < padBase core' + off + n)) :
    (s.padWrite core off bs).memByte a = s.memByte a := (State.memByte_padWrite ..).trans (if_neg (hcore ▸ hn ▸ h))

theorem memByte_padWrite_at (s : State) {core core' n k : Nat} (hcore : core = core') (off : Nat) {bs : List Byte}
    (hn : bs.length = n) (hk : k < n) : (s.padWrite core off bs).memByte (padBase core' + off + k) = bs.getD k 0 :=
  hcore ▸ ((State.memByte_padWrite ..).trans (if_pos ⟨Nat.le_add_right .., Nat.add_lt_add_left (hn ▸ hk) _⟩)).trans
    (congrArg (bs.getD · 0) (Nat.add_sub_cancel_left ..))

section
variable {s t : State} (ht : storeView t = storeView s)
include ht

theorem curCore_of_storeView : t.curCore = s.curCore := congrArg (fun v => v.2.1) ht

theorem cores_of_storeView : t.cores = s.cores := congrArg (fun v => v.1) ht

theorem myCore_of_storeView : t.myCore = s.myCore :=
  congrArg₂ (Map.get Core.idle) (cores_of_storeView ht) (curCore_of_storeView ht)

theorem vsat_of_storeView : t.vsat = s.vsat := congrArg (fun v => v.2.2.2.1.sat) ht

variable (d f : Reg) (e : MatEntry)

theorem memByte_storeRow_of_not {i a : Nat} (h : ¬InRow s.curCore e (storeSize f) i a) :
    (storeRow d f e t i).memByte a = t.memByte a :=
  memByte_padWrite_of_not _ (curCore_of_storeView ht) (length_storedBytes ..) h

theorem memByte_storeRow_at (i : Nat) {k : Nat} (hk : k < storeSize f * shN e.shape) :
    (storeRow d f e t i).memByte (padBase s.curCore + rowAt e.ga e.gb i + k) =
      (storedBytes d f (shN e.shape) s.myCore s.vsat i).getD k 0 :=
  (memByte_padWrite_at _ (curCore_of_storeView ht) _ (length_storedBytes ..) hk).trans
    (congrArg₂ (fun c sat => (storedBytes d f (shN e.shape) c sat i).getD k 0) (myCore_of_storeView ht) (vsat_of_storeView ht))

end

theorem storeView_mstoreRun (d f : Reg) (e : MatEntry) (s : State) : storeView (mstoreRun d f e s) = storeView s :=
  mstoreRun_eq d f e s ▸ foldl_range_keeps (fun t => storeView t = storeView s) (fun _ _ _ => (storeView_storeRow ..).trans) rfl

/-- Outside its rows MSTORE writes nothing. -/
theorem memByte_mstoreRun_of_not (d f : Reg) (e : MatEntry) (s : State) {a : Nat}
    (h : ∀ i, i < shM e.shape → ¬InRow s.curCore e (storeSize f) i a) : (mstoreRun d f e s).memByte a = s.memByte a := by
  rw [mstoreRun_eq]
  exact (foldl_range_keeps (fun t => storeView t = storeView s ∧ t.memByte a = s.memByte a) (fun _ i hi ht =>
    ⟨(storeView_storeRow ..).trans ht.1, (memByte_storeRow_of_not ht.1 d f e (h i hi)).trans ht.2⟩) ⟨rfl, rfl⟩).2

/-- Rows apart from each other each hold their bytes. -/
theorem memByte_mstoreRun_at (d f : Reg) (e : MatEntry) (s : State) {i k : Nat} (hi : i < shM e.shape)
    (hk : k < storeSize f * shN e.shape)
    (h : ∀ j, j < shM e.shape → j ≠ i → ¬InRow s.curCore e (storeSize f) j (padBase s.curCore + rowAt e.ga e.gb i + k)) :
    (mstoreRun d f e s).memByte (padBase s.curCore + rowAt e.ga e.gb i + k) =
      (storedBytes d f (shN e.shape) s.myCore s.vsat i).getD k 0 := by
  rw [mstoreRun_eq]
  exact (foldl_range_at (f := storeRow d f e) (fun t => storeView t = storeView s) (fun t => storeView t = storeView s ∧
      t.memByte (padBase s.curCore + rowAt e.ga e.gb i + k) = (storedBytes d f (shN e.shape) s.myCore s.vsat i).getD k 0)
    hi le_rfl (fun _ _ _ _ => (storeView_storeRow ..).trans)
    (fun _ ht => ⟨(storeView_storeRow d f e _ i).trans ht, memByte_storeRow_at ht d f e i hk⟩)
    (fun _ j hj hne ht =>
      ⟨(storeView_storeRow d f e _ j).trans ht.1, (memByte_storeRow_of_not ht.1 d f e (h j hj hne)).trans ht.2⟩) rfl).2

/-- Of rows apart from each other no byte of one lies in another. -/
theorem not_inRow_of_apart {core : Nat} {e : MatEntry} {size m : Nat}
    (hapart : ∀ i j, i < j → j < m → rowAt e.ga e.gb i + size * shN e.shape ≤ rowAt e.ga e.gb j ∨
      rowAt e.ga e.gb j + size * shN e.shape ≤ rowAt e.ga e.gb i) {i j k : Nat} (hi : i < m) (hj : j < m) (hne : j ≠ i)
    (hk : k < size * shN e.shape) : ¬InRow core e size j (padBase core + rowAt e.ga e.gb i + k) := by
  have hboth : rowAt e.ga e.gb i + size * shN e.shape ≤ rowAt e.ga e.gb j ∨
      rowAt e.ga e.gb j + size * shN e.shape ≤ rowAt e.ga e.gb i :=
    (Nat.lt_or_gt_of_ne hne).elim (fun h => (hapart j i h hi).symm) fun h => hapart i j h hj
  rintro ⟨hlow, hhigh⟩
  rw [Nat.add_assoc] at hlow hhigh
  rcases hboth with h | h
  · exact absurd (Nat.le_of_add_le_add_left hlow) (Nat.not_le.2 ((Nat.add_lt_add_left hk _).trans_le h))
  · rw [Nat.add_assoc] at hhigh
    exact absurd (Nat.lt_of_add_lt_add_left hhigh) (Nat.not_lt.2 (h.trans (Nat.le_add_right ..)))

theorem map_getD_leBytes (n x : Nat) : ((List.range n).map fun k => (leBytes n x).getD k 0) = leBytes n x := by
  have h := State.map_range_eq_of_getD (bs := leBytes n x) fun _ _ => rfl
  rwa [length_leBytes] at h

/-- Each element reads back as it is stored (R143). -/
theorem padRead_mstoreRun (d f : Reg) (e : MatEntry) (s : State)
    (hapart : ∀ i j, i < j → j < shM e.shape → rowAt e.ga e.gb i + storeSize f * shN e.shape ≤ rowAt e.ga e.gb j ∨
      rowAt e.ga e.gb j + storeSize f * shN e.shape ≤ rowAt e.ga e.gb i) {i j : Nat} (hi : i < shM e.shape)
    (hj : j < shN e.shape) :
    ofLe ((mstoreRun d f e s).padRead s.curCore (rowAt e.ga e.gb i + storeSize f * j) (storeSize f)) =
      (storeElement f s.vsat (s.myCore.elem (tileReg d) i j)).1 := by
  refine (congrArg ofLe ((List.map_congr_left fun k hk => ?_).trans (map_getD_leBytes ..))).trans
    (ofLe_leBytes (storeElement_lt f _ (Core.elem_lt ..)))
  have hkey : padBase s.curCore + (rowAt e.ga e.gb i + storeSize f * j) + k =
      padBase s.curCore + rowAt e.ga e.gb i + (storeSize f * j + k) := by rw [Nat.add_assoc, Nat.add_assoc, Nat.add_assoc]
  have hin : storeSize f * j + k < storeSize f * shN e.shape :=
    (Nat.add_lt_add_left (List.mem_range.1 hk) _).trans_le (Nat.mul_le_mul_left _ hj)
  rw [hkey, memByte_mstoreRun_at d f e s hi hin fun j hj hne => not_inRow_of_apart hapart hi hj hne hin]
  exact getD_storedBytes d f _ _ i hj (List.mem_range.1 hk)

/-! ### Slices (R144) -/

theorem lane_setLane_self (x : VReg) {w i : Nat} (v : Nat) (hi : i < 1024 / w) : lane (setLane x w i v) w i = v % 2 ^ w :=
  (lane_packLanes_map_range _ hi).trans (congrArg (· % 2 ^ w) (if_pos rfl))

/-- Element k of the slice that a selector names. -/
def sliceElem (c : Core) (x : Word) (k : Nat) : Nat :=
  c.elem (x.toNat / 2 ^ 9 % 2) (x.toNat % 128) (32 * (x.toNat / 2 ^ 7 % 4) + k)

theorem slice_eq (s : State) (x : Word) : s.slice x = (List.range 32).map (sliceElem s.myCore x) :=
  congrArg (fun r => (List.range 32).map fun k => s.myCore.elem (x.toNat / 2 ^ 9 % 2) (r % 128) (32 * (x.toNat / 2 ^ 7 % 4) + k))
    (Nat.div_one x.toNat)

/-- MSLICE writes the 32 elements that its selector names. -/
theorem lane_msliceRun (d : Reg) (e : MatEntry) (s : State) {i : Nat} (hi : i < 32) :
    lane ((msliceRun d e s).v d) 32 i = sliceElem s.myCore e.ga i :=
  ((congrArg (fun x => lane x 32 i) ((State.v_setV ..).trans (if_pos rfl))).trans
    ((congrArg (fun l => lane (packLanes 32 l) 32 i) (slice_eq ..)).trans
      (lane_packLanes_map_range (w := 32) (sliceElem s.myCore e.ga) hi))).trans (Nat.mod_eq_of_lt (Core.elem_lt ..))

/-- The block that MQUANT makes of a slice: scale, codes, flags. -/
def sliceBlock (c : Core) (ctl : VCtl) (x : Word) : Nat × List Nat × Flags :=
  mxQuantise ctl.qfmt.toNat ctl.sat ((List.range 32).map fun i => some (fpDecode 0 (sliceElem c x i)))

theorem sliceBlock_eq (s : State) (x : Word) :
    mxQuantise s.me.vctl.qfmt.toNat s.vsat ((s.slice x).map fun x => some (fpDecode 0 x)) = sliceBlock s.myCore s.me.vctl x :=
  congrArg (mxQuantise s.me.vctl.qfmt.toNat s.vsat)
    ((congrArg (List.map fun x => some (fpDecode 0 x)) (slice_eq ..)).trans List.map_map)

/-- What MQUANT leaves of a block. -/
def quantised (d b : Reg) (x : Word) (s : State) (block : Nat × List Nat × Flags) : State :=
  ((s.raiseV block.2.2).setV d (packLanes (formatWidth s.me.vctl.qfmt.toNat)
    ((List.range (1024 / formatWidth s.me.vctl.qfmt.toNat)).map fun i =>
      if sliceCol x ≤ i && i < sliceCol x + 32 then block.2.1.getD (i - sliceCol x) 0
      else lane (s.v d) (formatWidth s.me.vctl.qfmt.toNat) i))).setV b (setLane (s.v b) 8 (sliceCol x / 32) block.1)

theorem mquantRun_eq (d b : Reg) (e : MatEntry) (s : State) :
    mquantRun d b e s = quantised d b e.ga s (sliceBlock s.myCore s.me.vctl e.ga) :=
  congrArg (quantised d b e.ga s) (sliceBlock_eq ..)

/-- MQUANT writes the scale of its block to vb. -/
theorem lane_quantised_scale (d b : Reg) (x : Word) (s : State) (block : Nat × List Nat × Flags) :
    lane ((quantised d b x s block).v b) 8 (x.toNat / 2 ^ 7 % 4) = block.1 % 256 :=
  have hcol : sliceCol x / 32 = x.toNat / 2 ^ 7 % 4 := Nat.mul_div_cancel_left _ (by decide)
  (congrArg (fun y => lane y 8 (x.toNat / 2 ^ 7 % 4)) (((State.v_setV ..).trans (if_pos rfl)).trans
    (congrArg (setLane (s.v b) 8 · block.1) hcol))).trans
      (lane_setLane_self _ _ ((Nat.mod_lt _ (by decide : 0 < 4)).trans (by decide)))

/-- MQUANT writes the codes of its block to vd, in the lanes of the slice. -/
theorem lane_quantised_code {d b : Reg} (h : d ≠ b) (x : Word) (block : Nat × List Nat × Flags) {s : State} {w : Nat} {old : VReg}
    (hw : formatWidth s.me.vctl.qfmt.toNat = w) (hold : s.v d = old) {i : Nat} (hi : i < 1024 / w) :
    lane ((quantised d b x s block).v d) w i = if sliceCol x ≤ i ∧ i < sliceCol x + 32 then
      block.2.1.getD (i - sliceCol x) 0 % 2 ^ w else lane old w i := by
  subst hw hold
  exact ((congrArg (fun y => lane y (formatWidth s.me.vctl.qfmt.toNat) i) (((State.v_setV ..).trans (if_neg h)).trans
    ((State.v_setV ..).trans (if_pos rfl)))).trans (lane_packLanes_map_range _ hi)).trans
      ((apply_ite (· % 2 ^ formatWidth s.me.vctl.qfmt.toNat) ..).trans
        (if_congr ((Bool.and_eq_true ..).to_iff.trans (and_congr decide_eq_true_iff decide_eq_true_iff)) rfl
          (Nat.mod_eq_of_lt (lane_lt ..))))

end Sys2Proof.Machine
end

/-! PROOFS. The effects of matrix words (R134 to R144), whatever word the engine performs, and their issue (R127, R130, R136). -/

section
namespace Sys2Proof.Machine

open Safety

/-! ### What an effect reads -/

/-- The stores of the engine that matrix words read and write. -/
def Core.stores (c : Core) := (c.acc0, c.acc1, c.cb2)

/-- What retiring leaves of a core: those stores, their poison, and the queues. -/
def Core.engine (c : Core) := (c.stores, c.mq, c.vq, c.accPoison, c.cb2Poison, c.queued)

theorem engine_countInterval (s : State) : s.countInterval.myCore.engine = s.myCore.engine :=
  iteInduction (motive := fun t : State => t.myCore.engine = s.myCore.engine)
    (fun _ => (congrArg Core.engine (State.myCore_setMyCore ..) :)) fun _ => rfl

theorem engine_retire (s : State) : s.retire.myCore.engine = s.myCore.engine := engine_countInterval _

/-- The state in which a word is performed reads as a core and a thread do. -/
structure ReadsAs (s : State) (c : Core) (t : Thread) : Prop where
  stores : s.myCore.stores = c.stores
  thread : (s.me.v, s.me.vctl) = (t.v, t.vctl)

theorem readsAs_retire (s : State) : ReadsAs s.retire s.myCore s.me :=
  ⟨congrArg (fun v => v.1) (engine_retire s), (congrArg (fun t : Thread => (t.v, t.vctl)) (State.me_retire s) :)⟩

section
variable {s : State} {c : Core} {th : Thread} (h : ReadsAs s c th)
include h

theorem ReadsAs.elem (t i j : Nat) : s.myCore.elem t i j = c.elem t i j :=
  (congrArg (fun v : Map (BitVec 32) × Map (BitVec 32) × Map (BitVec 32) =>
    (Map.get 0 (if t = 0 then v.1 else v.2.1) (128 * i + j)).toNat) h.stores :)

theorem ReadsAs.srcOf (e : MatEntry) : s.srcOf e = ⟨e.pad, c.cb2⟩ := (congrArg (fun v => MatSrc.mk e.pad v.2.2) h.stores :)

theorem ReadsAs.vctl : s.me.vctl = th.vctl := congrArg (fun v => v.2) h.thread

theorem ReadsAs.v (r : Reg) : s.v r = th.v[r.toNat] := congrArg (fun v => v.1[r.toNat]) h.thread

end

/-! ### What each effect does to the accumulator store -/

/-- Of tile t the region of M rows and N columns holds values, and every other element is as it was. -/
def Rewritten (u : Core) (c : Core) (t m n : Nat) (val : Nat → Nat → Nat) : Prop :=
  (∀ q i j, i < 128 → j < 128 → q < 2 → ¬(q = t ∧ i < m ∧ j < n) → u.elem q i j = c.elem q i j) ∧
    ∀ i j, i < m ∧ j < n → u.elem t i j = val i j

theorem rewritten_mapAcc {s : State} {c : Core} {th : Thread} (h : ReadsAs s c th) {t m n : Nat} (ht : t < 2) (hn : n ≤ 128)
    {f : Nat → Nat → Nat → Nat} (hf : ∀ i j x, x < 2 ^ 32 → f i j x < 2 ^ 32) :
    Rewritten (s.mapAcc t m n f).myCore c t m n fun i j => f i j (c.elem t i j) :=
  ⟨fun q i j _ hj hq hout => (s.elem_mapAcc_of_not ht hq hn hj hout f).trans (h.elem q i j),
    fun i j hin => (s.elem_mapAcc t hin.1 hin.2 hn (hf i j)).trans (congrArg (f i j) (h.elem t i j))⟩

theorem Rewritten.congr {u c : Core} {t m n : Nat} {val val' : Nat → Nat → Nat} (h : Rewritten u c t m n val)
    (hval : ∀ i j, i < m → j < n → val i j = val' i j) : Rewritten u c t m n val' :=
  ⟨h.1, fun i j hij => (h.2 i j hij).trans (hval i j hij.1 hij.2)⟩

theorem ofLe_four_lt (f : Nat → Byte) : ofLe ((List.range 4).map f) < 2 ^ 32 :=
  (ofLe_lt _).trans_eq (congrArg (256 ^ ·) ((List.length_map _).trans List.length_range))

theorem tileReg_lt (d : Reg) : tileReg d < 2 := Nat.mod_lt _ (by decide)

section
variable {s : State} {c : Core} {th : Thread} (h : ReadsAs s c th) (e : MatEntry) (hN : shN e.shape ≤ 128)
include h hN

/-- MMA: the k-steps of each element of the region, from 0 if z = 1 (R134, R135). -/
theorem rewritten_mmaRun (n z x : BitVec 1) (t : BitVec 2) (r : Reg) (f : BitVec 6) :
    Rewritten (mmaRun n z x t r f e s).myCore c n.toNat (shM e.shape) (shN e.shape) fun i j =>
      ksteps (matPair f) (operandA ⟨e.pad, c.cb2⟩ e.shape e.ga e.gc (matPair f) (x = 1#1) (trA t) e.idx)
        (operandB ⟨e.pad, c.cb2⟩ e.shape e.gb e.gc (matPair f) (trB t)) (tensorScale r e.gc) i j 0 (shK e.shape)
        (if z = 1#1 then 0 else c.elem n.toNat i j) :=
  h.srcOf e ▸ rewritten_mapAcc h n.isLt hN fun _ _ _ hy => ksteps_lt _ _ _ _ _ _ _ _ (ite_lt (by decide) hy)

/-- MMD: the terms of the path in order, from 0 if z = 1 (R141). -/
theorem rewritten_mmdRun (n z x t : BitVec 1) (f : BitVec 6) :
    Rewritten (mmdRun n z x t f e s).myCore c n.toNat (shM e.shape) (shN e.shape) fun i j =>
      e.path.foldl (termStep (matPair f) (operandA ⟨e.pad, c.cb2⟩ e.shape e.ga e.gc (matPair f) (x = 1#1) (t = 1#1) e.idx)
        ⟨formatWidth (matPair f).b, 1, 1, 1, 1⟩ (e.gc.toNat % 2 ^ 32) (e.gc.toNat / 2 ^ 32) (shK e.shape) i j)
        (if z = 1#1 then 0 else c.elem n.toNat i j) :=
  h.srcOf e ▸ rewritten_mapAcc h n.isLt hN fun _ _ _ hy =>
    foldl_lt_two_pow (fun _ t h => termStep_lt _ _ _ _ _ _ _ _ t h) _ (ite_lt (by decide) hy)

/-- MLOAD: the patterns of its rows in the captured scratchpad (R143). -/
theorem rewritten_mloadRun (d : Reg) :
    Rewritten (mloadRun d e s).myCore c (tileReg d) (shM e.shape) (shN e.shape) fun i j =>
      ofLe ((List.range 4).map fun k => Map.get (0 : Byte) e.pad (rowAt e.ga e.gb i + 4 * j + k)) :=
  (rewritten_mapAcc h (tileReg_lt d) hN fun _ _ _ _ => ofLe_four_lt _).congr fun _ j hi _ => congrArg
    (fun row => ofLe ((List.range 4).map fun k => Map.get (0 : Byte) e.pad (row + 4 * j + k))) (getD_moveRuns _ _ _ _ hi)

end

/-- MZERO clears its tile and leaves the other (R143). -/
theorem elem_mzeroRun_self (d : Reg) (s : State) (i j : Nat) : (mzeroRun d s).myCore.elem (tileReg d) i j = 0 :=
  (congrArg (fun c : Core => c.elem (tileReg d) i j) (State.myCore_setMyCore ..)).trans
    (Core.elem_cleanTile_setTile ..)

theorem elem_mzeroRun_of_ne {s : State} {c : Core} {th : Thread} (h : ReadsAs s c th) {d : Reg} {q : Nat} (hq : q < 2)
    (hne : q ≠ tileReg d) (i j : Nat) : (mzeroRun d s).myCore.elem q i j = c.elem q i j :=
  ((congrArg (fun c : Core => c.elem q i j) (State.myCore_setMyCore ..)).trans
    (Core.elem_cleanTile_setTile_of_ne _ (tileReg_lt d) hq hne ..)).trans
      (h.elem q i j)

/-- Each element that MSTORE stores, of rows apart from each other, reads back as it is stored (R143). -/
theorem padRead_mstoreRun_of_apart {s : State} {c : Core} {th : Thread} (h : ReadsAs s c th) (d f : Reg) (e : MatEntry)
    (hapart : ∀ i j, i < j → j < shM e.shape → rowAt e.ga e.gb i + storeSize f * shN e.shape ≤ rowAt e.ga e.gb j ∨
      rowAt e.ga e.gb j + storeSize f * shN e.shape ≤ rowAt e.ga e.gb i) (i j : Nat)
    (hij : i < shM e.shape ∧ j < shN e.shape) :
    ofLe ((mstoreRun d f e s).padRead s.curCore (rowAt e.ga e.gb i + storeSize f * j) (storeSize f)) =
      if storeSize f = 2 then (fpConvert 0 f.toNat 0 th.vctl.sat (c.elem (tileReg d) i j)).1 else c.elem (tileReg d) i j :=
  ((padRead_mstoreRun d f e s hapart hij.1 hij.2).trans (storeElement_fst ..)).trans
    (congrArg₂ (fun (ctl : VCtl) x => if storeSize f = 2 then (fpConvert 0 f.toNat 0 ctl.sat x).1 else x) h.vctl (h.elem ..))

/-- MSTORE of rows apart from each other: the accumulator store keeps its elements, each element of the region reads back as
it is stored, and no byte outside the rows changes (R143). -/
theorem mstoreRun_spec {s : State} {c : Core} {th : Thread} (h : ReadsAs s c th) {core : Nat} (hcore : s.curCore = core)
    {m : Memory} (hmem : s.mem = m) {f : Reg} {size : Nat} (hsize : storeSize f = size) (d : Reg) (e : MatEntry)
    (hapart : ∀ i j, i < j → j < shM e.shape → rowAt e.ga e.gb i + size * shN e.shape ≤ rowAt e.ga e.gb j ∨
      rowAt e.ga e.gb j + size * shN e.shape ≤ rowAt e.ga e.gb i) :
    (∀ q i j, (mstoreRun d f e s).myCore.elem q i j = c.elem q i j) ∧
      (∀ i j, i < shM e.shape ∧ j < shN e.shape →
        ofLe ((mstoreRun d f e s).padRead core (rowAt e.ga e.gb i + size * j) size) =
          if size = 2 then (fpConvert 0 f.toNat 0 th.vctl.sat (c.elem (tileReg d) i j)).1 else c.elem (tileReg d) i j) ∧
      ∀ k, (∀ i, i < shM e.shape → ¬InRow core e size i k) → (mstoreRun d f e s).memByte k = Map.get 0 m k := by
  subst hcore hmem hsize
  exact ⟨fun q i j => (congrArg (fun c : Core => c.elem q i j) (myCore_of_storeView (storeView_mstoreRun ..))).trans (h.elem ..),
    padRead_mstoreRun_of_apart h d f e hapart, fun k => memByte_mstoreRun_of_not d f e s⟩

/-- MSLICE writes the 32 elements that its selector names, and no other register (R144). -/
theorem msliceRun_spec {s : State} {c : Core} {th : Thread} (h : ReadsAs s c th) (d : Reg) (e : MatEntry) :
    (∀ i, i < 32 → lane ((msliceRun d e s).v d) 32 i = sliceElem c e.ga i) ∧
      ∀ r : Reg, r ≠ d → (msliceRun d e s).v r = th.v[r.toNat] :=
  ⟨fun _ hi => (lane_msliceRun d e s hi).trans (h.elem ..), fun r hr => ((State.v_setV ..).trans (if_neg hr)).trans (h.v r)⟩

/-- MQUANT writes the scale of its block to vb and its codes to the lanes of the slice in vd (R144). -/
theorem mquantRun_spec {s : State} {c : Core} {th : Thread} (h : ReadsAs s c th) {d b : Reg} (hne : d ≠ b) (e : MatEntry) :
    lane ((mquantRun d b e s).v b) 8 (e.ga.toNat / 2 ^ 7 % 4) = (sliceBlock c th.vctl e.ga).1 % 256 ∧
      ∀ i, i < 1024 / formatWidth th.vctl.qfmt.toNat → lane ((mquantRun d b e s).v d) (formatWidth th.vctl.qfmt.toNat) i =
        if sliceCol e.ga ≤ i ∧ i < sliceCol e.ga + 32 then
          (sliceBlock c th.vctl e.ga).2.1.getD (i - sliceCol e.ga) 0 % 2 ^ formatWidth th.vctl.qfmt.toNat
        else lane th.v[d.toNat] (formatWidth th.vctl.qfmt.toNat) i := by
  have hblock : sliceBlock s.myCore s.me.vctl e.ga = sliceBlock c th.vctl e.ga :=
    congrArg₂ (fun (ctl : VCtl) (el : Nat → Nat) => mxQuantise ctl.qfmt.toNat ctl.sat ((List.range 32).map fun i => some (fpDecode 0 (el i))))
      h.vctl (funext fun k => h.elem _ _ (32 * (e.ga.toNat / 2 ^ 7 % 4) + k))
  rw [mquantRun_eq, hblock]
  exact ⟨lane_quantised_scale .., fun i hi => lane_quantised_code hne _ _
    (congrArg (fun ctl : VCtl => formatWidth ctl.qfmt.toNat) h.vctl) (h.v d) hi⟩

/-! ### What no effect changes -/

/-- Whose word executes, where its thread stands, and the queue. -/
def matView (s : State) := (s.curCore, s.curTid, s.me.pc, s.me.instret, s.myCore.mq)

theorem matView_of_storeView {s t : State} (h : storeView t = storeView s) : matView t = matView s :=
  (congrArg (fun v : Map Core × Nat × BitVec 2 × VCtl × Word × Word =>
    (v.2.1, v.2.2.1, v.2.2.2.2.1, v.2.2.2.2.2, (Map.get Core.idle v.1 v.2.1).mq)) h :)

theorem storeView_setMe (s : State) (t : Thread) :
    storeView (s.setMe t) = (s.cores, s.curCore, s.curTid, t.vctl, t.pc, t.instret) :=
  (congrArg (fun t : Thread => (s.cores, s.curCore, s.curTid, t.vctl, t.pc, t.instret)) (State.me_setMe s t) :)

theorem storeView_setV (s : State) (r : Reg) (x : VReg) : storeView (s.setV r x) = storeView s := storeView_setMe ..

theorem storeView_mquantRun (d b : Reg) (e : MatEntry) (s : State) : storeView (mquantRun d b e s) = storeView s :=
  mquantRun_eq d b e s ▸ ((storeView_setV ..).trans (storeView_setV ..)).trans (storeView_raiseV ..)

theorem mq_setTile (c : Core) (t : Nat) (m : Map (BitVec 32)) : (c.setTile t m).mq = c.mq :=
  iteInduction (motive := fun u : Core => u.mq = c.mq) (fun _ => rfl) fun _ => rfl

theorem matView_setMyCore {s : State} {c : Core} (h : c.mq = s.myCore.mq) : matView (s.setMyCore c) = matView s :=
  congrArg (fun q => (s.curCore, s.curTid, s.me.pc, s.me.instret, q)) ((congrArg Core.mq (State.myCore_setMyCore s c)).trans h)

theorem matView_mapAcc (s : State) (t m n : Nat) (f : Nat → Nat → Nat → Nat) : matView (s.mapAcc t m n f) = matView s :=
  matView_setMyCore (mq_setTile ..)

theorem retired_of_matView {s u : State} (h : matView u = matView s.retire) : Retired s u :=
  ⟨(congrArg (fun v => v.2.2.1) h).trans (congrArg Thread.pc (State.me_retire s)),
    (congrArg (fun v => v.2.2.2.1) h).trans (congrArg Thread.instret (State.me_retire s))⟩

/-! ### The words of the queue -/

theorem tablePoisoned_nil (o : MatOperand) (n len : Nat) : o.tablePoisoned n len [] = false :=
  (congrArg (· && _) (Bool.and_false _)).trans (Bool.false_and _)

/-- What holds of each instruction: from a clean magnitude table its word reads nothing poisoned; its effect keeps what no
effect changes; and if it is a word of the queue it is issued with its check and operands (R127), of which MZERO alone acts
whatever the shape (R130). -/
def QueueRow (i : Instr) : Prop :=
  (∀ (e : MatEntry) (s : State), s.myCore.cb2Poison = [] → s.readsPoisonedTable { e with instr := i } = false) ∧
  (∀ (e : MatEntry) (s : State), matView (matEffect { e with instr := i } s) = matView s) ∧
  ∀ s : State, (matrixWord i).elim True fun w => exec i s = issueMatrix i w.1 w.2.1 w.2.2.1 w.2.2.2 s ∧
    (State.actsAlways i = true → ∃ d, i = .mzero d)

/-- An instruction that is no word of the queue does nothing there. -/
theorem queueRow_other : (∀ (_ : MatEntry) (s : State), s.myCore.cb2Poison = [] → false = false) ∧
    (∀ (_ : MatEntry) (s : State), matView s = matView s) ∧ ∀ _ : State, True :=
  ⟨fun _ _ _ => rfl, fun _ _ => rfl, fun _ => trivial⟩

theorem queueRow (i : Instr) : QueueRow i := by
  induction i with
  | mma => exact ⟨fun _ _ h => (congrArg _ h).trans (tablePoisoned_nil ..), fun _ _ => matView_mapAcc .., fun _ => ⟨rfl, Bool.noConfusion⟩⟩
  | mmd => exact ⟨fun _ _ _ => rfl, fun _ _ => matView_mapAcc .., fun _ => ⟨rfl, Bool.noConfusion⟩⟩
  | mms => exact ⟨fun _ _ _ => rfl, fun _ _ => rfl, fun _ => ⟨rfl, Bool.noConfusion⟩⟩
  | mzero d => exact ⟨fun _ _ _ => rfl, fun _ _ => matView_setMyCore (mq_setTile ..), fun _ => ⟨rfl, fun _ => ⟨d, rfl⟩⟩⟩
  | mload => exact ⟨fun _ _ _ => rfl, fun _ _ => matView_mapAcc .., fun _ => ⟨rfl, Bool.noConfusion⟩⟩
  | mstore => exact ⟨fun _ _ _ => rfl, fun _ _ => matView_of_storeView (storeView_mstoreRun ..), fun _ => ⟨rfl, Bool.noConfusion⟩⟩
  | mslice => exact ⟨fun _ _ _ => rfl, fun _ _ => matView_of_storeView (storeView_setV ..), fun _ => ⟨rfl, Bool.noConfusion⟩⟩
  | mquant => exact ⟨fun _ _ _ => rfl, fun _ _ => matView_of_storeView (storeView_mquantRun ..), fun _ => ⟨rfl, Bool.noConfusion⟩⟩
  | _ => exact queueRow_other

theorem matView_matEffect (e : MatEntry) (s : State) : matView (matEffect e s) = matView s := (queueRow e.instr).2.1 e s

theorem tilePoisoned_of_nil {c : Core} (h : c.accPoison = []) (r : AccRegion) : c.tilePoisoned r = false :=
  (congrArg (fun l : List Nat => l.any _) h :)

/-- Where no element of the accumulator store is poisoned, no word reads one (R350). -/
theorem readsPoisonedAcc_eq_false {s : State} (h : s.myCore.accPoison = []) (e : MatEntry) : s.readsPoisonedAcc e = false := by
  show (match matReads e with | some r => s.myCore.tilePoisoned r | none => false) = false
  induction matReads e with
  | none => rfl
  | some r => exact tilePoisoned_of_nil h r

theorem within_eq (s : State) (core tid : Nat) (f : State → State) :
    s.within core tid f = s.within core tid fun _ => f (s.asThread core tid) := rfl

/-- With nothing poisoned in the core the engine performs the word's effect. -/
theorem runMatrix_of_clean {s : State} {core : Nat} (hacc : (s.core core).accPoison = [])
    (hcb2 : (s.core core).cb2Poison = []) (e : MatEntry) : s.runMatrix core e =
      (s.within core e.tid.toNat fun _ => matEffect e (s.asThread core e.tid.toNat)).showWritten core (s.matWrites core e) :=
  have hclean : ((s.asThread core e.tid.toNat).readsPoisonedAcc e || (s.asThread core e.tid.toNat).readsPoisonedTable e) = false :=
    congrArg₂ or (readsPoisonedAcc_eq_false (s := s.asThread core e.tid.toNat) hacc e)
      ((queueRow e.instr).1 e (s.asThread core e.tid.toNat) hcb2)
  congrArg (fun u : State => u.showWritten core (s.matWrites core e)) ((within_eq ..).trans
    (congrArg (fun u => s.within core e.tid.toNat fun _ => u) (if_neg (ne_true_of_eq_false hclean))))

/-! ### Checks at issue (R136, R143) -/

/-- What follows a computation that has gone through. -/
theorem Acc.bind_of_ok {α β : Type} {m : Acc α} {f : α → Acc β} {s t : State} {x : α} (h : m s = (.ok x, t)) :
    (m >>= f) s = f x t := (congrArg (fun r : Except Stop α × State => ExceptT.bindCont f r.1 r.2) h :)

/-- Checks that each go through leave the state as it is. -/
theorem Acc.forM_ok {α : Type} {f : α → Acc Unit} {s : State} {l : List α} (h : ∀ x ∈ l, f x s = (.ok (), s)) :
    l.forM f s = (.ok (), s) := by
  induction l with
  | nil => rfl
  | cons x r ih => exact (Acc.bind_of_ok (h x List.mem_cons_self)).trans (ih fun y hy => h y (List.mem_cons_of_mem _ hy))

theorem checkSixteen_ok {x : Word} {n : Nat} (h : x.toNat % n = 0) (s : State) : checkSixteen x n s = (.ok (), s) :=
  (congrArg (fun m : Acc Unit => m s) (if_pos h) :)

/-- The check of one run. -/
def checkRun (ag : Agent) (write : Bool) (r : Nat × Nat) : Acc Unit := do
  let s ← get
  if s.runWaits ag write r.1 r.2 then throw .stall
  else if write then pure ()
  else
    match s.poisonedRun ag.core r.1 r.2 with
    | some i => throw (.poison (BitVec.ofNat 64 (r.1 + i)))
    | none => pure ()

theorem checkRuns_eq {rs : List (Nat × Nat)} (h : outsidePad rs = none) (ag : Agent) (write : Bool) :
    checkRuns ag write rs = (rs.map fun r => (r.1 % 2 ^ 64, r.2)).forM (checkRun ag write) := by
  rw [checkRuns, h]
  rfl

theorem checkRun_ok {s : State} {ag : Agent} {write : Bool} {r : Nat × Nat} (hwait : s.runWaits ag write r.1 r.2 = false)
    (hpoison : write = false → s.poisonedRun ag.core r.1 r.2 = none) : checkRun ag write r s = (.ok (), s) := by
  refine (congrArg (fun m : Acc Unit => m s) (if_neg (ne_true_of_eq_false hwait)) :).trans ?_
  induction write with
  | true => rfl
  | false =>
    show (match s.poisonedRun ag.core r.1 r.2 with
      | some i => throw (Stop.poison (BitVec.ofNat 64 (r.1 + i)))
      | none => (pure () : Acc Unit)) s = _
    rw [hpoison rfl]
    rfl

/-- Runs that the word may read, or write, pass. -/
theorem checkRuns_ok {s : State} {write : Bool} {rs : List (Nat × Nat)} (h : ownRuns s write rs) :
    checkRuns (s.agent 7) write rs s = (.ok (), s) :=
  (congrArg (· s) (checkRuns_eq h.1 ..)).trans (Acc.forM_ok fun x hx => by
    obtain ⟨r, hr, rfl⟩ := List.mem_map.1 hx
    exact checkRun_ok (h.2 r hr).1 (h.2 r hr).2)

theorem mmaCheck_ok {s : State} {e : MatEntry} {x : BitVec 1} {t : BitVec 2} {f : BitVec 6} (ha : e.ga.toNat % 16 = 0)
    (hb : e.gb.toNat % 16 = 0) (h : ownRuns s false
      ((operandA (s.srcOf e) e.shape e.ga e.gc (matPair f) (x = 1#1) (trA t) e.idx).runs (shM e.shape) (shK e.shape) ++
        (operandB (s.srcOf e) e.shape e.gb e.gc (matPair f) (trB t)).runs (shN e.shape) (shK e.shape))) :
    mmaCheck x t f e s = (.ok [], s) :=
  (Acc.bind_of_ok (checkSixteen_ok ha s)).trans ((Acc.bind_of_ok (checkSixteen_ok hb s)).trans (Acc.bind_of_ok (checkRuns_ok h)))

theorem moveCheck_ok {s : State} {e : MatEntry} {write : Bool} {size : Nat} (ha : e.ga.toNat % size = 0)
    (hb : e.gb.toNat % size = 0) (h : ownRuns s write (moveRuns e.shape e.ga e.gb size)) :
    moveCheck write size e s = (.ok [], s) :=
  have hne : ¬(decide (e.ga.toNat % size ≠ 0) || decide (e.gb.toNat % size ≠ 0)) = true :=
    fun hor => ((Bool.or_eq_true ..).to_iff.1 hor).elim (fun h => of_decide_eq_true h ha) fun h => of_decide_eq_true h hb
  (congrArg (fun m : Acc (List PathTerm) => m s) (if_neg hne) :).trans (Acc.bind_of_ok (checkRuns_ok h))

/-! ### Issue (R127, R130) -/

section
variable {i : Instr} {ra rb rc : Reg} {check : MatEntry → Acc (List PathTerm)} {s : State}

theorem not_matrixFull (h : s.myCore.mq.length < 2) : ¬s.matrixFull = true := fun hfull =>
  absurd (of_decide_eq_true hfull) (Nat.not_le.2 h)

/-- Not held back by M = 0 (R130). -/
def ActsNow (s : State) (i : Instr) : Prop := (decide (shM s.me.shape = 0) && !State.actsAlways i) = false

theorem actsNow_of_shM (h : shM s.me.shape ≠ 0) (i : Instr) : ActsNow s i :=
  (congrArg (· && _) (decide_eq_false h)).trans (Bool.false_and _)

theorem actsNow_mzero (s : State) (d : Reg) : ActsNow s (.mzero d) := Bool.and_false _

/-- A word whose check passes retires and enters the queue, or the engine (R127). -/
theorem issueMatrix_enters (h : s.myCore.mq.length < 2) (hM : ActsNow s i) {path : List PathTerm}
    (hcheck : check (s.matEntry i ra rb rc) s = (.ok path, s)) : issueMatrix i ra rb rc check s =
      .next (s.retire.enterMatrix { s.matEntry i ra rb rc with path := path }) :=
  (if_neg (not_matrixFull h)).trans ((if_neg (ne_true_of_eq_false hM)).trans (hcheck ▸ rfl))

/-- The state in which the engine performs a word that it takes at once. -/
theorem enterMatrix_idle {e : MatEntry} (hmq : s.myCore.mq = []) (hvq : s.myCore.vq = []) (hdefer : s.defer = false)
    (hmms : isMms e.instr = false) : s.enterMatrix e = s.runMatrix s.curCore e := by
  refine if_pos ?_
  rw [hmq, hdefer, hmms, State.vectorBefore, hvq]
  rfl

theorem asThread_self (s : State) : s.asThread s.curCore s.curTid.toNat = s :=
  congrArg (fun k => { s with curTid := k }) (BitVec.ofNat_toNat 2 s.curTid)

theorem within_const {s u : State} (hc : u.curCore = s.curCore) (ht : u.curTid = s.curTid) (core tid : Nat) :
    (s.within core tid fun _ => u) = u := congrArg₂ (fun c k => { u with curCore := c, curTid := k }) hc.symm ht.symm

theorem showWritten_of_empty {s : State} {core : Nat} (h : (s.core core).mq = []) (rs : List (Nat × Nat)) :
    s.showWritten core rs = s := if_pos (congrArg List.isEmpty h)

/-- For the thread whose word executes, with no word behind it, the engine leaves what its effect leaves. -/
theorem runMatrix_self {e : MatEntry} (hmq : s.myCore.mq = []) (hacc : s.myCore.accPoison = [])
    (hcb2 : s.myCore.cb2Poison = []) (htid : e.tid = s.curTid) : s.runMatrix s.curCore e = matEffect e s := by
  have hview := matView_matEffect e s
  have hcore : (matEffect e s).curCore = s.curCore := congrArg (fun v => v.1) hview
  have hempty : ((matEffect e s).core s.curCore).mq = [] := hcore ▸ (congrArg (fun v => v.2.2.2.2) hview).trans hmq
  rw [runMatrix_of_clean hacc hcb2, htid, asThread_self, within_const hcore (congrArg (fun v => v.2.1) hview),
    showWritten_of_empty hempty]

/-- With an idle engine a word is performed at once. -/
theorem issueMatrix_idle (hidle : matrixIdle s) (hmms : isMms i = false) (hM : ActsNow s i) {path : List PathTerm}
    (hcheck : check (s.matEntry i ra rb rc) s = (.ok path, s)) : issueMatrix i ra rb rc check s =
      .next (matEffect { s.matEntry i ra rb rc with path := path } s.retire) := by
  obtain ⟨hmq, hvq, hdefer, hacc, hcb2⟩ := hidle
  have hcore := engine_retire s
  have hmq' : s.retire.myCore.mq = [] := (congrArg (fun v => v.2.1) hcore).trans hmq
  rw [issueMatrix_enters (hmq ▸ Nat.zero_lt_two) hM hcheck, enterMatrix_idle hmq' ((congrArg (fun v => v.2.2.1) hcore).trans hvq)
    ((State.retire_defer s).trans hdefer) hmms, runMatrix_self hmq' ((congrArg (fun v => v.2.2.2.1) hcore).trans hacc)
      ((congrArg (fun v => v.2.2.2.2.1) hcore).trans hcb2) (State.retire_curTid s).symm]

end

end Sys2Proof.Machine
end

/-! PROOFS. Matrix words with an idle queue (R130 to R145): MSHAPE, MIDX and MWAIT in the scalar pipeline, the words of the
queue by their effects. -/

section
namespace Sys2Proof.Machine

open Safety

/-! ### Words of the scalar pipeline -/

theorem lane_append_low (x y : VReg) {i : Nat} (hi : i < 64) : lane (x ++ y) 16 i = lane y 16 i :=
  congrArg BitVec.toNat (BitVec.extractLsb'_append_eq_of_add_le (Nat.mul_le_mul_left 16 hi))

theorem lane_append_high (x y : VReg) {i : Nat} (hi : 64 ≤ i) : lane (x ++ y) 16 i = lane x 16 (i - 64) :=
  congrArg BitVec.toNat ((BitVec.extractLsb'_append_eq_of_le (Nat.mul_le_mul_left 16 hi)).trans
    (congrArg (fun k => BitVec.extractLsb' k 16 x) (Nat.mul_sub 16 i 64).symm))

/-- The two registers of an even MIDX, in order. -/
theorem lane_append (x y : VReg) (i : Nat) : lane (x ++ y) 16 i = if i < 64 then lane y 16 i else lane x 16 (i - 64) := by
  by_cases hi : i < 64
  · exact (lane_append_low x y hi).trans (if_pos hi).symm
  · exact (lane_append_high x y (Nat.not_lt.1 hi)).trans (if_neg hi).symm

theorem evenReg (a : Reg) (ha : a.toNat % 2 = 0) : a ||| 1#5 = a + 1 ∧ a &&& ~~~1#5 = a := by
  revert a
  decide

theorem midxRun_even {a : Reg} (ha : a.toNat % 2 = 0) (s : State) :
    midxRun a s = s.setMe { s.me with idx := s.v (a + 1) ++ s.v a } :=
  congrArg₂ (fun b c => s.setMe { s.me with idx := s.v b ++ s.v c }) (evenReg a ha).1 (evenReg a ha).2

/-- What retires after it has been written to the thread. -/
theorem me_retire_setMe (s : State) (t : Thread) :
    ((s.setMe t).retire.me.pc, (s.setMe t).retire.me.instret, (s.setMe t).retire.me.idx) =
      ((t.pc + 4) &&& ~~~3#64, t.instret + 1, t.idx) :=
  (congrArg (fun t : Thread => (t.pc, t.instret, t.idx)) (State.me_retire (s.setMe t)) :).trans
    (congrArg (fun t : Thread => ((t.pc + 4) &&& ~~~3#64, t.instret + 1, t.idx)) (State.me_setMe s t))

/-- MIDX of an even register reads it and the next (R131). -/
theorem exec_midx {s : State} (hmat : s.matrixWritesV = false) (hvq : ∀ e ∈ s.myCore.vq, e.tid ≠ s.curTid) {a : Reg}
    (ha : a.toNat % 2 = 0) : exec (.midx a) s = .next (s.setMe { s.me with idx := s.v (a + 1) ++ s.v a }).retire := by
  have hwaits : (s.matrixWritesV || s.myCore.vq.any fun e => decide (e.tid = s.curTid)) = false :=
    (congrArg (· || _) hmat).trans (List.any_eq_false.2 fun e he h => hvq e he (of_decide_eq_true h))
  exact (if_neg (ne_true_of_eq_false hwaits)).trans (congrArg (fun t : State => Host.Outcome.next t.retire) (midxRun_even ha s))

theorem exec_mwait (s : State) (d a : Reg) : exec (.mwait d a) s =
    .next (if s.pendingMatrix s.curCore s.curTid.toNat ≤ (s.g a).toNat
      then (s.setG d (BitVec.ofNat 64 (s.pendingMatrix s.curCore s.curTid.toNat))).retire else s.block (.mwait d a)) :=
  (apply_ite Host.Outcome.next ..).symm

/-- MLOAD loads what the scratchpad holds. -/
theorem mload_bytes {s : State} {sh ga gb : Word} (h : outsidePad (moveRuns sh ga gb 4) = none) {i j : Nat}
    (hi : i < shM sh) (hj : j < shN sh) :
    ((List.range 4).map fun k => Map.get (0 : Byte) (s.padCopy s.curCore) (rowAt ga gb i + 4 * j + k)) =
      s.padRead s.curCore (rowAt ga gb i + 4 * j) 4 :=
  List.map_congr_left fun k hk => (s.get_padCopy _ (calc
    rowAt ga gb i + 4 * j + k < rowAt ga gb i + 4 * j + 4 := Nat.add_lt_add_left (List.mem_range.1 hk) _
    _ = rowAt ga gb i + 4 * (j + 1) := Nat.add_assoc ..
    _ ≤ rowAt ga gb i + 4 * shN sh := Nat.add_le_add_left (Nat.mul_le_mul_left 4 hj) _
    _ = rowAt ga gb i + shN sh * 4 := congrArg _ (Nat.mul_comm ..)
    _ ≤ Config.padSize := rowAt_end_le h hi)).trans (congrArg s.memByte (Nat.add_assoc ..).symm)

/-! ### Words of the queue -/

/-- What a word that the engine takes at once leaves, by its effect in the state that retiring leaves. -/
theorem exec_idle {i : Instr} {ra rb rc : Reg} {check : MatEntry → Acc (List PathTerm)} {s : State}
    (hexec : exec i s = issueMatrix i ra rb rc check s) (hidle : matrixIdle s) (hmms : isMms i = false) (hM : ActsNow s i)
    {path : List PathTerm} (hcheck : check (s.matEntry i ra rb rc) s = (.ok path, s)) {P : State → Prop}
    (hP : P (matEffect { s.matEntry i ra rb rc with path := path } s.retire)) :
    ∃ u, exec i s = .next u ∧ Retired s u ∧ P u :=
  ⟨_, hexec.trans (issueMatrix_idle hidle hmms hM hcheck), retired_of_matView (matView_matEffect ..), hP⟩

end Sys2Proof.Machine

open Sys2Proof Sys2Proof.Machine Sys2Proof.Safety

/-- Settles O39: MSHAPE, MIDX and MWAIT by their meanings; each word of the queue by what its effect leaves of the
accumulator store, the scratchpad and the v registers. -/
theorem matrixFormsComplete : Obligations.MatrixFormsComplete := by
  unfold Obligations.MatrixFormsComplete
  intro s d a b c n z x y t f sh e src p opA opB tile inside acc keeps retired row
  refine ⟨rfl, fun hmat hvq ha => ?midx, exec_mwait s d a, fun hidle hM _ hN => ⟨fun ha hb hruns => ?mma, fun path hcheck => ?mmd,
    fun ha hb hruns => ?mload, fun g => ?mstore⟩, fun hidle => ?mzero,
    fun hidle hM => ⟨?mslice, ?mquant⟩⟩
  case midx =>
    have hme := me_retire_setMe s { s.me with idx := s.v (a + 1) ++ s.v a }
    exact ⟨_, exec_midx hmat hvq ha, ⟨congrArg (·.1) hme, congrArg (·.2.1) hme⟩, fun i _ =>
      (congrArg (fun v => lane v.2.2 16 i) hme).trans (lane_append ..)⟩
  case mma =>
    exact exec_idle (i := .mma n z x t a b c f) rfl hidle rfl (actsNow_of_shM (Nat.ne_of_gt hM) _) (mmaCheck_ok ha hb hruns)
      (rewritten_mmaRun (readsAs_retire s) { e (.mma n z x t a b c f) a b c with path := [] } hN n z x t c f)
  case mmd =>
    exact exec_idle (i := .mmd n z x y a b c f) rfl hidle rfl (actsNow_of_shM (Nat.ne_of_gt hM) _) hcheck
      (rewritten_mmdRun (readsAs_retire s) { e (.mmd n z x y a b c f) a b c with path := path } hN n z x y f)
  case mload =>
    exact exec_idle (i := .mload d a b) rfl hidle rfl (actsNow_of_shM (Nat.ne_of_gt hM) _) (moveCheck_ok ha hb hruns)
      ((rewritten_mloadRun (readsAs_retire s) { e (.mload d a b) a b 0 with path := [] } hN d).congr fun i j hi hj =>
        congrArg ofLe (mload_bytes hruns.1 hi hj))
  case mstore =>
    intro size ha hb hruns hapart
    exact exec_idle (i := .mstore d a b g) rfl hidle rfl (actsNow_of_shM (Nat.ne_of_gt hM) _)
      (moveCheck_ok (size := storeSize g) ((storeSize_eq g).symm ▸ ha) ((storeSize_eq g).symm ▸ hb) ((storeSize_eq g).symm ▸ hruns))
      (mstoreRun_spec (readsAs_retire s) s.retire_curCore s.retire_mem (storeSize_eq g) d { e (.mstore d a b g) a b 0 with path := [] }
        hapart)
  case mzero =>
    have hread := readsAs_retire s
    exact exec_idle (i := .mzero d) rfl hidle rfl (actsNow_mzero s d) (check := noCheck) (ra := 0) (rb := 0) (rc := 0) rfl
      ⟨fun i j _ _ => elem_mzeroRun_self d _ i j, fun r i j hr hne => elem_mzeroRun_of_ne hread hr hne i j⟩
  case mslice =>
    exact exec_idle (i := .mslice d a) rfl hidle rfl (actsNow_of_shM (Nat.ne_of_gt hM) _) (check := noCheck) rfl
      (msliceRun_spec (readsAs_retire s) d { e (.mslice d a) a 0 0 with path := [] })
  case mquant =>
    exact exec_idle (i := .mquant d a b) rfl hidle rfl (actsNow_of_shM (Nat.ne_of_gt hM) _) (check := noCheck) rfl
      fun hne _ => mquantRun_spec (readsAs_retire s) hne { e (.mquant d a b) a 0 0 with path := [] }

end
